-- ==== Sys2Proof/Word.lean ====
section
/-! DEFINITION. The word types of the Broinou BX-8. -/

namespace Sys2Proof

/-- A byte of memory or of scratchpad (R11, R193). -/
abbrev Byte := BitVec 8
/-- A 16-bit word. -/
abbrev W16 := BitVec 16
/-- A 32-bit word: a C instruction word, a V lane, a scratchpad word (R22, R324). -/
abbrev W32 := BitVec 32
/-- A 64-bit word: a C register, a queue entry, an L, V or S instruction word (R22, R37, R87). -/
abbrev W64 := BitVec 64
/-- A 128-bit P instruction word (R239). -/
abbrev W128 := BitVec 128
/-- A vector register: 128 lanes of 32 bits, lane i at bits [32i+31:32i] (R324, R325). -/
abbrev VReg := BitVec 4096
/-- A lane mask, bit i belonging to lane i (R324). -/
abbrev Mask := BitVec 128
/-- The 128 bytes of a memory line, byte i at bits [8i+7:8i] (R2). -/
abbrev LineData := BitVec 1024

end Sys2Proof
end

