-- ==== Sys2Proof/Syntax.lean ====
section
/-! DEFINITION. The abstract syntax: one constructor of `Instr` for each row of spec/opcode_table.json.
An instruction of a stream carries its operand fields; an event of another agent carries nothing: what it brings from
outside (an agent number, a packet, a value) is plain data of its turn. -/

namespace Sys2Proof

/-- The five engine streams of a bench (R22). -/
inductive Stream where
  | c | l | p | v | s
  deriving DecidableEq, Repr, Inhabited

/-- The eleven scopes, in the order of R61 (codes of R97). -/
inductive Scope where
  | st | bn | sp | di | mo | ho | ch | cl | sy | en | io
  deriving DecidableEq, Repr, Inhabited

/-- A bench of the module: die 0 to 7, span 0 to 11, position 0 to 7 (R25), numbered die by die. -/
abbrev BenchId := Fin 768

/-- The common header of an L, P, V or S word, bits [13:0] (R28). -/
structure Hdr where
  land : Bool
  lvl : BitVec 3
  last : Bool
  first : Bool
  give : BitVec 4
  take : BitVec 4
  deriving DecidableEq, Repr

/-- A bank operand (R240): stride slot, bank, byte offset. -/
structure Bop where
  sl : BitVec 3
  bank : BitVec 4
  off : BitVec 17
  deriving DecidableEq, Repr

/-! ### Operand fields of C words (R96) -/

/-- Op form: destination, two source specifiers, boost level. `b` is reserved in a one-source function. -/
structure COp where
  d : BitVec 4
  a : BitVec 5
  b : BitVec 5
  boost : BitVec 2
  deriving DecidableEq, Repr

/-- Op form of the F32 group, with its rounding field (R110). -/
structure CFlt where
  d : BitVec 4
  a : BitVec 5
  b : BitVec 5
  boost : BitVec 2
  rm : BitVec 3
  deriving DecidableEq, Repr

/-- Tri form. -/
structure CTri where
  d : BitVec 4
  a : BitVec 5
  b : BitVec 5
  c : BitVec 5
  boost : BitVec 2
  deriving DecidableEq, Repr

/-- Imm form, with its 15-bit signed immediate (R107). -/
structure CImm where
  d : BitVec 4
  a : BitVec 5
  boost : BitVec 2
  imm : BitVec 15
  deriving DecidableEq, Repr

/-- SHFI: shift kind and count taken from the immediate (R108). -/
structure CShf where
  d : BitVec 4
  a : BitVec 5
  boost : BitVec 2
  kind : BitVec 2
  n : BitVec 6
  deriving DecidableEq, Repr

/-- Wide form of LI (R109). -/
structure CWide where
  d : BitVec 4
  boost : BitVec 2
  imm : BitVec 20
  deriving DecidableEq, Repr

/-- Br form of the two-source conditional branches (R118). -/
structure CBr where
  a : BitVec 5
  b : BitVec 5
  h : Bool
  off : BitVec 15
  deriving DecidableEq, Repr

/-- Br form of BRF, with its condition (R99, R122). -/
structure CBrf where
  cond : BitVec 3
  h : Bool
  off : BitVec 15
  deriving DecidableEq, Repr

/-- Ld form. -/
structure CLd where
  d : BitVec 4
  a : BitVec 5
  boost : BitVec 2
  scope : Scope
  acq : Bool
  pri : BitVec 2
  last : Bool
  off : BitVec 7
  deriving DecidableEq, Repr

/-- Ld form of LDC, whose scope, order and hint fields are reserved (R99). -/
structure CLdc where
  d : BitVec 4
  a : BitVec 5
  boost : BitVec 2
  off : BitVec 7
  deriving DecidableEq, Repr

/-- St form. -/
structure CSt where
  a : BitVec 5
  b : BitVec 5
  scope : Scope
  rel : Bool
  pri : BitVec 2
  last : Bool
  off : BitVec 8
  deriving DecidableEq, Repr

/-- The operations of ATOM and, with `cas`, of VATOM (R101, R358). -/
inductive AtomOp where
  | add | and | or | xor | min | max | minn | maxn | swap | fadd | cas
  deriving DecidableEq, Repr, Inhabited

/-- Atm form: `acq` and `rel` are the two bits of ORD, `wide` is SIZE 1 (64 bits). -/
structure CAtm where
  d : BitVec 4
  a : BitVec 5
  b : BitVec 5
  op : AtomOp
  scope : Scope
  acq : Bool
  rel : Bool
  wide : Bool
  deriving DecidableEq, Repr

/-- Cas form of CAS and CAS128; SIZE is reserved in CAS128 (R96). -/
structure CCas where
  d : BitVec 4
  a : BitVec 5
  b : BitVec 5
  c : BitVec 5
  scope : Scope
  acq : Bool
  rel : Bool
  wide : Bool
  deriving DecidableEq, Repr

/-! ### Operand fields of L, P, V and S words -/

/-- FBIND (R308). -/
structure LBind where
  doff : BitVec 34
  dsrc : Bool
  feed : BitVec 4
  deriving DecidableEq, Repr

/-- FLOAD (R310). -/
structure LLoad where
  rm : BitVec 3
  feed : BitVec 4
  bop : Bop
  deriving DecidableEq, Repr

/-- FGATH (R312) and SSCAT (R373). -/
structure IdxMove where
  ioff : BitVec 8
  ibank : BitVec 4
  feed : BitVec 4
  bop : Bop
  deriving DecidableEq, Repr

/-- MOVB (R314). -/
structure LMovb where
  soff : BitVec 12
  sbank : BitVec 4
  bop : Bop
  deriving DecidableEq, Repr

/-- FPREF (R315). -/
structure LPref where
  pri : BitVec 2
  nm1 : BitVec 6
  feed : BitVec 4
  deriving DecidableEq, Repr

/-- BFSET (R316). -/
structure LBfset where
  vlock : Bool
  dith : Bool
  frame : BitVec 3
  fmt : BitVec 4
  bank : BitVec 4
  deriving DecidableEq, Repr

/-- A stride setter LSET, VLSET or SLSET (R313, R361, R371). -/
structure StrideSet where
  value : W32
  sel : BitVec 2
  lvl : BitVec 3
  deriving DecidableEq, Repr

/-- LOOP of L, V and S (R317). `count` is reserved when `csrc`. -/
structure LoopOp where
  count : W32
  csrc : Bool
  lvl : BitVec 3
  deriving DecidableEq, Repr

/-- PTILE (R246). -/
structure PTileOp where
  chk : Bool
  geo : BitVec 26
  deriving DecidableEq, Repr

/-- PSHEET (R248). -/
structure PSheetOp where
  rp : W16
  sh : Bool
  fmt : BitVec 4
  bop : Bop
  deriving DecidableEq, Repr

/-- PWGT (R250). -/
structure PWgtOp where
  fmt : BitVec 4
  bop : Bop
  deriving DecidableEq, Repr

/-- PCORR (R251). -/
structure PCorrOp where
  prof : BitVec 6
  rx : BitVec 4
  ry : BitVec 4
  dxm1 : BitVec 2
  dym1 : BitVec 2
  kwm1 : BitVec 4
  khm1 : BitVec 4
  wsrc : Bool
  sh : Bool
  fmt : BitVec 4
  bop : Bop
  deriving DecidableEq, Repr

/-- PMM (R252). -/
structure PMmOp where
  prof : BitVec 6
  rp : W16
  km1 : BitVec 24
  fmt : BitVec 4
  wop : Bop
  sop : Bop
  deriving DecidableEq, Repr

/-- PDRAIN (R257). -/
structure PDrainOp where
  prof : BitVec 6
  clr : Bool
  lay : Bool
  zhi : BitVec 3
  zlo : BitVec 3
  bop : Bop
  deriving DecidableEq, Repr

/-- PFWD, sending or receiving (R259). -/
structure PFwdOp where
  n : BitVec 3
  lenm1 : BitVec 17
  bop : Bop
  deriving DecidableEq, Repr

/-- PLOOP (R262). -/
structure PLoopOp where
  sd : BitVec 18
  sc : BitVec 18
  sb : BitVec 18
  sa : BitVec 18
  count : BitVec 24
  csrc : Bool
  lvl : BitVec 3
  deriving DecidableEq, Repr

/-- The compute form of a V word (R326). A field that the function does not use is reserved, and zero. -/
structure VOp where
  vd : BitVec 5
  sa : BitVec 6
  sb : BitVec 6
  sc : BitVec 6
  me : Bool
  mi : BitVec 3
  ty : BitVec 3
  rm : BitVec 3
  fo : Bool
  deriving DecidableEq, Repr

/-- A compare: the compute form with its destination kind FN[5:4] (R336). -/
structure VCmp where
  kind : BitVec 2
  o : VOp
  deriving DecidableEq, Repr

/-- A conversion: the compute form with source type and slice (R338). -/
structure VCvt where
  slc : BitVec 2
  sty : BitVec 3
  o : VOp
  deriving DecidableEq, Repr

/-- VLI (R341). -/
structure VLiOp where
  vd : BitVec 5
  ty : BitVec 3
  imm : W32
  deriving DecidableEq, Repr

/-- A mask operation (R344): destination and two source masks. -/
structure MOp where
  md : BitVec 3
  ma : BitVec 3
  mb : BitVec 3
  fo : Bool
  deriving DecidableEq, Repr

/-- VLD and VST (R349). -/
structure VMem where
  vr : BitVec 5
  ty : BitVec 3
  sm1 : BitVec 4
  me : Bool
  mi : BitVec 3
  bop : Bop
  deriving DecidableEq, Repr

/-- VGATH and VSCAT (R352). -/
structure VIdx where
  vr : BitVec 5
  vi : BitVec 5
  me : Bool
  mi : BitVec 3
  bop : Bop
  deriving DecidableEq, Repr

/-- PART (R354). -/
structure VPart where
  ms : BitVec 3
  me : Bool
  mi : BitVec 3
  bop : Bop
  deriving DecidableEq, Repr

/-- VATOM (R356). -/
structure VAtm where
  vd : BitVec 5
  va : BitVec 5
  vb : BitVec 5
  scope : Scope
  op : AtomOp
  me : Bool
  mi : BitVec 3
  mf : BitVec 3
  rel : Bool
  fo : Bool
  deriving DecidableEq, Repr

/-- REDM (R359). -/
structure VRedm where
  va : BitVec 5
  scope : Scope
  op : AtomOp
  me : Bool
  mi : BitVec 3
  rel : Bool
  deriving DecidableEq, Repr

/-- REDT (R360). -/
structure VRedt where
  va : BitVec 5
  scope : Scope
  me : Bool
  mi : BitVec 3
  rel : Bool
  lg : BitVec 3
  deriving DecidableEq, Repr

/-- FSTORE (R372). -/
structure SStore where
  exm : Bool
  rm : BitVec 3
  feed : BitVec 4
  bop : Bop
  deriving DecidableEq, Repr

/-- QSTORE (R375). -/
structure SQst where
  frame : BitVec 3
  sbank : BitVec 4
  soff : BitVec 8
  bop : Bop
  deriving DecidableEq, Repr

/-- REQ (R376). -/
structure SReq where
  dframe : BitVec 3
  sframe : BitVec 3
  sbank : BitVec 4
  bop : Bop
  deriving DecidableEq, Repr

/-- GRAIN (R377). -/
structure SGrain where
  wmask : BitVec 4
  frame : BitVec 3
  deriving DecidableEq, Repr

/-- The fields of a conversion control: explicit-mode bit (S only), mode, count minus one (R313, R371). -/
structure Cvc where
  exm : Bool
  rm : BitVec 3
  nm1 : W16
  deriving DecidableEq, Repr

/-! ### What events bring -/

/-- The three queues of a bench from which stores and atomics perform: C's store buffer (R83), the S
store queue (R369), and the lanes of V's atomic in flight (R357). -/
inductive Buf where
  | c | s | v
  deriving DecidableEq, Repr, Inhabited

/-- The payload of a fabric packet (R429). The spec gives what a payload carries and no bit layout. `data` carries the poison bits
of the sectors of its line that the bytes come from (R419). -/
inductive Body where
  | load (pa : Nat) (size : Nat) (tag : Nat)
  | store (pa : Nat) (bytes : List (Option Byte))
  | atomic (pa : Nat) (op : AtomOp) (size : Nat) (b : W128) (expect : W128) (tag : Nat)
  | redt (slot : Nat) (lo : W64) (lg : BitVec 3) (val : W32) (tag : Nat)
  | data (tag : Nat) (val : LineData) (poison : BitVec 4)
  | wake (tag : Nat)
  | ack (flow : BitVec 2) (acc : W32) (perf : W32)
  | mgmt
  deriving DecidableEq, Repr, Inhabited

/-- A fabric packet: its header fields (R429) and its payload. `resv` says that a reserved header field
is nonzero. -/
structure Packet where
  dmod : BitVec 14
  smod : BitVec 14
  ch : BitVec 2
  ver : BitVec 4
  ten : BitVec 6
  kind : Byte
  age : BitVec 12
  seq : W32
  resv : Bool
  body : Body
  deriving DecidableEq, Repr, Inhabited

/-- Why a hitch is killed, as a report entry shows it (R403, R405). -/
structure KillCause where
  code : Byte
  source : BitVec 3
  bench : BitVec 10
  word : W32
  /-- s.cause of the fault that was being handled, when the kill is a double fault (R180) -/
  prior : W64 := 0
  deriving DecidableEq, Repr, Inhabited

/-- One conversion stage's telemetry (R456). -/
structure Stage where
  v : BitVec 20
  i : BitVec 24
  t : BitVec 12
  deriving DecidableEq, Repr, Inhabited

/-- What an event brings from outside: the bench, context, die, number, value or packet it is about. An event reads
the fields that its meaning names and no other. -/
structure Brought where
  bench : BenchId := 0
  ctx : Fin 4 := 0
  stream : Stream := .c
  buf : Buf := .c
  die : Fin 8 := 0
  /-- a small number: a feed, bank, channel, slice, link, window, range or register index -/
  n : Nat := 0
  /-- an address, a line, a sector, a row or a base -/
  pa : Nat := 0
  /-- a size or a length -/
  len : Nat := 0
  /-- a load tag, a combining node, a launch sequence number -/
  tag : Nat := 0
  /-- a side, or a force bit -/
  hi : Bool := false
  host : BitVec 4 := 0
  dest : BitVec 4 := 0
  agent : BitVec 6 := 0
  tenant : BitVec 6 := 0
  module : BitVec 14 := 0
  flow : BitVec 2 := 0
  err : BitVec 4 := 0
  val : W64 := 0
  val2 : W64 := 0
  val3 : W64 := 0
  val4 : W64 := 0
  nonce : BitVec 256 := 0
  /-- which bytes that instructions in flight have still to write land before this turn (R36) -/
  lands : Nat := 0
  bytes : List Byte := []
  stages : List Stage := []
  packet : Packet := ⟨0, 0, 0, 0, 0, 0, 0, 0, false, .mgmt⟩
  deriving DecidableEq, Repr, Inhabited

/-- The rows of spec/opcode_table.json: the words of the five streams in the table's order, those without operand
fields after the others, then the events of other agents. An event takes no operand fields: what it brings from outside (an agent number, a packet, a value) is
plain data of the turn that carries it. -/
inductive Instr where
  /-- ADD (R105): Adds two 64-bit sources modulo 2^64 and puts the result. -/
  | add (o : COp)
  /-- SUB (R105): Subtracts b from a modulo 2^64. -/
  | sub (o : COp)
  /-- MUL (R105): Low 64 bits of a times b. -/
  | mul (o : COp)
  /-- MULH (R105): High 64 bits of the signed product. -/
  | mulh (o : COp)
  /-- MULHU (R105): High 64 bits of the unsigned product. -/
  | mulhu (o : COp)
  /-- DIV (R106): Signed division truncated toward zero, with fixed results for zero divisor and overflow. -/
  | div (o : COp)
  /-- DIVU (R106): Unsigned division, all ones for a zero divisor. -/
  | divu (o : COp)
  /-- REM (R106): Signed remainder with the sign of a. -/
  | rem (o : COp)
  /-- REMU (R106): Unsigned remainder. -/
  | remu (o : COp)
  /-- AND (R105): Bitwise and. -/
  | and (o : COp)
  /-- OR (R105): Bitwise or. -/
  | or (o : COp)
  /-- XOR (R105): Bitwise exclusive or. -/
  | xor (o : COp)
  /-- ANDN (R105): a and not b. -/
  | andn (o : COp)
  /-- SHL (R105): Shift left by b[5:0]. -/
  | shl (o : COp)
  /-- SHR (R105): Logical shift right by b[5:0]. -/
  | shr (o : COp)
  /-- SAR (R105): Arithmetic shift right by b[5:0]. -/
  | sar (o : COp)
  /-- ROR (R105): Rotate right by b[5:0]. -/
  | ror (o : COp)
  /-- CMPEQ (R105): 1 if a equals b, else 0. -/
  | cmpeq (o : COp)
  /-- CMPNE (R105): 1 if a differs from b, else 0. -/
  | cmpne (o : COp)
  /-- CMPLT (R105): Signed less-than compare. -/
  | cmplt (o : COp)
  /-- CMPLTU (R105): Unsigned less-than compare. -/
  | cmpltu (o : COp)
  /-- CMPLE (R105): Signed less-or-equal compare. -/
  | cmple (o : COp)
  /-- CMPLEU (R105): Unsigned less-or-equal compare. -/
  | cmpleu (o : COp)
  /-- MIN (R105): Signed minimum. -/
  | min (o : COp)
  /-- MAX (R105): Signed maximum. -/
  | max (o : COp)
  /-- MINU (R105): Unsigned minimum. -/
  | minu (o : COp)
  /-- MAXU (R105): Unsigned maximum. -/
  | maxu (o : COp)
  /-- CLZ (R105): Counts leading zero bits of a. -/
  | clz (o : COp)
  /-- CTZ (R105): Counts trailing zero bits of a. -/
  | ctz (o : COp)
  /-- POPC (R105): Counts set bits of a. -/
  | popc (o : COp)
  /-- SEXT32 (R105): Sign-extends a[31:0] to 64 bits. -/
  | sext32 (o : COp)
  /-- ADDS (R105): Signed saturating add. -/
  | adds (o : COp)
  /-- SUBS (R105): Signed saturating subtract. -/
  | subs (o : COp)
  /-- ZEXT32 (R105): Zero-extends a[31:0] to 64 bits. -/
  | zext32 (o : COp)
  /-- FADD (R113): F32 add rounded once, flags ORed into s.fflags. -/
  | fadd (o : CFlt)
  /-- FSUB (R113): F32 subtract. -/
  | fsub (o : CFlt)
  /-- FMUL (R113): F32 multiply. -/
  | fmul (o : CFlt)
  /-- FDIV (R113): F32 divide with IEEE special cases. -/
  | fdiv (o : CFlt)
  /-- FSQRT (R113): F32 square root. -/
  | fsqrt (o : CFlt)
  /-- FMIN (R112): F32 minimum with -0 below +0 and NaN rules. -/
  | fmin (o : CFlt)
  /-- FMAX (R112): F32 maximum. -/
  | fmax (o : CFlt)
  /-- FABS (R112): Clears bit 31. -/
  | fabs (o : CFlt)
  /-- FNEG (R112): Flips bit 31. -/
  | fneg (o : CFlt)
  /-- FCMPEQ (R113): F32 equality compare. -/
  | fcmpeq (o : CFlt)
  /-- FCMPLT (R113): F32 less-than compare. -/
  | fcmplt (o : CFlt)
  /-- FCMPLE (R113): F32 less-or-equal compare. -/
  | fcmple (o : CFlt)
  /-- FCMPUN (R113): 1 if either input is a NaN. -/
  | fcmpun (o : CFlt)
  /-- FCVT_I32 (R114): Converts F32 to signed 32-bit integer. -/
  | fcvtI32 (o : CFlt)
  /-- FCVT_N32 (R114): Converts F32 to unsigned 32-bit integer. -/
  | fcvtN32 (o : CFlt)
  /-- FCVT_I64 (R114): Converts F32 to signed 64-bit integer. -/
  | fcvtI64 (o : CFlt)
  /-- FCVT_N64 (R114): Converts F32 to unsigned 64-bit integer. -/
  | fcvtN64 (o : CFlt)
  /-- ICVT_F32 (R114): Converts a signed 64-bit integer to F32. -/
  | icvtF32 (o : CFlt)
  /-- NCVT_F32 (R114): Converts an unsigned 64-bit integer to F32. -/
  | ncvtF32 (o : CFlt)
  /-- FCLASS (R115): Returns a one-hot class of an F32 value. -/
  | fclass (o : CFlt)
  /-- SEL (R116): Selects b if a is nonzero, else c. -/
  | sel (o : CTri)
  /-- FMA (R116): F32 fused multiply-add under s.mode. -/
  | fma (o : CTri)
  /-- FMS (R116): F32 fused multiply-subtract. -/
  | fms (o : CTri)
  /-- FNMA (R116): F32 negated fused multiply-add. -/
  | fnma (o : CTri)
  /-- RNDC (R117): Computes the grain hash word from key and coordinates. -/
  | rndc (o : CTri)
  /-- IMAD (R116): Low 64 bits of a times b plus c. -/
  | imad (o : CTri)
  /-- ADDI (R107): Adds a sign-extended 15-bit immediate. -/
  | addi (o : CImm)
  /-- ANDI (R107): Ands with a sign-extended immediate. -/
  | andi (o : CImm)
  /-- ORI (R107): Ors with a sign-extended immediate. -/
  | ori (o : CImm)
  /-- XORI (R107): Xors with a sign-extended immediate. -/
  | xori (o : CImm)
  /-- CMPEQI (R107): Compares a with an immediate for equality. -/
  | cmpeqi (o : CImm)
  /-- CMPLTI (R107): Signed less-than against an immediate. -/
  | cmplti (o : CImm)
  /-- CMPLTUI (R107): Unsigned less-than against an immediate. -/
  | cmpltui (o : CImm)
  /-- SHFI (R108): Shifts or rotates by an immediate kind and count. -/
  | shfi (o : CShf)
  /-- LI (R109): Loads a sign-extended 20-bit immediate. -/
  | li (o : CWide)
  /-- BEQ (R118): Branches if a equals b and settles the shadows. -/
  | beq (o : CBr)
  /-- BNE (R118): Branches if a differs from b. -/
  | bne (o : CBr)
  /-- BLT (R118): Branches on signed less-than. -/
  | blt (o : CBr)
  /-- BGE (R118): Branches on signed greater-or-equal. -/
  | bge (o : CBr)
  /-- BLTU (R118): Branches on unsigned less-than. -/
  | bltu (o : CBr)
  /-- BGEU (R118): Branches on unsigned greater-or-equal. -/
  | bgeu (o : CBr)
  /-- BRF (R122): Pops a flag queue entry and branches on its condition. -/
  | brf (o : CBrf)
  /-- CALL (R125): Slides the window, claims a group and jumps to a relative target. -/
  | call (off : BitVec 26)
  /-- JMP (R123): Jumps by a relative word offset. -/
  | jmp (off : BitVec 26)
  /-- CALLI (R125): Calls the address held in a register. -/
  | calli (a : BitVec 5)
  /-- JMPI (R123): Jumps to the address held in a register. -/
  | jmpi (a : BitVec 5)
  /-- LD (R132): Loads 64 bits at a scope, optionally acquiring. -/
  | ld (o : CLd)
  /-- LD_I32 (R132): Loads 32 bits sign-extended. -/
  | ldI32 (o : CLd)
  /-- LD_N32 (R132): Loads 32 bits zero-extended. -/
  | ldN32 (o : CLd)
  /-- LD_I16 (R132): Loads 16 bits sign-extended. -/
  | ldI16 (o : CLd)
  /-- LD_N16 (R132): Loads 16 bits zero-extended. -/
  | ldN16 (o : CLd)
  /-- LD_I8 (R132): Loads 8 bits sign-extended. -/
  | ldI8 (o : CLd)
  /-- LD_N8 (R132): Loads 8 bits zero-extended. -/
  | ldN8 (o : CLd)
  /-- LDC (R135): Loads 64 bits through the constant cache. -/
  | ldc (o : CLdc)
  /-- ST (R136): Stores 64 bits into the shared store buffer, optionally as a release. -/
  | st (o : CSt)
  /-- ST_I32 (R136): Stores 32 bits. -/
  | stI32 (o : CSt)
  /-- ST_I16 (R136): Stores 16 bits. -/
  | stI16 (o : CSt)
  /-- ST_I8 (R136): Stores 8 bits. -/
  | stI8 (o : CSt)
  /-- ATOM (R138): Performs a read-modify-write atomic at the home slice and returns the old value. -/
  | atom (o : CAtm)
  /-- CAS (R140): Compare-and-swap of 32 or 64 bits at home. -/
  | cas (o : CCas)
  /-- CAS128 (R141): Compare-and-swap of 16 aligned bytes using register pairs. -/
  | cas128 (o : CCas)
  /-- FENCE (R142): Release followed by acquire at a scope. -/
  | fence (scope : Scope)
  /-- ARRV (R148): Releases at the barrier scope and adds one arrival. -/
  | arrv (scope : Scope) (bar : Byte)
  /-- BWAIT (R149): Waits for the bench's last generation to complete, then acquires. -/
  | bwait (scope : Scope) (bar : Byte)
  /-- BSET (R147): Joins, changes or leaves barrier membership. -/
  | bset (a : BitVec 5) (bar : Byte)
  /-- WATCH (R143): Arms a watch on a line by registering at home. -/
  | watch (a : BitVec 5)
  /-- SEND (R151): Pushes a value into a value queue to L, P, V or S. -/
  | send (a : BitVec 5) (q : BitVec 2)
  /-- RECV (R152): Pops a flag queue entry as a result. -/
  | recv (d : BitVec 4)
  /-- GIVE (R153): Pushes tokens to named streams after older stores reach .en. -/
  | give (mask : BitVec 4)
  /-- TAKE (R153): Pops tokens from named streams as an acquire at .en. -/
  | take (mask : BitVec 4)
  /-- ABANDON (R154): Stops named streams, empties their queues and redirects them to landing points. -/
  | abandon (mask : BitVec 4)
  /-- TJOIN (R155): Waits until a named tail or all tails have ended. -/
  | tjoin (t : BitVec 2)
  /-- MFS (R160): Reads a special register. -/
  | mfs (d : BitVec 4) (n : Byte)
  /-- MTS (R160): Writes a special register after the checks of R93. -/
  | mts (a : BitVec 5) (n : Byte)
  /-- TRAP (R161): Enters the trap handler with cause 0x20. -/
  | trap (n : Byte)
  /-- SYSC (R162): Fences and requests a firmware service, stopping the context. -/
  | sysc (n : Byte)
  /-- TLBI (R164): Invalidates translations of the team's tenant. -/
  | tlbi (a : BitVec 5) (kind : Byte)
  /-- ESTAT (R156): Returns one word of a same-clk snapshot of the bench. -/
  | estat (d : BitVec 4) (n : Byte)
  /-- LAUNCH (R157): Hands a launch record to the die's dispatcher and returns a sequence number or 0. -/
  | launch (d : BitVec 4) (a : BitVec 5)
  /-- LWAIT (R159): Waits until a launch has retired, then acquires at .mo. -/
  | lwait (a : BitVec 5)
  /-- CLOCK (R129): Returns the system cycle count rounded down to the launch period. -/
  | clock (d : BitVec 4)
  /-- FBIND (R308): Binds a feed register from a descriptor and base popped from ql. -/
  | fbind (h : Hdr) (o : LBind)
  /-- FLOAD (R310): Pops one feed block and writes it into a bank, converting if formats differ. -/
  | fload (h : Hdr) (o : LLoad)
  /-- FGATH (R312): Gathers feed rows chosen by an index list into a bank. -/
  | fgath (h : Hdr) (o : IdxMove)
  /-- MOVB (R314): Copies elements between banks with decode and encode. -/
  | movb (h : Hdr) (o : LMovb)
  /-- FPREF (R315): Prefetches the lines of further feed blocks into L2 or RDC. -/
  | fpref (h : Hdr) (o : LPref)
  /-- BFSET (R316): Writes a bank format register subject to R50. -/
  | bfset (h : Hdr) (o : LBfset)
  /-- LSET (R313): Writes an L loop stride. -/
  | lset (h : Hdr) (o : StrideSet)
  /-- LSET_CVC (R313): Writes L's conversion control count and mode. -/
  | lsetCvc (h : Hdr) (o : Cvc)
  /-- L_LOOP (R317): Opens an L loop level with a count or one popped from ql. -/
  | lLoop (h : Hdr) (o : LoopOp)
  /-- L_ENDL (R317): Closes an L loop level iteration. -/
  | lEndl (h : Hdr) (lvl : BitVec 3)
  /-- L_RDV (R317): L rendezvous. -/
  | lRdv (h : Hdr)
  /-- PTILE (R246): Opens a tile and writes PGEO. -/
  | ptile (h : Hdr) (o : PTileOp)
  /-- PCOMMIT (R247): Checks, sends halo bands and pushes the tile's held gives. -/
  | pcommit (h : Hdr)
  /-- PSHEET (R248): Loads a sheet register from a bank. -/
  | psheet (h : Hdr) (o : PSheetOp)
  /-- PCORR (R227): Runs a windowed correlation of steps over a sheet register. -/
  | pcorr (h : Hdr) (o : PCorrOp)
  /-- PMM (R252): Runs a matrix product of ceil(K/D) steps. -/
  | pmm (h : Hdr) (o : PMmOp)
  /-- PWGT (R250): Loads the weight block W. -/
  | pwgt (h : Hdr) (o : PWgtOp)
  /-- PSHIFT (R253): Sets the base shift. -/
  | pshift (h : Hdr) (sx sy : BitVec 4)
  /-- PSHIFT_REL (R253): Adds to the base shift. -/
  | pshiftRel (h : Hdr) (sx sy : BitVec 4)
  /-- PZERO (R254): Zeroes named accumulator layers. -/
  | pzero (h : Hdr) (zmask : Byte)
  /-- PHSEND (R255): Reserves neighbour buffers and captures Sent halo bands. -/
  | phsend (h : Hdr)
  /-- PHRECV (R256): Adds received halo bands in fixed side order. -/
  | phrecv (h : Hdr)
  /-- PDRAIN (R257): Converts core and retained halo into a bank. -/
  | pdrain (h : Hdr) (o : PDrainOp)
  /-- PCHK (R258): Checks checksum rows and columns of named layers now. -/
  | pchk (h : Hdr) (zmask : Byte)
  /-- PFWD (R259): Sends a weight region eastward to N positions. -/
  | pfwd (h : Hdr) (o : PFwdOp)
  /-- PFWD_RX (R259): Receives a forwarded weight region. -/
  | pfwdRx (h : Hdr) (o : PFwdOp)
  /-- PMODE (R260): Sets P's rounding mode. -/
  | pmode (h : Hdr) (mode : BitVec 3)
  /-- PSEG (R261): Opens a segment with step count and signature. -/
  | pseg (h : Hdr) (steps : BitVec 24) (sig : W32)
  /-- PLOOP (R262): Opens a P loop level. -/
  | ploop (h : Hdr) (o : PLoopOp)
  /-- PENDL (R262): Closes a P loop level iteration. -/
  | pendl (h : Hdr) (lvl : BitVec 3)
  /-- P_RDV (R263): P rendezvous. -/
  | pRdv (h : Hdr)
  /-- VADD_INT (R333): Integer vector add. -/
  | vaddInt (h : Hdr) (o : VOp)
  /-- VSUB_INT (R333): Integer vector subtract. -/
  | vsubInt (h : Hdr) (o : VOp)
  /-- VMUL_INT (R333): Integer vector multiply low. -/
  | vmulInt (h : Hdr) (o : VOp)
  /-- VMULH (R333): Signed multiply high. -/
  | vmulh (h : Hdr) (o : VOp)
  /-- VMULHU (R333): Unsigned multiply high. -/
  | vmulhu (h : Hdr) (o : VOp)
  /-- VADDS (R333): Signed saturating add. -/
  | vadds (h : Hdr) (o : VOp)
  /-- VSUBS (R333): Signed saturating subtract. -/
  | vsubs (h : Hdr) (o : VOp)
  /-- VADDSU (R333): Unsigned saturating add. -/
  | vaddsu (h : Hdr) (o : VOp)
  /-- VSUBSU (R333): Unsigned saturating subtract. -/
  | vsubsu (h : Hdr) (o : VOp)
  /-- VAND (R333): Bitwise and. -/
  | vand (h : Hdr) (o : VOp)
  /-- VOR (R333): Bitwise or. -/
  | vor (h : Hdr) (o : VOp)
  /-- VXOR (R333): Bitwise xor. -/
  | vxor (h : Hdr) (o : VOp)
  /-- VANDN (R333): a and not b. -/
  | vandn (h : Hdr) (o : VOp)
  /-- VSHL (R333): Shift left. -/
  | vshl (h : Hdr) (o : VOp)
  /-- VSHR (R333): Logical shift right. -/
  | vshr (h : Hdr) (o : VOp)
  /-- VSAR (R333): Arithmetic shift right. -/
  | vsar (h : Hdr) (o : VOp)
  /-- VMIN_INT (R333): Signed minimum. -/
  | vminInt (h : Hdr) (o : VOp)
  /-- VMAX_INT (R333): Signed maximum. -/
  | vmaxInt (h : Hdr) (o : VOp)
  /-- VMINU (R333): Unsigned minimum. -/
  | vminu (h : Hdr) (o : VOp)
  /-- VMAXU (R333): Unsigned maximum. -/
  | vmaxu (h : Hdr) (o : VOp)
  /-- VABS_INT (R333): Integer absolute value. -/
  | vabsInt (h : Hdr) (o : VOp)
  /-- VNEG_INT (R333): Integer negate. -/
  | vnegInt (h : Hdr) (o : VOp)
  /-- VPOPC (R333): Population count. -/
  | vpopc (h : Hdr) (o : VOp)
  /-- VCLZ (R333): Count leading zeros. -/
  | vclz (h : Hdr) (o : VOp)
  /-- VADD_FLOAT (R334): Float vector add. -/
  | vaddFloat (h : Hdr) (o : VOp)
  /-- VSUB_FLOAT (R334): Float vector subtract. -/
  | vsubFloat (h : Hdr) (o : VOp)
  /-- VMUL_FLOAT (R334): Float vector multiply. -/
  | vmulFloat (h : Hdr) (o : VOp)
  /-- VDIV (R334): Float vector divide. -/
  | vdiv (h : Hdr) (o : VOp)
  /-- VSQRT (R334): Float vector square root. -/
  | vsqrt (h : Hdr) (o : VOp)
  /-- VMIN_FLOAT (R334): Float minimum. -/
  | vminFloat (h : Hdr) (o : VOp)
  /-- VMAX_FLOAT (R334): Float maximum. -/
  | vmaxFloat (h : Hdr) (o : VOp)
  /-- VABS_FLOAT (R334): Clears the sign bit. -/
  | vabsFloat (h : Hdr) (o : VOp)
  /-- VNEG_FLOAT (R334): Flips the sign bit. -/
  | vnegFloat (h : Hdr) (o : VOp)
  /-- VRINT (R334): Rounds to an integral value. -/
  | vrint (h : Hdr) (o : VOp)
  /-- VFMA (R335): Fused multiply-add. -/
  | vfma (h : Hdr) (o : VOp)
  /-- VFMS (R335): Fused multiply-subtract. -/
  | vfms (h : Hdr) (o : VOp)
  /-- VFNMA (R335): Negated fused multiply-add. -/
  | vfnma (h : Hdr) (o : VOp)
  /-- VMAD (R335): Integer multiply-add. -/
  | vmad (h : Hdr) (o : VOp)
  /-- VDOT (R335): Per-lane dot product into a 32-bit accumulator. -/
  | vdot (h : Hdr) (o : VOp)
  /-- VCMPEQ (R336): Equality compare into a mask or register. -/
  | vcmpeq (h : Hdr) (o : VCmp)
  /-- VCMPNE (R336): Inequality compare. -/
  | vcmpne (h : Hdr) (o : VCmp)
  /-- VCMPLT (R336): Less-than compare. -/
  | vcmplt (h : Hdr) (o : VCmp)
  /-- VCMPLE (R336): Less-or-equal compare. -/
  | vcmple (h : Hdr) (o : VCmp)
  /-- VCMPLTU (R336): Unsigned less-than compare. -/
  | vcmpltu (h : Hdr) (o : VCmp)
  /-- VCMPLEU (R336): Unsigned less-or-equal compare. -/
  | vcmpleu (h : Hdr) (o : VCmp)
  /-- VCMPUN (R336): Unordered compare. -/
  | vcmpun (h : Hdr) (o : VCmp)
  /-- VSEL (R337): Selects lanes by a mask. -/
  | vsel (h : Hdr) (o : VOp)
  /-- VBSEL (R337): Bitwise select. -/
  | vbsel (h : Hdr) (o : VOp)
  /-- VCVT (R338): Converts elements between types, with slices for packing. -/
  | vcvt (h : Hdr) (o : VCvt)
  /-- VCVTU (R338): Unsigned variant of the conversion. -/
  | vcvtu (h : Hdr) (o : VCvt)
  /-- VEXP2 (R339): Correctly rounded 2^a. -/
  | vexp2 (h : Hdr) (o : VOp)
  /-- VLOG2 (R339): Correctly rounded log2 a. -/
  | vlog2 (h : Hdr) (o : VOp)
  /-- VRCP (R339): Correctly rounded reciprocal. -/
  | vrcp (h : Hdr) (o : VOp)
  /-- VRSQ (R339): Correctly rounded reciprocal square root. -/
  | vrsq (h : Hdr) (o : VOp)
  /-- VMOV (R340): Copies a register. -/
  | vmov (h : Hdr) (o : VOp)
  /-- VBCST (R340): Broadcasts element 0. -/
  | vbcst (h : Hdr) (o : VOp)
  /-- VPERM (R340): Permutes lanes by an index register. -/
  | vperm (h : Hdr) (o : VOp)
  /-- VROT (R340): Rotates lanes. -/
  | vrot (h : Hdr) (o : VOp)
  /-- VXCH (R340): Exchanges lanes by xor distance. -/
  | vxch (h : Hdr) (o : VOp)
  /-- VIDX (R340): Writes element indices. -/
  | vidx (h : Hdr) (o : VOp)
  /-- VLI (R341): Writes an immediate to every element. -/
  | vli (h : Hdr) (o : VLiOp)
  /-- RSUM (R342): Fixed-tree sum reduction. -/
  | rsum (h : Hdr) (o : VOp)
  /-- RMAX (R342): Fixed-tree maximum reduction. -/
  | rmax (h : Hdr) (o : VOp)
  /-- RMIN (R342): Fixed-tree minimum reduction. -/
  | rmin (h : Hdr) (o : VOp)
  /-- RNDC_V (R343): Per-lane grain hash. -/
  | rndcV (h : Hdr) (o : VOp)
  /-- MAND (R344): Mask and. -/
  | mand (h : Hdr) (o : MOp)
  /-- MOR (R344): Mask or. -/
  | mor (h : Hdr) (o : MOp)
  /-- MXOR (R344): Mask xor. -/
  | mxor (h : Hdr) (o : MOp)
  /-- MANDN (R344): Mask and-not. -/
  | mandn (h : Hdr) (o : MOp)
  /-- MNOT (R344): Mask not. -/
  | mnot (h : Hdr) (o : MOp)
  /-- MSET (R344): Sets all mask bits. -/
  | mset (h : Hdr) (o : MOp)
  /-- MCLR (R344): Clears all mask bits. -/
  | mclr (h : Hdr) (o : MOp)
  /-- VMODE (R345): Sets V's rounding mode. -/
  | vmode (h : Hdr) (mode : BitVec 3)
  /-- V_RDV (R346): V rendezvous. -/
  | vRdv (h : Hdr)
  /-- VLD (R351): Loads 32-bit lanes from a bank. -/
  | vld (h : Hdr) (o : VMem)
  /-- VST (R351): Stores 32-bit lanes to a bank. -/
  | vst (h : Hdr) (o : VMem)
  /-- VGATH (R353): Gathers bank words by an index register. -/
  | vgath (h : Hdr) (o : VIdx)
  /-- VSCAT (R353): Scatters lanes to bank words by an index register. -/
  | vscat (h : Hdr) (o : VIdx)
  /-- PART (R354): Splits active lanes into two dense lists and pushes two flag entries. -/
  | part (h : Hdr) (o : VPart)
  /-- VATOM (R358): Performs one 32-bit atomic per active lane at home, recording lane faults. -/
  | vatom (h : Hdr) (o : VAtm)
  /-- REDM (R359): Reduces lanes by a fixed tree and sends one atomic. -/
  | redm (h : Hdr) (o : VRedm)
  /-- REDT (R360): Sends one tagged F32 partial to a combining slot. -/
  | redt (h : Hdr) (o : VRedt)
  /-- V_LOOP (R361): Opens a V loop level. -/
  | vLoop (h : Hdr) (o : LoopOp)
  /-- V_ENDL (R361): Closes a V loop level iteration. -/
  | vEndl (h : Hdr) (lvl : BitVec 3)
  /-- VLSET (R361): Writes a V loop stride. -/
  | vlset (h : Hdr) (o : StrideSet)
  /-- FSTORE (R372): Pushes one block of a write feed from a bank into the S store queue. -/
  | fstore (h : Hdr) (o : SStore)
  /-- QSTORE (R375): Quantises elements with dither under a named frame between banks. -/
  | qstore (h : Hdr) (o : SQst)
  /-- REQ (R376): Reconstructs under one frame and requantises under another. -/
  | req (h : Hdr) (o : SReq)
  /-- GRAIN (R377): Writes grain frame words popped from qs, checked at retirement. -/
  | grain (h : Hdr) (o : SGrain)
  /-- SMODE (R379): Sets S's rounding mode. -/
  | smode (h : Hdr) (mode : BitVec 3)
  /-- SSCAT (R373): Scatters bank rows to write-feed rows by an index list. -/
  | sscat (h : Hdr) (o : IdxMove)
  /-- SREL (R380): Releases older S stores at a scope, then gives. -/
  | srel (h : Hdr) (scope : Scope)
  /-- S_LOOP (R381): Opens an S loop level. -/
  | sLoop (h : Hdr) (o : LoopOp)
  /-- S_ENDL (R381): Closes an S loop level iteration. -/
  | sEndl (h : Hdr) (lvl : BitVec 3)
  /-- S_RDV (R381): S rendezvous. -/
  | sRdv (h : Hdr)
  /-- SLSET (R371): Writes an S loop stride. -/
  | slset (h : Hdr) (o : StrideSet)
  /-- SLSET_CVC (R371): Writes S's conversion control. -/
  | slsetCvc (h : Hdr) (o : Cvc)
  /-- RET (R126): Returns from a call, or ends a tail at depth 0. -/
  | ret
  /-- RELS (R127): Hands back results to the caller and continues the frame as a tail context. -/
  | rels
  /-- WAIT (R145): Sleeps until wake-pending is set, then clears it. -/
  | wait
  /-- ERET (R163): Leaves handler state and resumes at s.epc. -/
  | eret
  /-- RDV (R165): C rendezvous: waits for older instructions and all tails, then retires. -/
  | rdv
  /-- ABANDON_LAND (R46): After issued instructions retire, the abandoned stream resumes at its landing point. -/
  | abandonLand
  /-- SYSC_COMPLETE (R162): Firmware returns results in k8 to k11 and the context resumes after a fence. -/
  | syscComplete
  /-- RESULT_ARRIVAL (R85): A late value, such as a load result, arrives in its allocated result queue slot. -/
  | resultArrival
  /-- STORE_PERFORM (R71): A store drains from a store buffer or queue and performs at its home slice. -/
  | storePerform
  /-- GIVE_PUSH (R33): A retired instruction pushes its give tokens once every target FIFO has room. -/
  | givePush
  /-- QDEAD (R60): A continuous wait of 2^30 clk on a token or queue raises QDEAD. -/
  | qdead
  /-- BACKGROUND_SPILL (R170): The spill engine saves the oldest older group when fewer than 4 groups are free. -/
  | backgroundSpill
  /-- GROUP_FILL (R171): The spill engine fills back a spilled group when enough groups are free or a RET needs it. -/
  | groupFill
  /-- CLAIM_STALL_TIMEOUT (R168): A claim stalled 2^30 clk raises SPILL. -/
  | claimStallTimeout
  /-- FILL_STALL_TIMEOUT (R171): A fill stall of 2^30 clk raises SPILL at the RET or RELS. -/
  | fillStallTimeout
  /-- WATCH_WAKE (R144): A store, invalidation, dropped registration or pre-emption sets wake-pending and disarms the watch. -/
  | watchWake
  /-- TRAP_ENTRY (R178): A pending fault, trap or engine fault enters the handler at an instruction boundary. -/
  | trapEntry
  /-- FEED_BLOCK_ARRIVAL (R288): A block fetched ahead by a read feed arrives and its loads bind, or it records a fetch fault. -/
  | feedBlockArrival
  /-- HALO_BAND_ARRIVAL (R233): A committed halo band from a neighbour lands in a receive buffer. -/
  | haloBandArrival
  /-- FORWARD_REGION_COMPLETE (R235): A receiver holds a whole intact region, writes it and acknowledges. -/
  | forwardRegionComplete
  /-- FORWARD_ACK (R259): An acknowledgement reaches the sender; the last one retires the PFWD. -/
  | forwardAck
  /-- TILE_PREEMPT_TIMEOUT (R277): A tile not committed within 2048 clk of pre-emption is saved for replay. -/
  | tilePreemptTimeout
  /-- DISPATCH_DECISION (R387): The dispatcher chooses the next eligible launch and places it or pre-empts to make room. -/
  | dispatchDecision
  /-- LAUNCH_AGEING (R388): A launch that waited 2^24 clk rises one priority. -/
  | launchAgeing
  /-- PREEMPT (R395): The dispatcher stops and saves every team of a hitch. -/
  | preempt
  /-- RESUME (R397): A saved hitch is restored on its die and acquires at .mo. -/
  | resume
  /-- HITCH_KILL (R404): A hitch is stopped at once, benches freed and the launch retired as killed. -/
  | hitchKill
  /-- ATOMIC_PERFORM (R407): The slice atomic unit performs an arriving atomic on its line. -/
  | atomicPerform
  /-- REDT_COMBINE (R411): A partial arriving at a slot's home combines with siblings or waits in the buffer. -/
  | redtCombine
  /-- RDC_FILL_READ (R414): An agent's read reaches home and updates the directory entry. -/
  | rdcFillRead
  /-- EVICTION_NOTICE (R416): An agent's eviction notice removes it from the entry or answers a tracker. -/
  | evictionNotice
  /-- INVALIDATION_ACK (R416): An agent's acknowledgement reaches home's tracker. -/
  | invalidationAck
  /-- HOST_MEM_READ (R418): A host CXL.mem read reaches home as a directory read. -/
  | hostMemRead
  /-- HOST_MEM_WRITE (R418): A host CXL.mem write reaches home as a store. -/
  | hostMemWrite
  /-- HOST_SNOOP (R409): A host snoop takes away a host line the module held. -/
  | hostSnoop
  /-- SRAM_UNCORRECTABLE_ERROR (R54): An uncorrectable bank SRAM error sets a sector's poison bit and is logged. -/
  | sramUncorrectableError
  /-- MEMORY_UNCORRECTABLE_ERROR (R419): An uncorrectable error in memory or a dirty copy poisons the sector. -/
  | memoryUncorrectableError
  /-- DC_EXTENT_ADD (R423): The fabric manager adds a dynamic-capacity extent with clear sectors. -/
  | dcExtentAdd
  /-- DC_EXTENT_RELEASE (R423): The home die drains or force-drops an extent before acknowledging. -/
  | dcExtentRelease
  /-- CHANNEL_POWER_DOWN (R301): A pseudo-channel idle 64 clk enters power-down. -/
  | channelPowerDown
  /-- CHANNEL_SELF_REFRESH (R301): A pseudo-channel idle 2^18 clk enters self-refresh. -/
  | channelSelfRefresh
  /-- HOT_ROW_THROTTLE (R303): 256 activations of one row by a tenant in 2^16 clk start throttling. -/
  | hotRowThrottle
  /-- HOT_ROW_THROTTLE_END (R303): The throttle ends after 2^16 clk. -/
  | hotRowThrottleEnd
  /-- RETN_ENABLE (R296): A CTL store setting EN pins a range or is refused with ERR. -/
  | retnEnable
  /-- RETN_DISABLE (R298): A CTL store clearing EN unpins the range at once. -/
  | retnDisable
  /-- FWIN_WRITE (R427): Writes a fabric window register and clears LOST. -/
  | fwinWrite
  /-- DCAP_WRITE (R457): Writes the die power cap, clamped to 100 to 560 W. -/
  | dcapWrite
  /-- REGISTER_WRITE (R426): A 64-bit write to a device register with no behaviour of its own; narrower writes are ignored. -/
  | registerWrite
  /-- POWER_CAP_CONTROL (R458): At a window boundary the controller adjusts plane DUTY against the effective cap. -/
  | powerCapControl
  /-- TELEMETRY_REFRESH (R456): Every 2^16 clk conversion-stage and power averages are refreshed. -/
  | telemetryRefresh
  /-- FABRIC_PACKET_ACCEPT (R432): A destination accepts the next SEQ of a flow, or discards a duplicate or gap. -/
  | fabricPacketAccept
  /-- FABRIC_ACK_RECEIVE (R431): A cumulative acknowledgement frees retry buffer entries and advances PERF. -/
  | fabricAckReceive
  /-- ROUTER_PACKET (R433): A router forwards a packet or discards it for version, age or reserved fields. -/
  | routerPacket
  /-- ROUTE_VERSION_INSTALL (R433): The fabric manager installs repaired tables with the next version. -/
  | routeVersionInstall
  /-- REPLAY_TIMEOUT (R434): The oldest unacknowledged packet reaches 2^20 clk and its flow is replayed. -/
  | replayTimeout
  /-- MODULE_LOST (R435): A module with no route is declared lost and pending accesses fail with FABRIC. -/
  | moduleLost
  /-- LINK_DEATH (R441): Both ends of a link detect its failure. -/
  | linkDeath
  /-- LINK_STATE_RISE (R459): A connector's STATE rises and an error log entry is written. -/
  | linkStateRise
  /-- LINK_RETRAIN (R459): A retrained link returns its STATE to 0. -/
  | linkRetrain
  /-- FABID_ASSIGN (R437): The fabric manager assigns the module's fabric identity. -/
  | fabidAssign
  /-- CLAIM (R440): A host claims mailbox ownership, succeeding only when none is elected. -/
  | claim
  /-- OWNER_HANDOVER (R440): The owner hands ownership to another host. -/
  | ownerHandover
  /-- OWNER_RELEASE (R440): The owner releases ownership. -/
  | ownerRelease
  /-- OWNER_LINK_DOWN (R440): The owner's link reports down and ownership clears. -/
  | ownerLinkDown
  /-- GO (R440): The owner submits the mailbox record, which is checked and RES written. -/
  | go
  /-- NON_OWNER_WRITE_DISCARD (R440): A write by a non-owner host is discarded and logged with KIND 8. -/
  | nonOwnerWriteDiscard
  /-- ATTESTATION_REQUEST (R461): A host requests a signed attestation report over a nonce. -/
  | attestationRequest
  /-- ATTESTATION_REPORT_DONE (R461): The module finishes writing the report and clears the request bit. -/
  | attestationReportDone
  /-- BOOT_STAGE_VERIFY (R460): A boot stage verifies the next image's signature or stops boot with ERR. -/
  | bootStageVerify
  /-- COLD_RESET (R462): Cold reset kills hitches and initialises memory, state and boot from ROM. -/
  | coldReset
  /-- WARM_RESET (R462): Warm reset kills hitches, writes back dirty lines and re-runs boot from stage 1. -/
  | warmReset
  /-- RESERVED_OPCODE_WORD (R102): An engine reaches a word whose opcode is reserved, or an all-zero section terminator, and raises ILL with the word recorded. -/
  | reservedOpcodeWord
  /-- INSTRUCTION_FETCH_FAULT (R463): A stream's instruction fetch fails translation or the X permission and raises XLAT or PROT. -/
  | instructionFetchFault
  /-- PLANE_STATE_STORAGE_ERROR (R267): A parity error arises in A, sh0, sh1, W, the receive buffers or the replay window, and causes a replay or a held CHKSUM. -/
  | planeStateStorageError
  /-- FORWARD_RECEIPT_ERROR (R259): A PFWD receiver detects a link or storage error during receipt, repeats its receipt, and the sender retransmits to it alone. -/
  | forwardReceiptError
  /-- TOKEN_BUCKET_GAIN (R302): Each clk a tenant bucket gains rate/1024 tokens up to its depth, with surplus lent to empty buckets, releasing requests that wait at the port. -/
  | tokenBucketGain
  deriving DecidableEq, Repr

/-- Who moves in a turn: a stream of a bench (for C, one of its four contexts), or an event of another agent (a row of
the table without a word). -/
inductive Who where
  | stream (b : BenchId) (st : Stream) (ctx : Fin 4)
  | event (i : Instr)
  deriving DecidableEq, Repr, Inhabited

/-- A turn: the clk that pass before it, who moves, whether the value, the push or the store that the move makes is
left in flight (R32 to R34, R66, R85), and what an event brings. The spec fixes no order between streams, contexts,
benches and agents beyond its rules (R59); the list of turns says it. -/
structure Turn where
  dt : Nat
  late : Bool
  who : Who
  bring : Brought
  deriving DecidableEq, Repr, Inhabited

end Sys2Proof
end

