-- ==== Sys2Proof/WellFormed.lean ====
section
/-! DEFINITION. Well-formed instructions: the limits that the encoding tables of the spec put on the fields of
an instruction, beyond the widths of the fields. A word whose fields break one raises ILL (R8, R30, R102, R244,
R306, R331, R348, R370), and so it is no instruction. -/

namespace Sys2Proof

/-- The limits of the common header: LVL 6 and 7 are reserved (R28), and LVL is reserved when neither FIRST nor
LAST is set. -/
def Hdr.ok (h : Hdr) : Bool := h.lvl.toNat < 6 && (h.first || h.last || h.lvl == 0)

/-- LOOP and ENDL carry neither FIRST nor LAST (R30, R44). -/
def Hdr.okLoop (h : Hdr) : Bool := h.ok && !h.first && !h.last

/-- Stride slots 5 to 7 of a bank operand are reserved (R240). -/
def Bop.ok (b : Bop) : Bool := b.sl.toNat < 5

/-- BOOST 3 is reserved, and a boosted word names a register (R96, R102). -/
def okBoost (boost : BitVec 2) (d : BitVec 4) : Bool := boost != 3 && (boost == 0 || d != 0)

/-- A two-source word of the integer group. -/
def COp.ok2 (o : COp) : Bool := okBoost o.boost o.d
/-- A one-source word of the integer group, whose B field is reserved (R104). -/
def COp.ok1 (o : COp) : Bool := okBoost o.boost o.d && o.b == 0

/-- A two-source F32 word that rounds: RM 6 and 7 are reserved (R110). -/
def CFlt.ok2 (o : CFlt) : Bool := okBoost o.boost o.d && o.rm.toNat < 6
/-- A one-source F32 word that rounds. -/
def CFlt.ok1 (o : CFlt) : Bool := okBoost o.boost o.d && o.rm.toNat < 6 && o.b == 0
/-- A two-source F32 word that does not round, whose RM is reserved (R110). -/
def CFlt.ok2n (o : CFlt) : Bool := okBoost o.boost o.d && o.rm == 0
/-- A one-source F32 word that does not round. -/
def CFlt.ok1n (o : CFlt) : Bool := okBoost o.boost o.d && o.rm == 0 && o.b == 0

/-- A load word: ACQ with a nonzero BOOST is reserved (R99). -/
def CLd.ok (o : CLd) : Bool := okBoost o.boost o.d && (!o.acq || o.boost == 0)

/-- An ATOM word: FN 9 with SIZE 1 is reserved, and FN has no compare (R101). -/
def CAtm.ok (o : CAtm) : Bool := o.op != .cas && (o.op != .fadd || !o.wide)

/-- CAS128: SIZE is reserved, and its pairs take consecutive specifiers that both name registers or both name
queue ages; DST 15 has no partner (R141). -/
def CCas.ok128 (o : CCas) : Bool :=
  let pairOk (x : BitVec 5) : Bool := (1 ≤ x.toNat && x.toNat ≤ 14) || 17 ≤ x.toNat
  !o.wide && pairOk o.b && pairOk o.c && o.d != 15

/-- A loop opener: LVL below 6, and COUNT reserved when CSRC is set (R317, R262). -/
def LoopOp.ok (o : LoopOp) : Bool := o.lvl.toNat < 6 && (!o.csrc || o.count == 0)

/-- An FBIND word: DOFF is reserved when DSRC is set (R308). -/
def LBind.ok (o : LBind) : Bool := !o.dsrc || o.doff == 0

/-- The limits of PCORR: kernels of 1 to 9 in both directions (R251), and no bank operand when the weights come from W
(R251). -/
def PCorrOp.ok (o : PCorrOp) : Bool :=
  o.khm1.toNat < 9 && o.kwm1.toNat < 9 && o.bop.ok && (!o.wsrc || (o.bop.sl == 0 && o.bop.bank == 0 && o.bop.off == 0))

/-! ### V words -/

/-- The element width of a TY that is not reserved (R325). -/
def tyWidth (ty : BitVec 3) : Nat :=
  match ty.toNat with
  | 0 => 32 | 1 => 16 | 2 => 16 | 3 => 32 | 4 => 16 | 5 => 8 | _ => 32

/-- A float TY (R325). -/
def tyFloat (ty : BitVec 3) : Bool := ty.toNat < 3
/-- An integer TY (R325). -/
def tyInt (ty : BitVec 3) : Bool := 3 ≤ ty.toNat && ty.toNat < 6

/-- A source specifier that is not reserved (R327). -/
def specOk (x : BitVec 6) : Bool := x.toNat < 49

/-- The predicate fields: MI is reserved when ME is 0 (R326). -/
def maskOk (me : Bool) (mi : BitVec 3) : Bool := me || mi == 0

/-- A compute form using `n` sources, rounding or not (R326, R327, R331). -/
def VOp.ok (o : VOp) (n : Nat) (rounds : Bool) : Bool :=
  maskOk o.me o.mi && (if rounds then o.rm.toNat < 6 else o.rm == 0)
    && (if 1 ≤ n then specOk o.sa else o.sa == 0)
    && (if 2 ≤ n then specOk o.sb else o.sb == 0)
    && (if 3 ≤ n then specOk o.sc else o.sc == 0)

/-- TY f32 or i32 (R337, R340). -/
def tyLane (ty : BitVec 3) : Bool := ty == 0 || ty == 3

/-- A compare: kind 3 is reserved, a mask destination uses three bits of VD (R326, R336). -/
def VCmp.ok (o : VCmp) : Bool := o.o.ok 2 false && o.kind != 3 && (o.kind == 2 || o.o.vd.toNat < 8)

/-- A conversion: types that differ, and SLC within its limit (R338). -/
def VCvt.ok (o : VCvt) : Bool :=
  o.o.ok 1 true && o.o.ty.toNat < 6 && o.sty.toNat < 6 && o.sty != o.o.ty &&
    (let ks := 32 / tyWidth o.sty
     let kd := 32 / tyWidth o.o.ty
     if kd = ks then o.slc == 0 else if ks < kd then o.slc.toNat < kd / ks else o.slc.toNat < ks / kd)

/-- VLI: the immediate bits above the element width are reserved (R341). -/
def VLiOp.ok (o : VLiOp) : Bool := o.ty.toNat < 6 && o.imm.toNat < 2 ^ tyWidth o.ty

/-- VLD and VST (R349). -/
def VMem.ok (o : VMem) : Bool := o.ty.toNat < 6 && maskOk o.me o.mi && o.bop.ok
/-- VGATH and VSCAT (R352). -/
def VIdx.ok (o : VIdx) : Bool := maskOk o.me o.mi && o.bop.ok
/-- PART (R354). -/
def VPart.ok (o : VPart) : Bool := maskOk o.me o.mi && o.bop.ok
/-- VATOM (R356, R358): lanes address memory, never device space. -/
def VAtm.ok (o : VAtm) : Bool := maskOk o.me o.mi && o.scope != .io
/-- REDM: any operation of VATOM but swap and cas (R359). -/
def VRedm.ok (o : VRedm) : Bool := maskOk o.me o.mi && o.scope != .io && o.op != .swap && o.op != .cas
/-- REDT (R360). -/
def VRedt.ok (o : VRedt) : Bool := maskOk o.me o.mi && o.scope != .io

/-- An S conversion mode that an instruction names: RM 6 and 7 are reserved, and RM is reserved when EXM is 0
(R371). -/
def okExm (exm : Bool) (rm : BitVec 3) : Bool := rm.toNat < 6 && (exm || rm == 0)

/-- The fields of an instruction keep the limits of its encoding. The row of an event has no word, and no limit. -/
def Instr.wellFormed : Instr → Bool
  | .add o => o.ok2
  | .sub o => o.ok2
  | .mul o => o.ok2
  | .mulh o => o.ok2
  | .mulhu o => o.ok2
  | .div o => o.ok2
  | .divu o => o.ok2
  | .rem o => o.ok2
  | .remu o => o.ok2
  | .and o => o.ok2
  | .or o => o.ok2
  | .xor o => o.ok2
  | .andn o => o.ok2
  | .shl o => o.ok2
  | .shr o => o.ok2
  | .sar o => o.ok2
  | .ror o => o.ok2
  | .cmpeq o => o.ok2
  | .cmpne o => o.ok2
  | .cmplt o => o.ok2
  | .cmpltu o => o.ok2
  | .cmple o => o.ok2
  | .cmpleu o => o.ok2
  | .min o => o.ok2
  | .max o => o.ok2
  | .minu o => o.ok2
  | .maxu o => o.ok2
  | .clz o => o.ok1
  | .ctz o => o.ok1
  | .popc o => o.ok1
  | .sext32 o => o.ok1
  | .adds o => o.ok2
  | .subs o => o.ok2
  | .zext32 o => o.ok1
  | .fadd o => o.ok2
  | .fsub o => o.ok2
  | .fmul o => o.ok2
  | .fdiv o => o.ok2
  | .fsqrt o => o.ok1
  | .fmin o => o.ok2n
  | .fmax o => o.ok2n
  | .fabs o => o.ok1n
  | .fneg o => o.ok1n
  | .fcmpeq o => o.ok2n
  | .fcmplt o => o.ok2n
  | .fcmple o => o.ok2n
  | .fcmpun o => o.ok2n
  | .fcvtI32 o => o.ok1
  | .fcvtN32 o => o.ok1
  | .fcvtI64 o => o.ok1
  | .fcvtN64 o => o.ok1
  | .icvtF32 o => o.ok1
  | .ncvtF32 o => o.ok1
  | .fclass o => o.ok1n
  | .sel o => okBoost o.boost o.d
  | .fma o => okBoost o.boost o.d
  | .fms o => okBoost o.boost o.d
  | .fnma o => okBoost o.boost o.d
  | .rndc o => okBoost o.boost o.d
  | .imad o => okBoost o.boost o.d
  | .addi o => okBoost o.boost o.d
  | .andi o => okBoost o.boost o.d
  | .ori o => okBoost o.boost o.d
  | .xori o => okBoost o.boost o.d
  | .cmpeqi o => okBoost o.boost o.d
  | .cmplti o => okBoost o.boost o.d
  | .cmpltui o => okBoost o.boost o.d
  | .shfi o => okBoost o.boost o.d
  | .li o => okBoost o.boost o.d
  | .beq _ => true
  | .bne _ => true
  | .blt _ => true
  | .bge _ => true
  | .bltu _ => true
  | .bgeu _ => true
  | .brf o => o.cond.toNat < 4
  | .call _ => true
  | .jmp _ => true
  | .calli _ => true
  | .jmpi _ => true
  | .ld o => o.ok
  | .ldI32 o => o.ok
  | .ldN32 o => o.ok
  | .ldI16 o => o.ok
  | .ldN16 o => o.ok
  | .ldI8 o => o.ok
  | .ldN8 o => o.ok
  | .ldc o => okBoost o.boost o.d
  | .st _ => true
  | .stI32 _ => true
  | .stI16 _ => true
  | .stI8 _ => true
  | .atom o => o.ok
  | .cas _ => true
  | .cas128 o => o.ok128
  | .fence _ => true
  | .arrv _ _ => true
  | .bwait _ _ => true
  | .bset _ _ => true
  | .watch _ => true
  | .send _ _ => true
  | .recv _ => true
  | .give mask => mask != 0
  | .take mask => mask != 0
  | .abandon mask => mask != 0
  | .tjoin _ => true
  | .mfs _ _ => true
  | .mts _ _ => true
  | .trap _ => true
  | .sysc _ => true
  | .tlbi _ _ => true
  | .estat _ _ => true
  | .launch _ _ => true
  | .lwait _ => true
  | .clock _ => true
  | .fbind h o => h.ok && o.ok
  | .fload h o => h.ok && o.rm.toNat < 6 && o.bop.ok
  | .fgath h o => h.ok && o.bop.ok
  | .movb h o => h.ok && o.bop.ok
  | .fpref h _ => h.ok
  | .bfset h _ => h.ok
  | .lset h o => h.ok && o.lvl.toNat < 6
  | .lsetCvc h o => h.ok && !o.exm && o.rm.toNat < 6
  | .lLoop h o => h.okLoop && o.ok
  | .lEndl h lvl => h.okLoop && lvl.toNat < 6
  | .lRdv h => h.ok
  | .ptile h _ => h.ok
  | .pcommit h => h.ok
  | .psheet h o => h.ok && o.bop.ok
  | .pcorr h o => h.ok && o.ok
  | .pmm h o => h.ok && o.wop.ok && o.sop.ok
  | .pwgt h o => h.ok && o.bop.ok
  | .pshift h _ _ => h.ok
  | .pshiftRel h _ _ => h.ok
  | .pzero h zmask => h.ok && zmask != 0
  | .phsend h => h.ok
  | .phrecv h => h.ok
  | .pdrain h o => h.ok && o.bop.ok && o.zlo.toNat ≤ o.zhi.toNat
  | .pchk h zmask => h.ok && zmask != 0
  | .pfwd h o => h.ok && o.bop.ok && o.n != 0
  | .pfwdRx h o => h.ok && o.bop.ok && o.n != 0
  | .pmode h mode => h.ok && mode.toNat < 6
  | .pseg h _ _ => h.ok
  | .ploop h o => h.okLoop && o.lvl.toNat < 6 && (!o.csrc || o.count == 0)
  | .pendl h lvl => h.okLoop && lvl.toNat < 6
  | .pRdv h => h.ok
  | .vaddInt h o => h.ok && tyInt o.ty && o.ok 2 false
  | .vsubInt h o => h.ok && tyInt o.ty && o.ok 2 false
  | .vmulInt h o => h.ok && tyInt o.ty && o.ok 2 false
  | .vmulh h o => h.ok && tyInt o.ty && o.ok 2 false
  | .vmulhu h o => h.ok && tyInt o.ty && o.ok 2 false
  | .vadds h o => h.ok && tyInt o.ty && o.ok 2 false
  | .vsubs h o => h.ok && tyInt o.ty && o.ok 2 false
  | .vaddsu h o => h.ok && tyInt o.ty && o.ok 2 false
  | .vsubsu h o => h.ok && tyInt o.ty && o.ok 2 false
  | .vand h o => h.ok && tyInt o.ty && o.ok 2 false
  | .vor h o => h.ok && tyInt o.ty && o.ok 2 false
  | .vxor h o => h.ok && tyInt o.ty && o.ok 2 false
  | .vandn h o => h.ok && tyInt o.ty && o.ok 2 false
  | .vshl h o => h.ok && tyInt o.ty && o.ok 2 false
  | .vshr h o => h.ok && tyInt o.ty && o.ok 2 false
  | .vsar h o => h.ok && tyInt o.ty && o.ok 2 false
  | .vminInt h o => h.ok && tyInt o.ty && o.ok 2 false
  | .vmaxInt h o => h.ok && tyInt o.ty && o.ok 2 false
  | .vminu h o => h.ok && tyInt o.ty && o.ok 2 false
  | .vmaxu h o => h.ok && tyInt o.ty && o.ok 2 false
  | .vabsInt h o => h.ok && tyInt o.ty && o.ok 1 false
  | .vnegInt h o => h.ok && tyInt o.ty && o.ok 1 false
  | .vpopc h o => h.ok && tyInt o.ty && o.ok 1 false
  | .vclz h o => h.ok && tyInt o.ty && o.ok 1 false
  | .vaddFloat h o => h.ok && tyFloat o.ty && o.ok 2 true
  | .vsubFloat h o => h.ok && tyFloat o.ty && o.ok 2 true
  | .vmulFloat h o => h.ok && tyFloat o.ty && o.ok 2 true
  | .vdiv h o => h.ok && tyFloat o.ty && o.ok 2 true
  | .vsqrt h o => h.ok && tyFloat o.ty && o.ok 1 true
  | .vminFloat h o => h.ok && tyFloat o.ty && o.ok 2 false
  | .vmaxFloat h o => h.ok && tyFloat o.ty && o.ok 2 false
  | .vabsFloat h o => h.ok && tyFloat o.ty && o.ok 1 false
  | .vnegFloat h o => h.ok && tyFloat o.ty && o.ok 1 false
  | .vrint h o => h.ok && tyFloat o.ty && o.ok 1 true
  | .vfma h o => h.ok && tyFloat o.ty && o.ok 3 true
  | .vfms h o => h.ok && tyFloat o.ty && o.ok 3 true
  | .vfnma h o => h.ok && tyFloat o.ty && o.ok 3 true
  | .vmad h o => h.ok && tyInt o.ty && o.ok 3 false
  | .vdot h o => h.ok && (o.ty == 1 || o.ty == 2 || o.ty == 4 || o.ty == 5) && o.ok 3 (tyFloat o.ty)
  | .vcmpeq h o => h.ok && o.ok && o.o.ty.toNat < 6
  | .vcmpne h o => h.ok && o.ok && o.o.ty.toNat < 6
  | .vcmplt h o => h.ok && o.ok && o.o.ty.toNat < 6
  | .vcmple h o => h.ok && o.ok && o.o.ty.toNat < 6
  | .vcmpltu h o => h.ok && o.ok && tyInt o.o.ty
  | .vcmpleu h o => h.ok && o.ok && tyInt o.o.ty
  | .vcmpun h o => h.ok && o.ok && tyFloat o.o.ty
  | .vsel h o => h.ok && tyLane o.ty && o.ok 3 false && o.sc.toNat < 8
  | .vbsel h o => h.ok && tyLane o.ty && o.ok 3 false
  | .vcvt h o => h.ok && o.ok
  | .vcvtu h o => h.ok && o.ok
  | .vexp2 h o => h.ok && o.ty == 0 && o.ok 1 false
  | .vlog2 h o => h.ok && o.ty == 0 && o.ok 1 false
  | .vrcp h o => h.ok && o.ty == 0 && o.ok 1 false
  | .vrsq h o => h.ok && o.ty == 0 && o.ok 1 false
  | .vmov h o => h.ok && o.ty.toNat < 6 && o.ok 1 false
  | .vbcst h o => h.ok && o.ty.toNat < 6 && o.ok 1 false
  | .vperm h o => h.ok && tyLane o.ty && o.ok 2 false
  | .vrot h o => h.ok && tyLane o.ty && o.ok 2 false
  | .vxch h o => h.ok && tyLane o.ty && o.ok 2 false
  | .vidx h o => h.ok && tyInt o.ty && o.ok 0 false
  | .vli h o => h.ok && o.ok
  | .rsum h o => h.ok && o.ty.toNat < 6 && o.ok 1 false
  | .rmax h o => h.ok && o.ty.toNat < 6 && o.ok 1 false
  | .rmin h o => h.ok && o.ty.toNat < 6 && o.ok 1 false
  | .rndcV h o => h.ok && o.ty == 3 && o.ok 3 false
  | .mand h _ => h.ok
  | .mor h _ => h.ok
  | .mxor h _ => h.ok
  | .mandn h _ => h.ok
  | .mnot h o => h.ok && o.mb == 0
  | .mset h o => h.ok && o.ma == 0 && o.mb == 0
  | .mclr h o => h.ok && o.ma == 0 && o.mb == 0
  | .vmode h mode => h.ok && mode.toNat < 5
  | .vRdv h => h.ok
  | .vld h o => h.ok && o.ok
  | .vst h o => h.ok && o.ok
  | .vgath h o => h.ok && o.ok
  | .vscat h o => h.ok && o.ok
  | .part h o => h.ok && o.ok
  | .vatom h o => h.ok && o.ok
  | .redm h o => h.ok && o.ok
  | .redt h o => h.ok && o.ok
  | .vLoop h o => h.okLoop && o.ok
  | .vEndl h lvl => h.okLoop && lvl.toNat < 6
  | .vlset h o => h.ok && o.lvl.toNat < 6
  | .fstore h o => h.ok && o.bop.ok && okExm o.exm o.rm
  | .qstore h o => h.ok && o.bop.ok
  | .req h o => h.ok && o.bop.ok
  | .grain h o => h.ok && o.wmask != 0
  | .smode h mode => h.ok && mode.toNat < 6
  | .sscat h o => h.ok && o.bop.ok
  | .srel h _ => h.ok
  | .sLoop h o => h.okLoop && o.ok
  | .sEndl h lvl => h.okLoop && lvl.toNat < 6
  | .sRdv h => h.ok
  | .slset h o => h.ok && o.lvl.toNat < 6
  | .slsetCvc h o => h.ok && okExm o.exm o.rm
  | .ret => true
  | .rels => true
  | .wait => true
  | .eret => true
  | .rdv => true
  | .abandonLand => true
  | .syscComplete => true
  | .resultArrival => true
  | .storePerform => true
  | .givePush => true
  | .qdead => true
  | .backgroundSpill => true
  | .groupFill => true
  | .claimStallTimeout => true
  | .fillStallTimeout => true
  | .watchWake => true
  | .trapEntry => true
  | .feedBlockArrival => true
  | .haloBandArrival => true
  | .forwardRegionComplete => true
  | .forwardAck => true
  | .tilePreemptTimeout => true
  | .dispatchDecision => true
  | .launchAgeing => true
  | .preempt => true
  | .resume => true
  | .hitchKill => true
  | .atomicPerform => true
  | .redtCombine => true
  | .rdcFillRead => true
  | .evictionNotice => true
  | .invalidationAck => true
  | .hostMemRead => true
  | .hostMemWrite => true
  | .hostSnoop => true
  | .sramUncorrectableError => true
  | .memoryUncorrectableError => true
  | .dcExtentAdd => true
  | .dcExtentRelease => true
  | .channelPowerDown => true
  | .channelSelfRefresh => true
  | .hotRowThrottle => true
  | .hotRowThrottleEnd => true
  | .retnEnable => true
  | .retnDisable => true
  | .fwinWrite => true
  | .dcapWrite => true
  | .registerWrite => true
  | .powerCapControl => true
  | .telemetryRefresh => true
  | .fabricPacketAccept => true
  | .fabricAckReceive => true
  | .routerPacket => true
  | .routeVersionInstall => true
  | .replayTimeout => true
  | .moduleLost => true
  | .linkDeath => true
  | .linkStateRise => true
  | .linkRetrain => true
  | .fabidAssign => true
  | .claim => true
  | .ownerHandover => true
  | .ownerRelease => true
  | .ownerLinkDown => true
  | .go => true
  | .nonOwnerWriteDiscard => true
  | .attestationRequest => true
  | .attestationReportDone => true
  | .bootStageVerify => true
  | .coldReset => true
  | .warmReset => true
  | .reservedOpcodeWord => true
  | .instructionFetchFault => true
  | .planeStateStorageError => true
  | .forwardReceiptError => true
  | .tokenBucketGain => true

end Sys2Proof
end

