-- ==== Sys2Proof/Decode.lean ====
section
/-! DEFINITION. Decoding and encoding of the instruction words of the five streams: the raw reading of the
fields from the encoding tables of the spec, the encoder written from the same tables, and `decode`, which
rejects by name a word whose opcode or function is reserved, a word with a nonzero reserved bit, and a word
whose fields break a limit of the spec (R8, R30, R102, R241, R305, R330, R331, R367). -/

namespace Sys2Proof

/-- Why a word is no instruction. -/
inductive DecodeError where
  /-- fewer bytes than one word of the stream -/
  | short
  /-- a reserved opcode, function or scope, or an all-zero word (R20, R102, R241, R305, R330, R367) -/
  | reservedCode
  /-- a nonzero reserved field or bit (R8, R102) -/
  | reservedBits
  /-- a field outside its limits (R30, R102, and the field tables of the instruction chapters) -/
  | badField
  deriving DecidableEq, Repr

/-- A machine word together with the stream whose word length it has (R22). -/
inductive MWord where
  | c (w : W32)
  | l (w : W64)
  | p (w : W128)
  | v (w : W64)
  | s (w : W64)
  deriving DecidableEq, Repr

/-! ### Field helpers -/

/-- The scope of an R97 code, if the code is not reserved. -/
def Scope.ofCode (x : BitVec 4) : Option Scope :=
  match x.toNat with
  | 0 => some .st | 1 => some .bn | 2 => some .sp | 3 => some .di | 4 => some .mo | 5 => some .ho
  | 6 => some .ch | 7 => some .cl | 8 => some .sy | 9 => some .en | 10 => some .io | _ => none

/-- The R97 code of a scope. -/
def Scope.code : Scope → BitVec 4
  | .st => 0 | .bn => 1 | .sp => 2 | .di => 3 | .mo => 4 | .ho => 5
  | .ch => 6 | .cl => 7 | .sy => 8 | .en => 9 | .io => 10

/-- The operation of an FN value of R101 or R358, if it is not reserved. -/
def AtomOp.ofCode (x : BitVec 4) : Option AtomOp :=
  match x.toNat with
  | 0 => some .add | 1 => some .and | 2 => some .or | 3 => some .xor | 4 => some .min | 5 => some .max
  | 6 => some .minn | 7 => some .maxn | 8 => some .swap | 9 => some .fadd | 10 => some .cas | _ => none

/-- The FN value of an atomic operation (R101, R358). -/
def AtomOp.code : AtomOp → BitVec 4
  | .add => 0 | .and => 1 | .or => 2 | .xor => 3 | .min => 4 | .max => 5
  | .minn => 6 | .maxn => 7 | .swap => 8 | .fadd => 9 | .cas => 10

/-- One bit of a word as a Bool. -/
def flag {n : Nat} (w : BitVec n) (i : Nat) : Bool := w.getLsbD i

/-- A Bool as a one-bit field. -/
abbrev bit (b : Bool) : BitVec 1 := BitVec.ofBool b

/-- The common header of a word (R28). -/
def hdrOf {n : Nat} (w : BitVec n) : Hdr :=
  ⟨flag w 13, w.extractLsb' 10 3, flag w 9, flag w 8, w.extractLsb' 4 4, w.extractLsb' 0 4⟩

/-- The sixteen header bits, the reserved ones zero (R28). -/
def Hdr.enc (h : Hdr) : W16 :=
  0#2 ++ bit h.land ++ h.lvl ++ bit h.last ++ bit h.first ++ h.give ++ h.take

/-- The bank operand at bits [lo+23:lo] (R240). -/
def bopOf {n : Nat} (w : BitVec n) (lo : Nat) : Bop :=
  ⟨w.extractLsb' (lo + 21) 3, w.extractLsb' (lo + 17) 4, w.extractLsb' lo 17⟩

/-- The 24 bits of a bank operand (R240). -/
def Bop.enc (b : Bop) : BitVec 24 := b.sl ++ b.bank ++ b.off

/-! ### Raw reading of C words (R96 to R101, R104, R110, R116) -/

/-- The integer group, FN in [9:0] (R104, R105). -/
def rawInt (w : W32) : Option Instr :=
  let o : COp := ⟨w.extractLsb' 22 4, w.extractLsb' 17 5, w.extractLsb' 12 5, w.extractLsb' 10 2⟩
  match (w.extractLsb' 0 10).toNat with
  | 0 => some (.add o)
  | 1 => some (.sub o)
  | 2 => some (.mul o)
  | 3 => some (.mulh o)
  | 4 => some (.mulhu o)
  | 5 => some (.div o)
  | 6 => some (.divu o)
  | 7 => some (.rem o)
  | 8 => some (.remu o)
  | 9 => some (.and o)
  | 10 => some (.or o)
  | 11 => some (.xor o)
  | 12 => some (.andn o)
  | 13 => some (.shl o)
  | 14 => some (.shr o)
  | 15 => some (.sar o)
  | 16 => some (.ror o)
  | 17 => some (.cmpeq o)
  | 18 => some (.cmpne o)
  | 19 => some (.cmplt o)
  | 20 => some (.cmpltu o)
  | 21 => some (.cmple o)
  | 22 => some (.cmpleu o)
  | 23 => some (.min o)
  | 24 => some (.max o)
  | 25 => some (.minu o)
  | 26 => some (.maxu o)
  | 27 => some (.clz o)
  | 28 => some (.ctz o)
  | 29 => some (.popc o)
  | 30 => some (.sext32 o)
  | 31 => some (.adds o)
  | 32 => some (.subs o)
  | 33 => some (.zext32 o)
  | _ => none

/-- The F32 group, OP in [6:0] and RM in [9:7] (R110, R113). -/
def rawFlt (w : W32) : Option Instr :=
  let o : CFlt := ⟨w.extractLsb' 22 4, w.extractLsb' 17 5, w.extractLsb' 12 5, w.extractLsb' 10 2, w.extractLsb' 7 3⟩
  match (w.extractLsb' 0 7).toNat with
  | 0 => some (.fadd o)
  | 1 => some (.fsub o)
  | 2 => some (.fmul o)
  | 3 => some (.fdiv o)
  | 4 => some (.fsqrt o)
  | 5 => some (.fmin o)
  | 6 => some (.fmax o)
  | 7 => some (.fabs o)
  | 8 => some (.fneg o)
  | 9 => some (.fcmpeq o)
  | 10 => some (.fcmplt o)
  | 11 => some (.fcmple o)
  | 12 => some (.fcmpun o)
  | 13 => some (.fcvtI32 o)
  | 14 => some (.fcvtN32 o)
  | 15 => some (.fcvtI64 o)
  | 16 => some (.fcvtN64 o)
  | 17 => some (.icvtF32 o)
  | 18 => some (.ncvtF32 o)
  | 19 => some (.fclass o)
  | _ => none

/-- The three-source group (R116). -/
def rawTri (w : W32) : Option Instr :=
  let o : CTri := ⟨w.extractLsb' 22 4, w.extractLsb' 17 5, w.extractLsb' 12 5, w.extractLsb' 7 5, w.extractLsb' 5 2⟩
  match (w.extractLsb' 0 5).toNat with
  | 0 => some (.sel o)
  | 1 => some (.fma o)
  | 2 => some (.fms o)
  | 3 => some (.fnma o)
  | 4 => some (.rndc o)
  | 5 => some (.imad o)
  | _ => none

/-- The control group (R100). -/
def rawCtl (w : W32) : Option Instr :=
  let a := w.extractLsb' 17 5
  match (w.extractLsb' 8 4).toNat with
  | 0 => some (.calli a)
  | 1 => some (.jmpi a)
  | 2 => some (.ret)
  | 3 => some (.rels)
  | _ => none

/-- The synchronisation group (R100). -/
def rawSync (w : W32) : Option Instr :=
  let a := w.extractLsb' 17 5
  let n := w.extractLsb' 0 8
  match (w.extractLsb' 13 4).toNat with
  | 0 => (Scope.ofCode (w.extractLsb' 9 4)).map .fence
  | 1 => (Scope.ofCode (w.extractLsb' 9 4)).map (.arrv · n)
  | 2 => (Scope.ofCode (w.extractLsb' 9 4)).map (.bwait · n)
  | 3 => some (.bset a n)
  | 4 => some (.watch a)
  | 5 => some .wait
  | 6 => some (.send a (w.extractLsb' 0 2))
  | 7 => some (.recv (w.extractLsb' 22 4))
  | 8 => some (.give (w.extractLsb' 1 4))
  | 9 => some (.take (w.extractLsb' 1 4))
  | 10 => some (.abandon (w.extractLsb' 1 4))
  | 11 => some (.tjoin (w.extractLsb' 0 2))
  | _ => none

/-- The system group (R100). -/
def rawSys (w : W32) : Option Instr :=
  let d := w.extractLsb' 22 4
  let a := w.extractLsb' 17 5
  let n := w.extractLsb' 0 8
  match (w.extractLsb' 8 4).toNat with
  | 0 => some (.mfs d n)
  | 1 => some (.mts a n)
  | 2 => some (.trap n)
  | 3 => some (.sysc n)
  | 4 => some .eret
  | 5 => some (.tlbi a n)
  | 6 => some (.estat d n)
  | 7 => some (.launch d a)
  | 8 => some (.lwait a)
  | 9 => some (.clock d)
  | 10 => some .rdv
  | _ => none

/-- The fields of the Ld form. -/
def rawLd (w : W32) (k : CLd → Instr) : Option Instr :=
  (Scope.ofCode (w.extractLsb' 11 4)).map fun e =>
    k ⟨w.extractLsb' 22 4, w.extractLsb' 17 5, w.extractLsb' 15 2, e, flag w 10, w.extractLsb' 8 2, flag w 7,
      w.extractLsb' 0 7⟩

/-- The fields of the St form. -/
def rawSt (w : W32) (k : CSt → Instr) : Option Instr :=
  (Scope.ofCode (w.extractLsb' 12 4)).map fun e =>
    k ⟨w.extractLsb' 21 5, w.extractLsb' 16 5, e, flag w 11, w.extractLsb' 9 2, flag w 8, w.extractLsb' 0 8⟩

/-- The fields of the Atm form; ORD bit 0 is `.acq`, bit 1 `.rel`, and SIZE 2 and 3 are reserved (R96). -/
def rawAtm (w : W32) : Option Instr :=
  match AtomOp.ofCode (w.extractLsb' 8 4), Scope.ofCode (w.extractLsb' 4 4) with
  | some f, some e =>
    some (.atom ⟨w.extractLsb' 22 4, w.extractLsb' 17 5, w.extractLsb' 12 5, f, e, flag w 2, flag w 3, flag w 0⟩)
  | _, _ => none

/-- The fields of the Cas form. -/
def rawCas (w : W32) (k : CCas → Instr) : Option Instr :=
  (Scope.ofCode (w.extractLsb' 3 4)).map fun e =>
    k ⟨w.extractLsb' 22 4, w.extractLsb' 17 5, w.extractLsb' 12 5, w.extractLsb' 7 5, e, flag w 1, flag w 2, flag w 0⟩

/-- The fields of the Br form. -/
def brOf (w : W32) : CBr := ⟨w.extractLsb' 21 5, w.extractLsb' 16 5, flag w 15, w.extractLsb' 0 15⟩

/-- The fields of the Imm form. -/
def immOf (w : W32) : CImm := ⟨w.extractLsb' 22 4, w.extractLsb' 17 5, w.extractLsb' 15 2, w.extractLsb' 0 15⟩

/-- A C word by its major opcode (R98). -/
def rawC (w : W32) : Option Instr :=
  match (w.extractLsb' 26 6).toNat with
  | 0x01 => rawInt w
  | 0x02 => rawFlt w
  | 0x03 => rawTri w
  | 0x04 => some (.addi (immOf w))
  | 0x05 => some (.andi (immOf w))
  | 0x06 => some (.ori (immOf w))
  | 0x07 => some (.xori (immOf w))
  | 0x08 => some (.cmpeqi (immOf w))
  | 0x09 => some (.cmplti (immOf w))
  | 0x0A => some (.cmpltui (immOf w))
  | 0x0B => some (.shfi ⟨w.extractLsb' 22 4, w.extractLsb' 17 5, w.extractLsb' 15 2, w.extractLsb' 6 2, w.extractLsb' 0 6⟩)
  | 0x0C => some (.li ⟨w.extractLsb' 22 4, w.extractLsb' 20 2, w.extractLsb' 0 20⟩)
  | 0x10 => some (.beq (brOf w))
  | 0x11 => some (.bne (brOf w))
  | 0x12 => some (.blt (brOf w))
  | 0x13 => some (.bge (brOf w))
  | 0x14 => some (.bltu (brOf w))
  | 0x15 => some (.bgeu (brOf w))
  | 0x16 => some (.brf ⟨w.extractLsb' 23 3, flag w 15, w.extractLsb' 0 15⟩)
  | 0x18 => some (.call (w.extractLsb' 0 26))
  | 0x19 => some (.jmp (w.extractLsb' 0 26))
  | 0x1A => rawCtl w
  | 0x20 => rawLd w .ld
  | 0x21 => rawLd w .ldI32
  | 0x22 => rawLd w .ldN32
  | 0x23 => rawLd w .ldI16
  | 0x24 => rawLd w .ldN16
  | 0x25 => rawLd w .ldI8
  | 0x26 => rawLd w .ldN8
  | 0x27 => some (.ldc ⟨w.extractLsb' 22 4, w.extractLsb' 17 5, w.extractLsb' 15 2, w.extractLsb' 0 7⟩)
  | 0x28 => rawSt w .st
  | 0x29 => rawSt w .stI32
  | 0x2A => rawSt w .stI16
  | 0x2B => rawSt w .stI8
  | 0x2C => rawAtm w
  | 0x2D => rawCas w .cas
  | 0x2E => rawCas w .cas128
  | 0x30 => rawSync w
  | 0x3C => rawSys w
  | _ => none

/-! ### Raw reading of L words (R305 to R317) -/

/-- The fields of LOOP in L, V and S (R317). -/
def loopOf (w : W64) : LoopOp := ⟨w.extractLsb' 28 32, flag w 27, w.extractLsb' 24 3⟩

/-- The fields of a stride setter (R313, R361, R371). -/
def strideOf (w : W64) : StrideSet := ⟨w.extractLsb' 30 32, w.extractLsb' 27 2, w.extractLsb' 24 3⟩

/-- The fields of a conversion-control setter (R313, R371). -/
def cvcOf (w : W64) : Cvc := ⟨flag w 49, w.extractLsb' 46 3, w.extractLsb' 30 16⟩

/-- The fields of FGATH and SSCAT (R312, R373). -/
def idxMoveOf (w : W64) : IdxMove := ⟨w.extractLsb' 56 8, w.extractLsb' 52 4, w.extractLsb' 48 4, bopOf w 24⟩

/-- An L word by its opcode (R305). -/
def rawL (w : W64) : Option Instr :=
  let h := hdrOf w
  match (w.extractLsb' 16 8).toNat with
  | 0x01 => some (.fbind h ⟨w.extractLsb' 30 34, flag w 28, w.extractLsb' 24 4⟩)
  | 0x02 => some (.fload h ⟨w.extractLsb' 52 3, w.extractLsb' 48 4, bopOf w 24⟩)
  | 0x03 => some (.fgath h (idxMoveOf w))
  | 0x04 => some (.movb h ⟨w.extractLsb' 52 12, w.extractLsb' 48 4, bopOf w 24⟩)
  | 0x05 => some (.fpref h ⟨w.extractLsb' 34 2, w.extractLsb' 28 6, w.extractLsb' 24 4⟩)
  | 0x06 => some (.bfset h ⟨flag w 36, flag w 35, w.extractLsb' 32 3, w.extractLsb' 28 4, w.extractLsb' 24 4⟩)
  | 0x07 => if flag w 29 then some (.lsetCvc h (cvcOf w)) else some (.lset h (strideOf w))
  | 0x08 => some (.lLoop h (loopOf w))
  | 0x09 => some (.lEndl h (w.extractLsb' 24 3))
  | 0x0A => some (.lRdv h)
  | _ => none

/-! ### Raw reading of P words (R241 to R263) -/

/-- The fields of PFWD (R259). -/
def fwdOf (w : W128) : PFwdOp := ⟨w.extractLsb' 65 3, w.extractLsb' 48 17, bopOf w 24⟩

/-- A P word by its opcode (R241). -/
def rawP (w : W128) : Option Instr :=
  let h := hdrOf w
  match (w.extractLsb' 16 8).toNat with
  | 0x01 => some (.ptile h ⟨flag w 50, w.extractLsb' 24 26⟩)
  | 0x02 => some (.pcommit h)
  | 0x03 => some (.psheet h ⟨w.extractLsb' 53 16, flag w 52, w.extractLsb' 48 4, bopOf w 24⟩)
  | 0x04 => some (.pcorr h ⟨w.extractLsb' 74 6, w.extractLsb' 70 4, w.extractLsb' 66 4, w.extractLsb' 64 2,
      w.extractLsb' 62 2, w.extractLsb' 58 4, w.extractLsb' 54 4, flag w 53, flag w 52, w.extractLsb' 48 4, bopOf w 24⟩)
  | 0x05 => some (.pmm h ⟨w.extractLsb' 116 6, w.extractLsb' 100 16, w.extractLsb' 76 24, w.extractLsb' 72 4,
      bopOf w 48, bopOf w 24⟩)
  | 0x06 => some (.pwgt h ⟨w.extractLsb' 48 4, bopOf w 24⟩)
  | 0x07 => if flag w 32 then some (.pshiftRel h (w.extractLsb' 28 4) (w.extractLsb' 24 4))
      else some (.pshift h (w.extractLsb' 28 4) (w.extractLsb' 24 4))
  | 0x08 => some (.pzero h (w.extractLsb' 24 8))
  | 0x09 => some (.phsend h)
  | 0x0A => some (.phrecv h)
  | 0x0B => some (.pdrain h ⟨w.extractLsb' 56 6, flag w 55, flag w 54, w.extractLsb' 51 3, w.extractLsb' 48 3, bopOf w 24⟩)
  | 0x0C => some (.pchk h (w.extractLsb' 24 8))
  | 0x0D => if flag w 68 then some (.pfwdRx h (fwdOf w)) else some (.pfwd h (fwdOf w))
  | 0x0E => some (.pmode h (w.extractLsb' 24 3))
  | 0x0F => some (.pseg h (w.extractLsb' 24 24) (w.extractLsb' 48 32))
  | 0x10 => some (.ploop h ⟨w.extractLsb' 106 18, w.extractLsb' 88 18, w.extractLsb' 70 18, w.extractLsb' 52 18,
      w.extractLsb' 28 24, flag w 27, w.extractLsb' 24 3⟩)
  | 0x11 => some (.pendl h (w.extractLsb' 24 3))
  | 0x12 => some (.pRdv h)
  | _ => none

/-! ### Raw reading of V words (R326, R330 to R361) -/

/-- The compute form (R326). -/
def vopOf (w : W64) : VOp :=
  ⟨w.extractLsb' 59 5, w.extractLsb' 53 6, w.extractLsb' 47 6, w.extractLsb' 41 6, flag w 40, w.extractLsb' 37 3,
    w.extractLsb' 34 3, w.extractLsb' 31 3, flag w 30⟩

/-- The fields of a mask operation (R344). -/
def mopOf (w : W64) : MOp := ⟨w.extractLsb' 59 3, w.extractLsb' 53 3, w.extractLsb' 47 3, flag w 30⟩

/-- The fields of VLD and VST (R349). -/
def vmemOf (w : W64) : VMem :=
  ⟨w.extractLsb' 59 5, w.extractLsb' 56 3, w.extractLsb' 52 4, flag w 51, w.extractLsb' 48 3, bopOf w 24⟩

/-- The fields of VGATH and VSCAT (R352). -/
def vidxOf (w : W64) : VIdx := ⟨w.extractLsb' 59 5, w.extractLsb' 54 5, flag w 53, w.extractLsb' 50 3, bopOf w 24⟩

/-- The functions of V opcode 0x01. -/
def rawV1 (w : W64) : Option Instr :=
  match (w.extractLsb' 24 6).toNat with
  | 0 => some (.vaddInt (hdrOf w) (vopOf w))
  | 1 => some (.vsubInt (hdrOf w) (vopOf w))
  | 2 => some (.vmulInt (hdrOf w) (vopOf w))
  | 3 => some (.vmulh (hdrOf w) (vopOf w))
  | 4 => some (.vmulhu (hdrOf w) (vopOf w))
  | 5 => some (.vadds (hdrOf w) (vopOf w))
  | 6 => some (.vsubs (hdrOf w) (vopOf w))
  | 7 => some (.vaddsu (hdrOf w) (vopOf w))
  | 8 => some (.vsubsu (hdrOf w) (vopOf w))
  | 9 => some (.vand (hdrOf w) (vopOf w))
  | 10 => some (.vor (hdrOf w) (vopOf w))
  | 11 => some (.vxor (hdrOf w) (vopOf w))
  | 12 => some (.vandn (hdrOf w) (vopOf w))
  | 13 => some (.vshl (hdrOf w) (vopOf w))
  | 14 => some (.vshr (hdrOf w) (vopOf w))
  | 15 => some (.vsar (hdrOf w) (vopOf w))
  | 16 => some (.vminInt (hdrOf w) (vopOf w))
  | 17 => some (.vmaxInt (hdrOf w) (vopOf w))
  | 18 => some (.vminu (hdrOf w) (vopOf w))
  | 19 => some (.vmaxu (hdrOf w) (vopOf w))
  | 20 => some (.vabsInt (hdrOf w) (vopOf w))
  | 21 => some (.vnegInt (hdrOf w) (vopOf w))
  | 22 => some (.vpopc (hdrOf w) (vopOf w))
  | 23 => some (.vclz (hdrOf w) (vopOf w))
  | _ => none

/-- The functions of V opcode 0x02. -/
def rawV2 (w : W64) : Option Instr :=
  match (w.extractLsb' 24 6).toNat with
  | 0 => some (.vaddFloat (hdrOf w) (vopOf w))
  | 1 => some (.vsubFloat (hdrOf w) (vopOf w))
  | 2 => some (.vmulFloat (hdrOf w) (vopOf w))
  | 3 => some (.vdiv (hdrOf w) (vopOf w))
  | 4 => some (.vsqrt (hdrOf w) (vopOf w))
  | 5 => some (.vminFloat (hdrOf w) (vopOf w))
  | 6 => some (.vmaxFloat (hdrOf w) (vopOf w))
  | 7 => some (.vabsFloat (hdrOf w) (vopOf w))
  | 8 => some (.vnegFloat (hdrOf w) (vopOf w))
  | 9 => some (.vrint (hdrOf w) (vopOf w))
  | _ => none

/-- The functions of V opcode 0x03. -/
def rawV3 (w : W64) : Option Instr :=
  match (w.extractLsb' 24 6).toNat with
  | 0 => some (.vfma (hdrOf w) (vopOf w))
  | 1 => some (.vfms (hdrOf w) (vopOf w))
  | 2 => some (.vfnma (hdrOf w) (vopOf w))
  | 3 => some (.vmad (hdrOf w) (vopOf w))
  | 4 => some (.vdot (hdrOf w) (vopOf w))
  | _ => none

/-- The functions of V opcode 0x05. -/
def rawV5 (w : W64) : Option Instr :=
  match (w.extractLsb' 24 6).toNat with
  | 0 => some (.vsel (hdrOf w) (vopOf w))
  | 1 => some (.vbsel (hdrOf w) (vopOf w))
  | _ => none

/-- The functions of V opcode 0x07. -/
def rawV7 (w : W64) : Option Instr :=
  match (w.extractLsb' 24 6).toNat with
  | 0 => some (.vexp2 (hdrOf w) (vopOf w))
  | 1 => some (.vlog2 (hdrOf w) (vopOf w))
  | 2 => some (.vrcp (hdrOf w) (vopOf w))
  | 3 => some (.vrsq (hdrOf w) (vopOf w))
  | _ => none

/-- The functions of V opcode 0x08. -/
def rawV8 (w : W64) : Option Instr :=
  match (w.extractLsb' 24 6).toNat with
  | 0 => some (.vmov (hdrOf w) (vopOf w))
  | 1 => some (.vbcst (hdrOf w) (vopOf w))
  | 2 => some (.vperm (hdrOf w) (vopOf w))
  | 3 => some (.vrot (hdrOf w) (vopOf w))
  | 4 => some (.vxch (hdrOf w) (vopOf w))
  | 5 => some (.vidx (hdrOf w) (vopOf w))
  | _ => none

/-- The functions of V opcode 0x09. -/
def rawV9 (w : W64) : Option Instr :=
  match (w.extractLsb' 24 6).toNat with
  | 0 => some (.rsum (hdrOf w) (vopOf w))
  | 1 => some (.rmax (hdrOf w) (vopOf w))
  | 2 => some (.rmin (hdrOf w) (vopOf w))
  | _ => none

/-- The functions of V opcode 0x0A. -/
def rawV10 (w : W64) : Option Instr :=
  match (w.extractLsb' 24 6).toNat with
  | 0 => some (.rndcV (hdrOf w) (vopOf w))
  | _ => none

/-- The compares, V opcode 0x04 (R336). -/
def rawV4 (w : W64) : Option Instr :=
  let o : VCmp := ⟨w.extractLsb' 28 2, vopOf w⟩
  match (w.extractLsb' 24 4).toNat with
  | 0 => some (.vcmpeq (hdrOf w) o)
  | 1 => some (.vcmpne (hdrOf w) o)
  | 2 => some (.vcmplt (hdrOf w) o)
  | 3 => some (.vcmple (hdrOf w) o)
  | 4 => some (.vcmpltu (hdrOf w) o)
  | 5 => some (.vcmpleu (hdrOf w) o)
  | 6 => some (.vcmpun (hdrOf w) o)
  | _ => none

/-- The mask group, V opcode 0x0B (R344). -/
def rawV11 (w : W64) : Option Instr :=
  match (w.extractLsb' 24 6).toNat with
  | 0 => some (.mand (hdrOf w) (mopOf w))
  | 1 => some (.mor (hdrOf w) (mopOf w))
  | 2 => some (.mxor (hdrOf w) (mopOf w))
  | 3 => some (.mandn (hdrOf w) (mopOf w))
  | 4 => some (.mnot (hdrOf w) (mopOf w))
  | 5 => some (.mset (hdrOf w) (mopOf w))
  | 6 => some (.mclr (hdrOf w) (mopOf w))
  | _ => none

/-- The fields of VATOM, REDM and REDT (R356). -/
def rawVAtm (w : W64) : Option Instr :=
  match AtomOp.ofCode (w.extractLsb' 41 4), Scope.ofCode (w.extractLsb' 45 4) with
  | some f, some e =>
    some (.vatom (hdrOf w) ⟨w.extractLsb' 59 5, w.extractLsb' 54 5, w.extractLsb' 49 5, e, f, flag w 40,
      w.extractLsb' 37 3, w.extractLsb' 34 3, flag w 33, flag w 29⟩)
  | _, _ => none

/-- REDM (R356, R359). -/
def rawRedm (w : W64) : Option Instr :=
  match AtomOp.ofCode (w.extractLsb' 41 4), Scope.ofCode (w.extractLsb' 45 4) with
  | some f, some e => some (.redm (hdrOf w) ⟨w.extractLsb' 54 5, e, f, flag w 40, w.extractLsb' 37 3, flag w 33⟩)
  | _, _ => none

/-- REDT (R356, R360). -/
def rawRedt (w : W64) : Option Instr :=
  (Scope.ofCode (w.extractLsb' 45 4)).map fun e =>
    .redt (hdrOf w) ⟨w.extractLsb' 54 5, e, flag w 40, w.extractLsb' 37 3, flag w 33, w.extractLsb' 30 3⟩

/-- A V word by its opcode (R330). -/
def rawV (w : W64) : Option Instr :=
  let h := hdrOf w
  match (w.extractLsb' 16 8).toNat with
  | 0x01 => rawV1 w
  | 0x02 => rawV2 w
  | 0x03 => rawV3 w
  | 0x04 => rawV4 w
  | 0x05 => rawV5 w
  | 0x06 =>
    let o : VCvt := ⟨w.extractLsb' 27 2, w.extractLsb' 24 3, vopOf w⟩
    if flag w 29 then some (.vcvtu h o) else some (.vcvt h o)
  | 0x07 => rawV7 w
  | 0x08 => rawV8 w
  | 0x09 => rawV9 w
  | 0x0A => rawV10 w
  | 0x0B => rawV11 w
  | 0x0C => some (.vli h ⟨w.extractLsb' 59 5, w.extractLsb' 56 3, w.extractLsb' 24 32⟩)
  | 0x0D => some (.vmode h (w.extractLsb' 24 3))
  | 0x10 => some (.vld h (vmemOf w))
  | 0x11 => some (.vst h (vmemOf w))
  | 0x12 => some (.vgath h (vidxOf w))
  | 0x13 => some (.vscat h (vidxOf w))
  | 0x14 => some (.part h ⟨w.extractLsb' 53 3, flag w 52, w.extractLsb' 49 3, bopOf w 24⟩)
  | 0x15 => rawVAtm w
  | 0x16 => rawRedm w
  | 0x17 => rawRedt w
  | 0x18 => some (.vLoop h (loopOf w))
  | 0x19 => some (.vEndl h (w.extractLsb' 24 3))
  | 0x1A => some (.vlset h (strideOf w))
  | 0x1B => some (.vRdv h)
  | _ => none

/-! ### Raw reading of S words (R367 to R381) -/

/-- An S word by its opcode (R367). -/
def rawS (w : W64) : Option Instr :=
  let h := hdrOf w
  match (w.extractLsb' 16 8).toNat with
  | 0x01 => some (.fstore h ⟨flag w 55, w.extractLsb' 52 3, w.extractLsb' 48 4, bopOf w 24⟩)
  | 0x02 => some (.qstore h ⟨w.extractLsb' 61 3, w.extractLsb' 57 4, w.extractLsb' 49 8, bopOf w 24⟩)
  | 0x03 => some (.req h ⟨w.extractLsb' 61 3, w.extractLsb' 58 3, w.extractLsb' 54 4, bopOf w 24⟩)
  | 0x04 => some (.grain h ⟨w.extractLsb' 27 4, w.extractLsb' 24 3⟩)
  | 0x05 => some (.smode h (w.extractLsb' 24 3))
  | 0x06 => some (.sscat h (idxMoveOf w))
  | 0x07 => (Scope.ofCode (w.extractLsb' 24 4)).map (.srel h)
  | 0x08 => some (.sLoop h (loopOf w))
  | 0x09 => some (.sEndl h (w.extractLsb' 24 3))
  | 0x0A => some (.sRdv h)
  | 0x0B => if flag w 29 then some (.slsetCvc h (cvcOf w)) else some (.slset h (strideOf w))
  | _ => none

/-! ### The encoder -/

/-- Op form with major opcode and function (R96). -/
def COp.enc (op : BitVec 6) (fn : BitVec 10) (o : COp) : W32 := op ++ o.d ++ o.a ++ o.b ++ o.boost ++ fn
/-- Op form of the F32 group (R110). -/
def CFlt.enc (fn : BitVec 7) (o : CFlt) : W32 := 0x02#6 ++ o.d ++ o.a ++ o.b ++ o.boost ++ o.rm ++ fn
/-- Tri form (R96). -/
def CTri.enc (fn : BitVec 5) (o : CTri) : W32 := 0x03#6 ++ o.d ++ o.a ++ o.b ++ o.c ++ o.boost ++ fn
/-- Imm form (R96). -/
def CImm.enc (op : BitVec 6) (o : CImm) : W32 := op ++ o.d ++ o.a ++ o.boost ++ o.imm
/-- Br form (R96). -/
def CBr.enc (op : BitVec 6) (o : CBr) : W32 := op ++ o.a ++ o.b ++ bit o.h ++ o.off
/-- Ld form (R96). -/
def CLd.enc (op : BitVec 6) (o : CLd) : W32 :=
  op ++ o.d ++ o.a ++ o.boost ++ o.scope.code ++ bit o.acq ++ o.pri ++ bit o.last ++ o.off
/-- St form (R96). -/
def CSt.enc (op : BitVec 6) (o : CSt) : W32 :=
  op ++ o.a ++ o.b ++ o.scope.code ++ bit o.rel ++ o.pri ++ bit o.last ++ o.off
/-- Cas form (R96). -/
def CCas.enc (op : BitVec 6) (o : CCas) : W32 :=
  op ++ o.d ++ o.a ++ o.b ++ o.c ++ o.scope.code ++ bit o.rel ++ bit o.acq ++ bit o.wide
/-- Sync form: destination, source, function, scope, IMM8 (R96). -/
def encSync (d : BitVec 4) (a : BitVec 5) (fn e : BitVec 4) (n : Byte) : W32 :=
  0x30#6 ++ d ++ a ++ fn ++ e ++ 0#1 ++ n
/-- Grp form: destination, source A, function, IMM8; source B is used by no function (R96, R100). -/
def encGrp (op : BitVec 6) (d : BitVec 4) (a : BitVec 5) (fn : BitVec 4) (n : Byte) : W32 :=
  op ++ d ++ a ++ 0#5 ++ fn ++ n
/-- An L, V or S word from its operand bits [63:24], opcode and header. -/
def enc64 (x : BitVec 40) (op : Byte) (h : Hdr) : W64 := x ++ op ++ h.enc
/-- A P word from its operand bits [127:24], opcode and header. -/
def enc128 (x : BitVec 104) (op : Byte) (h : Hdr) : W128 := x ++ op ++ h.enc
/-- The operand bits of LOOP (R317). -/
def LoopOp.enc (o : LoopOp) : BitVec 40 := 0#4 ++ o.count ++ bit o.csrc ++ o.lvl
/-- The operand bits of a stride setter (R313, R361, R371). -/
def StrideSet.enc (o : StrideSet) : BitVec 40 := 0#2 ++ o.value ++ 0#1 ++ o.sel ++ o.lvl
/-- The operand bits of a conversion-control setter, SEL 4 and LVL 0 (R313, R371). -/
def Cvc.enc (o : Cvc) : BitVec 40 := 0#2 ++ 0#12 ++ bit o.exm ++ o.rm ++ o.nm1 ++ 4#3 ++ 0#3
/-- The operand bits of FGATH and SSCAT (R312, R373). -/
def IdxMove.enc (o : IdxMove) : BitVec 40 := o.ioff ++ o.ibank ++ o.feed ++ o.bop.enc
/-- The operand bits of PFWD (R259). -/
def PFwdOp.enc (rx : Bool) (o : PFwdOp) : BitVec 104 := 0#59 ++ bit rx ++ o.n ++ o.lenm1 ++ o.bop.enc
/-- The operand bits of PSHIFT (R253). -/
def encShift (rel : Bool) (sx sy : BitVec 4) : BitVec 104 := 0#95 ++ bit rel ++ sx ++ sy
/-- The operand bits of the V compute form (R326). -/
def VOp.enc (o : VOp) (fn : BitVec 6) : BitVec 40 :=
  o.vd ++ o.sa ++ o.sb ++ o.sc ++ bit o.me ++ o.mi ++ o.ty ++ o.rm ++ bit o.fo ++ fn
/-- The operand bits of a compare (R336). -/
def VCmp.enc (o : VCmp) (p : BitVec 4) : BitVec 40 := o.o.enc (o.kind ++ p)
/-- The operand bits of a conversion (R338). -/
def VCvt.enc (o : VCvt) (u : Bool) : BitVec 40 := o.o.enc (bit u ++ o.slc ++ o.sty)
/-- The operand bits of a mask operation (R344). -/
def MOp.enc (o : MOp) (fn : BitVec 6) : BitVec 40 :=
  0#2 ++ o.md ++ 0#3 ++ o.ma ++ 0#3 ++ o.mb ++ 0#16 ++ bit o.fo ++ fn
/-- The operand bits of VLD and VST (R349). -/
def VMem.enc (o : VMem) : BitVec 40 := o.vr ++ o.ty ++ o.sm1 ++ bit o.me ++ o.mi ++ o.bop.enc
/-- The operand bits of VGATH and VSCAT (R352). -/
def VIdx.enc (o : VIdx) : BitVec 40 := o.vr ++ o.vi ++ bit o.me ++ o.mi ++ 0#2 ++ o.bop.enc

/-- The word of an instruction of a stream; an event of another agent has none. -/
def encode : Instr → Option MWord
  | .add o => some (.c (o.enc 0x01#6 0#10))
  | .sub o => some (.c (o.enc 0x01#6 1#10))
  | .mul o => some (.c (o.enc 0x01#6 2#10))
  | .mulh o => some (.c (o.enc 0x01#6 3#10))
  | .mulhu o => some (.c (o.enc 0x01#6 4#10))
  | .div o => some (.c (o.enc 0x01#6 5#10))
  | .divu o => some (.c (o.enc 0x01#6 6#10))
  | .rem o => some (.c (o.enc 0x01#6 7#10))
  | .remu o => some (.c (o.enc 0x01#6 8#10))
  | .and o => some (.c (o.enc 0x01#6 9#10))
  | .or o => some (.c (o.enc 0x01#6 10#10))
  | .xor o => some (.c (o.enc 0x01#6 11#10))
  | .andn o => some (.c (o.enc 0x01#6 12#10))
  | .shl o => some (.c (o.enc 0x01#6 13#10))
  | .shr o => some (.c (o.enc 0x01#6 14#10))
  | .sar o => some (.c (o.enc 0x01#6 15#10))
  | .ror o => some (.c (o.enc 0x01#6 16#10))
  | .cmpeq o => some (.c (o.enc 0x01#6 17#10))
  | .cmpne o => some (.c (o.enc 0x01#6 18#10))
  | .cmplt o => some (.c (o.enc 0x01#6 19#10))
  | .cmpltu o => some (.c (o.enc 0x01#6 20#10))
  | .cmple o => some (.c (o.enc 0x01#6 21#10))
  | .cmpleu o => some (.c (o.enc 0x01#6 22#10))
  | .min o => some (.c (o.enc 0x01#6 23#10))
  | .max o => some (.c (o.enc 0x01#6 24#10))
  | .minu o => some (.c (o.enc 0x01#6 25#10))
  | .maxu o => some (.c (o.enc 0x01#6 26#10))
  | .clz o => some (.c (o.enc 0x01#6 27#10))
  | .ctz o => some (.c (o.enc 0x01#6 28#10))
  | .popc o => some (.c (o.enc 0x01#6 29#10))
  | .sext32 o => some (.c (o.enc 0x01#6 30#10))
  | .adds o => some (.c (o.enc 0x01#6 31#10))
  | .subs o => some (.c (o.enc 0x01#6 32#10))
  | .zext32 o => some (.c (o.enc 0x01#6 33#10))
  | .fadd o => some (.c (o.enc 0#7))
  | .fsub o => some (.c (o.enc 1#7))
  | .fmul o => some (.c (o.enc 2#7))
  | .fdiv o => some (.c (o.enc 3#7))
  | .fsqrt o => some (.c (o.enc 4#7))
  | .fmin o => some (.c (o.enc 5#7))
  | .fmax o => some (.c (o.enc 6#7))
  | .fabs o => some (.c (o.enc 7#7))
  | .fneg o => some (.c (o.enc 8#7))
  | .fcmpeq o => some (.c (o.enc 9#7))
  | .fcmplt o => some (.c (o.enc 10#7))
  | .fcmple o => some (.c (o.enc 11#7))
  | .fcmpun o => some (.c (o.enc 12#7))
  | .fcvtI32 o => some (.c (o.enc 13#7))
  | .fcvtN32 o => some (.c (o.enc 14#7))
  | .fcvtI64 o => some (.c (o.enc 15#7))
  | .fcvtN64 o => some (.c (o.enc 16#7))
  | .icvtF32 o => some (.c (o.enc 17#7))
  | .ncvtF32 o => some (.c (o.enc 18#7))
  | .fclass o => some (.c (o.enc 19#7))
  | .sel o => some (.c (o.enc 0#5))
  | .fma o => some (.c (o.enc 1#5))
  | .fms o => some (.c (o.enc 2#5))
  | .fnma o => some (.c (o.enc 3#5))
  | .rndc o => some (.c (o.enc 4#5))
  | .imad o => some (.c (o.enc 5#5))
  | .addi o => some (.c (o.enc 0x04#6))
  | .andi o => some (.c (o.enc 0x05#6))
  | .ori o => some (.c (o.enc 0x06#6))
  | .xori o => some (.c (o.enc 0x07#6))
  | .cmpeqi o => some (.c (o.enc 0x08#6))
  | .cmplti o => some (.c (o.enc 0x09#6))
  | .cmpltui o => some (.c (o.enc 0x0A#6))
  | .shfi o => some (.c (0x0B#6 ++ o.d ++ o.a ++ o.boost ++ 0#7 ++ o.kind ++ o.n))
  | .li o => some (.c (0x0C#6 ++ o.d ++ o.boost ++ o.imm))
  | .beq o => some (.c (o.enc 0x10#6))
  | .bne o => some (.c (o.enc 0x11#6))
  | .blt o => some (.c (o.enc 0x12#6))
  | .bge o => some (.c (o.enc 0x13#6))
  | .bltu o => some (.c (o.enc 0x14#6))
  | .bgeu o => some (.c (o.enc 0x15#6))
  | .brf o => some (.c (0x16#6 ++ o.cond ++ 0#7 ++ bit o.h ++ o.off))
  | .call off => some (.c (0x18#6 ++ off))
  | .jmp off => some (.c (0x19#6 ++ off))
  | .calli a => some (.c (encGrp 0x1A#6 0 a 0 0))
  | .jmpi a => some (.c (encGrp 0x1A#6 0 a 1 0))
  | .ld o => some (.c (o.enc 0x20#6))
  | .ldI32 o => some (.c (o.enc 0x21#6))
  | .ldN32 o => some (.c (o.enc 0x22#6))
  | .ldI16 o => some (.c (o.enc 0x23#6))
  | .ldN16 o => some (.c (o.enc 0x24#6))
  | .ldI8 o => some (.c (o.enc 0x25#6))
  | .ldN8 o => some (.c (o.enc 0x26#6))
  | .ldc o => some (.c (0x27#6 ++ o.d ++ o.a ++ o.boost ++ 0#8 ++ o.off))
  | .st o => some (.c (o.enc 0x28#6))
  | .stI32 o => some (.c (o.enc 0x29#6))
  | .stI16 o => some (.c (o.enc 0x2A#6))
  | .stI8 o => some (.c (o.enc 0x2B#6))
  | .atom o => some (.c (0x2C#6 ++ o.d ++ o.a ++ o.b ++ o.op.code ++ o.scope.code ++ bit o.rel ++ bit o.acq ++ 0#1 ++ bit o.wide))
  | .cas o => some (.c (o.enc 0x2D#6))
  | .cas128 o => some (.c (o.enc 0x2E#6))
  | .fence scope => some (.c (encSync 0 0 0 scope.code 0))
  | .arrv scope bar => some (.c (encSync 0 0 1 scope.code bar))
  | .bwait scope bar => some (.c (encSync 0 0 2 scope.code bar))
  | .bset a bar => some (.c (encSync 0 a 3 0 bar))
  | .watch a => some (.c (encSync 0 a 4 0 0))
  | .send a q => some (.c (encSync 0 a 6 0 (0#6 ++ q)))
  | .recv d => some (.c (encSync d 0 7 0 0))
  | .give mask => some (.c (encSync 0 0 8 0 (0#3 ++ mask ++ 0#1)))
  | .take mask => some (.c (encSync 0 0 9 0 (0#3 ++ mask ++ 0#1)))
  | .abandon mask => some (.c (encSync 0 0 10 0 (0#3 ++ mask ++ 0#1)))
  | .tjoin t => some (.c (encSync 0 0 11 0 (0#6 ++ t)))
  | .mfs d n => some (.c (encGrp 0x3C#6 d 0 0 n))
  | .mts a n => some (.c (encGrp 0x3C#6 0 a 1 n))
  | .trap n => some (.c (encGrp 0x3C#6 0 0 2 n))
  | .sysc n => some (.c (encGrp 0x3C#6 0 0 3 n))
  | .tlbi a kind => some (.c (encGrp 0x3C#6 0 a 5 kind))
  | .estat d n => some (.c (encGrp 0x3C#6 d 0 6 n))
  | .launch d a => some (.c (encGrp 0x3C#6 d a 7 0))
  | .lwait a => some (.c (encGrp 0x3C#6 0 a 8 0))
  | .clock d => some (.c (encGrp 0x3C#6 d 0 9 0))
  | .fbind h o => some (.l (enc64 (o.doff ++ 0#1 ++ bit o.dsrc ++ o.feed) 0x01 h))
  | .fload h o => some (.l (enc64 (0#9 ++ o.rm ++ o.feed ++ o.bop.enc) 0x02 h))
  | .fgath h o => some (.l (enc64 (o.enc) 0x03 h))
  | .movb h o => some (.l (enc64 (o.soff ++ o.sbank ++ o.bop.enc) 0x04 h))
  | .fpref h o => some (.l (enc64 (0#28 ++ o.pri ++ o.nm1 ++ o.feed) 0x05 h))
  | .bfset h o => some (.l (enc64 (0#27 ++ bit o.vlock ++ bit o.dith ++ o.frame ++ o.fmt ++ o.bank) 0x06 h))
  | .lset h o => some (.l (enc64 (o.enc) 0x07 h))
  | .lsetCvc h o => some (.l (enc64 (o.enc) 0x07 h))
  | .lLoop h o => some (.l (enc64 (o.enc) 0x08 h))
  | .lEndl h lvl => some (.l (enc64 (0#37 ++ lvl) 0x09 h))
  | .lRdv h => some (.l (enc64 (0#40) 0x0A h))
  | .ptile h o => some (.p (enc128 (0#77 ++ bit o.chk ++ o.geo) 0x01 h))
  | .pcommit h => some (.p (enc128 (0#104) 0x02 h))
  | .psheet h o => some (.p (enc128 (0#59 ++ o.rp ++ bit o.sh ++ o.fmt ++ o.bop.enc) 0x03 h))
  | .pcorr h o => some (.p (enc128 (0#48 ++ o.prof ++ o.rx ++ o.ry ++ o.dxm1 ++ o.dym1 ++ o.kwm1 ++ o.khm1 ++ bit o.wsrc ++ bit o.sh ++ o.fmt ++ o.bop.enc) 0x04 h))
  | .pmm h o => some (.p (enc128 (0#6 ++ o.prof ++ o.rp ++ o.km1 ++ o.fmt ++ o.wop.enc ++ o.sop.enc) 0x05 h))
  | .pwgt h o => some (.p (enc128 (0#76 ++ o.fmt ++ o.bop.enc) 0x06 h))
  | .pshift h sx sy => some (.p (enc128 (encShift false sx sy) 0x07 h))
  | .pshiftRel h sx sy => some (.p (enc128 (encShift true sx sy) 0x07 h))
  | .pzero h zmask => some (.p (enc128 (0#96 ++ zmask) 0x08 h))
  | .phsend h => some (.p (enc128 (0#104) 0x09 h))
  | .phrecv h => some (.p (enc128 (0#104) 0x0A h))
  | .pdrain h o => some (.p (enc128 (0#66 ++ o.prof ++ bit o.clr ++ bit o.lay ++ o.zhi ++ o.zlo ++ o.bop.enc) 0x0B h))
  | .pchk h zmask => some (.p (enc128 (0#96 ++ zmask) 0x0C h))
  | .pfwd h o => some (.p (enc128 (o.enc false) 0x0D h))
  | .pfwdRx h o => some (.p (enc128 (o.enc true) 0x0D h))
  | .pmode h mode => some (.p (enc128 (0#101 ++ mode) 0x0E h))
  | .pseg h steps sig => some (.p (enc128 (0#48 ++ sig ++ steps) 0x0F h))
  | .ploop h o => some (.p (enc128 (0#4 ++ o.sd ++ o.sc ++ o.sb ++ o.sa ++ o.count ++ bit o.csrc ++ o.lvl) 0x10 h))
  | .pendl h lvl => some (.p (enc128 (0#101 ++ lvl) 0x11 h))
  | .pRdv h => some (.p (enc128 (0#104) 0x12 h))
  | .vaddInt h o => some (.v (enc64 (o.enc 0#6) 0x01 h))
  | .vsubInt h o => some (.v (enc64 (o.enc 1#6) 0x01 h))
  | .vmulInt h o => some (.v (enc64 (o.enc 2#6) 0x01 h))
  | .vmulh h o => some (.v (enc64 (o.enc 3#6) 0x01 h))
  | .vmulhu h o => some (.v (enc64 (o.enc 4#6) 0x01 h))
  | .vadds h o => some (.v (enc64 (o.enc 5#6) 0x01 h))
  | .vsubs h o => some (.v (enc64 (o.enc 6#6) 0x01 h))
  | .vaddsu h o => some (.v (enc64 (o.enc 7#6) 0x01 h))
  | .vsubsu h o => some (.v (enc64 (o.enc 8#6) 0x01 h))
  | .vand h o => some (.v (enc64 (o.enc 9#6) 0x01 h))
  | .vor h o => some (.v (enc64 (o.enc 10#6) 0x01 h))
  | .vxor h o => some (.v (enc64 (o.enc 11#6) 0x01 h))
  | .vandn h o => some (.v (enc64 (o.enc 12#6) 0x01 h))
  | .vshl h o => some (.v (enc64 (o.enc 13#6) 0x01 h))
  | .vshr h o => some (.v (enc64 (o.enc 14#6) 0x01 h))
  | .vsar h o => some (.v (enc64 (o.enc 15#6) 0x01 h))
  | .vminInt h o => some (.v (enc64 (o.enc 16#6) 0x01 h))
  | .vmaxInt h o => some (.v (enc64 (o.enc 17#6) 0x01 h))
  | .vminu h o => some (.v (enc64 (o.enc 18#6) 0x01 h))
  | .vmaxu h o => some (.v (enc64 (o.enc 19#6) 0x01 h))
  | .vabsInt h o => some (.v (enc64 (o.enc 20#6) 0x01 h))
  | .vnegInt h o => some (.v (enc64 (o.enc 21#6) 0x01 h))
  | .vpopc h o => some (.v (enc64 (o.enc 22#6) 0x01 h))
  | .vclz h o => some (.v (enc64 (o.enc 23#6) 0x01 h))
  | .vaddFloat h o => some (.v (enc64 (o.enc 0#6) 0x02 h))
  | .vsubFloat h o => some (.v (enc64 (o.enc 1#6) 0x02 h))
  | .vmulFloat h o => some (.v (enc64 (o.enc 2#6) 0x02 h))
  | .vdiv h o => some (.v (enc64 (o.enc 3#6) 0x02 h))
  | .vsqrt h o => some (.v (enc64 (o.enc 4#6) 0x02 h))
  | .vminFloat h o => some (.v (enc64 (o.enc 5#6) 0x02 h))
  | .vmaxFloat h o => some (.v (enc64 (o.enc 6#6) 0x02 h))
  | .vabsFloat h o => some (.v (enc64 (o.enc 7#6) 0x02 h))
  | .vnegFloat h o => some (.v (enc64 (o.enc 8#6) 0x02 h))
  | .vrint h o => some (.v (enc64 (o.enc 9#6) 0x02 h))
  | .vfma h o => some (.v (enc64 (o.enc 0#6) 0x03 h))
  | .vfms h o => some (.v (enc64 (o.enc 1#6) 0x03 h))
  | .vfnma h o => some (.v (enc64 (o.enc 2#6) 0x03 h))
  | .vmad h o => some (.v (enc64 (o.enc 3#6) 0x03 h))
  | .vdot h o => some (.v (enc64 (o.enc 4#6) 0x03 h))
  | .vcmpeq h o => some (.v (enc64 (o.enc 0#4) 0x04 h))
  | .vcmpne h o => some (.v (enc64 (o.enc 1#4) 0x04 h))
  | .vcmplt h o => some (.v (enc64 (o.enc 2#4) 0x04 h))
  | .vcmple h o => some (.v (enc64 (o.enc 3#4) 0x04 h))
  | .vcmpltu h o => some (.v (enc64 (o.enc 4#4) 0x04 h))
  | .vcmpleu h o => some (.v (enc64 (o.enc 5#4) 0x04 h))
  | .vcmpun h o => some (.v (enc64 (o.enc 6#4) 0x04 h))
  | .vsel h o => some (.v (enc64 (o.enc 0#6) 0x05 h))
  | .vbsel h o => some (.v (enc64 (o.enc 1#6) 0x05 h))
  | .vcvt h o => some (.v (enc64 (o.enc false) 0x06 h))
  | .vcvtu h o => some (.v (enc64 (o.enc true) 0x06 h))
  | .vexp2 h o => some (.v (enc64 (o.enc 0#6) 0x07 h))
  | .vlog2 h o => some (.v (enc64 (o.enc 1#6) 0x07 h))
  | .vrcp h o => some (.v (enc64 (o.enc 2#6) 0x07 h))
  | .vrsq h o => some (.v (enc64 (o.enc 3#6) 0x07 h))
  | .vmov h o => some (.v (enc64 (o.enc 0#6) 0x08 h))
  | .vbcst h o => some (.v (enc64 (o.enc 1#6) 0x08 h))
  | .vperm h o => some (.v (enc64 (o.enc 2#6) 0x08 h))
  | .vrot h o => some (.v (enc64 (o.enc 3#6) 0x08 h))
  | .vxch h o => some (.v (enc64 (o.enc 4#6) 0x08 h))
  | .vidx h o => some (.v (enc64 (o.enc 5#6) 0x08 h))
  | .vli h o => some (.v (enc64 (o.vd ++ o.ty ++ o.imm) 0x0C h))
  | .rsum h o => some (.v (enc64 (o.enc 0#6) 0x09 h))
  | .rmax h o => some (.v (enc64 (o.enc 1#6) 0x09 h))
  | .rmin h o => some (.v (enc64 (o.enc 2#6) 0x09 h))
  | .rndcV h o => some (.v (enc64 (o.enc 0#6) 0x0A h))
  | .mand h o => some (.v (enc64 (o.enc 0#6) 0x0B h))
  | .mor h o => some (.v (enc64 (o.enc 1#6) 0x0B h))
  | .mxor h o => some (.v (enc64 (o.enc 2#6) 0x0B h))
  | .mandn h o => some (.v (enc64 (o.enc 3#6) 0x0B h))
  | .mnot h o => some (.v (enc64 (o.enc 4#6) 0x0B h))
  | .mset h o => some (.v (enc64 (o.enc 5#6) 0x0B h))
  | .mclr h o => some (.v (enc64 (o.enc 6#6) 0x0B h))
  | .vmode h mode => some (.v (enc64 (0#37 ++ mode) 0x0D h))
  | .vRdv h => some (.v (enc64 (0#40) 0x1B h))
  | .vld h o => some (.v (enc64 (o.enc) 0x10 h))
  | .vst h o => some (.v (enc64 (o.enc) 0x11 h))
  | .vgath h o => some (.v (enc64 (o.enc) 0x12 h))
  | .vscat h o => some (.v (enc64 (o.enc) 0x13 h))
  | .part h o => some (.v (enc64 (0#8 ++ o.ms ++ bit o.me ++ o.mi ++ 0#1 ++ o.bop.enc) 0x14 h))
  | .vatom h o => some (.v (enc64 (o.vd ++ o.va ++ o.vb ++ o.scope.code ++ o.op.code ++ bit o.me ++ o.mi ++ o.mf ++ bit o.rel ++ 0#3 ++ bit o.fo ++ 0#5) 0x15 h))
  | .redm h o => some (.v (enc64 (0#5 ++ o.va ++ 0#5 ++ o.scope.code ++ o.op.code ++ bit o.me ++ o.mi ++ 0#3 ++ bit o.rel ++ 0#9) 0x16 h))
  | .redt h o => some (.v (enc64 (0#5 ++ o.va ++ 0#5 ++ o.scope.code ++ 0#4 ++ bit o.me ++ o.mi ++ 0#3 ++ bit o.rel ++ o.lg ++ 0#6) 0x17 h))
  | .vLoop h o => some (.v (enc64 (o.enc) 0x18 h))
  | .vEndl h lvl => some (.v (enc64 (0#37 ++ lvl) 0x19 h))
  | .vlset h o => some (.v (enc64 (o.enc) 0x1A h))
  | .fstore h o => some (.s (enc64 (0#8 ++ bit o.exm ++ o.rm ++ o.feed ++ o.bop.enc) 0x01 h))
  | .qstore h o => some (.s (enc64 (o.frame ++ o.sbank ++ o.soff ++ 0#1 ++ o.bop.enc) 0x02 h))
  | .req h o => some (.s (enc64 (o.dframe ++ o.sframe ++ o.sbank ++ 0#6 ++ o.bop.enc) 0x03 h))
  | .grain h o => some (.s (enc64 (0#33 ++ o.wmask ++ o.frame) 0x04 h))
  | .smode h mode => some (.s (enc64 (0#37 ++ mode) 0x05 h))
  | .sscat h o => some (.s (enc64 (o.enc) 0x06 h))
  | .srel h scope => some (.s (enc64 (0#36 ++ scope.code) 0x07 h))
  | .sLoop h o => some (.s (enc64 (o.enc) 0x08 h))
  | .sEndl h lvl => some (.s (enc64 (0#37 ++ lvl) 0x09 h))
  | .sRdv h => some (.s (enc64 (0#40) 0x0A h))
  | .slset h o => some (.s (enc64 (o.enc) 0x0B h))
  | .slsetCvc h o => some (.s (enc64 (o.enc) 0x0B h))
  | .ret => some (.c (encGrp 0x1A#6 0 0 2 0))
  | .rels => some (.c (encGrp 0x1A#6 0 0 3 0))
  | .wait => some (.c (encSync 0 0 5 0 0))
  | .eret => some (.c (encGrp 0x3C#6 0 0 4 0))
  | .rdv => some (.c (encGrp 0x3C#6 0 0 10 0))
  | .abandonLand => none
  | .syscComplete => none
  | .resultArrival => none
  | .storePerform => none
  | .givePush => none
  | .qdead => none
  | .backgroundSpill => none
  | .groupFill => none
  | .claimStallTimeout => none
  | .fillStallTimeout => none
  | .watchWake => none
  | .trapEntry => none
  | .feedBlockArrival => none
  | .haloBandArrival => none
  | .forwardRegionComplete => none
  | .forwardAck => none
  | .tilePreemptTimeout => none
  | .dispatchDecision => none
  | .launchAgeing => none
  | .preempt => none
  | .resume => none
  | .hitchKill => none
  | .atomicPerform => none
  | .redtCombine => none
  | .rdcFillRead => none
  | .evictionNotice => none
  | .invalidationAck => none
  | .hostMemRead => none
  | .hostMemWrite => none
  | .hostSnoop => none
  | .sramUncorrectableError => none
  | .memoryUncorrectableError => none
  | .dcExtentAdd => none
  | .dcExtentRelease => none
  | .channelPowerDown => none
  | .channelSelfRefresh => none
  | .hotRowThrottle => none
  | .hotRowThrottleEnd => none
  | .retnEnable => none
  | .retnDisable => none
  | .fwinWrite => none
  | .dcapWrite => none
  | .registerWrite => none
  | .powerCapControl => none
  | .telemetryRefresh => none
  | .fabricPacketAccept => none
  | .fabricAckReceive => none
  | .routerPacket => none
  | .routeVersionInstall => none
  | .replayTimeout => none
  | .moduleLost => none
  | .linkDeath => none
  | .linkStateRise => none
  | .linkRetrain => none
  | .fabidAssign => none
  | .claim => none
  | .ownerHandover => none
  | .ownerRelease => none
  | .ownerLinkDown => none
  | .go => none
  | .nonOwnerWriteDiscard => none
  | .attestationRequest => none
  | .attestationReportDone => none
  | .bootStageVerify => none
  | .coldReset => none
  | .warmReset => none
  | .reservedOpcodeWord => none
  | .instructionFetchFault => none
  | .planeStateStorageError => none
  | .forwardReceiptError => none
  | .tokenBucketGain => none

/-! ### Decoding -/

/-- The raw reading of a word in its stream. -/
def MWord.raw : MWord → Option Instr
  | .c w => rawC w
  | .l w => rawL w
  | .p w => rawP w
  | .v w => rawV w
  | .s w => rawS w

/-- A word as an instruction, or the reason why it is none. -/
def decodeWord (w : MWord) : Except DecodeError Instr :=
  match w.raw with
  | none => .error .reservedCode
  | some i =>
    if encode i = some w then (if i.wellFormed then .ok i else .error .badField) else .error .reservedBits

/-- The number of bytes of one word of a stream (R22). -/
def Stream.wordBytes : Stream → Nat
  | .c => 4
  | .p => 16
  | .l | .v | .s => 8

/-- The number whose little-endian bytes are given (R11). -/
def leNat : List Byte → Nat
  | [] => 0
  | b :: bs => b.toNat + 256 * leNat bs

/-- The `n` little-endian bytes of a number (R11). -/
def leBytes : Nat → Nat → List Byte
  | 0, _ => []
  | n + 1, x => BitVec.ofNat 8 x :: leBytes n (x / 256)

/-- The word of a stream whose bits are given as a number. -/
def Stream.word : Stream → Nat → MWord
  | .c, x => .c (BitVec.ofNat 32 x)
  | .l, x => .l (BitVec.ofNat 64 x)
  | .p, x => .p (BitVec.ofNat 128 x)
  | .v, x => .v (BitVec.ofNat 64 x)
  | .s, x => .s (BitVec.ofNat 64 x)

/-- The bits of a word as a number. -/
def MWord.toNat : MWord → Nat
  | .c w => w.toNat
  | .l w => w.toNat
  | .p w => w.toNat
  | .v w => w.toNat
  | .s w => w.toNat

/-- The first instruction of a stream's bytes and the bytes after it: words are stored little-endian
(R239, R304, R326, R366; for C by R11). -/
def decode (st : Stream) (bs : List Byte) : Except DecodeError (Instr × List Byte) :=
  if bs.length < st.wordBytes then .error .short
  else (decodeWord (st.word (leNat (bs.take st.wordBytes)))).map fun i => (i, bs.drop st.wordBytes)

/-- The stream in which the host's numbered word of `nbits` bits is read: a 32-bit word is a C word and a
128-bit word a P word (R22); a 64-bit word is read in the first of L, V and S that takes it. -/
def tableStream (nbits w : Nat) : Stream :=
  if nbits ≤ 32 then .c
  else if nbits ≤ 64 then
    if (decodeWord (Stream.l.word w)).isOk then .l
    else if (decodeWord (Stream.v.word w)).isOk then .v else .s
  else .p

/-- The instruction the decoder reads from a word numbered as spec/opcode_table.json numbers it. -/
def decodeTableWord (nbits w : Nat) : Option Instr :=
  let st := tableStream nbits w
  match decode st (leBytes st.wordBytes w) with
  | .ok (i, _) => some i
  | .error _ => none

end Sys2Proof
end

