-- ==== Sys2Proof/Config.lean ====
section
/-! DEFINITION. What an implementation fixes, and the free values: values that the spec leaves open. A free value
is an opaque constant without a body, applied to the state's counter of free values (log entry 2). -/

namespace Sys2Proof

namespace Config

/-- Sets of a bench's L1: 128 KiB, 8 ways, lines of 128 B (R2). -/
def l1Sets : Nat := 128
/-- Ways of a bench's L1 (R2). -/
def l1Ways : Nat := 8
/-- Lines of a die's RDC: 48 MiB (R2, R299). -/
def rdcLines : Nat := 393216
/-- Lines of one of the 128 banks of a die's MSC: 256 MiB in all (R2, R300). -/
def mscBankLines : Nat := 16384
/-- Lines of a bench's constant cache: 16 KiB (R2), in lines of 128 B (R135). -/
def ccLines : Nat := 128
/-- Entries of a bench's TLB (R189). -/
def tlbEntries : Nat := 64
/-- Entries of a die's shared TLB (R189). -/
def dieTlbEntries : Nat := 4096

/-- The DRAM row of an address within its pseudo-channel: the spec names rows and gives no layout of them (R303, log entry
40). -/
opaque rowOf : Nat → Nat
/-- Free value: who moves when the list of turns is empty (R59, log entry 1). -/
opaque freeTurn : Nat → Turn
/-- Free value: an accumulator cell that comes into the ring when the extent changes (R218, log entry 12). -/
opaque freeCell : Nat → BitVec 48
/-- Free value: the bytes that the dispatcher writes into the save slot of a team, from the slot's start on: the spec gives neither
their order nor their number, which the slot bounds (R183, R396, log entry 21). -/
opaque saveImage : Nat → List Byte
/-- Free value: what a conversion stage has averaged over an interval of 2^16 clk; each number names a stage of a die, 4 the shared
input, and an interval (R456, log entry 53). -/
opaque freeStage : Nat → Stage
/-- Free value: the power of a die in W, averaged over an interval of 2^16 clk (R457, log entry 53). -/
opaque freePower : Nat → BitVec 10
/-- Free value: a sheet or weight value read as another kind than it was loaded as (R251, log entry 13): its bits
as an F32, or as a 16-bit integer. -/
opaque freeOperand : Nat → W32
end Config

end Sys2Proof
end

