-- ==== Sys2Proof/Machine/State.lean ====
section
/-! DEFINITION. The state of the machine, as plain data: one module of eight dies and 768 benches with its
dispatchers, home side, fabric port and host link, and the state right after a cold reset (R462). -/

namespace Sys2Proof.Machine

/-! ### Values and memory -/

/-- A decoded operand value, exact (R217): a NaN, an infinity, or (-1)^neg · m · 2^e, where m = 0 is a signed zero. -/
inductive Val where
  | nan
  | inf (neg : Bool)
  | fin (neg : Bool) (m : Nat) (e : Int)
  deriving DecidableEq, Repr

/-- Bytes by address, in one canonical form: addresses strictly rising, and no entry that equals what an unlisted
address reads as, 0 (R462; log entry 7 for scratchpad). -/
abbrev Mem := List Host.Cell

/-- The canonical form of a memory. -/
def Mem.wf : Mem → Bool
  | [] => true
  | [c] => c.2 != 0
  | c :: d :: m => c.2 != 0 && decide (c.1 < d.1) && Mem.wf (d :: m)

/-- A leaf translation: the fields of R186 that act after the walk. `va` is the first address it maps, `bits` the page
size as a power of two, `owner` the tenant whose table was walked. -/
structure Leaf where
  owner : BitVec 6
  va : Nat
  bits : Nat
  pa : Nat
  tenant : BitVec 6
  slidx : Nat
  slsz : Nat
  prep : Bool
  scope : Scope
  cache : BitVec 2
  x : Bool
  w : Bool
  r : Bool
  deriving DecidableEq, Repr

/-- A line of a bench's L1 (R68), most recently used first in the list that holds it (R291). -/
structure L1Line where
  line : Nat
  cls : Scope
  gen : BitVec 4
  data : LineData
  poison : BitVec 4
  keep : Bool
  deriving DecidableEq, Repr

/-- A line of a constant cache (R82) or of an RDC (R299), most recently used first. In a constant cache `keep` marks a line that
has been asked for in another module and has not come (R135). -/
structure CopyLine where
  line : Nat
  data : LineData
  poison : BitVec 4
  keep : Bool
  deriving DecidableEq, Repr

/-- The place of a line in an L2 slice and the marks of R291 and R300, most recently used first; its bytes are those
of `State.mem`. -/
structure L2Line where
  die : Nat
  line : Nat
  slice : Nat
  set : Nat
  way : Nat
  keep : Bool
  first : Bool
  hit : Bool
  deriving DecidableEq, Repr

/-- A line held by a die's MSC (R300), youngest first. -/
structure MscLine where
  die : Nat
  line : Nat
  deriving DecidableEq, Repr

/-- What main memory holds of a line that is dirty in L2 or the MSC: its bytes and poison at the last write-back
(R292, R300, R421). -/
structure Backing where
  line : Nat
  data : LineData
  poison : BitVec 4
  deriving DecidableEq, Repr

/-! ### C -/

/-- A result queue entry: its value, or the tag of the result that has not arrived (R85). -/
structure QEntry where
  val : W64
  tag : Option Nat
  deriving DecidableEq, Repr

/-- A deferred-fault record (R89, R121); `age` orders the boosted instructions of the context. -/
structure Deferred where
  code : Byte
  va : W64
  pc : W64
  word : W32
  age : Nat
  deriving DecidableEq, Repr

/-- A shadow register (R89). -/
structure ShadowReg where
  valid : Bool
  val : W64
  fault : Option Deferred
  deriving DecidableEq, Repr

/-- A shadow level: copies of k1 to k15 (entry 0 is not used) and the pending F32 flags (R89, R121). -/
structure Shadow where
  regs : Vector ShadowReg 16
  flags : BitVec 5
  deriving DecidableEq, Repr

/-- What a stream waits on; all before `claim` count toward QDEAD (R60), `claim` and `fill` toward SPILL (R168, R171);
`rdv`: C has issued its RDV (R165). `flag`: the flag queue
(R60, R354); `halo` and `fwd`: a PHSEND or PHRECV, and a PFWD, that waits on the span link (R255, R256, R259). -/
inductive WaitKind where
  | take | give | queue | flag | halo | fwd | claim | fill | rdv | other
  deriving DecidableEq, Repr

/-- A wait and the cycle when it began; `what` records the FIFO mask or queue waited on (R60). -/
structure Wait where
  kind : WaitKind
  since : Nat
  what : Nat
  /-- the entries, or the free places, that it needs -/
  need : Nat
  word : W128
  deriving DecidableEq, Repr

/-- How far the instruction at a context's PC has come, when it completes later than it begins: a request to
firmware (R162), an access that awaits a response, of the module that it names (R428, R435), or an atomic in the store buffer (R131,
R138), with the physical address, the page and the virtual address of the access, which it read when it issued; a BWAIT that waits for a generation (R149, R150), a LAUNCH whose record the
dispatcher has read and found room for (R182), or a RELS that has chosen its tail (R127). -/
inductive Phase where
  | idle
  | sysc (n : Byte) (answered : Bool)
  | remote (tag pa : Nat) (leaf : Leaf) (va : W64) (m : BitVec 14)
  | atomic (tag pa : Nat) (leaf : Leaf) (va : W64)
  | bwait (g : Nat)
  | launch
  | rels (t : Fin 4)
  deriving DecidableEq, Repr

/-- A context of the C unit (R83, R87, R89): `rq` is newest first, `spilled` counts its groups in the spill area
(R169), `watch` is the armed line and `wake` the wake-pending flag (R143, R144). -/
structure Ctx where
  live : Bool
  pc : W64
  rq : List QEntry
  w : BitVec 4
  depth : Nat
  spilled : Nat
  sh1 : Shadow
  sh2 : Shadow
  watch : Option Nat
  /-- the armed watch's registration in another module: the module and its tag there (R428) -/
  wtag : Option (BitVec 14 × Nat)
  wake : Bool
  wait : Option Wait
  phase : Phase
  deriving DecidableEq, Repr

/-- A physical group is free, held by a context's frame, or pinned by a live tail (R167). -/
inductive GState where
  | free
  | held (c : Fin 4)
  | pinned (c : Fin 4)
  deriving DecidableEq, Repr

/-- Where a result goes beside the queue: a physical register, a global register, or a shadow (R103). -/
inductive Dst where
  | phys (i : Fin 64)
  | glob (i : Fin 8)
  | shadow (ctx : Fin 4) (lvl : BitVec 2) (i : Fin 16)
  deriving DecidableEq, Repr

/-- The instruction that a value in flight comes from: its address, its word, and whether it is boosted (R121). -/
structure Origin where
  pc : W64
  word : W32
  boosted : Bool
  deriving DecidableEq, Repr

/-- What a context held of its own when an access issued that may still fault: its result queue, its shadow levels and the
registers k8 to k15 of its window; to them it returns if the access faults (R131). -/
structure Mark where
  rq : List QEntry
  sh1 : Shadow
  sh2 : Shadow
  regs : List W64
  deriving DecidableEq, Repr

/-- A load, or the half of an atomic's result, that has issued and whose value has not arrived (R63, R85): a load binds
anew when it arrives, or keeps `val`, what it read at issue; `away` says that another module answers it (R428); `atom` is the
tag of the atomic's entry in the store buffer, and whether this is its high half (R138, R141). -/
structure PendLoad where
  tag : Nat
  seq : Nat
  ctx : Fin 4
  dst : Option Dst
  size : Nat
  sext : Bool
  scope : Scope
  va : W64
  pa : Nat
  pri : BitVec 2
  last : Bool
  leaf : Leaf
  val : W64
  atom : Option (Nat × Bool)
  origin : Origin
  away : Bool
  mark : Mark
  deriving DecidableEq, Repr

/-- What a buffered store or atomic does at home (R136, R138, R141, R358, R359). -/
inductive StKind where
  | store
  | atomic (op : AtomOp) (b : W128) (expect : W128)
  | redt (lo : W64) (lg : BitVec 3) (val : W32)
  | release
  deriving DecidableEq, Repr

/-- An entry of the shared store buffer, of the S store queue, or of V's atomic in flight: `bytes` are the stored
bytes from `pa` on, with absent ones masked; `seq` is its place in the bench's issue order; `sent` is its SEQ in the
request flow once it has left for another module (R430); `own` are the streams whose releases cover it, its own first
(R73). -/
structure StEntry where
  seq : Nat
  ctx : Fin 4
  kind : StKind
  size : Nat
  va : W64
  pa : Nat
  bytes : List (Option Byte)
  scope : Scope
  acq : Bool
  rel : Bool
  pri : BitVec 2
  last : Bool
  device : Bool
  leaf : Leaf
  tag : Nat
  word : W128
  sent : Option (BitVec 14 × W32)
  own : List Nat
  deriving DecidableEq, Repr

/-- A VATOM, REDM or REDT of V that has issued and whose replies have not all returned (R357): the number of its lane 0, its lanes,
the active ones as a mask, its destination register and fault mask and whether it pushes a flag entry (VATOM alone), its address,
word and place. `keepV` and `keepM` are the lanes of its register and its mask that younger instructions have written since
(R332). -/
structure VFly where
  k : Nat
  lanes : List Nat
  active : Mask
  out : Option (BitVec 5 × BitVec 3 × Bool)
  va : W64
  word : W128
  pc : W64
  keepV : Mask
  keepM : Mask
  /-- the physical address and the page of each lane on a PREP page, whose poison is logged (R186, R422) -/
  preps : List (Nat × Nat × Leaf)
  deriving DecidableEq, Repr

/-- How C chooses among its contexts (R84): the context that issued last, the one before it, the cycle in which one issued, and
the contexts that were found stalled in a cycle. -/
structure Robin where
  last : Fin 4
  prev : Fin 4
  issuedAt : Option Nat
  tried : List (Fin 4)
  triedAt : Nat
  deriving DecidableEq, Repr

/-- The C unit of a bench (R83, R84, R87, R92). -/
structure CUnit where
  ctxs : Vector Ctx 4
  globals : Vector W64 8
  file : Vector W64 64
  link : Vector W64 16
  groups : Vector GState 16
  handler : Option (Fin 4)
  spill : W64
  mode : BitVec 3
  fflags : BitVec 5
  trap : W64
  cause : W64
  epc : W64
  tval : W64
  hscr : W64
  loads : List PendLoad
  sb : List StEntry
  /-- an event of R435 that enters the handler at the context's next boundary: context, code, address, word -/
  lost : List (Fin 4 × Byte × W64 × W32)
  rr : Robin
  /-- an event has waited for the handler that has ended: no context issues before it is taken (R179) -/
  owed : Bool
  deriving DecidableEq, Repr

/-! ### Engines -/

/-- A loop level (R41): count, iteration index, strides a to d, and the address after its LOOP word (R43). -/
structure Loop where
  active : Bool
  n : W32
  i : W32
  s : Vector W32 4
  body : W64
  deriving DecidableEq, Repr

/-- Bytes that a stream asks another module for, other than by a load: an instruction word, a group of the spill area, a launch
record, a process-group table or a piece of a feed's block (R169, R289, R400, R428, R463): their physical address and number, the tag of the request, and
the value and fault code of its response once it has arrived. With size 0 it marks that a process group's view has been written
at the address, in another module by the store whose SEQ the tag is (R401). -/
structure AskIn where
  st : Stream
  ctx : Fin 4
  pa : Nat
  size : Nat
  tag : Nat
  val : Option (Nat × Byte)
  leaf : Leaf
  deriving DecidableEq, Repr

/-- A held fault of L, P, V or S (R181): `eret` says that the handler's ERET clears it, `reported` that C has been
told; `other` is the second instruction of an OVERLAP (R56), `what` the FIFO mask or queue of a QDEAD (R60). -/
structure Held where
  code : Byte
  va : W64
  word : W128
  pc : W64
  eret : Bool
  reported : Bool
  other : Option (W128 × W64)
  what : Nat
  deriving DecidableEq, Repr

/-- Give tokens still to be pushed (R33): the mask, the stores that must reach their point first: every entry of the
store queue with a lower sequence number (R77, R370), the scope at which a stream that pops one of them acquires
(R77, R357), and the word and address of the instruction that gives (R60, R181). V's gives wait for its atomics with a lower
sequence number (R357), and `flags` says for how many of the oldest instructions that have still to push flag entries, the one that
gives the last of them (R332). -/
structure Give where
  mask : BitVec 4
  mark : Nat
  acq : Scope
  word : W128
  pc : W64
  flags : Nat
  deriving DecidableEq, Repr

/-- The flag-queue entries of an instruction of V, pushed together when it retires (R329, R354); `atom` is the number of a VATOM whose
replies have not returned, whose entry is not known yet (R358). The word and address of the instruction (R60), and what it has written
of V's registers and masks, as it was before: if it faults, it has written none (R331), but for what younger instructions have written
since. -/
structure FlagOut where
  atom : Option Nat
  es : List W64
  word : W128
  pc : W64
  regs : List (Nat × Mask × VReg)
  masks : List (Nat × Mask × Mask)
  deriving DecidableEq, Repr

/-- A byte range of a bank that an instruction in flight reads or writes (R55). Pseudo-bank 16 + n is feed register n
(R309). -/
structure Range where
  st : Stream
  bank : Nat
  lo : Nat
  hi : Nat
  write : Bool
  word : W128
  pc : W64
  deriving DecidableEq, Repr

/-- What an engine instruction captures when it issues (R52, R204, R210, R245, R268, R310): format registers, frames, loops, and for P
its mode and profile; `free` is the model's own: where its free
values begin. -/
structure PCap where
  bfmt : Vector W32 16
  frames : Vector (BitVec 256) 8
  mode : BitVec 3
  prof : BitVec 6
  loops : Vector Loop 6
  free : Nat
  deriving DecidableEq, Repr

/-- An engine stream (R22, R28 to R46): `taken` and `popped` belong to an instruction that issues again with its
tokens and entries already taken (R290, R318), `issued` says that the instruction at the PC has issued and waits to
complete, `step` how far it has come. -/
structure Eng where
  pc : W64
  rdv : Bool
  held : Option Held
  taken : Bool
  popped : List W64
  issued : Bool
  step : Nat
  gives : List Give
  loops : Vector Loop 6
  abandon : Bool
  wait : Option Wait
  /-- V's instructions that have still to push flag entries, in program order (R329) -/
  flags : List FlagOut
  /-- the word of the instruction at the PC that has issued and waits to complete, and what it captured when it issued -/
  cap : Option (W128 × PCap)
  deriving DecidableEq, Repr

/-- The conversion control of L or S (R313, R371). -/
structure Cvcs where
  exm : Bool
  rm : BitVec 3
  nm1 : W16
  deriving DecidableEq, Repr

/-- A block that a read feed has fetched ahead (R288): its memory bytes, packed, the index of its first element, its
element count, a fault recorded against it (R290), the stream that has raised a fault which ERET clears, and the walk after
it. -/
structure FBlock where
  bytes : List Byte
  seq0 : Nat
  n : Nat
  fault : Option (Byte × W64)
  raised : Option Stream
  nextIdx : List Nat
  /-- when its loads bound, in the bench's issue order, and the physical places that they read (R65) -/
  bound : Nat
  places : List (Nat × Nat)
  deriving DecidableEq, Repr

/-- The direction of a feed register (R287). -/
inductive FDir where
  | unbound | unused | rd | wr
  deriving DecidableEq, Repr

/-- A feed register (R287): the control word and the dimensions of its descriptor copy, base, the position as the next
element's indices and sequence number (an empty index list: the walk has ended), frame copy, current translation,
blocks fetched ahead. -/
structure Feed where
  dir : FDir
  ctl : W64
  dims : List (W32 × W32)
  base : W64
  idx : List Nat
  seq : Nat
  frame : BitVec 256
  trans : Option Leaf
  ahead : List FBlock
  deriving DecidableEq, Repr

/-! ### The plane -/

/-- The operand values of a sheet cell or a weight layer, with the kind and D of the load that wrote them; D = 0 is
the zero state of team start (R216, R222). -/
structure PCell where
  float : Bool
  d : Nat
  vals : List Val
  deriving DecidableEq, Repr

/-- The four checksum sets of a tile, entry 8 · (x + 4) + z for column (or row) x and layer z (R270), how many steps
and merges touched the layers since the PTILE, which layers saturated, the profiles used (R271), and the kind that
the sums were formed in, none until the first step or merge. -/
structure Checks where
  cc : Vector Val 192
  cr : Vector Val 192
  mc : Vector Val 192
  mr : Vector Val 192
  n : Nat
  sat : BitVec 8
  profs : BitVec 6
  float : Option Bool
  deriving DecidableEq, Repr

/-- An open segment (R261): expected steps and signature, steps seen, running CRC-32C. -/
structure Seg where
  steps : BitVec 24
  sig : W32
  seen : Nat
  crc : Nat
  deriving DecidableEq, Repr

/-- The plane registers that a replay restores (R245, R268): cell (y, x, z) of A is entry ((y + 4) · 24 + x + 4) · 8 + z,
sheet cell (y, x) is entry 16 · y + x. -/
structure PRegs where
  a : Vector (BitVec 48) 4608
  sh0 : Vector PCell 256
  sh1 : Vector PCell 256
  w : Vector PCell 8
  by_ : Int
  bx : Int
  checks : Option Checks
  seg : Option Seg
  deriving DecidableEq, Repr

/-- An instruction of the open tile in the replay window (R245, R268); `skips` are the words reached and skipped
before it (R261). -/
structure WinItem where
  instr : Instr
  word : W128
  pc : W64
  skips : List W128
  cap : PCap
  deriving DecidableEq, Repr

/-- A halo band in flight or in a receive buffer (R231 to R234): cells by layer, index 0 to 3 along the run axis, and
index across it. -/
structure Band where
  cells : List (Nat × Nat × Int × BitVec 48)
  deriving DecidableEq, Repr

/-- The plane engine of a bench (R216). -/
structure Plane where
  regs : PRegs
  pgeo : W32
  mode : BitVec 3
  prof : BitVec 6
  tile : Bool
  chk : Bool
  /-- the registers at the PTILE, to which a replay returns (R245) -/
  point : Option PRegs
  window : List WinItem
  /-- words skipped since the last instruction of the window -/
  skips : List W128
  /-- next window item to replay, while a replay runs (R268) -/
  replay : Option Nat
  /-- the tile has been replayed for a correctable event (R267) -/
  replayed : Bool
  gives : List (BitVec 4)
  /-- bands captured by PHSEND: for the low side and for the high side (R255) -/
  sendLo : Option Band
  sendHi : Option Band
  /-- reservations that this plane holds at its neighbours (R255) -/
  resvLo : Bool
  resvHi : Bool
  /-- receive buffers of the low and the high side, whether a neighbour holds a reservation, whether PHRECV has
  consumed the bands (R233, R256) -/
  rxLo : Option Band
  rxHi : Option Band
  rxLoResv : Bool
  rxHiResv : Bool
  rxUsed : Bool
  /-- the tile has executed a PHSEND (R256) -/
  sent : Bool
  /-- parity errors in the plane's state that have not been found yet, by place: 0 A, 1 sh0, 2 sh1, 3 W, 4 the receive buffers, 5
  the replay window (R267) -/
  error : BitVec 6
  /-- the aligned window of 16 clk in which the plane has stepped last, and its steps there (R458) -/
  stepWin : Nat
  stepUsed : Nat
  deriving DecidableEq, Repr

/-- A forward on the span link (R235, R259): sender, region, and the receivers with how far each has come:
0 in flight, 1 arrived, 2 written, 3 acknowledged, 4 its team is gone and it never acknowledges. -/
structure Forward where
  src : BenchId
  bank : BitVec 4
  off : Nat
  len : Nat
  bytes : List Byte
  rx : List (BenchId × Nat)
  deriving DecidableEq, Repr

/-! ### The bench -/

/-- The team on a bench (R23, R58, R92). -/
structure Team where
  seq : W64
  idx : Nat
  tenant : BitVec 6
  prio : BitVec 2
  period : BitVec 5
  checked : Bool
  save : Bool
  deriving DecidableEq, Repr

/-- A bench (R22 to R60, R68, R87, R207, R216, R287, R324, R371). -/
structure Bench where
  team : Option Team
  /-- the dispatcher has asked the team to stop, since this cycle (R182, R277) -/
  stopping : Option Nat
  c : CUnit
  l : Eng
  p : Eng
  v : Eng
  s : Eng
  /-- token FIFOs, giver-major in the order C, L, P, V, S without the stream itself (R31) -/
  tokens : Vector Nat 20
  queues : Vector (List W64) 4
  flagq : List W64
  bfmt : Vector W32 16
  frames : Vector (BitVec 256) 8
  feeds : Vector Feed 16
  banks : Vector Mem 16
  bankPoison : List (Nat × Nat)
  /-- bytes that instructions in flight have still to write: stream, bank, offset, byte (R36) -/
  landing : List (Stream × Nat × Nat × Byte)
  ranges : List Range
  lcvc : Cvcs
  scvc : Cvcs
  smode : BitVec 3
  vmode : BitVec 3
  vreg : Vector VReg 32
  vmask : Vector Mask 8
  sq : List StEntry
  vq : List StEntry
  /-- results of V's atomics in flight: the number of the lane, its old value or fault code, its fault bit (R358) -/
  vres : List (Nat × W32 × Bool)
  /-- V's atomics in flight, oldest first (R357) -/
  vfly : List VFly
  /-- the scope of V's atomic that is about to give, and the scopes of the tokens in V's FIFOs to C, L, P and S (R357) -/
  vscope : Option Scope
  vtok : Vector (List Scope) 4
  /-- stores and atomics sent to other modules and not yet covered by a PERF (R431), with the queue they left -/
  fab : List (Buf × StEntry)
  /-- stores of teams that have retired here: left on their way to their homes, or sent to other modules and not yet covered by a PERF,
  oldest first, with the queue they left (R27); `own` are streams of the present team whose releases cover them -/
  orphans : List (Buf × StEntry)
  /-- streams whose releases at .ch or wider must cover a store that was dropped with a lost module (R73, R435): 0 to 3 the
  contexts of C, 4 to 7 L, P, V and S -/
  fabLost : List Nat
  /-- for each stream, lines with a store that a release of the stream must cover and that had an open tracker (R72, R73) -/
  duty : Vector (List Nat) 8
  /-- for each stream, the number below which its plain stores have left the bench for their homes, where they have still to perform
  (R64, R72, R77) -/
  left : Vector Nat 8
  plane : Plane
  l1 : List L1Line
  ctr : Vector (BitVec 4) 7
  cc : List CopyLine
  tlb : List Leaf
  asks : List AskIn
  /-- issue order of loads, stores and atomics, and tags of results not yet arrived -/
  seq : Nat
  deriving DecidableEq, Repr

/-! ### The home side -/

/-- A directory entry that is not in mode none (R413, R414). -/
inductive DirMode where
  | limited (ptrs : List (BitVec 6))
  | coarse (groups : W16)
  deriving DecidableEq, Repr

/-- An open invalidation tracker (R415, R416): the agents sent to, those that have answered, and those whose later
acknowledgement is to be discarded. -/
structure Tracker where
  line : Nat
  die : Nat
  slice : Nat
  sent : List (BitVec 6)
  done : List (BitVec 6)
  skip : List (BitVec 6)
  deriving DecidableEq, Repr

/-- A registration of WATCH at home (R143, R144), oldest first; the watcher is a context of a bench of this module,
or, with `remote`, one of another module by its
identity and tag (R428). -/
structure Watch where
  line : Nat
  die : Nat
  slice : Nat
  bench : BenchId
  ctx : Fin 4
  remote : Option (BitVec 14 × Nat)
  deriving DecidableEq, Repr

/-- A waiting node of a combining slot (R411): the range [lo, lo + 2^lg), its value, and the die and slice that home the slot
(R412). -/
structure Node where
  slot : Nat
  lo : Nat
  lg : Nat
  val : W32
  home : Nat × Nat
  deriving DecidableEq, Repr

/-- A member of a barrier instance (R146 to R150): the team, and the generation it last arrived in. -/
structure BarMember where
  seq : W64
  idx : Nat
  gen : Option Nat
  deriving DecidableEq, Repr

/-- A barrier instance (R146): its owner is a hitch at .sp and .di and a tenant at .mo; `inst` is the span or die. -/
structure Barrier where
  seq : W64
  tenant : BitVec 6
  num : Byte
  scope : Scope
  inst : Nat
  count : Nat
  members : List BarMember
  gen : Nat
  arrivals : Nat
  broken : Bool
  deriving DecidableEq, Repr

/-- A dynamic-capacity extent (R423): `closing` while its home die releases it, `released` after a forced release. -/
structure Extent where
  base : Nat
  len : Nat
  die : Nat
  closing : Bool
  released : Bool
  deriving DecidableEq, Repr

/-- A pseudo-channel that is not Active, or its last access (R301): 0 Active, 1 power-down, 2 self-refresh. -/
structure Chan where
  die : Nat
  chan : Nat
  state : BitVec 2
  last : Nat
  deriving DecidableEq, Repr

/-- A token bucket of an L2 port (R302), in 1/1024 tokens, with the requests that wait for a token, and the cycle up to which its port
has gained. -/
structure Bucket where
  die : Nat
  slice : Nat
  tenant : BitVec 6
  tokens : Nat
  waiting : Nat
  till : Nat
  deriving DecidableEq, Repr

/-- An activation of a DRAM row by a tenant, and when it came (R303). -/
structure RowAct where
  die : Nat
  chan : Nat
  row : Nat
  tenant : BitVec 6
  at_ : Nat
  deriving DecidableEq, Repr

/-- A throttled row (R303). -/
structure HotRow where
  die : Nat
  chan : Nat
  row : Nat
  tenant : BitVec 6
  till : Nat
  deriving DecidableEq, Repr

/-! ### The dispatcher -/

/-- A launch record as accepted (R389, R390). -/
structure LRec where
  bases : Vector W64 5
  args : W64
  ctl : W64
  preds : List W64
  deriving DecidableEq, Repr

/-- A tenant's entry of the tenant table: its eight words (R402). -/
structure TenEntry where
  root : Nat
  trape : W64
  saveb : Nat
  slots : Nat
  rptb : Nat
  rptl : Nat
  depth : Nat
  rate : Nat
  deriving DecidableEq, Repr

/-- A store of a dispatcher that has still to perform, after the trackers of some lines have closed: the last of a report is
released at .ho (R405). -/
structure DStore where
  die : Nat
  tenant : BitVec 6
  pa : Nat
  bytes : List Byte
  after : List Nat
  deriving DecidableEq, Repr

/-- Where a launch stands: waiting in a run queue, its teams placed, being saved,
saved after pre-emption, or killed while its store buffers drain (R386, R387, R395, R404). -/
inductive HState where
  | queued
  | running
  | saving
  | saved
  | dying
  deriving DecidableEq, Repr

/-- A launch not yet retired (R386 to R398): its teams' benches, or none where a team has retired; the saved team
states of a pre-empted hitch, and the forwards of its saved PFWDs, which name teams by their index (R277); the save slots that
its teams took (R396); the benches it occupies (R398); the tenant's entry as the last acceptance, placement or resume read it (R402). `placedAt` orders the placements, `since` is when its wait began (R388). -/
structure Hitch where
  seq : W64
  die : Fin 8
  tenant : BitVec 6
  record : LRec
  prio : BitVec 2
  since : Nat
  placedAt : Nat
  state : HState
  place : List (Option BenchId)
  saved : List (Option Bench)
  fwds : List Forward
  area : List Nat
  ent : Option TenEntry
  shape : List BenchId
  why : KillCause
  deriving DecidableEq, Repr

/-- A retention register (R296): its words, and the physical lines it pins. -/
structure Retn where
  base : W64
  len : W64
  ways : W16
  en : Bool
  err : Bool
  tenant : BitVec 6
  first : Nat
  lines : Nat
  deriving DecidableEq, Repr

/-- The registers of a die's control page (R296, R402, R422, R456, R457), its shared TLB (R189) and dispatcher. -/
structure Die where
  ttbase : W64
  retn : Vector Retn 4
  ecnt : W64
  elog : Vector (W64 × W64) 64
  dcap : BitVec 10
  lim : BitVec 10
  duty : BitVec 5
  pwr : BitVec 10
  telem : Vector Stage 4
  tlb : List Leaf
  queues : Vector (List W64) 64
  launches : BitVec 48
  rr : Vector (BitVec 4) 4
  /-- launches that were chosen and wait for benches, the highest priority first (R387) -/
  waiting : List W64
  /-- the cycle of the last telemetry refresh (R456) -/
  telemAt : Nat
  rdc : List CopyLine
  deriving DecidableEq, Repr

/-! ### The fabric and the hosts -/

/-- A flow from this module (R430, R431): next SEQ, packets not yet acknowledged with the cycle they were sent,
ACC and PERF as last received. -/
structure OutFlow where
  dmod : BitVec 14
  ch : BitVec 2
  next : W32
  retry : List (Packet × Nat)
  acc : Option W32
  perf : Option W32
  deriving DecidableEq, Repr

/-- A flow into this module (R432): next SEQ expected, and stores of it that have not reached the .ho point. -/
structure InFlow where
  smod : BitVec 14
  ch : BitVec 2
  expect : W32
  pending : List (W32 × Nat)
  deriving DecidableEq, Repr

/-- A response that has arrived for a request of this module (R428, R435), with the poison of the sectors that it comes from
(R419). -/
structure Response where
  tag : Nat
  val : LineData
  code : Byte
  po : BitVec 4
  deriving DecidableEq, Repr

/-- A connector (R459). -/
structure Link where
  margin : Byte
  state : BitVec 2
  deriving DecidableEq, Repr

/-- The management mailbox (R439, R461). -/
structure Mailbox where
  owner : Option (BitVec 4)
  record : LineData
  ten : BitVec 6
  die : BitVec 3
  go : Bool
  res : W64
  nonce : BitVec 256
  attest : Bool
  report : List Byte
  /-- bytes of other modules that the submission asks for, and how many it has asked for (R400, R428) -/
  asks : List AskIn
  asked : Nat
  deriving DecidableEq, Repr

/-- The turn being executed: the stream, the instruction word and its address, what is left in flight, what an event brings
(log entry 1), and the banks of the stream's bench as the turn began (R36). -/
structure Cur where
  bench : BenchId
  stream : Stream
  ctx : Fin 4
  late : Bool
  word : W128
  pc : W64
  bring : Brought
  base : Vector Mem 16
  deriving DecidableEq, Repr

/-- The whole machine. -/
structure State where
  turns : List Turn
  free : Nat
  cur : Cur
  /-- the cycle count T (R399) -/
  clk : Nat
  benches : Vector Bench 768
  /-- the benches as they stood when the present cycle began: what ESTAT reads (R156) -/
  before : Vector Bench 768
  /-- launches that have retired in the present cycle (R398) -/
  ended : List W64
  dies : Vector Die 8
  mem : Mem
  poison : List Nat
  backing : List Backing
  l2 : List L2Line
  msc : List MscLine
  dir : List (Nat × DirMode)
  trackers : List Tracker
  watches : List Watch
  nodes : List Node
  /-- ranges received per combining slot: slot, lo, 2^lg (R411) -/
  covered : List (Nat × Nat × Nat)
  extents : List Extent
  hostRanges : List (Nat × Nat)
  hostHeld : List Nat
  chans : List Chan
  buckets : List Bucket
  rowActs : List RowAct
  hotRows : List HotRow
  forwards : List Forward
  /-- halo bands on the span links: receiver, side, band (R232) -/
  bands : List (BenchId × Bool × Band)
  barriers : List Barrier
  hitches : List Hitch
  /-- stores of the dispatchers that have still to perform, oldest first (R405) -/
  dstores : List DStore
  /-- launches killed or cancelled (R392) -/
  gone : List W64
  /-- releases narrower than .ch that have taken effect though a store that they cover was dropped with a lost module: the tenant,
  the bench, and the scope at which an acquire is ordered after them (R73, R435) -/
  spread : List (BitVec 6 × BenchId × Scope)
  fabid : BitVec 14
  fabidSet : Bool
  fver : W16
  /-- when the current route version was installed, if one has been (R433) -/
  verAt : Option Nat
  fwin : Vector W64 128
  links : Vector Link 48
  linksDead : List Nat
  outFlows : List OutFlow
  inFlows : List InFlow
  /-- requests of this module that await a response: tag and module (R428, R435) -/
  awaited : List (Nat × BitVec 14)
  responses : List Response
  /-- wakes for contexts of other modules that wait for room in the retry buffer: module and tag (R428, R431) -/
  wakesOut : List (BitVec 14 × Nat)
  /-- packets that the module's router has sent on (R433) -/
  egress : List Packet
  /-- what the module's router has logged: packets discarded for a reserved value, oldest first (R429) -/
  routerLog : List Packet
  noRoute : List (BitVec 14)
  mailbox : Mailbox
  agents : List (BitVec 6)
  bootErr : BitVec 4
  bootStage : BitVec 2
  /-- a reset that has killed every hitch and waits for their stores to perform: a cold one or a warm one (R404, R462) -/
  resetting : Option Bool
  deriving DecidableEq, Repr

/-! ### Outcomes -/

/-- Why the machine stops. Nothing in the model stops the machine: every fault of the spec is a next state. -/
inductive Fault where
  /-- a bench that the module does not have (R25): raised by nobody, because a turn names a bench by its type; safe -/
  | noSuchBench
  deriving DecidableEq, Repr

/-- Why the model gives an instruction no meaning. -/
inductive Refusal where
  /-- raised by `exec` for an instruction that the model does not cover yet, by its mnemonic; safe -/
  | notModelled (mnemonic : String)
  deriving DecidableEq, Repr

/-! ### Reset -/

/-- A shadow level that holds nothing (R89). -/
def Shadow.empty : Shadow := ⟨Vector.replicate 16 ⟨false, 0, none⟩, 0⟩

/-- A context at team start (R20, R95). -/
def Ctx.start : Ctx := ⟨false, 0, [], 0, 0, 0, .empty, .empty, none, none, false, none, .idle⟩

/-- The C unit of a bench without a team (R20, R87, R95; log entries 6 and 8). -/
def CUnit.start : CUnit :=
  ⟨Vector.replicate 4 .start, Vector.replicate 8 0, Vector.replicate 64 0, Vector.replicate 16 0,
    Vector.replicate 16 .free, none, 0, 0, 0, 0, 0, 0, 0, 0, [], [], [], ⟨3, 3, none, [], 0⟩, false⟩

/-- An inactive loop level with strides 0 (R41, R313, R324, R371). -/
def Loop.off : Loop := ⟨false, 0, 0, Vector.replicate 4 0, 0⟩

/-- An engine stream before its first fetch (R20). -/
def Eng.start : Eng := ⟨0, false, none, false, [], false, 0, [], Vector.replicate 6 .off, false, none, [], none⟩

/-- A conversion control at team start: count 1, mode RNE, EXM 0 (R313, R371). -/
def Cvcs.start : Cvcs := ⟨false, 0, 0⟩

/-- An unbound feed (R287). -/
def Feed.unbound : Feed := ⟨.unbound, 0, [], 0, [], 0, 0, none, []⟩

/-- Operand registers at team start: all zero (R216). -/
def PCell.zero : PCell := ⟨false, 0, []⟩

/-- The plane registers at team start (R216). -/
def PRegs.start : PRegs :=
  ⟨Vector.replicate 4608 0, Vector.replicate 256 .zero, Vector.replicate 256 .zero, Vector.replicate 8 .zero, 0, 0,
    none, none⟩

/-- The plane at team start (R216, R219). -/
def Plane.start : Plane :=
  ⟨.start, 0xFF, 0, 0, false, false, none, [], [], none, false, [], none, none, false, false, none, none, false, false,
    false, false, 0, 0, 0⟩

/-- A bench without a team (R20, R31, R49, R54, R58, R68, R207, R287, R324; log entries 6, 7 and 8). -/
def Bench.idle : Bench where
  team := none
  stopping := none
  c := .start
  l := .start
  p := .start
  v := .start
  s := .start
  tokens := Vector.replicate 20 0
  queues := Vector.replicate 4 []
  flagq := []
  bfmt := Vector.replicate 16 0
  frames := Vector.replicate 8 0
  feeds := Vector.replicate 16 .unbound
  banks := Vector.replicate 16 []
  bankPoison := []
  landing := []
  ranges := []
  lcvc := .start
  scvc := .start
  smode := 0
  vmode := 0
  vreg := Vector.replicate 32 0
  vmask := Vector.replicate 8 0
  sq := []
  vq := []
  vres := []
  vfly := []
  vscope := none
  vtok := Vector.replicate 4 []
  fab := []
  orphans := []
  fabLost := []
  duty := Vector.replicate 8 []
  left := Vector.replicate 8 0
  plane := .start
  l1 := []
  ctr := Vector.replicate 7 0
  cc := []
  tlb := []
  asks := []
  seq := 0

/-- A die after a cold reset: every register at the value of its layout (R296, R422, R456, R457, R462), no launch
accepted (R158); TTBASE and the round-robin positions by log entry 6. -/
def Die.start : Die where
  ttbase := 0
  retn := Vector.replicate 4 ⟨0, 0, 0, false, false, 0, 0, 0⟩
  ecnt := 0
  elog := Vector.replicate 64 (0, 0)
  dcap := 560
  lim := 560
  duty := 16
  pwr := 0
  telem := Vector.replicate 4 ⟨0, 0, 0⟩
  tlb := []
  queues := Vector.replicate 64 []
  launches := 0
  rr := Vector.replicate 4 0
  waiting := []
  telemAt := 0
  rdc := []

/-- The machine right after a cold reset (R462): memory zero with poison clear, caches, TLBs and trackers empty, no
hitch, the registers of the control pages at their reset values. Log entries 1 to 8 name the values that the spec
does not give. -/
def State.reset : State where
  turns := []
  free := 0
  cur := ⟨0, .c, 0, false, 0, 0, {}, Vector.replicate 16 []⟩
  clk := 0
  benches := Vector.replicate 768 .idle
  before := Vector.replicate 768 .idle
  ended := []
  dies := Vector.replicate 8 .start
  mem := []
  poison := []
  backing := []
  l2 := []
  msc := []
  dir := []
  trackers := []
  watches := []
  nodes := []
  covered := []
  extents := []
  hostRanges := []
  hostHeld := []
  chans := []
  buckets := []
  rowActs := []
  hotRows := []
  forwards := []
  bands := []
  barriers := []
  hitches := []
  dstores := []
  gone := []
  spread := []
  fabid := 0
  fabidSet := false
  fver := 0
  verAt := none
  fwin := Vector.replicate 128 0
  links := Vector.replicate 48 ⟨0, 0⟩
  linksDead := []
  outFlows := []
  inFlows := []
  awaited := []
  responses := []
  wakesOut := []
  egress := []
  routerLog := []
  noRoute := []
  mailbox := ⟨none, 0, 0, 0, false, 0, 0, false, [], [], 0⟩
  agents := []
  bootErr := 0
  bootStage := 0
  resetting := none

end Sys2Proof.Machine
end

