-- ==== Sys2Proof/Machine/Bits.lean ====
section
/-! DEFINITION. Byte memories, bit counts, byte lists and CRC-32C. -/

namespace Sys2Proof.Machine

/-! ### Byte memories -/

/-- The byte at an address; an unlisted address reads as 0 (R462). -/
def Mem.get : Mem → Nat → Byte
  | [], _ => 0
  | c :: m, a => if c.1 = a then c.2 else if a < c.1 then 0 else Mem.get m a

/-- Write one byte, keeping the canonical form. -/
def Mem.set : Mem → Nat → Byte → Mem
  | [], a, v => if v = 0 then [] else [(a, v)]
  | c :: m, a, v =>
    if c.1 = a then (if v = 0 then m else (a, v) :: m)
    else if a < c.1 then (if v = 0 then c :: m else (a, v) :: c :: m)
    else c :: Mem.set m a v

/-- The `n` bytes from an address on. -/
def Mem.read (m : Mem) : Nat → Nat → List Byte
  | _, 0 => []
  | a, n + 1 => Mem.get m a :: Mem.read m (a + 1) n

/-- Write the bytes that are present, from an address on (R71: a byte mask). -/
def Mem.write (m : Mem) : Nat → List (Option Byte) → Mem
  | _, [] => m
  | a, none :: bs => Mem.write m (a + 1) bs
  | a, some b :: bs => Mem.write (Mem.set m a b) (a + 1) bs

/-- Write every byte of a list. -/
def Mem.writeAll (m : Mem) (a : Nat) (bs : List Byte) : Mem := Mem.write m a (bs.map some)

/-- The number of the `n` little-endian bytes from an address on (R11). -/
def Mem.nat (m : Mem) (a n : Nat) : Nat := leNat (Mem.read m a n)

/-! ### Lists -/

/-- The first element that satisfies a test. -/
def firstWhere {α : Type} (p : α → Bool) : List α → Option α
  | [] => none
  | x :: xs => if p x then some x else firstWhere p xs

/-- Replace the first element that satisfies a test. -/
def replaceFirst {α : Type} (p : α → Bool) (f : α → α) : List α → List α
  | [] => []
  | x :: xs => if p x then f x :: xs else x :: replaceFirst p f xs

/-- The list 0, 1, …, n - 1. -/
def upTo : Nat → List Nat
  | 0 => []
  | n + 1 => upTo n ++ [n]

/-- The list a, a + 1, …, a + n - 1. -/
def span (a : Nat) : Nat → List Nat
  | 0 => []
  | n + 1 => a :: span (a + 1) n

/-- Whether an entry of a list is in another. -/
def anyIn {α : Type} [DecidableEq α] (xs ys : List α) : Bool := xs.any fun x => ys.contains x

/-- Pad a list with a value to a given length. -/
def padTo {α : Type} (n : Nat) (x : α) (xs : List α) : List α := xs ++ List.replicate (n - xs.length) x

/-- The sum of a list of numbers. -/
def sumNat : List Nat → Nat
  | [] => 0
  | x :: xs => x + sumNat xs

/-! ### Bits -/

/-- Sign-extend the low `n` bits of a number to an integer. -/
def signedNat (n x : Nat) : Int :=
  let y := x % 2 ^ n
  if y < 2 ^ (n - 1) then (y : Int) else (y : Int) - ((2 ^ n : Nat) : Int)

/-- The low `n` bits of an integer (two's complement). -/
def wrapInt (n : Nat) (x : Int) : Nat := (x % ((2 ^ n : Nat) : Int)).toNat

/-- An integer clamped to a range. -/
def clampInt (lo hi x : Int) : Int := if x < lo then lo else if hi < x then hi else x

/-- The number of set bits among the low `n` bits. -/
def popNat : Nat → Nat → Nat
  | 0, _ => 0
  | n + 1, x => x % 2 + popNat n (x / 2)

/-- The number of leading zero bits of an `n`-bit number (R105, R333). -/
def clzNat (n x : Nat) : Nat := if x = 0 then n else n - 1 - Nat.log2 x

/-- The number of trailing zero bits of an `n`-bit number (R105). -/
def ctzNat : Nat → Nat → Nat
  | 0, _ => 0
  | n + 1, x => if x % 2 = 1 then 0 else 1 + ctzNat n (x / 2)

/-- The set bit positions of a vector, increasing. -/
def bitsOf {n : Nat} (x : BitVec n) : List Nat := (upTo n).filter fun i => x.getLsbD i

/-- A bit vector with bits from a test. -/
def bitsFrom (n : Nat) (p : Nat → Bool) : BitVec n :=
  BitVec.ofNat n (sumNat ((upTo n).map fun i => if p i then 2 ^ i else 0))

/-- Byte `i` of a line (R2). -/
def lineByte (d : LineData) (i : Nat) : Byte := d.extractLsb' (8 * i) 8

/-- A line from its 128 bytes. -/
def lineOf (bs : List Byte) : LineData := BitVec.ofNat 1024 (leNat bs)

/-- The bytes of a line. -/
def lineBytes (d : LineData) : List Byte := leBytes 128 d.toNat

/-- The line data with bytes from offset `o` on replaced where present. -/
def linePatch (d : LineData) (o : Nat) (bs : List (Option Byte)) : LineData :=
  lineOf ((upTo 128).map fun i =>
    if o ≤ i then (match bs[i - o]? with | some (some b) => b | _ => lineByte d i) else lineByte d i)

/-- One bit of the reflected CRC-32C. -/
def crcBit (c : Nat) : Nat := if c % 2 = 1 then (c / 2) ^^^ 0x82F63B78 else c / 2

/-- CRC-32C over one byte (R261: Castagnoli polynomial, reflected). -/
def crcByte (c : Nat) (b : Byte) : Nat :=
  crcBit (crcBit (crcBit (crcBit (crcBit (crcBit (crcBit (crcBit (c ^^^ b.toNat))))))))

/-- The running CRC-32C, without initial value and final xor (R261). -/
def crcBytes (c : Nat) (bs : List Byte) : Nat := bs.foldl crcByte c

/-! ### Vectors -/

/-- Replace one entry of a vector, if the index is in range. -/
def vset {α : Type} {n : Nat} (v : Vector α n) (i : Nat) (x : α) : Vector α n :=
  if h : i < n then v.set i x h else v

/-- Change one entry of a vector, if the index is in range. -/
def vmod {α : Type} {n : Nat} (v : Vector α n) (i : Nat) (f : α → α) : Vector α n :=
  if h : i < n then v.set i (f v[i]) h else v

/-- An entry of a vector, or a default beyond its end. -/
def vget {α : Type} {n : Nat} (v : Vector α n) (i : Nat) (d : α) : α :=
  if h : i < n then v[i] else d

end Sys2Proof.Machine
end

