-- ==== Sys2Proof/Machine/Num.lean ====
section
/-! DEFINITION. Exact dyadic arithmetic, rounding (R202, R203), the floating-point formats (R194, R195), and the
correctly rounded functions (R339). -/

namespace Sys2Proof.Machine

/-! ### Rounding modes -/

/-- The rounding directions of R202; DN rounds as RNE (R203). -/
inductive RMode where
  | rne | rna | rtz | rup | rdn
  deriving DecidableEq, Repr

/-- The direction of an R202 code. -/
def rmodeOf (x : BitVec 3) : RMode :=
  match x.toNat with
  | 1 => .rna | 2 => .rtz | 3 => .rup | 4 => .rdn | _ => .rne

/-- The mode of a shifted RM field, 0 naming the mode register (R110, R202, R326). -/
def rmodeField (rm mode : BitVec 3) : RMode := if rm = 0 then rmodeOf mode else rmodeOf (rm - 1)

/-- m · 2^e rounded to a multiple of 2^q, counted in 2^q, and whether it changed. -/
def roundAt (md : RMode) (neg : Bool) (m : Nat) (e q : Int) : Nat × Bool :=
  if q ≤ e then (m * 2 ^ (e - q).toNat, false)
  else
    let k := (q - e).toNat
    let f := m / 2 ^ k
    let r := m % 2 ^ k
    if r = 0 then (f, false)
    else
      let up := match md with
        | .rne => decide (2 ^ k < 2 * r) || (2 * r == 2 ^ k && f % 2 == 1)
        | .rna => decide (2 ^ k ≤ 2 * r)
        | .rtz => false
        | .rup => !neg
        | .rdn => neg
      (if up then f + 1 else f, true)

/-- The exponent of the leading bit of m · 2^e, for m > 0. -/
def topExp (m : Nat) (e : Int) : Int := (Nat.log2 m : Int) + e

/-! ### Floating-point formats -/

/-- An IEEE-like format: exponent bits, mantissa bits. -/
structure FF where
  eb : Nat
  mb : Nat
  deriving DecidableEq, Repr

/-- The bias of a format. -/
def FF.bias (f : FF) : Int := ((2 ^ (f.eb - 1) - 1 : Nat) : Int)
/-- The exponent of the least normal number. -/
def FF.emin (f : FF) : Int := 1 - f.bias
/-- The magnitude bits of an infinity. -/
def FF.infBits (f : FF) : Nat := (2 ^ f.eb - 1) * 2 ^ f.mb
/-- The canonical quiet NaN (R194, R195). -/
def FF.nanBits (f : FF) : Nat := f.infBits + 2 ^ (f.mb - 1)
/-- The sign bit's weight. -/
def FF.signBit (f : FF) : Nat := 2 ^ (f.eb + f.mb)

/-- binary32, bfloat16, binary16 and F8E5 (R194, R195). -/
def ffF32 : FF := ⟨8, 23⟩
def ffB16 : FF := ⟨8, 7⟩
def ffF16 : FF := ⟨5, 10⟩
def ffE5 : FF := ⟨5, 2⟩

/-- The value of a code (R194). -/
def FF.decode (f : FF) (x : Nat) : Val :=
  let neg := x / f.signBit % 2 == 1
  let e := x / 2 ^ f.mb % 2 ^ f.eb
  let m := x % 2 ^ f.mb
  if e = 2 ^ f.eb - 1 then (if m = 0 then .inf neg else .nan)
  else if e = 0 then .fin neg m (f.emin - f.mb)
  else .fin neg (m + 2 ^ f.mb) ((e : Int) - 1 + f.emin - f.mb)

/-- A signalling NaN code. -/
def FF.isSnan (f : FF) (x : Nat) : Bool :=
  x / 2 ^ f.mb % 2 ^ f.eb == 2 ^ f.eb - 1 && x % 2 ^ f.mb != 0 && x / 2 ^ (f.mb - 1) % 2 == 0

/-- F32 exception flags: [4] invalid, [3] divide by zero, [2] overflow, [1] underflow, [0] inexact (R92). -/
abbrev FFlags := BitVec 5

/-- Overflow under a mode gives the infinity, or else the largest finite value (R203). -/
def overflowsToInf (md : RMode) (neg : Bool) : Bool :=
  match md with
  | .rne | .rna => true
  | .rtz => false
  | .rup => !neg
  | .rdn => neg

/-- Tininess of m · 2^e after rounding to the format's precision with an unbounded exponent (R111). -/
def FF.tiny (f : FF) (md : RMode) (neg : Bool) (m : Nat) (e : Int) : Bool :=
  let t := topExp m e
  if t < f.emin - 1 then true
  else if f.emin ≤ t then false
  else (roundAt md neg m e (t - f.mb)).1 < 2 ^ (f.mb + 1)

/-- A nonzero magnitude rounded into the format's grid, as magnitude bits that may run past the largest finite code,
and whether it changed. -/
def FF.grid (f : FF) (md : RMode) (neg : Bool) (m : Nat) (e : Int) : Nat × Bool :=
  let t := topExp m e
  let E := if t < f.emin then f.emin else t
  let (n, inx) := roundAt md neg m e (E - f.mb)
  ((E - f.emin).toNat * 2 ^ f.mb + n, inx)

/-- An exact value rounded once into the format, with the flags of the rounding (R111, R203). -/
def FF.round (f : FF) (md : RMode) : Val → Nat × FFlags
  | .nan => (f.nanBits, 0)
  | .inf neg => (f.infBits + (if neg then f.signBit else 0), 0)
  | .fin neg m e =>
    let s := if neg then f.signBit else 0
    if m = 0 then (s, 0)
    else
      let (b, inx) := f.grid md neg m e
      if f.infBits ≤ b then
        ((if overflowsToInf md neg then f.infBits else f.infBits - 1) + s, 0b00101)
      else (b + s, if inx then (if f.tiny md neg m e then 0b00011 else 0b00001) else 0)

/-- A finite value rounded to an integer, and whether it changed. -/
def roundInt (md : RMode) (neg : Bool) (m : Nat) (e : Int) : Int × Bool :=
  let (n, inx) := roundAt md neg m e 0
  (if neg then -(n : Int) else n, inx)

/-- round(x, mode, f32) as a word. -/
def roundF32 (md : RMode) (v : Val) : W32 := BitVec.ofNat 32 (ffF32.round md v).1
/-- An F32 word as a value. -/
def valF32 (w : W32) : Val := ffF32.decode w.toNat

/-! ### Exact arithmetic -/

/-- The negation of a value. -/
def Val.neg : Val → Val
  | .nan => .nan
  | .inf s => .inf (!s)
  | .fin s m e => .fin (!s) m e

/-- The magnitude of a value. -/
def Val.abs : Val → Val
  | .nan => .nan
  | .inf _ => .inf false
  | .fin _ m e => .fin false m e

def Val.isNan : Val → Bool
  | .nan => true
  | _ => false
def Val.isInf : Val → Bool
  | .inf _ => true
  | _ => false
def Val.isZero : Val → Bool
  | .fin _ 0 _ => true
  | _ => false
def Val.isNeg : Val → Bool
  | .nan => false
  | .inf s => s
  | .fin s _ _ => s

/-- The value +0. -/
def Val.zero : Val := .fin false 0 0

/-- An integer as a value. -/
def Val.ofInt (x : Int) : Val := .fin (decide (x < 0)) x.natAbs 0

/-- The exact product; 0 · ∞ is a NaN (R112). -/
def Val.mul : Val → Val → Val
  | .nan, _ => .nan
  | _, .nan => .nan
  | .inf s, .inf t => .inf (s != t)
  | .inf s, .fin t m _ => if m = 0 then .nan else .inf (s != t)
  | .fin s m _, .inf t => if m = 0 then .nan else .inf (s != t)
  | .fin s m e, .fin t n f => .fin (s != t) (m * n) (e + f)

/-- A dyadic m · 2^e scaled to units of 2^q, for q ≤ e. -/
def scaleTo (q : Int) (neg : Bool) (m : Nat) (e : Int) : Int :=
  let x : Int := (m * 2 ^ (e - q).toNat : Nat)
  if neg then -x else x

/-- The least exponent of the finite nonzero terms, or the given one. -/
def minExp : List Val → Int → Int
  | [], q => q
  | .fin _ 0 _ :: l, q => minExp l q
  | .fin _ _ e :: l, q => minExp l (if e < q then e else q)
  | _ :: l, q => minExp l q

/-- The sum of the finite terms in units of 2^q, for q no greater than any exponent. -/
def sumAt (q : Int) : List Val → Int
  | [] => 0
  | .fin _ 0 _ :: l => sumAt q l
  | .fin s m e :: l => scaleTo q s m e + sumAt q l
  | _ :: l => sumAt q l

/-- An exponent that no finite term lies above, to start the search for the least. -/
def someExp : List Val → Int
  | [] => 0
  | .fin _ 0 _ :: l => someExp l
  | .fin _ _ e :: _ => e
  | _ :: l => someExp l

/-- The exact sum of terms: NaN for a NaN or infinities of both signs; otherwise an infinity if one is there. An
exact zero takes the sign of IEEE 754 under the mode (R238). -/
def sumVals (md : RMode) (l : List Val) : Val :=
  if l.any Val.isNan then .nan
  else
    let pi := l.any fun v => v.isInf && !v.isNeg
    let ni := l.any fun v => v.isInf && v.isNeg
    if pi && ni then .nan
    else if pi then .inf false
    else if ni then .inf true
    else
      let q := minExp l (someExp l)
      let t := sumAt q l
      if t = 0 then
        (if l.all (fun v => v.isZero) then
          (if l.all Val.isNeg && !l.isEmpty then .fin true 0 0
           else if l.all (fun v => !v.isNeg) then .fin false 0 0 else .fin (md == .rdn) 0 0)
         else .fin (md == .rdn) 0 0)
      else .fin (decide (t < 0)) t.natAbs q

/-- An exact sum of two values. -/
def Val.add (md : RMode) (a b : Val) : Val := sumVals md [a, b]

/-- Whether a is less than b, both finite or infinite. -/
def Val.lt (a b : Val) : Bool :=
  match a, b with
  | .nan, _ => false
  | _, .nan => false
  | .inf s, .inf t => s && !t
  | .inf s, .fin _ _ _ => s
  | .fin _ _ _, .inf t => !t
  | .fin s m e, .fin t n f =>
    let q := minExp [.fin s m e, .fin t n f] (someExp [.fin s m e, .fin t n f])
    decide (sumAt q [.fin s m e] < sumAt q [.fin t n f])

/-- Whether two values are equal as numbers. -/
def Val.eqv (a b : Val) : Bool := !a.isNan && !b.isNan && !a.lt b && !b.lt a

/-! ### Quotients, roots and the functions of R339 -/

/-- Floor of the square root by Newton steps from above. -/
def isqrtGo : Nat → Nat → Nat → Nat
  | 0, _, x => x
  | k + 1, n, x => let y := (x + n / x) / 2; if x ≤ y then x else isqrtGo k n y

/-- Floor of the square root. -/
def isqrt (n : Nat) : Nat := if n = 0 then 0 else isqrtGo 600 n (2 ^ (Nat.log2 n / 2 + 1))

/-- The quotient of two nonzero magnitudes, with 64 or more leading bits and a sticky last bit. -/
def divSticky (m : Nat) (e : Int) (n : Nat) (f : Int) : Nat × Int :=
  let k := 64 + Nat.log2 n
  let a := m * 2 ^ k
  (2 * (a / n) + (if a % n = 0 then 0 else 1), e - f - k - 1)

/-- The root of a nonzero magnitude, with 64 or more leading bits and a sticky last bit. -/
def sqrtSticky (m : Nat) (e : Int) : Nat × Int :=
  let (m, e) := if e % 2 = 0 then (m, e) else (2 * m, e - 1)
  let a := m * 2 ^ 128
  let r := isqrt a
  (2 * r + (if r * r = a then 0 else 1), e / 2 - 64 - 1)

/-- a / b as an exact or sticky value (R113). -/
def Val.div : Val → Val → Val
  | .nan, _ => .nan
  | _, .nan => .nan
  | .inf _, .inf _ => .nan
  | .inf s, .fin t _ _ => .inf (s != t)
  | .fin s _ _, .inf t => .fin (s != t) 0 0
  | .fin s m e, .fin t n f =>
    if n = 0 then (if m = 0 then .nan else .inf (s != t))
    else if m = 0 then .fin (s != t) 0 0
    else let (q, g) := divSticky m e n f; .fin (s != t) q g

/-- √a as an exact or sticky value (R113). -/
def Val.sqrt : Val → Val
  | .nan => .nan
  | .inf s => if s then .nan else .inf false
  | .fin s m e =>
    if m = 0 then .fin s 0 0 else if s then .nan
    else let (q, g) := sqrtSticky m e; .fin false q g

/-- 2^f for a fraction f given by its `k` high bits to come, in fixed point with 160 fraction bits: `c` runs through
the repeated roots of 2. -/
def exp2Frac : Nat → Nat → Nat → Nat → Nat
  | 0, _, _, r => r
  | k + 1, f, c, r =>
    let c := isqrt (c * 2 ^ 160)
    exp2Frac k (f % 2 ^ k) c (if 2 ^ k ≤ f then r * c / 2 ^ 160 else r)

/-- 2^a as an exact or sticky value (R339). An |a| below 2^-26 gives a value that rounds to 1 under RNE. -/
def Val.exp2 : Val → Val
  | .nan => .nan
  | .inf s => if s then .fin false 0 0 else .inf false
  | .fin s m e =>
    if m = 0 || topExp m e < -26 then .fin false 1 0
    else if 8 ≤ topExp m e then (if s then .fin false 1 (-1000) else .fin false 1 1000)
    else
      let x := if 0 ≤ e + 60 then scaleTo (-60) s m e else 0
      let n := x / (2 ^ 60 : Nat)
      let f := (x % (2 ^ 60 : Nat)).toNat
      if f = 0 then .fin false 1 n
      else .fin false (2 * exp2Frac 60 f (2 ^ 161) (2 ^ 160) + 1) (n - 161)

/-- Binary digits of log2 y for y in [1, 2), in fixed point with 256 fraction bits, by squaring. -/
def log2Digits : Nat → Nat → Nat → Nat
  | 0, _, d => d
  | k + 1, y, d =>
    let z := y * y / 2 ^ 256
    if 2 ^ 257 ≤ z then log2Digits k (z / 2) (2 * d + 1) else log2Digits k z (2 * d)

/-- log2 a as an exact or sticky value (R339). -/
def Val.log2 : Val → Val
  | .nan => .nan
  | .inf s => if s then .nan else .inf false
  | .fin s m e =>
    if m = 0 then .inf true else if s then .nan
    else
      let E := topExp m e
      let y := m * 2 ^ (256 - Nat.log2 m)
      if y = 2 ^ 256 then .fin (decide (E < 0)) E.natAbs 0
      else
        let t : Int := E * (2 ^ 120 : Nat) + (log2Digits 120 y 0 : Nat)
        if 0 ≤ t then .fin false (2 * t.toNat + 1) (-121)
        else .fin true (2 * (-t - 1).toNat + 1) (-121)

/-- 1 / a (R339). -/
def Val.rcp (a : Val) : Val := Val.div (.fin false 1 0) a

/-- 1 / √a (R339). -/
def Val.rsq : Val → Val
  | .nan => .nan
  | .inf s => if s then .nan else .fin false 0 0
  | .fin s m e =>
    if m = 0 then .inf s else if s then .nan
    else
      let (m, e) := if e % 2 = 0 then (m, e) else (2 * m, e - 1)
      let k := 128 + 2 * Nat.log2 m
      let a := 2 ^ (2 * k) / m
      let r := isqrt a
      .fin false (2 * r + (if m * r * r = 2 ^ (2 * k) then 0 else 1)) (-(e / 2) - k - 1)

end Sys2Proof.Machine
end

