-- ==== Sys2Proof/Machine/Fmt.lean ====
section
/-! DEFINITION. Element formats (R192 to R201), the grain hash and frames (R117, R207 to R209), store conversions with
dither (R203, R211, R212) and reconstruction (R213). -/

namespace Sys2Proof.Machine

/-! ### Formats -/

/-- Elements per plane operand, D of R192. -/
def fmtD (f : BitVec 4) : Nat :=
  match f.toNat with
  | 0 => 1 | 1 => 2 | 2 => 2 | 3 => 4 | 4 => 4 | 5 => 2 | 6 => 4 | 7 => 4 | 8 => 8 | 9 => 8
  | 10 => 4 | 11 => 4 | 12 => 8 | 13 => 8 | _ => 1

/-- Bits of an element's code (R192, R197). -/
def fmtBits (f : BitVec 4) : Nat :=
  match f.toNat with
  | 0 => 32 | 1 => 16 | 2 => 16 | 3 => 8 | 4 => 8 | 5 => 16 | 6 => 8 | 7 => 8 | 8 => 4 | 9 => 4
  | 10 => 8 | 11 => 6 | 12 => 4 | 13 => 2 | _ => 8

/-- Codes 14 and 15 are reserved (R192). -/
def fmtReserved (f : BitVec 4) : Bool := 14 ≤ f.toNat
/-- A dual-exponent format (R197). -/
def fmtIsD (f : BitVec 4) : Bool := 10 ≤ f.toNat && f.toNat ≤ 12
/-- A format of the integer kind of R222. -/
def fmtIsInt (f : BitVec 4) : Bool := (5 ≤ f.toNat && f.toNat ≤ 9) || f == 13
/-- A format that R50 allows to be dithered. -/
def fmtDithers (f : BitVec 4) : Bool := f == 3 || f == 4 || fmtIsD f

/-- Bytes of a dual-exponent block (R197). -/
def fmtBlock (f : BitVec 4) : Nat := 2 + 4 * fmtBits f
/-- Magnitude bits g of a dual-exponent element (R197). -/
def fmtG (f : BitVec 4) : Nat := fmtBits f - 2

/-- Elements that are packed together: the elements of the shortest run that fills whole bytes or a whole block. -/
def fmtUnit (f : BitVec 4) : Nat :=
  if fmtIsD f then 32 else match f.toNat with | 8 => 2 | 9 => 2 | 13 => 4 | _ => 1

/-- Bytes that `n` elements occupy (R193, R197): whole bytes, whole blocks. -/
def fmtBytes (f : BitVec 4) (n : Nat) : Nat :=
  if fmtIsD f then (n + 31) / 32 * fmtBlock f else (n * fmtBits f + 7) / 8

/-- The code of element `k` of a run that begins on a byte or a block, and the E_hi of its block (R193, R197). -/
def codeAt (f : BitVec 4) (bs : List Byte) (k : Nat) : Nat × Nat :=
  let w := fmtBits f
  if fmtIsD f then
    let blk := (bs.drop (k / 32 * fmtBlock f)).take (fmtBlock f)
    (leNat (blk.drop 2) / 2 ^ (w * (k % 32)) % 2 ^ w, (blk.getD 0 0).toNat)
  else if 8 ≤ w then (leNat ((bs.drop (k * (w / 8))).take (w / 8)), 0)
  else ((bs.getD (k * w / 8) 0).toNat / 2 ^ (k * w % 8) % 2 ^ w, 0)

/-! ### Grain -/

/-- The grain hash word of R117. -/
def grainHash (K c0 c1 c2 : W32) : W32 :=
  let x := K ^^^ (c0 * 0x9E3779B1#32) ^^^ (c1 * 0x85EBCA77#32) ^^^ (c2 * 0xC2B2AE3D#32)
  let x := x ^^^ (x >>> 16)
  let x := x * 0x7FEB352D#32
  x ^^^ (x >>> 15)

/-- The byte offset BASE of a frame (R207). -/
def frameBase (g : BitVec 256) : Nat := (g.extractLsb' 0 17).toNat

/-- The axis order of PERM, fastest first (R208). -/
def permOf (p : BitVec 3) : Nat × Nat × Nat :=
  match p.toNat with
  | 0 => (0, 1, 2) | 1 => (1, 0, 2) | 2 => (0, 2, 1) | 3 => (2, 1, 0) | 4 => (1, 2, 0) | _ => (2, 0, 1)

/-- The extent of an axis (R207). -/
def frameExt (g : BitVec 256) (k : Nat) : Nat := (g.extractLsb' (64 + 16 * k) 16).toNat + 1
/-- The origin on an axis (R207). -/
def frameOrg (g : BitVec 256) (k : Nat) : Nat := (g.extractLsb' (128 + 32 * k) 32).toNat

/-- grain(frame, i) of R208, in 1/32 of a quantum: an odd number from -15 to +15. -/
def grain (g : BitVec 256) (i : Nat) : Int :=
  let (a, b, c) := permOf (g.extractLsb' 17 3)
  let na := frameExt g a
  let nb := frameExt g b
  let l (k : Nat) : Nat := if k = a then i % na else if k = b then i / na % nb else if k = c then i / (na * nb) else 0
  let cc (k : Nat) : W32 := BitVec.ofNat 32 (l k + frameOrg g k)
  let x := grainHash (g.extractLsb' 32 32) (cc 0) (cc 1) (cc 2)
  2 * ((x >>> 28).toNat : Int) - 15

/-- A frame that GRAIN accepts: PERM 0 to 5 and every reserved bit zero (R207). -/
def frameOk (g : BitVec 256) : Bool :=
  (g.extractLsb' 17 3).toNat < 6 && g.extractLsb' 20 12 == 0 && g.extractLsb' 112 16 == 0 && g.extractLsb' 224 32 == 0

/-- The index, counted from BASE, of the element at byte offset `eff` plus `k` elements, in a format that is no D
format (R209). -/
def bankIndex (f : BitVec 4) (base eff k : Nat) : Nat :=
  let pos (o : Nat) : Nat := o * 8 / fmtBits f
  if pos base ≤ pos eff + k then pos eff + k - pos base else (2 ^ 20 + (pos eff + k) - pos base) % 2 ^ 20

/-! ### Reading -/

/-- The quantum exponent of an F8 code and its signed mantissa (R195, R213). -/
def f8Parts (e5 : Bool) (c : Nat) : Int × Int :=
  let f : FF := if e5 then ffE5 else ⟨4, 3⟩
  let e := c % f.signBit / 2 ^ f.mb
  let n : Int := if e = 0 then (c % 2 ^ f.mb : Nat) else (c % 2 ^ f.mb + 2 ^ f.mb : Nat)
  let q := (if e = 0 then f.emin else (e : Int) - 1 + f.emin) - f.mb
  (if c / f.signBit % 2 = 1 then -n else n, q)

/-- A signed count of quanta as a value. -/
def quanta (n : Int) (q : Int) : Val := .fin (decide (n < 0)) n.natAbs q

/-- The value of a code: reserved codes and zeros by R200 and R201; with an offset d = k/32, reconstruction by R213. In
a D block whose header has E_hi below g the SEL = 0 elements read with E_lo = 0, a substitute from which no offset is subtracted (R200). -/
def decodeCode (f : BitVec 4) (c ehi : Nat) (d : Option Int) : Val :=
  let off (n q : Int) : Val := match d with
    | none => quanta n q
    | some k => quanta (32 * n - k) (q - 5)
  match f.toNat with
  | 0 => ffF32.decode c
  | 1 => ffB16.decode c
  | 2 => ffF16.decode c
  | 3 =>
    if c % 128 = 127 then .fin (decide (128 ≤ c)) 448 0
    else if c % 128 = 0 then .fin (decide (128 ≤ c)) 0 0
    else let (n, q) := f8Parts false c; off n q
  | 4 =>
    if 124 ≤ c % 128 then ffE5.decode c
    else if c % 128 = 0 then .fin (decide (128 ≤ c)) 0 0
    else let (n, q) := f8Parts true c; off n q
  | 5 => .ofInt (signedNat 16 c)
  | 6 => .ofInt (signedNat 8 c)
  | 7 => .ofInt c
  | 8 => .ofInt (signedNat 4 c)
  | 9 => .ofInt c
  | 13 => match c with | 1 => .ofInt 1 | 3 => .ofInt (-1) | _ => .zero
  | _ =>
    let g := fmtG f
    let m := c % 2 ^ g
    if m = 0 then .zero
    else
      let hi : Bool := c / 2 ^ (g + 1) % 2 = 1
      let e := if hi then ehi else ehi - g
      let n : Int := if c / 2 ^ g % 2 = 1 then -(m : Int) else m
      if !hi && decide (ehi < g) then quanta n (-127) else off n ((e : Int) - 127)

/-! ### Storing -/

/-- The integer range of an integer format or T2 (R196). -/
def intRange (f : BitVec 4) : Int × Int :=
  match f.toNat with
  | 5 => (-32768, 32767) | 6 => (-128, 127) | 7 => (0, 255) | 8 => (-8, 7) | 9 => (0, 15) | _ => (-1, 1)

/-- Round to an integer and clamp: NaN gives 0, an infinity the nearest end (R203). -/
def toRange (md : RMode) (lo hi : Int) : Val → Int
  | .nan => 0
  | .inf s => if s then lo else hi
  | .fin s m e => clampInt lo hi (roundInt md s m e).1

/-- v / 2^q + k/32, exact. -/
def shiftedBy (v : Val) (q k : Int) : Val :=
  match v with
  | .fin s m e => sumVals .rne [.fin s m (e - q), quanta k (-5)]
  | w => w

/-- Store conversion into an F8 format (R201, R203, R211): `dith` is the destination's DITH, `k` the offset in 1/32,
if one is added. -/
def encodeF8 (e5 : Bool) (md : RMode) (dith : Bool) (k : Option Int) (v : Val) : Nat :=
  let f : FF := if e5 then ffE5 else ⟨4, 3⟩
  let plain (v : Val) : Nat :=
    if e5 then (ffE5.round md v).1
    else match v with
      | .nan => 0
      | .inf s => if s then 254 else 126
      | .fin s m e =>
        (if s then 128 else 0) + (if m = 0 then 0 else let b := ((⟨4, 3⟩ : FF).grid md s m e).1; if 126 < b then 126 else b)
  match v, k with
  | .fin s m e, some k =>
    if m = 0 then (if s then 128 else 0)
    else
      let top : Int := if e5 then 15 else 8
      let low := topExp m e < f.emin + 1
      let E := if low then f.emin else if top < topExp m e then top else topExp m e
      let q := E - f.mb
      if dith then
        let lo : Int := if low then 0 else (2 ^ f.mb : Nat)
        let hi : Int := if E = top then (if e5 then 7 else 14) else (2 ^ (f.mb + 1) - 1 : Nat)
        let n : Int := match shiftedBy v q k with | .fin s m e => (roundInt md s m e).1 | _ => 0
        let a := clampInt lo hi n.natAbs
        let neg := if n = 0 then s else if a = 0 then s else decide (n < 0)
        (E - f.emin).toNat * 2 ^ f.mb + a.toNat + (if neg then 128 else 0)
      else plain (sumVals .rne [v, quanta k (q - 5)])
  | v, _ => plain v

/-- Store conversion into a format that is no D format (R203, R211). -/
def encodeCode (f : BitVec 4) (md : RMode) (dith : Bool) (k : Option Int) (v : Val) : Nat :=
  match f.toNat with
  | 0 => (ffF32.round md v).1
  | 1 => (ffB16.round md v).1
  | 2 => (ffF16.round md v).1
  | 3 => encodeF8 false md dith k v
  | 4 => encodeF8 true md dith k v
  | _ => let (lo, hi) := intRange f; wrapInt (fmtBits f) (toRange md lo hi v)

/-- Whether |v| compares with (m_max + 1/2) · 2^(E - 127): at most it, or below it. -/
def leHalf (v : Val) (mmax : Nat) (E : Nat) (strict : Bool) : Bool :=
  match v with
  | .fin _ m e =>
    let b : Val := .fin false (2 * mmax + 1) ((E : Int) - 128)
    if strict then (Val.fin false m e).lt b else !(b.lt (Val.fin false m e))
  | _ => true

/-- The least E_hi from `E` on that the block's finite magnitudes fit, at most 255 (R212). -/
def findEhi (mmax : Nat) (vs : List Val) : Nat → Nat → Nat
  | 0, E => E
  | n + 1, E => if vs.all (fun v => leHalf v mmax E false) then E else findEhi mmax vs n (E + 1)

/-- A D-format block of 32 values, with the offsets of its elements (R212). A NaN stores as +0, whose SEL bit R212 leaves open: DESIGN
CHOICE, SEL is 0 (log entry 58). -/
def encodeBlock (f : BitVec 4) (md : RMode) (off : Nat → Option Int) (vs : List Val) : List Byte :=
  let g := fmtG f
  let mmax := 2 ^ g - 1
  let ehi := if vs.any Val.isInf then 255 else let E := findEhi mmax vs 255 0; if E < g then g else E
  let code (p : Val × Nat) : Nat :=
    match p.1 with
    | .nan => 0
    | .inf s => 2 ^ (g + 1) + (if s then 2 ^ g else 0) + mmax
    | .fin s m e =>
      if m = 0 then 0
      else
        let lo := leHalf (.fin s m e) mmax (ehi - g) true
        let q : Int := ((if lo then ehi - g else ehi : Nat) : Int) - 127
        let v := shiftedBy (.fin s m e) q ((off p.2).getD 0)
        let n : Int := match v with | .fin s m e => clampInt (-(mmax : Int)) mmax (roundInt md s m e).1 | _ => 0
        (if lo then 0 else 2 ^ (g + 1)) + (if n < 0 then 2 ^ g else 0) + n.natAbs
  let payload := sumNat ((vs.zip (upTo 32)).map fun p => code p * 2 ^ (fmtBits f * p.2))
  BitVec.ofNat 8 ehi :: 0 :: leBytes (4 * fmtBits f) payload

/-- Cut a list into pieces of `n`. -/
def chunks {α : Type} (n : Nat) : Nat → List α → List (List α)
  | 0, _ => []
  | k + 1, l => if l.isEmpty then [] else l.take n :: chunks n k (l.drop n)

/-- The bytes of a run of values: `off` gives the offset of the k-th, `old` the bytes that stand there, whose bits
beyond the run stay. A D format is padded with +0 codes to whole blocks. -/
def encodeRun (f : BitVec 4) (mode : BitVec 3) (dith : Bool) (off : Nat → Option Int) (vs : List Val) (old : List Byte) :
    List Byte :=
  let md := rmodeOf mode
  if fmtIsD f then
    ((chunks 32 vs.length vs).zip (upTo vs.length)).flatMap fun p =>
      encodeBlock f md (fun e => off (32 * p.2 + e)) (padTo 32 .zero p.1)
  else
    let w := fmtBits f
    let n := vs.length
    let x := sumNat ((vs.zip (upTo n)).map fun p => encodeCode f md dith (off p.2) p.1 * 2 ^ (w * p.2))
    let top := leNat old / 2 ^ (w * n) * 2 ^ (w * n)
    leBytes (fmtBytes f n) (x + (if w * n % 8 = 0 then 0 else top))

/-- Whether a store conversion adds the dither offset: DITH, or mode DN, into an F8 or D format (R206, R211). -/
def addsOffset (f : BitVec 4) (mode : BitVec 3) (dith : Bool) : Bool := fmtDithers f && (dith || mode == 5)

end Sys2Proof.Machine
end

