-- ==== Sys2Proof/Machine/Acc.lean ====
section
/-! DEFINITION. Reading and writing the parts of the state: benches, dies, engine streams; bench identities (R25),
scopes (R61, R68), the physical address map (R294, R426) and the error log (R422). -/

namespace Sys2Proof.Machine

/-! ### Parts of the state -/

/-- A bench of the module. -/
def State.bench (s : State) (b : BenchId) : Bench := s.benches[b]
/-- Replace a bench. -/
def State.setBench (s : State) (b : BenchId) (x : Bench) : State := { s with benches := s.benches.set b x }
/-- Change a bench. -/
def State.modBench (s : State) (b : BenchId) (f : Bench → Bench) : State := s.setBench b (f (s.bench b))

/-- A die of the module. -/
def State.die (s : State) (d : Fin 8) : Die := s.dies[d]
/-- Change a die. -/
def State.modDie (s : State) (d : Fin 8) (f : Die → Die) : State := { s with dies := s.dies.set d (f s.dies[d]) }

/-- The engine of a stream; C has none, and reads as L's (never asked). -/
def Bench.eng (x : Bench) : Stream → Eng
  | .p => x.p
  | .v => x.v
  | .s => x.s
  | _ => x.l

/-- Change the engine of a stream. -/
def Bench.modEng (x : Bench) (st : Stream) (f : Eng → Eng) : Bench :=
  match st with
  | .l => { x with l := f x.l }
  | .p => { x with p := f x.p }
  | .v => { x with v := f x.v }
  | .s => { x with s := f x.s }
  | .c => x

/-- Change the C unit. -/
def Bench.modC (x : Bench) (f : CUnit → CUnit) : Bench := { x with c := f x.c }
/-- A context of the C unit. -/
def Bench.ctx (x : Bench) (i : Fin 4) : Ctx := x.c.ctxs[i]
/-- Change a context. -/
def Bench.modCtx (x : Bench) (i : Fin 4) (f : Ctx → Ctx) : Bench :=
  x.modC fun c => { c with ctxs := c.ctxs.set i (f c.ctxs[i]) }
/-- Change the plane. -/
def Bench.modPlane (x : Bench) (f : Plane → Plane) : Bench := { x with plane := f x.plane }

/-- The bench of the turn. -/
def State.here (s : State) : Bench := s.bench s.cur.bench
/-- Change the bench of the turn. -/
def State.modHere (s : State) (f : Bench → Bench) : State := s.modBench s.cur.bench f
/-- The context of the turn. -/
def State.myCtx (s : State) : Ctx := s.here.ctx s.cur.ctx
/-- Change the context of the turn. -/
def State.modMy (s : State) (f : Ctx → Ctx) : State := s.modHere fun x => x.modCtx s.cur.ctx f
/-- Change the C unit of the turn. -/
def State.modMyC (s : State) (f : CUnit → CUnit) : State := s.modHere fun x => x.modC f
/-- The engine of the turn. -/
def State.myEng (s : State) : Eng := s.here.eng s.cur.stream
/-- Change the engine of the turn. -/
def State.modMyEng (s : State) (f : Eng → Eng) : State := s.modHere fun x => x.modEng s.cur.stream f

/-! ### Tags -/

/-- A tag of a request: who asks, a bench or the mailbox (768), and a number of its own. -/
def tagOf (who k : Nat) : Nat := who + 769 * k
/-- Who asked. -/
def tagWho (t : Nat) : Nat := t % 769
/-- The number of a tag. -/
def tagNo (t : Nat) : Nat := t / 769

/-! ### Benches (R25) -/

/-- The die of a bench. -/
def dieOf (b : BenchId) : Fin 8 := ⟨b.val / 96, by omega⟩
/-- The span of a bench, numbered through the module. -/
def spanOf (b : BenchId) : Nat := b.val / 8
/-- The position of a bench in its span. -/
def posOf (b : BenchId) : Nat := b.val % 8
/-- The 10-bit identity (R25): die, span of the die, position. -/
def identOf (b : BenchId) : Nat := b.val / 96 * 128 + b.val / 8 % 12 * 8 + b.val % 8

/-- A bench by number, if there is one. -/
def benchAt (n : Nat) : Option BenchId := if h : n < 768 then some ⟨n, h⟩ else none

/-- The bench `k` positions from `b` in the same span, if there is one. -/
def neighbour (b : BenchId) (k : Int) : Option BenchId :=
  let p := (posOf b : Int) + k
  if 0 ≤ p ∧ p ≤ 7 then benchAt ((b.val : Int) + k).toNat else none

/-! ### Scopes (R61, R68) -/

/-- The rank of a nesting scope; .en counts as .bn (R80) and .io as .ho (R70). -/
def scopeRank : Scope → Nat
  | .st => 0 | .bn => 1 | .en => 1 | .sp => 2 | .di => 3 | .mo => 4 | .ho => 5 | .io => 5 | .ch => 6 | .cl => 7 | .sy => 8

/-- The wider of two scopes; .io stays (R188). -/
def scopeWiden (a b : Scope) : Scope := if a = .io then .io else if scopeRank a < scopeRank b then b else a

/-- The L1 class of a load's scope, as an index from .sp (R68). -/
def scopeCls (a : Scope) : Nat := scopeRank a - 2

/-- The classes whose counters an acquire at a scope increments (R70). -/
def scopeAcquires (a : Scope) : List Nat :=
  match a with
  | .st | .bn | .en => []
  | _ => upTo (scopeRank a - 1)

/-! ### Physical addresses (R294, R426) -/

/-- What a physical address names. -/
inductive Region where
  | mem (die : Fin 8)
  | device
  | extent (die : Fin 8) (released : Bool)
  | host
  | aperture (w : BitVec 7)
  | absent
  deriving DecidableEq, Repr

/-- The die with a given number, modulo 8. -/
def dieAt (n : Nat) : Fin 8 := ⟨n % 8, by omega⟩

/-- The populated device ranges: eight control pages and the mailbox (R426). -/
def devicePopulated (pa : Nat) : Bool := 0xFF00000000 ≤ pa && pa < 0xFF00110000 && (pa < 0xFF00080000 || 0xFF00100000 ≤ pa)

/-- The region of a physical address; an unpopulated extent, host or device address is absent. -/
def State.region (s : State) (pa : Nat) : Region :=
  if pa < 0xC000000000 then .mem (dieAt (pa / 0x1800000000))
  else if pa < 0x10000000000 then (if devicePopulated pa then .device else .absent)
  else if pa < 0x400000000000 then
    match firstWhere (fun x => decide (x.base ≤ pa ∧ pa < x.base + x.len)) s.extents with
    | some x => .extent (dieAt x.die) x.released
    | none => .absent
  else if pa < 0x800000000000 then
    (if s.hostRanges.any (fun r => decide (r.1 ≤ pa ∧ pa < r.1 + r.2)) then .host else .absent)
  else if pa < 0x1000000000000 then .aperture (BitVec.ofNat 7 (pa / 2 ^ 40))
  else .absent

/-- The local physical address behind an aperture window that names the module itself (R427). -/
def State.localPa (s : State) (pa : Nat) : Nat :=
  match s.region pa with
  | .aperture w =>
    let r := vget s.fwin w.toNat 0
    if r.getLsbD 63 && (r.extractLsb' 0 14) == s.fabid then pa % 2 ^ 40 else pa
  | _ => pa

/-- The die that homes an address, if a die does. -/
def State.homeDie (s : State) (pa : Nat) : Option (Fin 8) :=
  match s.region pa with
  | .mem d => some d
  | .extent d _ => some d
  | _ => none

/-- The slice and the set of a line (R295). -/
def sliceOf (leaf : Leaf) (line : Nat) : Nat × Nat :=
  if leaf.slsz = 0 then (line % 384, line / 384 % 256)
  else
    let g := 2 ^ (leaf.slsz - 1)
    (leaf.slidx * g + line % g, line / g % 256)

/-- The leaf of accesses that use no page: the all-slices rule (R295). -/
def leafPhys : Leaf := ⟨0, 0, 48, 0, 0, 0, 0, false, .sp, 0, true, true, true⟩

/-! ### Error log (R422) -/

/-- Write an entry, then count it. -/
def Die.log (d : Die) (sect kind ten : Nat) : Die :=
  let e := d.ecnt.toNat % 64
  { d with
    elog := vset d.elog e (BitVec.ofNat 64 (sect / 32 * 32 % 2 ^ 48), BitVec.ofNat 64 (kind % 256 + ten % 64 * 256))
    ecnt := d.ecnt + 1 }

/-- Write an entry of the error log of a die. -/
def State.logErr (s : State) (d : Fin 8) (sect kind ten : Nat) : State := s.modDie d fun x => x.log sect kind ten

/-! ### Places that a result is written to (R84, R87, R89) -/

/-- The value at a place. -/
def CUnit.at_ (u : CUnit) : Option Dst → W64
  | some (.glob i) => u.globals[i]
  | some (.phys i) => u.file[i]
  | _ => 0

/-- Write a place; a load in flight to the same place no longer writes it (R84). -/
def CUnit.write (u : CUnit) (d : Option Dst) (v : W64) : CUnit :=
  let drop (l : PendLoad) : PendLoad := if l.dst == d then { l with dst := none } else l
  match d with
  | some (.glob i) => { u with globals := u.globals.set i v, loads := u.loads.map drop }
  | some (.phys i) => { u with file := u.file.set i v, loads := u.loads.map drop }
  | _ => u

/-- Change a shadow level of a context. -/
def Ctx.modShadow (k : Ctx) (lvl : BitVec 2) (f : Shadow → Shadow) : Ctx :=
  if lvl = 2 then { k with sh2 := f k.sh2 } else { k with sh1 := f k.sh1 }

/-- The value of a load or of an atomic in flight arrives: it fills its queue entry and the place it still writes (R84,
R85). -/
def Bench.arriveVal (x : Bench) (l : PendLoad) (v : W64) : Bench :=
  let fill (e : QEntry) : QEntry := if e.tag == some l.tag then ⟨v, none⟩ else e
  let x := (x.modCtx l.ctx fun k => { k with rq := k.rq.map fill }).modC fun u =>
    { u with loads := u.loads.filter fun y => y.tag != l.tag }
  match l.dst with
  | some (.shadow c lvl k) =>
    x.modCtx c fun q => q.modShadow lvl fun h => { h with regs := h.regs.set k ⟨true, v, none⟩ }
  | d => x.modC fun u => u.write d v

/-! ### Sending packets (R429 to R431) -/

/-- A packet with the next SEQ of its flow enters the flow's retry buffer (R431). -/
def State.sendFlow (s : State) (dmod : BitVec 14) (ch : BitVec 2) (ten : BitVec 6) (kind : Byte) (body : Body) :
    State × W32 :=
  let mine (f : OutFlow) : Bool := f.dmod == dmod && f.ch == ch
  let flows := if s.outFlows.any mine then s.outFlows else ⟨dmod, ch, 0, [], none, none⟩ :: s.outFlows
  let seq := match firstWhere mine flows with | some f => f.next | none => 0
  let p : Packet := ⟨dmod, s.fabid, ch, s.fver.extractLsb' 0 4, ten, kind, 0, seq, false, body⟩
  let push (f : OutFlow) : OutFlow := { f with next := f.next + 1, retry := f.retry ++ [(p, s.clk)] }
  ({ s with outFlows := replaceFirst mine push flows }, seq)

end Sys2Proof.Machine
end

