-- ==== Sys2Proof/Machine/Home.lean ====
section
/-! DEFINITION. The home side: the tenant table (R402), cache placement (R291 to R300), the directory and its trackers (R413 to R417), watches
(R144), poison (R419 to R421), and the performing of stores and atomics (R63, R71, R138 to R141, R407 to R412). -/

namespace Sys2Proof.Machine

/-! ### Lines in memory -/

/-- The bytes and the poison bits of a line as its home holds them. -/
def State.line (s : State) (ln : Nat) : LineData × BitVec 4 :=
  (lineOf (Mem.read s.mem (128 * ln) 128), bitsFrom 4 fun i => s.poison.contains (4 * ln + i))

/-- Poison or clear one sector. -/
def State.setPoison (s : State) (sec : Nat) (b : Bool) : State :=
  { s with poison := if b then (if s.poison.contains sec then s.poison else sec :: s.poison)
                     else s.poison.filter fun x => x != sec }

/-- Put a whole line back, bytes and poison. -/
def State.restoreLine (s : State) (ln : Nat) (d : LineData) (p : BitVec 4) : State :=
  let s := { s with mem := Mem.writeAll s.mem (128 * ln) (lineBytes d) }
  (upTo 4).foldl (fun s i => s.setPoison (4 * ln + i) (p.getLsbD i)) s

/-- Whether any sector of a byte range is poisoned (R420). -/
def State.poisoned (s : State) (pa n : Nat) : Bool :=
  (span (pa / 32) ((pa % 32 + n + 31) / 32)).any fun x => s.poison.contains x

/-! ### The tenant table (R402) -/

/-- The bits `[hi:lo]` of a number. -/
def field (x hi lo : Nat) : Nat := x / 2 ^ lo % 2 ^ (hi + 1 - lo)

/-- The physical address of a tenant's entry in a die's table (R402). -/
def State.tenAddr (s : State) (d : Fin 8) (ten : BitVec 6) : Nat :=
  (s.die d).ttbase.toNat / 4096 * 4096 % 2 ^ 48 + 64 * ten.toNat

/-- The valid entry of a tenant in a die's table, read by physical address; an entry with a reserved bit set is not
valid (R402). -/
def State.tenEntry (s : State) (d : Fin 8) (ten : BitVec 6) : Option TenEntry :=
  let a := s.tenAddr d ten
  let w (k : Nat) : Nat := Mem.nat s.mem (a + 8 * k) 8
  let clean := w 0 == field (w 0) 47 12 * 4096 + w 0 % 2
    && w 1 == field (w 1) 56 2 * 4
    && decide (w 2 < 2 ^ 48)
    && w 3 == field (w 3) 47 12 * 4096 + w 3 % 16
    && decide (w 4 < 2 ^ 32) && w 5 == 0 && w 6 == 0 && w 7 == 0
  if w 0 % 2 = 1 && clean then
    some ⟨field (w 0) 47 12 * 4096, BitVec.ofNat 64 (w 1), field (w 2) 47 12 * 4096, w 2 % 4096,
      field (w 3) 47 12 * 4096, w 3 % 16, field (w 4) 31 16, w 4 % 65536⟩
  else none

/-- The entry by which a die serves a tenant: as the tenant's launch of that die last read it, or, without a launch, as the
table stands (R402). -/
def State.entOf (s : State) (d : Fin 8) (ten : BitVec 6) : Option TenEntry :=
  match firstWhere (fun h => h.tenant == ten && h.die == d && h.ent.isSome) s.hitches with
  | some h => h.ent
  | none => s.tenEntry d ten

/-! ### Token buckets (R302) -/

/-- A bucket's gain of one clk, and what it cannot hold. -/
def Bucket.gain (x : Bucket) (t : TenEntry) : Bucket × Nat :=
  let n := x.tokens + t.rate
  ({ x with tokens := min n (1024 * t.depth) }, n - min n (1024 * t.depth))

/-- Requests that wait at a bucket take its tokens. -/
def Bucket.serve (x : Bucket) : Bucket :=
  let k := min x.waiting (x.tokens / 1024)
  { x with tokens := x.tokens - 1024 * k, waiting := x.waiting - k }

/-- A bucket whose requests still wait takes surplus tokens. -/
def Bucket.borrow (x : Bucket) (surplus : Nat) : Bucket × Nat :=
  let k := min x.waiting (surplus / 1024)
  ({ x with waiting := x.waiting - k }, surplus - 1024 * k)

/-- The buckets of a port in the order of their tenants gain, and lend what a full bucket cannot hold; the bucket of a tenant
that has not used the port is full (R302). -/
def State.portGain (s : State) (d : Fin 8) (slice : Nat) : State :=
  let mine (n : Nat) (x : Bucket) : Bool := x.die == d.val && x.slice == slice && x.tenant.toNat == n
  let gained : List (Option Bucket × Nat) := (upTo 64).map fun n =>
    match firstWhere (mine n) s.buckets, s.entOf d (BitVec.ofNat 6 n) with
    | some x, some t => let (y, o) := x.gain t; (some y.serve, o)
    | some x, none => (some x, 0)
    | none, some t => (none, t.rate)
    | none, none => (none, 0)
  let lend (acc : List Bucket × Nat) (x : Bucket) : List Bucket × Nat :=
    let (y, o) := x.borrow acc.2
    (acc.1 ++ [y], o)
  let (out, _) := (gained.filterMap Prod.fst).foldl lend ([], sumNat (gained.map Prod.snd))
  { s with buckets := out ++ s.buckets.filter fun x => !(x.die == d.val && x.slice == slice) }

/-- Nothing waits at a port, and its buckets are full: a further clk changes nothing. -/
def State.portSteady (s : State) (d : Fin 8) (slice : Nat) : Bool :=
  s.buckets.all fun x => !(x.die == d.val && x.slice == slice) ||
    (x.waiting == 0 && match s.entOf d x.tenant with | some t => x.tokens == 1024 * t.depth | none => true)

/-- Some clk pass at a port. -/
def State.portRun (s : State) (d : Fin 8) (slice : Nat) : Nat → State
  | 0 => s
  | k + 1 => if s.portSteady d slice then s else (s.portGain d slice).portRun d slice k

/-- The buckets of a port gain for the clk that have passed since they last did (R302). -/
def State.portTo (s : State) (d : Fin 8) (slice : Nat) : State :=
  let mine (x : Bucket) : Bool := x.die == d.val && x.slice == slice
  match firstWhere mine s.buckets with
  | none => s
  | some x =>
    let t := s.portRun d slice (s.clk - x.till)
    { t with buckets := t.buckets.map fun y => if mine y then { y with till := s.clk } else y }

/-! ### Channels, rows and requests at a port (R301 to R303) -/

/-- A request of a tenant reaches the pseudo-channel of an address: it is Active from now on (R301), and it activates its row
(R303). -/
def State.touchChan (s : State) (d : Fin 8) (pa : Nat) (ten : BitVec 6) : State :=
  let c := pa % 0x1800000000 / 256 % 128
  { s with
    chans := ⟨d.val, c, 0, s.clk⟩ :: s.chans.filter fun x => !(x.die == d.val && x.chan == c)
    rowActs := ⟨d.val, c, Config.rowOf pa, ten, s.clk⟩ :: s.rowActs.filter fun x => decide (s.clk ≤ x.at_ + 2 ^ 16) }

/-- A request takes a token of its tenant's bucket at an L2 port, which is full at first, or waits there for one (R302). Waiting costs time
alone: the request is served in this step and the bucket owes a token (log entry 15). -/
def State.takeToken (s : State) (d : Fin 8) (slice : Nat) (ten : BitVec 6) : State :=
  let s := s.portTo d slice
  let mine (x : Bucket) : Bool := x.die == d.val && x.slice == slice && x.tenant == ten
  let take (x : Bucket) : Bucket :=
    if 1024 ≤ x.tokens then { x with tokens := x.tokens - 1024 } else { x with waiting := x.waiting + 1 }
  match firstWhere mine s.buckets with
  | some _ => { s with buckets := replaceFirst mine take s.buckets }
  | none =>
    match s.entOf d ten with
    | some t => { s with buckets := take ⟨d.val, slice, ten, 1024 * t.depth, 0, s.clk⟩ :: s.buckets }
    | none => s

/-! ### L2 and MSC placement (R291, R295 to R300) -/

/-- A dirty line is written back: main memory holds what home holds (R300, R421). -/
def State.writeBack (s : State) (ln : Nat) : State := { s with backing := s.backing.filter fun x => x.line != ln }

/-- Whether a line is dirty. -/
def State.dirty (s : State) (ln : Nat) : Bool := s.backing.any fun x => x.line == ln

/-- Drop every RDC copy and the directory entry of a line that leaves L2 (R413). -/
def State.dropSharers (s : State) (ln : Nat) : State :=
  { s with
    dir := s.dir.filter fun x => x.1 != ln
    dies := Vector.ofFn fun d : Fin 8 => { s.dies[d] with rdc := s.dies[d].rdc.filter fun x => x.line != ln } }

/-- The MSC bank of a line (R300). -/
def mscBank (ln : Nat) : Nat := ln % 128

/-- An L2 victim enters its bank of the MSC, unless it is clean, was inserted at priority 0 and never hit; a dirty victim of
the bank is written to memory (R300). -/
def State.evictL2 (s : State) (v : L2Line) (ten : BitVec 6) : State :=
  let s := s.dropSharers v.line
  let s := { s with l2 := s.l2.filter fun x => !(x.die == v.die && x.line == v.line) }
  if v.first && !v.hit && !s.dirty v.line then s
  else
    let mine := s.msc.filter fun x => x.die == v.die && mscBank x.line == mscBank v.line
    let s :=
      if mine.length < Config.mscBankLines then s
      else match mine.getLast? with
        | none => s
        | some o =>
          let s := if s.dirty o.line then (s.writeBack o.line).touchChan (dieAt o.die) (128 * o.line) ten else s
          { s with msc := s.msc.filter fun x => x != o }
    { s with msc := ⟨v.die, v.line⟩ :: s.msc }

/-- Whether a retention register of a die governs a line (R297). -/
def Retn.has (r : Retn) (ln : Nat) : Bool := r.en && decide (r.first ≤ ln ∧ ln < r.first + r.lines)

/-- The lowest-numbered enabled register whose range holds a line (R297). -/
def Die.governs (d : Die) (ln : Nat) : Option Retn := firstWhere (fun r => r.has ln) d.retn.toList

/-- The ways that some enabled register reserves (R297). -/
def Die.reserved (d : Die) : W16 := d.retn.toList.foldl (fun m r => if r.en then m ||| r.ways else m) 0

/-- The victim of R291 among candidates, most recently used first: the one nearest LRU without a keep mark, or else the one
nearest LRU. -/
def victimOf {α : Type} (keep : α → Bool) (l : List α) : Option α :=
  match firstWhere (fun x => !keep x) l.reverse with
  | some x => some x
  | none => l.getLast?

/-- A line is retained in its way: the register that governs it reserves the way (R297). -/
def Die.retains (d : Die) (x : L2Line) : Bool :=
  match d.governs x.line with
  | some r => r.ways.getLsbD x.way
  | none => false

/-- The way that a new line of a set takes, the line it evicts, if any, and whether the set had an invalid candidate (R291,
R297, R298). -/
def chooseWay (d : Die) (inSet : List L2Line) (ln : Nat) : Nat × Option L2Line × Bool :=
  let free (ws : List Nat) : Option Nat := firstWhere (fun w => !inSet.any fun x => x.way == w) ws
  let held (ws : List Nat) : List L2Line := inSet.filter fun x => ws.contains x.way
  let normal := (upTo 16).filter fun w => !d.reserved.getLsbD w
  let fromNormal : Nat × Option L2Line × Bool :=
    match free normal with
    | some w => (w, none, true)
    | none =>
      match victimOf L2Line.keep (held normal) with
      | some x => (x.way, some x, false)
      | none => (0, none, false)
  match d.governs ln with
  | none => fromNormal
  | some r =>
    let ws := bitsOf r.ways
    match free ws with
    | some w => (w, none, true)
    | none =>
      match victimOf L2Line.keep ((held ws).filter fun x => !d.retains x) with
      | some x => (x.way, some x, false)
      | none => fromNormal

/-- An access of a line at its home L2 slice: a hit moves it, a miss fills it from the MSC or from memory (R291,
R295, R300). `lru` inserts at LRU whatever the priority (R137). -/
def State.touchL2 (s : State) (pa : Nat) (leaf : Leaf) (pri : BitVec 2) (lru : Bool) (ten : BitVec 6) : State :=
  match s.homeDie pa with
  | none => s
  | some d =>
    let ln := pa / 128
    let (slice, set) := sliceOf leaf ln
    let s := s.takeToken d slice ten
    match firstWhere (fun x => x.die == d.val && x.line == ln) s.l2 with
    | some x =>
      if lru then
        { s with l2 := (s.l2.filter fun y => !(y.die == d.val && y.line == ln)) ++ [{ x with hit := true }] }
      else if pri = 0 then
        { s with l2 := replaceFirst (fun y => y.die == d.val && y.line == ln) (fun y => { y with hit := true }) s.l2 }
      else
        { s with l2 := { x with hit := true, keep := x.keep || pri == 2 } ::
                    s.l2.filter fun y => !(y.die == d.val && y.line == ln) }
    | none =>
      let inMsc := s.msc.contains ⟨d.val, ln⟩
      let s := if inMsc then { s with msc := s.msc.filter fun x => x != ⟨d.val, ln⟩ } else s.touchChan d pa ten
      let inSet := s.l2.filter fun x => x.die == d.val && x.slice == slice && x.set == set
      let (way, victim, fresh) := chooseWay (s.die d) inSet ln
      let s := match victim with | some v => s.evictL2 v ten | none => s
      let n : L2Line := ⟨d.val, ln, slice, set, way, pri == 2, pri == 0, false⟩
      if lru || pri = 0 || (pri = 3 && !fresh) then { s with l2 := s.l2 ++ [n] } else { s with l2 := n :: s.l2 }

/-- A request that allocates nowhere: it takes a token, and reaches memory when no cache holds the line (R81, R293, R301,
R302). -/
def State.passL2 (s : State) (pa : Nat) (leaf : Leaf) (ten : BitVec 6) : State :=
  match s.homeDie pa with
  | none => s
  | some d =>
    let ln := pa / 128
    let s := s.takeToken d (sliceOf leaf ln).1 ten
    if s.l2.any (fun x => x.die == d.val && x.line == ln) || s.msc.contains ⟨d.val, ln⟩ then s else s.touchChan d pa ten

/-- A dispatcher's read of a tenant's entry goes to the home of the table's line as any request does (R301, R302, R402). -/
def State.readTable (s : State) (d : Fin 8) (ten : BitVec 6) : State := s.passL2 (s.tenAddr d ten) leafPhys ten

/-- A dispatcher reads the entry of a tenant, at an acceptance, a placement or a resume: from then on it acts for every launch of the
tenant on the die (R402). -/
def State.readEntry (s : State) (d : Fin 8) (ten : BitVec 6) : State :=
  let ent := s.tenEntry d ten
  let s := s.readTable d ten
  { s with hitches := s.hitches.map fun h => if h.tenant = ten ∧ h.die = d then { h with ent := ent } else h }

/-- The line is about to be written in the L2 slice or the MSC that holds it: what memory holds of it is kept until the next write-back
(R292). -/
def State.makeDirty (s : State) (ln : Nat) : State :=
  if s.dirty ln then s
  else let (d, p) := s.line ln; { s with backing := ⟨ln, d, p⟩ :: s.backing }

/-- An L2 slice or an MSC holds a line. -/
def State.cached (s : State) (ln : Nat) : Bool := s.l2.any (fun x => x.line == ln) || s.msc.any fun x => x.line == ln

/-- Bytes pass the caches to main memory: what it holds of a dirty line takes them (R292, R293). -/
def State.through (s : State) (pa : Nat) (bs : List (Option Byte)) (clears : Nat → Bool) : State :=
  let ln := pa / 128
  { s with backing := s.backing.map fun x => if x.line = ln then
      { x with data := linePatch x.data (pa % 128) bs, poison := bitsFrom 4 fun i => x.poison.getLsbD i && !clears (4 * ln + i) } else x }

/-- A last-use access drops the line from L2 without write-back, its sharers first: memory's bytes and poison stand again
(R292, R413). -/
def State.dropLine (s : State) (ln : Nat) : State :=
  let s := match firstWhere (fun x => x.line == ln) s.backing with
    | some x => (s.restoreLine ln x.data x.poison).writeBack ln
    | none => s
  { (s.dropSharers ln) with l2 := s.l2.filter fun x => x.line != ln }

/-! ### Directory (R413 to R417) -/

/-- The mode of a line's entry, absent for none. -/
def State.dirOf (s : State) (ln : Nat) : Option DirMode := (firstWhere (fun x => x.1 == ln) s.dir).map Prod.snd
/-- Replace a line's entry. -/
def State.setDir (s : State) (ln : Nat) (m : Option DirMode) : State :=
  let rest := s.dir.filter fun x => x.1 != ln
  { s with dir := match m with | some m => (ln, m) :: rest | none => rest }

/-- Whether an invalidation tracker is open for a line (PEND). -/
def State.pending (s : State) (ln : Nat) : Bool := s.trackers.any fun t => t.line == ln
/-- An open tracker still awaits an RDC: its .mo part is open (R415). -/
def Tracker.openMo (t : Tracker) : Bool := t.sent.any fun a => a.toNat < 8 && !t.done.contains a
/-- Whether a line's tracker still awaits an RDC. -/
def State.pendingMo (s : State) (ln : Nat) : Bool := s.trackers.any fun t => t.line == ln && t.openMo

/-- An entry after a read by an agent (R414). -/
def dirAdd (m : Option DirMode) (a : BitVec 6) : DirMode :=
  match m with
  | none => .limited [a]
  | some (.limited ps) =>
    if ps.contains a then .limited ps
    else if ps.length < 4 then .limited (ps ++ [a])
    else .coarse (bitsFrom 16 fun g => (a :: ps).any fun x => x.toNat / 4 == g)
  | some (.coarse g) => .coarse (g ||| bitsFrom 16 fun i => a.toNat / 4 == i)

/-- A read by an agent reaches home: the agent is recorded (R414). -/
def State.dirRead (s : State) (a : BitVec 6) (ln : Nat) : State := s.setDir ln (some (dirAdd (s.dirOf ln) a))

/-- The agents that a store's tracker sends to: the pointers, or every assigned agent of the set groups (R414,
R417). -/
def State.sharers (s : State) (ln : Nat) : List (BitVec 6) :=
  match s.dirOf ln with
  | none => []
  | some (.limited ps) => ps
  | some (.coarse g) =>
    ((upTo 64).map (BitVec.ofNat 6)).filter fun a =>
      g.getLsbD (a.toNat / 4) && (decide (a.toNat < 8) || s.agents.contains a)

/-- The home of a line: its die and its slice (R295). -/
def State.homeOf (s : State) (leaf : Leaf) (ln : Nat) : Nat × Nat :=
  (match s.homeDie (128 * ln) with | some d => d.val | none => 0, (sliceOf leaf ln).1)

/-- The home of a line by the slice that holds it; a line that is nowhere in L2 has the home that no page gives it (R295). -/
def State.homeOfCopy (s : State) (ln : Nat) : Nat × Nat :=
  match firstWhere (fun x => x.line == ln) s.l2 with
  | some x => (x.die, x.slice)
  | none => s.homeOf leafPhys ln

/-- A store reaches a line: it performs, opening a tracker when there are sharers (R414); none while it waits for
a free tracker of the home slice (R415). -/
def State.dirStore (s : State) (ln : Nat) (home : Nat × Nat) : Option State :=
  match s.sharers ln with
  | [] => some (s.setDir ln none)
  | sh =>
    if s.pending ln then some s
    else if 64 ≤ (s.trackers.filter fun t => t.die == home.1 && t.slice == home.2).length then none
    else some { (s.setDir ln none) with trackers := ⟨ln, home.1, home.2, sh, [], []⟩ :: s.trackers }

/-- An agent's answer is counted; a tracker whose sets are equal closes (R415, R416). -/
def State.dirAnswer (s : State) (a : BitVec 6) (ln : Nat) (viaEviction : Bool) : State :=
  let answer (t : Tracker) : Tracker :=
    if t.line == ln && t.sent.contains a && !t.done.contains a then
      { t with done := a :: t.done, skip := if viaEviction then a :: t.skip else t.skip }
    else t
  { s with trackers := (s.trackers.map answer).filter fun t => !(t.line == ln && t.sent.all fun x => t.done.contains x) }

/-- An eviction notice of an agent reaches home (R414, R416). -/
def State.noticeFrom (s : State) (a : BitVec 6) (ln : Nat) : State :=
  let s := match s.dirOf ln with
    | some (.limited ps) =>
      let ps := ps.filter fun p => p != a
      s.setDir ln (if ps.isEmpty then none else some (.limited ps))
    | _ => s
  s.dirAnswer a ln true

/-! ### Read copies in an RDC (R291, R299) -/

/-- A die's RDC takes a copy by R291; the victim leaves with a notice to home (R299, R416). -/
def State.fillRdc (s : State) (d : Fin 8) (n : CopyLine) (pri : BitVec 2) : State :=
  let held := (s.die d).rdc
  let rest := held.filter fun l => l.line != n.line
  let n := { n with keep := n.keep || pri == 2 || held.any fun l => l.line == n.line && l.keep }
  let full := decide (Config.rdcLines ≤ rest.length)
  let victim := if full then victimOf CopyLine.keep rest else none
  let rest := match victim with | some v => rest.filter fun l => l.line != v.line | none => rest
  let s := s.modDie d fun x => { x with rdc := if pri = 0 || (pri = 3 && full) then rest ++ [n] else n :: rest }
  match victim with
  | some v => s.noticeFrom (BitVec.ofNat 6 d.val) v.line
  | none => s

/-- A hit in an RDC (R291). -/
def Die.hitRdc (x : Die) (l : CopyLine) (pri : BitVec 2) : Die :=
  if pri = 0 then x
  else { x with rdc := { l with keep := l.keep || pri == 2 } :: x.rdc.filter fun y => y.line != l.line }

/-- Whether an address lies in an extent whose release is under way: accesses wait (R423). -/
def State.closingRange (s : State) (pa : Nat) : Bool :=
  s.extents.any fun x => x.closing && decide (x.base ≤ pa ∧ pa < x.base + x.len)

/-- A line fetched for a die past the L1s: from the die's RDC, or from home with the waits of R71, filling the RDC where R299
and R414 allow it; without `alloc`, an access at .io or of an uncached page, from home past every cache (R68, R81, R293).
None while it waits, as it does for an extent whose release is under way (R423). R71 names the waits at .mo and at .ho or wider, and not
.io: DESIGN CHOICE, a load at .io waits for a pending line as one at .ho (log entry 62). -/
def State.fetchFor (s : State) (d : Fin 8) (ten : BitVec 6) (leaf : Leaf) (pa : Nat) (sc : Scope) (pri : BitVec 2)
    (alloc : Bool) : Option (State × LineData × BitVec 4) :=
  let ln := pa / 128
  let away := match s.homeDie pa with | some h => h != d | none => true
  match firstWhere (fun l => l.line == ln) (if away && alloc then (s.die d).rdc else []) with
  | some l => some (s.modDie d fun x => x.hitRdc l pri, l.data, l.poison)
  | none =>
    if (sc = .mo && s.pendingMo ln) || (5 ≤ scopeRank sc && s.pending ln) || s.closingRange pa then none
    else
      let (data, po) := s.line ln
      let s := if alloc then s.touchL2 pa leaf pri false ten else s.passL2 pa leaf ten
      let narrow := scopeRank sc ≤ 3
      if away && alloc && !(narrow && s.pending ln) then
        if s.pending ln then none
        else
          let s := s.fillRdc d ⟨ln, data, po, false⟩ pri
          some (if (s.homeDie pa).isSome then s.dirRead (BitVec.ofNat 6 d.val) ln else s, data, po)
      else some (s, data, po)

/-- `n` bytes within a line read by physical address as a load at .mo of a die (R187, R390); none while it waits. -/
def State.readPhys (s : State) (d : Fin 8) (ten : BitVec 6) (pa n : Nat) : Option (State × Nat) :=
  match s.fetchFor d ten leafPhys pa .mo 1 true with
  | none => none
  | some (s, data, _) => some (s, data.toNat / 2 ^ (8 * (pa % 128)) % 2 ^ (8 * n))

/-! ### Watches (R143, R144) -/

/-- A context's watch is disarmed and its wake-pending flag set. -/
def State.wakeCtx (s : State) (b : BenchId) (c : Fin 4) : State :=
  s.modBench b fun x => x.modCtx c fun k => { k with watch := none, wtag := none, wake := true }

/-- The retry buffer has room for another packet (R431). -/
def State.mayRetry (s : State) : Bool := decide (sumNat (s.outFlows.map fun f => f.retry.length) < 65536)

/-- A wake for a context of another module is sent, or waits for room in the retry buffer (R428, R431). -/
def State.sendWake (s : State) (m : BitVec 14) (tag : Nat) : State :=
  if s.mayRetry && s.wakesOut.isEmpty then (s.sendFlow m 1 0 7 (.wake tag)).1
  else { s with wakesOut := s.wakesOut ++ [(m, tag)] }

/-- The watcher of a registration wakes: a context of this module, or one of another, to which the wake is sent
(R144, R428). -/
def State.wakeWatch (s : State) (w : Watch) : State :=
  match w.remote with
  | none => s.wakeCtx w.bench w.ctx
  | some (m, tag) => s.sendWake m tag

/-- A store, an atomic or a host's write performs on a line: every watch on it wakes (R144). -/
def State.wakeLine (s : State) (ln : Nat) : State :=
  let hit := s.watches.filter fun w => w.line == ln
  hit.foldl State.wakeWatch { s with watches := s.watches.filter fun w => w.line != ln }

/-- A registration is recorded; a slice with 64 drops its oldest, which wakes (R144). A watcher holds one watch, so
its older registration goes (R143). -/
def State.addWatch (s : State) (w : Watch) : State :=
  let s := { s with watches := s.watches.filter fun x =>
    !(x.bench == w.bench && x.ctx == w.ctx && x.remote == w.remote) }
  let mine := s.watches.filter fun x => x.die == w.die && x.slice == w.slice
  let s := if mine.length < 64 then s
    else match mine with
      | o :: _ => { s with watches := s.watches.filter fun x => x != o }.wakeWatch o
      | [] => s
  { s with watches := s.watches ++ [w] }

/-! ### Writing at home -/

/-- Whether a mask covers the whole sector `i` of a store that begins at `pa`. -/
def coversSector (pa : Nat) (bs : List (Option Byte)) (sec : Nat) : Bool :=
  (span (32 * sec) 32).all fun a => decide (pa ≤ a) && (match bs[a - pa]? with | some (some _) => true | _ => false)

/-- A store to the first word of a combining slot discards its waiting nodes and ranges (R412). -/
def State.resetSlot (s : State) (pa : Nat) (bs : List (Option Byte)) : State :=
  let hit (slot : Nat) : Bool :=
    (span slot 8).any fun a => decide (pa ≤ a) && (match bs[a - pa]? with | some (some _) => true | _ => false)
  { s with nodes := s.nodes.filter fun n => !hit n.slot, covered := s.covered.filter fun c => !hit c.1 }

/-- The poison bits of a copy of line `ln` after a store that clears some sectors (R420). -/
def patchPoison (ln : Nat) (clears : Nat → Bool) (po : BitVec 4) : BitVec 4 :=
  bitsFrom 4 fun i => po.getLsbD i && !clears (4 * ln + i)

/-- The bytes change at home: in the cache that holds the line, which makes it dirty, or in main memory too where no cache holds it, or
where the page is not cached (`direct`, R292, R293); poison of the sectors that the store clears, RDC copy of the writing die updated,
watches woken (R63, R64, R137, R144, R420). -/
def State.writeHomeAs (s : State) (die : Option (Fin 8)) (pa : Nat) (bs : List (Option Byte)) (clears : Nat → Bool) (direct : Bool) : State :=
  let ln := pa / 128
  let s := if direct then s.through pa bs clears else if s.cached ln then s.makeDirty ln else s
  let s := { s with mem := Mem.write s.mem pa bs }
  let s := (span (pa / 32) ((pa % 32 + bs.length + 31) / 32)).foldl
    (fun s sec => if clears sec then s.setPoison sec false else s) s
  let patch (c : CopyLine) : CopyLine := if c.line == ln then
      { c with data := linePatch c.data (pa % 128) bs, poison := patchPoison ln clears c.poison }
    else c
  let s := match die with
    | some d => s.modDie d fun x => { x with rdc := x.rdc.map patch }
    | none => s
  (s.resetSlot pa bs).wakeLine ln

/-- The bytes of one store change at home: it clears the poison of the sectors that it covers whole (R137). -/
def State.writeHome (s : State) (die : Option (Fin 8)) (pa : Nat) (bs : List (Option Byte)) : State :=
  s.writeHomeAs die pa bs (coversSector pa bs) false

/-- The bench's present L1 copy takes a store's bytes and moves by its priority (R71, R291, R420); a last-use store drops it
(R137). -/
def Bench.updateL1 (x : Bench) (pa : Nat) (bs : List (Option Byte)) (clears : Nat → Bool) (pri : BitVec 2) (last : Bool) : Bench :=
  let ln := pa / 128
  let rest := x.l1.filter fun c => c.line != ln
  match firstWhere (fun c => c.line == ln) x.l1 with
  | none => x
  | some c =>
    let c := { c with data := linePatch c.data (pa % 128) bs, poison := patchPoison ln clears c.poison, keep := c.keep || pri == 2 }
    if last then { x with l1 := rest }
    else if pri = 0 then { x with l1 := x.l1.map fun y => if y.line == ln then c else y }
    else { x with l1 := c :: rest }

/-! ### Atomic operations (R138 to R141, R358) -/

/-- f(old, b) on n-bit values; cas compares with the expected value (R138, R140, R358). -/
def atomF (op : AtomOp) (n old b expect : Nat) : Nat :=
  match op with
  | .add => (old + b) % 2 ^ n
  | .and => old &&& b
  | .or => old ||| b
  | .xor => old ^^^ b
  | .min => if signedNat n old ≤ signedNat n b then old else b
  | .max => if signedNat n old < signedNat n b then b else old
  | .minn => if old ≤ b then old else b
  | .maxn => if old < b then b else old
  | .swap => b
  | .fadd => (roundF32 .rne (sumVals .rne [valF32 (BitVec.ofNat 32 old), valF32 (BitVec.ofNat 32 b)])).toNat
  | .cas => if old = expect then b else old

/-! ### Combining slots (R410 to R412) -/

/-- One node of a combining tree: round(left + right, rne, f32) (R411, R342). -/
def combineNode (l r : W32) : W32 := roundF32 .rne (sumVals .rne [valF32 l, valF32 r])

/-- The least power of two, as an exponent, that is not less than N (R411). -/
def ceilLog2 (n : Nat) : Nat := if n ≤ 1 then 0 else Nat.log2 (n - 1) + 1

/-- Climb from a node towards the root: the node that waits, or the root value, and the nodes used up (R411). -/
def climb (n k : Nat) (slot : Nat) : Nat → Node → List Node → Node × List Node
  | 0, x, ns => (x, ns)
  | fuel + 1, x, ns =>
    if k ≤ x.lg then (x, ns)
    else
      let size := 2 ^ x.lg
      let left := x.lo / size % 2 == 0
      let sib := if left then x.lo + size else x.lo - size
      let up (v : W32) (ns : List Node) : Node × List Node :=
        climb n k slot fuel
          ⟨slot, if left then x.lo else sib, x.lg + 1, if left then combineNode x.val v else combineNode v x.val, x.home⟩ ns
      if n ≤ sib then up 0 ns
      else
        match firstWhere (fun y : Node => y.slot == slot && y.lo == sib && y.lg == x.lg) ns with
        | some y => up y.val (ns.filter fun z => z != y)
        | none => (x, ns)

/-- A partial is refused (R411). -/
def State.refuses (s : State) (p : Node) : Bool :=
  let w (o : Nat) : Nat := Mem.nat s.mem (p.slot + o) 8
  let n := w 0
  let size := 2 ^ p.lg
  decide (2 ^ 33 ≤ n) || decide (4 ≤ w 8) || decide (2 ^ 32 ≤ w 0x18)
    || [0x20, 0x28, 0x30, 0x38].any (fun o => w o != 0)
    || n == 0 || decide (2 ^ 32 < n) || decide (2 ^ ceilLog2 n < p.lo + size) || w 8 % 2 == 1
    || s.covered.any fun c => c.1 == p.slot && decide (p.lo < c.2.1 + c.2.2 ∧ c.2.1 < p.lo + size)

/-- A 64-bit word written at home by the combining unit: a store (R411). -/
def State.writeWord (s : State) (pa v : Nat) : State := s.writeHome none pa ((leBytes 8 v).map some)

/-- The words of a slot are written without the reset of a store by software (R411, R412). -/
def State.writeSlot (s : State) (slot : Nat) (o v : Nat) : State :=
  let ns := s.nodes
  let cs := s.covered
  { (s.writeWord (slot + o) v) with nodes := ns, covered := cs }

/-- The combining buffer of a home slice is full (R412). -/
def State.bufferFull (s : State) (home : Nat × Nat) : Bool := decide (512 ≤ (s.nodes.filter fun y => y.home == home).length)

/-- The home combines a partial with its siblings, or refuses it (R411); none while the buffer of the slice is full, or no
tracker is free (R412, R415). -/
def State.combine (s : State) (p : Node) : Option State :=
  if s.bufferFull p.home then none
  else
    match s.dirStore (p.slot / 128) p.home with
    | none => none
    | some s1 =>
      if s.refuses p then some (s1.writeSlot p.slot 8 (Mem.nat s.mem (p.slot + 8) 8 ||| 2))
      else
        let n := Mem.nat s.mem p.slot 8
        let k := ceilLog2 n
        let (x, ns) := climb n k p.slot 40 p s.nodes
        let root := decide (k ≤ x.lg)
        let cnt := Mem.nat s.mem (p.slot + 0x10) 8
        let below := if n ≤ p.lo then 0 else if p.lo + 2 ^ p.lg ≤ n then 2 ^ p.lg else n - p.lo
        let s := { s1 with nodes := if root then ns else x :: ns, covered := (p.slot, p.lo, 2 ^ p.lg) :: s.covered }
        let s := s.writeSlot p.slot 0x10 (cnt + below)
        some (if root then
          (s.writeSlot p.slot 0x18 x.val.toNat).writeSlot p.slot 8 (Mem.nat s.mem (p.slot + 8) 8 ||| 1)
        else s)

/-- Drop every copy of a line that agent `a`, the RDC of a die, holds (R416). -/
def State.dropRdc (s : State) (a : BitVec 6) (ln : Nat) : State :=
  if a.toNat < 8 then s.modDie (dieAt a.toNat) fun d => { d with rdc := d.rdc.filter fun c => c.line != ln } else s

end Sys2Proof.Machine
end

