-- ==== Sys2Proof/Machine/Xlate.lean ====
section
/-! DEFINITION. Fault codes (R94), translation (R185 to R189) and the checks of every memory
access (R131, R426, R427). -/

namespace Sys2Proof.Machine

/-! ### Fault codes (R94) -/

def cILL : Byte := 0x01
def cALIGN : Byte := 0x02
def cXLAT : Byte := 0x03
def cPROT : Byte := 0x04
def cPOISON : Byte := 0x05
def cBANKFMT : Byte := 0x06
def cGRAIN : Byte := 0x07
def cSEGSIG : Byte := 0x08
def cCHKSUM : Byte := 0x09
def cOVERLAP : Byte := 0x0A
def cQDEAD : Byte := 0x0B
def cBARGEN : Byte := 0x0C
def cTAILFULL : Byte := 0x0D
def cSPILL : Byte := 0x0E
def cPROFILE : Byte := 0x0F
def cFABRIC : Byte := 0x10
def cTILEWIN : Byte := 0x11
def cTRAP : Byte := 0x20

/-! ### The walk (R185 to R187) -/

/-- The page size of a leaf at a level, as a power of two (R185). -/
def levelBits (lvl : Nat) : Nat := match lvl with | 0 => 16 | 1 => 21 | 2 => 30 | 3 => 39 | _ => 48

/-- The index of an address at a level (R185). -/
def levelIndex (lvl va : Nat) : Nat := if lvl = 0 then field va 20 16 else va / 2 ^ levelBits lvl % 512

/-- The scope of an R186 code 2 to 8. -/
def pageScope (x : Nat) : Option Scope :=
  if 2 ≤ x ∧ x ≤ 8 then Scope.ofCode (BitVec.ofNat 4 x) else none

/-- A leaf entry at level 0, 1 or 2, if it is well formed (R186, R187). -/
def leafOf (owner : BitVec 6) (lvl va e : Nat) : Option Leaf :=
  let bits := levelBits lvl
  let pa := field e 47 16 * 65536
  let slsz := field e 15 12
  let slidx := field e 57 49
  match pageScope (field e 10 7) with
  | none => none
  | some sc =>
    if field e 48 48 != 0 || field e 6 5 == 3 || decide (9 < slsz) || pa % 2 ^ bits != 0
        || (slsz == 0 && slidx != 0) || (slsz != 0 && decide (384 < slidx * 2 ^ (slsz - 1) + 2 ^ (slsz - 1))) then none
    else
      some ⟨owner, va / 2 ^ bits * 2 ^ bits, bits, pa, BitVec.ofNat 6 (field e 63 58), slidx, slsz, e / 2048 % 2 == 1, sc,
        BitVec.ofNat 2 (field e 6 5), e / 16 % 2 == 1, e / 8 % 2 == 1, e / 4 % 2 == 1⟩

/-- What a walk comes to: a leaf, no translation, or a wait at home (R71, R187). -/
inductive Walked where
  | leaf (l : Leaf)
  | none_
  | wait
  deriving DecidableEq, Repr

/-- Walk from a table at a level for a die: the entries are read as loads at .mo past the L1 (R187). An entry that would lie in
device space or behind an aperture window gives no translation, and nothing is read (log entry 48). -/
def State.walk (s : State) (d : Fin 8) (owner : BitVec 6) (va : Nat) : Nat → Nat → State × Walked
  | lvl, tbl =>
    let a := tbl + 8 * levelIndex lvl va
    let ok := match s.region a with | .mem _ => true | .extent _ _ => true | .host => true | _ => false
    if !ok then (s, .none_)
    else
      match s.readPhys d owner a 8 with
      | none => (s, .wait)
      | some (s, e) =>
        if e % 2 == 0 then (s, .none_)
        else if e / 2 % 2 = 1 then
          (s, match (if lvl ≤ 2 then leafOf owner lvl va e else none) with | some l => .leaf l | none => .none_)
        else
          match lvl with
          | 0 => (s, .none_)
          | n + 1 =>
            let next := field e 47 8 * 256
            if field e 7 2 != 0 || field e 63 48 != 0 || (n != 0 && next % 4096 != 0) then (s, .none_)
            else s.walk d owner va n next

/-- The translation of a virtual address for a tenant, walked afresh for a die from its entry (R185). -/
def State.walkTenant (s : State) (d : Fin 8) (ten : BitVec 6) (ent : Option TenEntry) (va : Nat) : State × Walked :=
  match ent with
  | none => (s, .none_)
  | some t => if va < 2 ^ 57 then s.walk d ten va 4 t.root else (s, .none_)

/-- The tenant's entry by which a bench's team runs: its launch's, as last read (R402). -/
def State.entHere (s : State) (b : BenchId) (ten : BitVec 6) : Option TenEntry :=
  let mine (h : Hitch) : Bool := match (s.bench b).team with | some t => h.seq == t.seq | none => false
  match firstWhere mine s.hitches with
  | some h => h.ent
  | none => s.entOf (dieOf b) ten

/-- A cached translation answers for an address. -/
def Leaf.covers (l : Leaf) (ten : BitVec 6) (va : Nat) : Bool := l.owner == ten && va / 2 ^ l.bits * 2 ^ l.bits == l.va

/-- The physical address of a virtual address in a leaf's page. -/
def Leaf.phys (l : Leaf) (va : Nat) : Nat := l.pa + va % 2 ^ l.bits

/-- Translate for a bench through its TLB and its die's shared TLB, filling both on a walk (R189). -/
def State.translate (s : State) (b : BenchId) (ten : BitVec 6) (va : Nat) : State × Walked :=
  let d := dieOf b
  match firstWhere (fun l => l.covers ten va) (s.bench b).tlb with
  | some l => (s, .leaf l)
  | none =>
    let inBench (s : State) (l : Leaf) : State := s.modBench b fun x => { x with tlb := (l :: x.tlb).take Config.tlbEntries }
    match firstWhere (fun l => l.covers ten va) (s.die d).tlb with
    | some l => (inBench s l, .leaf l)
    | none =>
      match s.walkTenant d ten (s.entHere b ten) va with
      | (s, .leaf l) =>
        (inBench (s.modDie d fun x => { x with tlb := (l :: x.tlb).take Config.dieTlbEntries }) l, .leaf l)
      | r => r

/-! ### The checks of R131 -/

/-- What an access needs of its page (R131 step 4). -/
inductive Need where
  | read | write | both | exec
  deriving DecidableEq, Repr

/-- Whether a page gives a permission. -/
def Leaf.allows (l : Leaf) : Need → Bool
  | .read => l.r
  | .write => l.w
  | .both => l.r && l.w
  | .exec => l.x

/-- An access that has passed its checks: its page and its physical address. -/
structure Passed where
  leaf : Leaf
  pa : Nat
  deriving DecidableEq, Repr

/-- What the checks of an access come to: it passes, a fault code, or a wait of the walk. -/
inductive Checked where
  | ok (p : Passed)
  | fault (code : Byte)
  | wait
  deriving DecidableEq, Repr

/-- The tenant of the team on a bench; 0 without one. -/
def Bench.tenant (x : Bench) : BitVec 6 := match x.team with | some t => t.tenant | none => 0

/-- The access is performed at the device, or uncached (R81, R131, R293). -/
def State.uncached (s : State) (p : Passed) : Bool := p.leaf.cache != 0 || s.region p.pa == .device

/-- An access through a window to whose module no route leads sets LOST in the window (R427). -/
def State.setLost (s : State) (w : Nat) : State := { s with fwin := vmod s.fwin w fun r => r ||| (1#64 <<< 62) }

/-- Steps 3 to 5 of R131 for an access of a tenant through a page that its walk has found. `atomic` asks step 5, `io`
says that the scope is .io. An aperture window with V = 0 and an unpopulated address fail step 3 (R426, R427); an offset in
another module's device space raises PROT; a window without a route is marked LOST and fails with FABRIC (R427, R435). -/
def State.checkPage (s : State) (ten : BitVec 6) (va : Nat) (need : Need) (atomic io : Bool) (l : Leaf) : State × Checked :=
  let raw := l.phys va
  let pa := s.localPa raw
  let win := match s.region raw with | .aperture w => some (vget s.fwin w.toNat 0, w) | _ => none
  let device := win.isSome && decide (0xC000000000 ≤ raw % 2 ^ 40)
  let gone := match win with | some (r, _) => pa == raw && s.noRoute.contains (r.extractLsb' 0 14) | none => false
  if !device && s.region pa == .absent then (s, .fault cXLAT)
  else if (match win with | some (r, _) => !r.getLsbD 63 | none => false) then (s, .fault cXLAT)
  else if !l.allows need || l.tenant != ten then (s, .fault cPROT)
  else if device then (s, .fault cPROT)
  else if atomic && (io || l.cache != 0 || s.region pa == .device) then (s, .fault cPROT)
  else if gone || (match win with | some (r, _) => pa == raw && r.getLsbD 62 | none => false) then
    (match win with | some (_, w) => s.setLost w.toNat | none => s, .fault cFABRIC)
  else (s, .ok ⟨l, pa⟩)

/-- Steps 1 to 5 of R131 for `n` bytes at `va`: the state after a possible TLB fill, and a fault code, the access that
passed, or a wait. -/
def State.check (s : State) (b : BenchId) (va n : Nat) (need : Need) (atomic io : Bool) : State × Checked :=
  if 2 ^ 57 ≤ va then (s, .fault cXLAT)
  else if va % n != 0 then (s, .fault cALIGN)
  else
    match s.translate b (s.bench b).tenant va with
    | (s, .none_) => (s, .fault cXLAT)
    | (s, .wait) => (s, .wait)
    | (s, .leaf l) => s.checkPage (s.bench b).tenant va need atomic io l

end Sys2Proof.Machine
end

