-- ==== Sys2Proof/Machine/Dev.lean ====
section
/-! DEFINITION. The device registers of the die control pages and the mailbox (R296 to R298, R402, R422, R426, R427,
R433, R437, R439, R456 to R461): what a 64-bit read returns and what a 64-bit write does. -/

namespace Sys2Proof.Machine

/-! ### Retention registers (R296 to R298) -/

/-- What the checks of an enabling write come to: the first line and the number of lines that it pins, a refusal, or a wait of the walk of
its range's page (R71, R187, R296). -/
inductive Pin where
  | at_ (first lines : Nat)
  | refused
  | wait
  deriving DecidableEq, Repr

/-- A retention register of a die. -/
def State.retnReg (s : State) (d : Fin 8) (n : Nat) : Retn := vget (s.die d).retn n ⟨0, 0, 0, false, false, 0, 0, 0⟩

/-- The checks of an enabling write, whose walk goes to home as any does (R296, R301, R302). -/
def State.retnCheck (s : State) (d : Fin 8) (n : Nat) (ctl : W64) (ten : BitVec 6) : State × Pin :=
  let r := s.retnReg d n
  let va := (r.base.extractLsb' 7 50).toNat * 128
  let lines := (r.len.extractLsb' 7 21).toNat
  let ways : W16 := ctl.extractLsb' 16 16
  let cnt := popNat 16 ways.toNat
  let others : W16 := ((upTo 4).filter fun k => k != n).foldl
    (fun m k => let q := s.retnReg d k; if q.en then m ||| q.ways else m) ways
  let reservedSet := r.base.extractLsb' 57 7 != 0 || r.base.extractLsb' 0 7 != 0 || r.len.extractLsb' 28 36 != 0
    || r.len.extractLsb' 0 7 != 0 || ctl.extractLsb' 38 25 != 0 || ctl.extractLsb' 1 15 != 0
  if reservedSet || lines == 0 || cnt == 0 || decide (8 < cnt) || others == 0xFFFF#16 then (s, .refused)
  else
    match s.walkTenant d ten (s.entOf d ten) va with
    | (s, .none_) => (s, .refused)
    | (s, .wait) => (s, .wait)
    | (s, .leaf l) =>
      let pa := s.localPa (l.phys va)
      let page := match (s.checkPage ten va .read false false l).2 with | .fault c => c == cFABRIC | _ => true
      (s, if l.covers ten (va + 128 * lines - 1) && page && !s.uncached ⟨l, pa⟩ then .at_ (pa / 128) lines else .refused)

/-- A store to CTL would enable the register, and the walk of its range's page waits (R71, R187, R296). -/
def State.retnWaits (s : State) (d : Fin 8) (n : Nat) (ctl : W64) (ten : BitVec 6) : Bool :=
  ctl.getLsbD 0 && !(s.retnReg d n).en && (s.retnCheck d n ctl ten).2 == .wait

/-- A refused enabling write sets ERR, and WAYS and TENANT take what the store holds (R296, log entry 49). -/
def State.retnRefuse (s : State) (d : Fin 8) (n : Nat) (ctl : W64) (ten : BitVec 6) : State :=
  s.modDie d fun x => { x with retn := vmod x.retn n fun r =>
    { r with ways := ctl.extractLsb' 16 16, err := true, tenant := ten } }

/-- A store to CTL that sets EN while EN is 0: it pins the range, or is refused with ERR (R296). -/
def State.retnSet (s : State) (d : Fin 8) (n : Nat) (ctl : W64) (ten : BitVec 6) : State :=
  match s.retnCheck d n ctl ten with
  | (s, .at_ f k) => s.modDie d fun x => { x with retn := vmod x.retn n fun r =>
      ⟨r.base, r.len, ctl.extractLsb' 16 16, true, false, ten, f, k⟩ }
  | (s, .refused) => s.retnRefuse d n ctl ten
  | (s, .wait) => s

/-- A store to CTL whose EN bit is 0: it unpins an enabled range and keeps WAYS, or writes WAYS of a disabled register
(R296, R298). -/
def State.retnClear (s : State) (d : Fin 8) (n : Nat) (ctl : W64) : State :=
  s.modDie d fun x => { x with retn := vmod x.retn n fun r =>
    if r.en then { r with en := false } else { r with ways := ctl.extractLsb' 16 16 } }

/-- A 64-bit store to CTL (R296). -/
def State.retnCtl (s : State) (d : Fin 8) (n : Nat) (ctl : W64) (ten : BitVec 6) : State :=
  let en := (s.retnReg d n).en
  if ctl.getLsbD 0 then (if en then s else s.retnSet d n ctl ten) else s.retnClear d n ctl

/-- What CTL reads as. -/
def Retn.ctl (r : Retn) : W64 :=
  bit r.err ++ 0#25 ++ r.tenant ++ r.ways ++ 0#15 ++ bit r.en

/-! ### Single registers -/

/-- A write of DCAP, clamped to 100 to 560 W (R457). -/
def clampCap (val : W64) : BitVec 10 :=
  let v := (val.extractLsb' 0 10).toNat
  BitVec.ofNat 10 (if 560 < v then 560 else if v < 100 then 100 else v)

/-- A write of a fabric window, which clears LOST (R427). -/
def State.fwinSet (s : State) (w : Nat) (val : W64) : State :=
  { s with fwin := vset s.fwin w (bit (val.getLsbD 63) ++ 0#49 ++ val.extractLsb' 0 14) }

/-- What a 64-bit word of a die's control page reads as; an offset without a register reads as zero (R426). -/
def State.pageRead (s : State) (d : Fin 8) (o : Nat) : W64 :=
  let x := s.die d
  let d0 := d == 0
  if o = 0x20 ∧ d0 then 0#52 ++ s.bootErr ++ 0#6 ++ s.bootStage
  else if o = 0x40 then x.ttbase
  else if 0x100 ≤ o ∧ o < 0x180 then
    let r := vget x.retn ((o - 0x100) / 0x20) ⟨0, 0, 0, false, false, 0, 0, 0⟩
    match o % 0x20 with
    | 0 => 0#7 ++ r.base.extractLsb' 7 50 ++ 0#7
    | 8 => 0#36 ++ r.len.extractLsb' 7 21 ++ 0#7
    | 16 => r.ctl
    | _ => 0
  else if o = 0x200 then x.ecnt
  else if 0x208 ≤ o ∧ o < 0x608 then
    let e := vget x.elog ((o - 0x208) / 16) (0, 0)
    if o % 16 = 8 then e.1 else e.2
  else if o = 0x800 ∧ d0 then bit s.fabidSet ++ 0#49 ++ s.fabid
  else if o = 0x808 ∧ d0 then 0#48 ++ s.fver
  else if 0xA00 ≤ o ∧ o < 0xE00 ∧ d0 then vget s.fwin ((o - 0xA00) / 8) 0
  else if o = 0xE00 then 0#54 ++ x.dcap
  else if o = 0xE08 then 0#22 ++ x.lim ++ 0#11 ++ x.duty ++ 0#6 ++ x.pwr
  else if 0xE40 ≤ o ∧ o < 0xE60 then
    let t := vget x.telem ((o - 0xE40) / 8) ⟨0, 0, 0⟩
    t.v ++ t.i ++ t.t ++ 0#8
  else if 0xF00 ≤ o ∧ o < 0x1080 ∧ d0 then
    let k := vget s.links ((o - 0xF00) / 8) ⟨0, 0⟩
    0#8 ++ k.margin ++ 0#46 ++ k.state
  else 0

/-- What a 64-bit word of the mailbox reads as (R439, R461). -/
def State.mailRead (s : State) (o : Nat) : W64 :=
  let m := s.mailbox
  if o = 0 then (match m.owner with | some h => 1#1 ++ 0#59 ++ h | none => 0)
  else if 0x100 ≤ o ∧ o < 0x180 then m.record.extractLsb' (8 * (o - 0x100)) 64
  else if o = 0x180 then bit m.go ++ 0#53 ++ m.ten ++ 0#1 ++ m.die
  else if o = 0x188 then m.res
  else if 0x400 ≤ o ∧ o < 0x420 then m.nonce.extractLsb' (8 * (o - 0x400)) 64
  else if o = 0x420 then 0#63 ++ bit m.attest
  else if 0x800 ≤ o then BitVec.ofNat 64 (leNat ((m.report.drop (o - 0x800)).take 8))
  else 0

/-- A 64-bit word of device space. -/
def State.devWord (s : State) (pa : Nat) : W64 :=
  let o := pa % 65536 / 8 * 8
  if 0xFF00100000 ≤ pa then s.mailRead o else s.pageRead (dieAt ((pa - 0xFF00000000) / 65536)) o

/-- A read of `n` bytes of device space: a narrower load returns the addressed bytes of the register (R426). -/
def State.devRead (s : State) (pa n : Nat) : Nat := (s.devWord pa).toNat / 2 ^ (8 * (pa % 8)) % 2 ^ (8 * n)

/-- A 64-bit write to a register of a control page that has no behaviour of its own (R296, R402, R426). -/
def State.plainWrite (s : State) (d : Fin 8) (o : Nat) (val : W64) : State :=
  if o = 0x40 then s.modDie d fun x => { x with ttbase := 0#16 ++ val.extractLsb' 12 36 ++ 0#12 }
  else if 0x100 ≤ o ∧ o < 0x180 then
    s.modDie d fun x => { x with retn := vmod x.retn ((o - 0x100) / 0x20) fun r =>
      if r.en then r
      else match o % 0x20 with
        | 0 => { r with base := val }
        | 8 => { r with len := val }
        | _ => r }
  else s

/-- A 64-bit write to a control page. -/
def State.pageWrite (s : State) (d : Fin 8) (o : Nat) (val : W64) (ten : BitVec 6) : State :=
  if 0x100 ≤ o ∧ o < 0x180 ∧ o % 0x20 = 0x10 then s.retnCtl d ((o - 0x100) / 0x20) val ten
  else if 0xA00 ≤ o ∧ o < 0xE00 ∧ d == 0 then s.fwinSet ((o - 0xA00) / 8) val
  else if o = 0xE00 then s.modDie d fun x => { x with dcap := clampCap val }
  else s.plainWrite d o val

/-- A 64-bit write to the mailbox that needs no host number: the launch record and the tenant and die (R439). The
other fields act for hosts alone (log entry 18). -/
def State.mailWrite (s : State) (o : Nat) (val : W64) : State :=
  let m := s.mailbox
  if 0x100 ≤ o ∧ o < 0x180 then
    { s with mailbox := { m with record := linePatch m.record (o - 0x100) ((leBytes 8 val.toNat).map some), asks := [] } }
  else if o = 0x180 then
    let ten : BitVec 6 := val.extractLsb' 4 6
    let die : BitVec 3 := val.extractLsb' 0 3
    { s with mailbox := { m with ten := ten, die := die, asks := if ten = m.ten ∧ die = m.die then m.asks else [] } }
  else s

/-- A write of `n` bytes to device space; one narrower than 64 bits changes nothing (R426). -/
def State.devWrite (s : State) (pa n : Nat) (val : W64) (ten : BitVec 6) : State :=
  if n != 8 || pa % 8 != 0 then s
  else if 0xFF00100000 ≤ pa then s.mailWrite (pa % 65536) val
  else s.pageWrite (dieAt ((pa - 0xFF00000000) / 65536)) (pa % 65536) val ten

/-- The 64-bit words that a store under a mask covers whole, each with its address. -/
def wholeWords (pa : Nat) (bs : List (Option Byte)) : List (Nat × W64) :=
  (upTo bs.length).filterMap fun i =>
    let w := (bs.drop i).take 8
    if (pa + i) % 8 == 0 && w.length == 8 && w.all Option.isSome then
      some (pa + i, BitVec.ofNat 64 (leNat (w.map fun o => o.getD 0)))
    else none

/-- A store to device space waits while it would enable a retention register whose walk waits (R187, R296). -/
def State.devWaits (s : State) (pa : Nat) (bs : List (Option Byte)) (ten : BitVec 6) : Bool :=
  (wholeWords pa bs).any fun w =>
    let o := w.1 % 65536
    decide (w.1 < 0xFF00100000) && decide (0x100 ≤ o ∧ o < 0x180 ∧ o % 0x20 = 0x10)
      && s.retnWaits (dieAt ((w.1 - 0xFF00000000) / 65536)) ((o - 0x100) / 0x20) w.2 ten

/-- The walks for which a store to device space waits. -/
def State.devWalks (s : State) (pa : Nat) (bs : List (Option Byte)) (ten : BitVec 6) : State :=
  if s.devWaits pa bs ten then
    ((wholeWords pa bs).filter fun w => s.devWaits w.1 ((leBytes 8 w.2.toNat).map some) ten).foldl (fun s w =>
      (s.retnCheck (dieAt ((w.1 - 0xFF00000000) / 65536)) ((w.1 % 65536 - 0x100) / 0x20) w.2 ten).1) s
  else s

/-- A store under a mask to device space writes, in order, the registers whose 64-bit words it covers whole (R369, R426). -/
def State.devStore (s : State) (pa : Nat) (bs : List (Option Byte)) (ten : BitVec 6) : State :=
  (wholeWords pa bs).foldl (fun s w => s.devWrite w.1 8 w.2 ten) s

/-- The bytes of device space that a read of whole registers gives. -/
def State.devBytes (s : State) (pa n : Nat) : List Byte := (upTo (n / 8)).flatMap fun k => leBytes 8 (s.devRead (pa + 8 * k) 8)

end Sys2Proof.Machine
end

