-- ==== Sys2Proof/Machine/Mem.lean ====
section
/-! DEFINITION. Loads, acquires, the store buffers and releases: how a load is served (R65, R69, R71, R81, R82), what an
acquire does (R70, R82), when a release takes effect (R72, R73), and how the oldest entry of a store buffer performs
(R66, R71, R136 to R141, R430). -/

namespace Sys2Proof.Machine

/-! ### Acquires (R70, R82) -/

/-- One class counter is incremented; on a wrap the L1 loses every line of the class (R70). -/
def Bench.bumpClass (x : Bench) (k : Nat) : Bench :=
  let n := vget x.ctr k 0 + 1
  { x with ctr := vset x.ctr k n, l1 := if n = 0 then x.l1.filter fun l => scopeCls l.cls != k else x.l1 }

/-- An acquire at a scope by C or a barrier: the class counters up to it, and, at .bn or wider or .en, the constant
cache (R70, R82). -/
def Bench.acquire (x : Bench) (sc : Scope) : Bench :=
  let x := (scopeAcquires sc).foldl Bench.bumpClass x
  if sc = .st then x else { x with cc := [] }

/-- The blocks fetched ahead are discarded; one whose fault has been raised stays until ERET (R290). -/
def Feed.discard (f : Feed) : Feed := { f with ahead := f.ahead.filter fun k => k.raised.isSome }

/-- A take from C, V or S: every block that a read feed has fetched ahead is discarded (R288). -/
def Bench.discardAhead (x : Bench) : Bench :=
  { x with feeds := Vector.ofFn fun i : Fin 16 => let f := x.feeds[i]; if f.dir = .wr then f else f.discard }

/-! ### Releases (R72, R73) -/

/-- Whether a release can take effect: yes, not yet, or never, because a store that it must cover was dropped with a
lost module (R435). -/
inductive Ready where
  | yes | no | lost
  deriving DecidableEq, Repr

/-- Entries of a store queue older than a mark. -/
def olderThan (mark : Nat) (q : List StEntry) : Bool := q.any fun e => decide (e.seq < mark)

/-- A plain store of memory: it reaches the .en point when it leaves its buffer, though it has still to perform at home (R72). -/
def StEntry.plain (e : StEntry) : Bool := e.kind == .store && !e.rel && !e.device

/-- A release of stream `i` at .bn or .en: the plain stores that it has issued before `mark` have left its buffer (R72, R77). -/
def Bench.leave (x : Bench) (i mark : Nat) : Bench := { x with left := vmod x.left i (max mark) }

/-- The number of a stream: 0 to 3 the contexts of C, 4 to 7 L, P, V and S. -/
def ownerOf (st : Stream) (c : Fin 4) : Nat :=
  match st with | .c => c.val | .l => 4 | .p => 5 | .v => 6 | .s => 7

/-- The stream that fills a queue. -/
def ownerQ (q : Buf) (c : Fin 4) : Nat := match q with | .c => c.val | .v => 6 | .s => 7

/-- A store of a queue has left the bench for its home (R72). -/
def Bench.gone (x : Bench) (q : Buf) (e : StEntry) : Bool := decide (e.seq < vget x.left (ownerQ q e.ctx) 0)

/-- A release of stream `i` must cover what lines hold now (R73). -/
def Bench.addDuty (x : Bench) (i : Nat) (ls : List Nat) : Bench := { x with duty := vmod x.duty i fun d => ls ++ d }

/-- The releases of stream `j` cover an entry too. -/
def StEntry.coveredBy (e : StEntry) (j : Nat) : StEntry := if e.own.contains j then e else { e with own := e.own ++ [j] }

/-- Every store and atomic of a bench that has still to perform changes: in its queues, on its way to another module, or of a retired
team; by its queue. -/
def Bench.mapStores (x : Bench) (f : Buf → StEntry → StEntry) : Bench :=
  let far (e : Buf × StEntry) : Buf × StEntry := (e.1, f e.1 e.2)
  { (x.modC fun u => { u with sb := u.sb.map (f .c) }) with
    sq := x.sq.map (f .s)
    vq := x.vq.map (f .v)
    fab := x.fab.map far
    orphans := x.orphans.map far }

/-- What the releases of stream `i` must cover, those of stream `j` must cover from now on (R35, R73). -/
def Bench.joinDuty (x : Bench) (i j : Nat) : Bench :=
  { ((x.addDuty j (vget x.duty i [])).mapStores fun _ e => if e.own.contains i then e.coveredBy j else e) with
    fabLost := if x.fabLost.contains i then j :: x.fabLost else x.fabLost }

/-- An acquire at a scope by a bench is ordered after a release of another at a scope: each lies in the instance of both scopes. -/
def scopesMeet (sc rel : Scope) (b d : BenchId) : Bool :=
  match min (scopeRank sc) (scopeRank rel) with
  | 0 => false | 1 => b == d | 2 => spanOf b == spanOf d | 3 => dieOf b == dieOf d | _ => true

/-- A release of a stream takes effect at a scope narrower than .ch though a store that it covers was dropped with a lost module:
an acquire that is ordered after it inherits the loss (R73, R435). -/
def State.publish (s : State) (b : BenchId) (i : Nat) (sc : Scope) : State :=
  let r := ((s.bench b).tenant, b, sc)
  if (s.bench b).fabLost.contains i && decide (1 ≤ scopeRank sc ∧ scopeRank sc < 6) && !s.spread.contains r then
    { s with spread := r :: s.spread }
  else s

/-- An acquire of a stream: its releases cover from now on every store that is ordered before it, of which those with an open
tracker, those that have left the bench for their homes or for other modules and those dropped with a lost module have not reached every
point (R73, log entry 17). -/
def State.dutyAll (s : State) (b : BenchId) (i : Nat) (sc : Scope) : State :=
  if sc = .st then s
  else
    let lost := s.spread.any fun r => r.1 == (s.bench b).tenant && scopesMeet sc r.2.2 b r.2.1
    let out (x : Bench) (q : Buf) (e : StEntry) : Bool := x.gone q e || x.fab.contains (q, e) || x.orphans.contains (q, e)
    s.modBench b fun x =>
      { ((x.addDuty i (s.trackers.map Tracker.line)).mapStores fun q e => if out x q e then e.coveredBy i else e) with
        fabLost := if lost && !x.fabLost.contains i then i :: x.fabLost else x.fabLost }

/-- A release of a stream at .bn or .en: its plain stores before `mark` leave its buffer (R72). -/
def State.leaves (s : State) (b : BenchId) (i : Nat) (sc : Scope) (mark : Nat) : State :=
  if scopeRank sc = 1 then s.modBench b fun x => x.leave i mark else s

/-- The release of condition R73 at a scope, for what the stream issued before `mark`: older loads of the context have bound,
older stores can leave the buffers and older atomics have performed, at .sp or wider the stores too, at .sp or wider those sent to other modules have performed, and at .mo and .ho
the trackers of the stores that it must cover have answered (log entry 17). -/
def State.releaseReady (s : State) (b : BenchId) (q : Buf) (c : Fin 4) (sc : Scope) (mark : Nat) : Ready :=
  let x := s.bench b
  let i := ownerQ q c
  let mine := vget x.duty i []
  if q == .c && x.c.loads.any (fun l => l.ctx == c && decide (l.seq < mark)) then .no
  else if sc = .st then .yes
  else
    let own := match q with | .c => x.c.sb.filter (fun e => e.ctx == c) | .s => x.sq | .v => x.vq
    if scopeRank sc < 2 then (if olderThan mark (own.filter fun e => !e.plain) then .no else .yes)
    else if olderThan mark own then .no
    else if olderThan mark x.c.sb || olderThan mark x.sq || olderThan mark x.vq then .no
    else if 6 ≤ scopeRank sc && x.fabLost.contains i then .lost
    else if (x.fab ++ x.orphans).any (fun e => decide (e.2.seq < mark) && e.2.own.contains i) then .no
    else if 5 ≤ scopeRank sc && s.trackers.any (fun t => mine.contains t.line) then .no
    else if sc = .mo && s.trackers.any (fun t => t.openMo && mine.contains t.line) then .no
    else .yes

/-! ### The L1, the RDC and the constant cache -/

/-- Insert a line in an L1 by R291: eight ways a set; a line that is refilled keeps its keep mark. -/
def Bench.fillL1 (x : Bench) (n : L1Line) (pri : BitVec 2) : Bench :=
  let n := { n with keep := n.keep || x.l1.any fun l => l.line == n.line && l.keep }
  let rest := x.l1.filter fun l => l.line != n.line
  let inSet := rest.filter fun l => l.line % Config.l1Sets == n.line % Config.l1Sets
  let full := decide (Config.l1Ways ≤ inSet.length)
  let victim := if full then victimOf L1Line.keep inSet else none
  let rest := match victim with | some v => rest.filter fun l => l.line != v.line | none => rest
  if pri = 0 || (pri = 3 && full) then { x with l1 := rest ++ [n] } else { x with l1 := n :: rest }

/-- A hit moves the line by R291. -/
def Bench.hitL1 (x : Bench) (l : L1Line) (pri : BitVec 2) : Bench :=
  if pri = 0 then x
  else { x with l1 := { l with keep := l.keep || pri == 2 } :: x.l1.filter fun y => y.line != l.line }

/-! ### Serving loads -/

/-- How a load goes: bytes, a wait at home (R71, R81, R414), a fault, or a request to another module (R428). -/
inductive LoadRes where
  | ok (s : State) (bytes : List Byte)
  | wait (s : State)
  | fault (s : State) (code : Byte)
  | remote (s : State)

/-- The youngest older store of the stream to a byte, while it is still in the store buffer (R65, R175). -/
def forwardByte (sb : List StEntry) (c : Fin 4) (mark a : Nat) : Option Byte :=
  sb.foldl (fun r e =>
    if e.ctx == c && decide (e.seq < mark) && e.kind == .store && decide (e.pa ≤ a) then
      (match e.bytes[a - e.pa]? with | some (some v) => some v | _ => r)
    else r) none

/-- A poisoned sector is bound by an access of a die under a tenant: on a PREP page the address is logged (R186, R422). -/
def State.logPrepOf (s : State) (p : Passed) (d : Fin 8) (ten : BitVec 6) : State :=
  if p.leaf.prep then s.logErr ((s.homeDie p.pa).getD d) p.pa 4 ten.toNat else s

/-- A poisoned sector is bound by an access of a bench (R186, R422). -/
def State.logPrep (s : State) (p : Passed) (b : BenchId) : State := s.logPrepOf p (dieOf b) (s.bench b).tenant

/-- The bytes `o` to `o + n - 1` of a line, with older stores of the stream laid over them. -/
def overlay (d : LineData) (pa n : Nat) (fwd : Nat → Option Byte) : List Byte :=
  (span pa n).map fun a => (fwd a).getD (lineByte d (a % 128))

/-- Whether a poisoned sector of the line holds one of the bytes that are read from it. -/
def bindsPoison (po : BitVec 4) (pa n : Nat) (fwd : Nat → Option Byte) : Bool :=
  (span pa n).any fun a => (fwd a).isNone && po.getLsbD (a % 128 / 32)

/-- A last-use read drops the line from the L1, the RDC and the home L2 (R292). -/
def State.dropAfter (s : State) (b : BenchId) (ln : Nat) : State :=
  let s := s.modBench b fun x => { x with l1 := x.l1.filter fun l => l.line != ln }
  let s := s.modDie (dieOf b) fun d => { d with rdc := d.rdc.filter fun l => l.line != ln }
  s.dropLine ln

/-- The line fetched past the L1 for a bench (R69). -/
def State.fetchLine (s : State) (b : BenchId) (p : Passed) (sc : Scope) (pri : BitVec 2) (alloc : Bool) :
    Option (State × LineData × BitVec 4) :=
  s.fetchFor (dieOf b) (s.bench b).tenant p.leaf p.pa sc pri alloc

/-- A load at .mo or wider that has found its line in the L1 or the RDC while the line has an open tracker has read a store that a
release of its stream must cover (R73); here every stream of the bench covers it. -/
def State.oweRead (s : State) (b : BenchId) (sc : Scope) (ln : Nat) : State :=
  if 4 ≤ scopeRank sc && s.pending ln then s.modBench b fun x => (upTo 8).foldl (fun x i => x.addDuty i [ln]) x else s

/-- Bring a line into the bench's L1 for a load, or hit there: R69 with the page's default scope (R188). -/
def State.loadLine (s : State) (b : BenchId) (p : Passed) (sc : Scope) (pri : BitVec 2) :
    Option (State × LineData × BitVec 4) :=
  let ln := p.pa / 128
  let x := s.bench b
  let c := scopeCls sc
  match firstWhere (fun l => l.line == ln && decide (scopeCls l.cls ≤ c) && l.gen == vget x.ctr (scopeCls l.cls) 0) x.l1 with
  | some l =>
    some ((s.oweRead b sc ln).modBench b fun x => x.hitL1 l pri, l.data, l.poison)
  | none =>
    match s.fetchLine b p sc pri true with
    | none => none
    | some (s, d, po) =>
      let cls : Scope := if scopeRank sc < 2 then .sp else sc
      some ((s.oweRead b sc ln).modBench b fun x => x.fillL1 ⟨ln, cls, vget x.ctr c 0, d, po, pri == 2⟩ pri, d, po)

/-- Whether an address lies in a released extent (R423). -/
def State.releasedRange (s : State) (pa : Nat) : Bool := match s.region pa with | .extent _ r => r | _ => false

/-- A load of `n` bytes within one line, for context `c` of C when `fwd` forwards from the store buffer (R65), by R69
at its scope widened by the page (R188), or by R81 for .io, uncached pages and device space. -/
def State.load (s : State) (b : BenchId) (p : Passed) (n : Nat) (sc : Scope) (pri : BitVec 2) (last : Bool)
    (fwd : Nat → Option Byte) : LoadRes :=
  let region := s.region p.pa
  if region == .device then .ok s (if n ≤ 8 then leBytes n (s.devRead p.pa n) else s.devBytes p.pa n)
  else if (match region with | .aperture _ => true | _ => false) then .remote s
  else if s.releasedRange p.pa then .fault (s.logPrep p b) cPOISON
  else if s.closingRange p.pa then .wait s
  else
    let sc := scopeWiden sc p.leaf.scope
    let direct := sc == .io || p.leaf.cache != 0
    let got := if direct then s.fetchLine b p sc pri false else s.loadLine b p sc pri
    match got with
    | none => .wait s
    | some (s, d, po) =>
      if bindsPoison po p.pa n fwd then .fault (s.logPrep p b) cPOISON
      else
        let bs := overlay d p.pa n fwd
        .ok (if last && p.leaf.cache == 0 then s.dropAfter b (p.pa / 128) else s) bs

/-- A line enters the constant cache, which loses its least recently used line (R82, log entry 14). -/
def Bench.fillConst (x : Bench) (n : CopyLine) : Bench :=
  { x with cc := (n :: x.cc.filter fun l => l.line != n.line).take Config.ccLines }

/-- LDC's read of 64 bits through the constant cache: a miss fills a line as a relaxed load at .sp that allocates no L1
line (R82, R135); a line of another module is asked for there (R428), and its place is kept until an acquire empties the cache. -/
def State.loadConst (s : State) (b : BenchId) (p : Passed) : LoadRes :=
  let ln := p.pa / 128
  let none_ (_ : Nat) : Option Byte := none
  if s.region p.pa == .device then .ok s (leBytes 8 (s.devRead p.pa 8))
  else if s.releasedRange p.pa then .fault (s.logPrep p b) cPOISON
  else
    match firstWhere (fun l => l.line == ln && !l.keep) (if p.leaf.cache == 0 then (s.bench b).cc else []) with
    | some l =>
      if bindsPoison l.poison p.pa 8 none_ then .fault (s.logPrep p b) cPOISON
      else .ok (s.modBench b fun x => x.fillConst l) (overlay l.data p.pa 8 none_)
    | none =>
      if (match s.region p.pa with | .aperture _ => true | _ => false) then .remote s
      else if s.closingRange p.pa then .wait s
      else
        match s.fetchLine b p (scopeWiden .sp p.leaf.scope) 1 (p.leaf.cache == 0) with
        | none => .wait s
        | some (s, d, po) =>
          let s := if p.leaf.cache == 0 then s.modBench b fun x => x.fillConst ⟨ln, d, po, false⟩ else s
          if bindsPoison po p.pa 8 none_ then .fault (s.logPrep p b) cPOISON else .ok s (overlay d p.pa 8 none_)

/-! ### Sending to other modules (R429 to R431) -/

/-- The module behind an aperture address. -/
def State.moduleOf (s : State) (pa : Nat) : BitVec 14 :=
  match s.region pa with | .aperture w => (vget s.fwin w.toNat 0).extractLsb' 0 14 | _ => 0

/-- The stores of retired teams that a queue has left and that have not been sent to another module. -/
def Bench.orphansOf (x : Bench) (q : Buf) : List StEntry := (x.orphans.filter fun o => o.1 == q && o.2.sent.isNone).map Prod.snd

/-- The stores of a bench that have left it and have still to perform at home. -/
def Bench.leftStores (x : Bench) : List StEntry :=
  x.orphansOf .c ++ x.orphansOf .s ++ x.c.sb.filter (x.gone .c) ++ x.sq.filter (x.gone .s)

/-- Two requests go to one home slice, or to one other module, which serves those of a bench in the order in which they leave it (R64,
R430). -/
def State.sameHome (s : State) (e : StEntry) (p : Passed) : Bool :=
  match s.region e.pa, s.region p.pa with
  | .aperture _, .aperture _ => s.moduleOf e.pa == s.moduleOf p.pa
  | .aperture _, _ => false
  | _, .aperture _ => false
  | _, _ => s.homeOf e.leaf (e.pa / 128) == s.homeOf p.leaf (p.pa / 128)

/-- An entry of a list that a queue has left is still on its way to another module than an access of the queue goes to (R66, R430). -/
def State.awayFrom (s : State) (l : List (Buf × StEntry)) (q : Buf) (e : StEntry) : Bool :=
  let away := match s.region e.pa with | .aperture _ => true | _ => false
  l.any fun f => f.1 == q && (match f.2.sent with | some (m, _) => !away || m != s.moduleOf e.pa | none => false)

/-- A store that has left the bench before `mark` goes to the same home as an access and has still to perform there (R64, log entry
61). -/
def State.behind (s : State) (b : BenchId) (mark : Nat) (p : Passed) : Bool :=
  (s.bench b).leftStores.any fun e => decide (e.seq < mark) && s.sameHome e p

/-- A request enters its flow's retry buffer, and one with a tag awaits its response; none while the buffer is full
(R431). -/
def State.send (s : State) (dmod : BitVec 14) (ten : BitVec 6) (kind : Byte) (body : Body) : Option (State × W32) :=
  if !s.mayRetry then none
  else
    let wait : List (Nat × BitVec 14) :=
      match body with
      | .load _ _ tag => [(tag, dmod)]
      | .atomic _ _ _ _ _ tag => [(tag, dmod)]
      | .redt _ _ _ _ tag => [(tag, dmod)]
      | _ => []
    some ({ s with awaited := s.awaited ++ wait }.sendFlow dmod 0 ten kind body)

/-- A response with a tag, if it has arrived. -/
def State.response (s : State) (tag : Nat) : Option Response := firstWhere (fun r => r.tag == tag) s.responses
/-- A response is taken. -/
def State.takeResponse (s : State) (tag : Nat) : State :=
  { s with responses := s.responses.filter fun r => r.tag != tag, awaited := s.awaited.filter fun r => r.1 != tag }

/-- Who asks another module for bytes other than by a load: a stream of a bench, or the mailbox's submission. -/
inductive Asker where
  | of (b : BenchId) (st : Stream) (c : Fin 4)
  | mail
  deriving DecidableEq, Repr

/-- What an asker has asked for. -/
def State.asksOf (s : State) (w : Asker) : List AskIn :=
  match w with
  | .of b st c => (s.bench b).asks.filter fun a => a.st == st && a.ctx == c
  | .mail => s.mailbox.asks

/-- Change what an asker has asked for. -/
def State.setAsks (s : State) (w : Asker) (l : List AskIn) : State :=
  match w with
  | .of b st c => s.modBench b fun x => { x with asks := (x.asks.filter fun a => !(a.st == st && a.ctx == c)) ++ l }
  | .mail => { s with mailbox := { s.mailbox with asks := l } }

/-- The tag of an asker's next request, which is then used up. -/
def State.askTag (s : State) (w : Asker) : State × Nat :=
  match w with
  | .of b _ _ => (s.modBench b fun x => { x with seq := x.seq + 1 }, tagOf b.val (s.bench b).seq)
  | .mail => ({ s with mailbox := { s.mailbox with asked := s.mailbox.asked + 1 } }, tagOf 768 s.mailbox.asked)

/-- Something is noted among what an asker has asked for. -/
def State.addAsk (s : State) (w : Asker) (p : Passed) (size tag : Nat) (val : Option (Nat × Byte)) : State :=
  let me : Stream × Fin 4 := match w with | .of _ st c => (st, c) | .mail => (.c, 0)
  s.setAsks w (s.asksOf w ++ [⟨me.1, me.2, p.pa, size, tag, val, p.leaf⟩])

/-- The bytes that an asker has asked for are forgotten. -/
def State.dropAsks (s : State) (w : Asker) : State := s.setAsks w []

/-- An asker's note about an address and a size. -/
def State.askAt (s : State) (w : Asker) (pa size : Nat) : Option AskIn :=
  firstWhere (fun a => a.pa == pa && a.size == size) (s.asksOf w)

/-- Bytes of another module that an asker needs: they are asked for once, under a tenant, and are there, with their fault
code, once the response has come (R428). -/
def State.askRemote (s : State) (w : Asker) (ten : BitVec 6) (p : Passed) (size : Nat) : State × Option (Nat × Byte) :=
  match s.askAt w p.pa size with
  | some a =>
    match a.val, s.response a.tag with
    | some v, _ => (s, some v)
    | none, none => (s, none)
    | none, some r =>
      let v := (r.val.toNat % 2 ^ (8 * size), r.code)
      let fill (e : AskIn) : AskIn := if e.tag == a.tag then { e with val := some v } else e
      ((s.takeResponse a.tag).setAsks w ((s.asksOf w).map fill), some v)
  | none =>
    let (t, tag) := s.askTag w
    match t.send (s.moduleOf p.pa) ten 1 (.load (p.pa % 2 ^ 40) size tag) with
    | none => (s, none)
    | some (t, _) => (t.addAsk w p size tag none, none)

/-- A sequence number `x` is not later than `a`, modulo 2^32. -/
def seqCovers (a x : W32) : Bool := decide ((a - x).toNat < 2 ^ 31)

/-- A request to a module has performed there, or the module is lost (R431, R435). -/
def State.performedAt (s : State) (m : BitVec 14) (seq : W32) : Bool :=
  s.noRoute.contains m || s.outFlows.any fun f => f.dmod == m && f.ch == 0
    && (match f.perf with | some a => seqCovers a seq | none => false)

/-! ### Performing the oldest entry of a store buffer -/

/-- The queue of a buffer. -/
def Bench.queue (x : Bench) : Buf → List StEntry
  | .c => x.c.sb
  | .s => x.sq
  | .v => x.vq
/-- Replace the queue of a buffer. -/
def Bench.setQueue (x : Bench) (q : Buf) (l : List StEntry) : Bench :=
  match q with
  | .c => x.modC fun c => { c with sb := l }
  | .s => { x with sq := l }
  | .v => { x with vq := l }

/-- The halves of an atomic's result that its context has left in flight. -/
def Bench.halves (x : Bench) (tag : Nat) : List PendLoad :=
  x.c.loads.filter fun l => match l.atom with | some (t, _) => t == tag | none => false

/-- A half of an atomic's result. -/
def halfOf (l : PendLoad) (val : Nat) : W64 :=
  BitVec.ofNat 64 (match l.atom with | some (_, true) => val / 2 ^ 64 | _ => val)

/-- The halves of an atomic's result arrive (R85, R138). -/
def Bench.landHalves (x : Bench) (ls : List PendLoad) (val : Nat) : Bench :=
  ls.foldl (fun x l => x.arriveVal l (halfOf l val)) x

/-- The physical register `j` of the eight that a window names. -/
def windowReg (w : BitVec 4) (j : Nat) : Nat := (4 * w.toNat + j) % 64

/-- An access that a context has left in flight may still fault: it is not boosted, and another module answers it or it is an atomic
(R131, R420, R435). What the context does meanwhile has not completed (log entry 9). -/
def Bench.unsure (x : Bench) (c : Fin 4) : Bool :=
  x.c.loads.any fun l => l.ctx == c && !l.origin.boosted && (l.away || l.atom.isSome)

/-- A context returns to an access in flight, as it was when the access issued: what the context has begun since then is undone, none
of it having completed. -/
def Bench.squash (x : Bench) (l : PendLoad) : Bench :=
  let c := l.ctx
  let w := (x.ctx c).w
  let old (n : Nat) : Bool := decide (n < l.seq)
  let x := x.modC fun u =>
    { u with
      loads := u.loads.filter fun y => y.ctx != c || old y.seq
      sb := u.sb.filter fun e => e.ctx != c || old e.seq
      file := l.mark.regs.zipIdx.foldl (fun f r => vset f (windowReg w r.2) r.1) u.file }
  { x with asks := x.asks.filter fun a => a.st != Stream.c || a.ctx != c }.modCtx c fun k =>
    { k with pc := l.origin.pc, rq := l.mark.rq, sh1 := l.mark.sh1, sh2 := l.mark.sh2, wait := none, phase := .idle }

/-- The tags under which a context awaits responses. -/
def Bench.tagsOf (x : Bench) (c : Fin 4) (seq : Nat) : List Nat :=
  ((x.c.loads.filter fun l => l.ctx == c && decide (seq ≤ l.seq)).map PendLoad.tag) ++
    (match (x.ctx c).phase with | .remote t _ _ _ _ => [t] | .atomic t _ _ _ => [t] | _ => [])

/-- An access that a context has left in flight comes back with a fault: the context returns to it, and the access issues again, so
that its fault is precise and it pushes nothing (R85, R131, log entry 9). -/
def State.squash (s : State) (b : BenchId) (l : PendLoad) : State :=
  let gone := (s.bench b).tagsOf l.ctx l.seq
  { (s.modBench b fun x => x.squash l) with
    awaited := s.awaited.filter fun r => !gone.contains r.1
    responses := s.responses.filter fun r => !gone.contains r.tag }

/-- The response to an atomic: for V the lane's record, for C the result that its context has left in flight, or a
response that it awaits (R85, R131, R358). -/
def State.answer (s : State) (b : BenchId) (q : Buf) (e : StEntry) (val : Nat) (code : Byte) : State :=
  match q with
  | .v => s.modBench b fun x =>
      { x with vres := (tagNo e.tag, if code = 0 then BitVec.ofNat 32 val else code.setWidth 32, code != 0) :: x.vres }
  | _ =>
    match (s.bench b).halves e.tag with
    | [] => { s with responses := ⟨e.tag, BitVec.ofNat 1024 val, code, 0⟩ :: s.responses }
    | l :: ls => if code = 0 then s.modBench b fun x => x.landHalves (l :: ls) val else s.squash b l

/-- An atomic in host memory: the module obtains the line and holds it until a snoop takes it (R409). -/
def State.holdHost (s : State) (pa : Nat) : State :=
  if s.region pa == .host && !s.hostHeld.contains (pa / 128) then { s with hostHeld := (pa / 128) :: s.hostHeld } else s

/-- A line that has an open tracker after a store: the releases of the store's stream must cover it (R73). -/
def State.owe (s : State) (b : BenchId) (e : StEntry) : State :=
  if s.pending (e.pa / 128) then s.modBench b fun x => e.own.foldl (fun x i => x.addDuty i [e.pa / 128]) x else s

/-- A load at a scope waits for a pending line at home (R71). -/
def State.loadWaits (s : State) (sc : Scope) (ln : Nat) : Bool := (sc = .mo && s.pendingMo ln) || (5 ≤ scopeRank sc && s.pending ln)

/-- An atomic raises POISON: it is logged where the atomic completes, and not where its context returns to it to issue it again (R131,
R422). -/
def State.poisonAtomic (s : State) (b : BenchId) (q : Buf) (e : StEntry) : State :=
  let again := q == .c && !((s.bench b).halves e.tag).isEmpty
  (if again then s else s.logPrep ⟨e.leaf, e.pa⟩ b).answer b q e 0 cPOISON

/-- The atomic of an entry performed at home (R138 to R141, R407 to R409), which first fills the line; one that finds poison writes
nothing and raises POISON (R131, R420); none while it waits for a tracker, or, as a CAS that fails and counts as a load, for a pending
line (R71, R140). The
bench's L1 loses the line again, which a load older than the atomic may have brought in since it issued (R65, R139). -/
def State.performAtomic (s : State) (b : BenchId) (q : Buf) (e : StEntry) (op : AtomOp) (v ex : W128) : Option State :=
  let old := Mem.nat s.mem e.pa e.size
  let s := s.modBench b fun x => { x with l1 := x.l1.filter fun l => l.line != e.pa / 128 }
  let filled := s.touchL2 e.pa e.leaf 1 false (s.bench b).tenant
  if s.releasedRange e.pa then some (s.poisonAtomic b q e)
  else if s.closingRange e.pa then none
  else if s.poisoned e.pa e.size then some (filled.poisonAtomic b q e)
  else if op = .cas && old != ex.toNat then
    if s.loadWaits (scopeWiden e.scope e.leaf.scope) (e.pa / 128) then none else some ((filled.holdHost e.pa).answer b q e old 0)
  else
    match s.dirStore (e.pa / 128) (s.homeOf e.leaf (e.pa / 128)) with
    | none => none
    | some s =>
      let s := (s.touchL2 e.pa e.leaf 1 false (s.bench b).tenant).holdHost e.pa
      let new := atomF op (8 * e.size) old v.toNat ex.toNat
      some (((s.writeHome (some (dieOf b)) e.pa ((leBytes e.size new).map some)).owe b e).answer b q e old 0)

/-- The store of an entry performed at home (R71, R136, R137, R293); a store to a released range is discarded and logged
(R423). None while it waits for a tracker. `clears` are the sectors whose poison it clears (R137). A store to host memory
leaves the copies of it in the RDCs until a snoop of the host takes them (R418, R438, log entry 41). -/
def State.performStore (s : State) (b : BenchId) (e : StEntry) (clears : Nat → Bool) : Option State :=
  let ten := e.leaf.owner
  if s.releasedRange e.pa then
    some (s.logErr ((s.homeDie e.pa).getD (dieOf b)) e.pa 6 ten.toNat)
  else if s.closingRange e.pa then none
  else if e.device && s.region e.pa == .device then
    if s.devWaits e.pa e.bytes ten then none else some (s.devStore e.pa e.bytes ten)
  else
    match s.dirStore (e.pa / 128) (s.homeOf e.leaf (e.pa / 128)) with
    | none => none
    | some s =>
      let cached := e.leaf.cache == 0
      let s := if cached then s.touchL2 e.pa e.leaf e.pri e.last ten else s.passL2 e.pa e.leaf ten
      let s := (s.writeHomeAs (some (dieOf b)) e.pa e.bytes clears !cached).owe b e
      some (s.modBench b fun x => x.updateL1 e.pa e.bytes clears (if cached then e.pri else 1) (cached && e.last))

/-- A partial combines at the home of its slot, which it reads and writes: poison stops it, and a released range (R360, R411,
R420, R423). -/
def State.performRedt (s : State) (b : BenchId) (q : Buf) (e : StEntry) (p : Node) : Option State :=
  let ten := (s.bench b).tenant
  if s.releasedRange e.pa then
    some (((s.logErr ((s.homeDie e.pa).getD (dieOf b)) e.pa 6 ten.toNat).logPrep ⟨e.leaf, e.pa⟩ b).answer b q e 0 cPOISON)
  else if s.closingRange e.pa then none
  else
    let s := s.passL2 e.pa e.leaf ten
    if s.poisoned e.pa 64 then some ((s.logPrep ⟨e.leaf, e.pa⟩ b).answer b q e 0 cPOISON)
    else (s.combine p).map fun s => (s.owe b e).answer b q e 0 0

/-- The streams whose releases cover a dropped store are marked (R435). -/
def Bench.loseStore (x : Bench) (e : StEntry) : Bench := { x with fabLost := e.own ++ x.fabLost }

/-- The entry leaves for another module (R428, R430); to a module without a route the window is marked LOST (R427), a store
is dropped and logged, and an access that awaits a response fails with FABRIC (R435). None while the retry buffer is full. `old` says
that it is a store of a retired team. -/
def State.performRemote (s : State) (b : BenchId) (q : Buf) (e : StEntry) (old : Bool) : Option State :=
  let m := s.moduleOf e.pa
  let off := e.pa % 2 ^ 40
  let ten := e.leaf.owner
  if s.noRoute.contains m then
    let s := match s.region e.pa with | .aperture w => s.setLost w.toNat | _ => s
    match e.kind with
    | .store => some ((s.logErr (dieOf b) e.pa 6 ten.toNat).modBench b fun x => x.loseStore e)
    | _ => some (s.answer b q e 0 cFABRIC)
  else
    let body : Body := match e.kind with
      | .store => .store off e.bytes
      | .atomic op v ex => .atomic off op e.size v ex e.tag
      | .redt lo lg val => .redt off lo lg val e.tag
      | .release => .mgmt
    let kind : Byte := match e.kind with | .store => 2 | .atomic _ _ _ => 3 | .redt _ _ _ => 4 | .release => 7
    match s.send m ten kind body with
    | none => none
    | some (s, seq) =>
      let e := { e with sent := some (m, seq) }
      some (s.modBench b fun x => if old then { x with orphans := x.orphans ++ [(q, e)] } else { x with fab := x.fab ++ [(q, e)] })

/-- FABRIC is held at an SREL that can never take effect; its gives are not pushed (R382, R435). -/
def Bench.holdSrel (x : Bench) (e : StEntry) : Bench :=
  x.modEng .s fun g =>
    { g with
      held := match g.held with
        | some h => some h
        | none => some ⟨cFABRIC, 0, e.word, e.va, false, false, none, 0⟩
      gives := g.gives.filter fun v => v.mark != e.seq + 1 }

/-- The entries of V's queue that belong to the same instruction as one of them. -/
def Bench.sameV (x : Bench) (e : StEntry) : List StEntry :=
  x.vq.filter fun y => x.vfly.any fun a => decide (a.k ≤ e.seq ∧ e.seq < a.k + 128 ∧ a.k ≤ y.seq ∧ y.seq < a.k + 128)

/-- A release that can never take effect: the instruction does not perform, no lane of V's that follows it, it is logged, and FABRIC
is raised in its context at the next boundary, in V's records, or held by S; an atomic's result is zero (R357, R435). -/
def State.dropRelease (s : State) (b : BenchId) (q : Buf) (e : StEntry) : State :=
  let s := s.logErr (dieOf b) e.pa 6 (s.bench b).tenant.toNat
  match q with
  | .s => s.modBench b fun x => x.holdSrel e
  | .v =>
    let ys := (s.bench b).sameV e
    let s := s.modBench b fun x => { x with vq := x.vq.filter fun y => !ys.contains y }
    (e :: ys).foldl (fun s y => s.answer b .v y 0 cFABRIC) s
  | .c =>
    let s := match e.kind with | .store => s | _ => s.answer b q e 0 0
    s.modBench b fun x => x.modC fun c => { c with lost := c.lost ++ [(e.ctx, cFABRIC, e.va, e.word.setWidth 32)] }

/-- An entry may go when it is the oldest: no older load of its stream is unbound (R66), its release has taken effect
(R73), no older store that has left the bench for the same home is to perform (R64), and no older store of the queue is still on its way to another module than its own (R66, R430). -/
def State.headReady (s : State) (b : BenchId) (q : Buf) (e : StEntry) (force : Bool) : Ready :=
  let x := s.bench b
  if s.behind b e.seq ⟨e.leaf, e.pa⟩ then .no
  else if !force && q == .c && x.c.loads.any (fun l => l.ctx == e.ctx && decide (l.seq < e.seq)) then .no
  else if s.awayFrom x.fab q e then .no
  else if e.rel && !force then s.releaseReady b q e.ctx e.scope e.seq else .yes

/-! ### Write-combining (R81, R293) -/

/-- A store to a write-combining page that may merge with others: neither an access at .io nor a release, and to no device. -/
def State.combines (s : State) (e : StEntry) : Bool :=
  e.kind == .store && e.leaf.cache == 1 && e.scope != .io && !e.rel && s.region e.pa != .device

/-- The merging does not go on beyond an entry: an access at .io, or a release (R293). -/
def StEntry.endsMerge (e : StEntry) : Bool := e.rel || e.scope == .io || e.kind == .release

/-- A store of a queue may perform with the oldest of a queue, which is to the same line (R293): older loads of its stream have bound, no
older store that has left the bench goes to its home, none of its queue is on its way to another module (R64, R66), and no give of S lies
between them, which is a release (R34). -/
def State.joins (s : State) (b : BenchId) (q : Buf) (e y : StEntry) : Bool :=
  let x := s.bench b
  s.combines y && y.pa / 128 == e.pa / 128 && !s.behind b y.seq ⟨y.leaf, y.pa⟩
    && !(q == .c && x.c.loads.any fun l => l.ctx == y.ctx && decide (l.seq < y.seq))
    && !s.awayFrom x.fab q y
    && !(x.s.gives.any fun g => decide (min e.seq y.seq < g.mark ∧ g.mark ≤ max e.seq y.seq))

/-- The stores of a queue that merge with the oldest entry of it or of another, up to what ends the merging. -/
def State.merging (s : State) (b : BenchId) (q : Buf) (e : StEntry) (l : List StEntry) : List StEntry :=
  if s.combines e then (l.takeWhile fun y => !y.endsMerge).filter (s.joins b q e) else []

/-- Two stores to a line as one. -/
def mergeStore (o e : StEntry) : StEntry :=
  let lo := min o.pa e.pa
  let hi := max (o.pa + o.bytes.length) (e.pa + e.bytes.length)
  let at_ (x : StEntry) (a : Nat) : Option Byte := if x.pa ≤ a then (x.bytes[a - x.pa]?).join else none
  let bs := (span lo (hi - lo)).map fun a => match at_ e a with | some v => some v | none => at_ o a
  { o with pa := lo, size := hi - lo, bytes := bs, own := o.own ++ e.own.filter fun i => !o.own.contains i }

/-- The sectors whose poison stores clear: those that one of them covers whole (R137). -/
def clearedBy (es : List StEntry) (sec : Nat) : Bool := es.any fun y => coversSector y.pa y.bytes sec

/-- Stores can go as one: but for another module always, and there if the merged bytes cover no sector that none of the stores covers,
since that module clears poison by the bytes (R137). -/
def State.mayMerge (s : State) (e : StEntry) (ys : List StEntry) : Bool :=
  let m := ys.foldl mergeStore e
  !((match s.region e.pa with | .aperture _ => true | _ => false)
    && (span (4 * (e.pa / 128)) 4).any fun sec => coversSector m.pa m.bytes sec && !clearedBy (e :: ys) sec)

/-- What performs with the oldest entry of a queue when its other stores do not: those that follow it at once and merge with it. -/
def State.runNow (s : State) (b : BenchId) (q : Buf) (e : StEntry) (rest : List StEntry) : List StEntry :=
  let ms := s.merging b q e rest
  let ys := rest.takeWhile fun y => ms.contains y
  if s.mayMerge e ys then ys else []

/-- Every store that a queue holds is one that may still merge with others: nothing has come that ends the merging (R293), no other store
waits behind them (R66), and the stream goes on. -/
def State.openRun (s : State) (b : BenchId) (q : Buf) : Bool :=
  let x := s.bench b
  match x.queue q with
  | [] => false
  | e :: rest =>
    let ends := match q with
      | .s => x.s.rdv || x.s.gives.any fun g => decide (e.seq < g.mark)
      | _ => !x.c.ctxs[0].live || x.c.ctxs.any fun k => k.live && k.wait.isSome
    (e :: rest).all s.combines && !ends && x.team.isSome && x.stopping.isNone

/-- Stores perform as one, or another entry does. -/
def State.performEntry (s : State) (b : BenchId) (q : Buf) (e : StEntry) (ys : List StEntry) : Option State :=
  let m := ys.foldl mergeStore e
  match e.kind with
  | .release => some s
  | _ =>
    match s.region e.pa with
    | .aperture _ => s.performRemote b q m false
    | _ =>
      match e.kind with
      | .atomic op v ex => s.performAtomic b q e op v ex
      | .redt lo lg val => s.performRedt b q e ⟨e.pa, lo.toNat, lg.toNat, val, s.homeOf e.leaf (e.pa / 128)⟩
      | _ => s.performStore b m (clearedBy (e :: ys))

/-- The oldest entry of a queue performs, if it may, with those that follow it at once and merge with it; none while it waits. `force` is
the drain of a killed team, whose releases take no effect (R404). -/
def State.performRun (s : State) (b : BenchId) (q : Buf) (force : Bool) : Option State :=
  match (s.bench b).queue q with
  | [] => none
  | e :: rest =>
    match s.headReady b q e force with
    | .no => none
    | .lost => some ((s.modBench b fun x => x.setQueue q rest).dropRelease b q e)
    | .yes =>
      let ys := s.runNow b q e rest
      let s' := s.modBench b fun x => x.setQueue q (rest.drop ys.length)
      let s' := if e.rel && !force then s'.publish b (ownerQ q e.ctx) e.scope else s'
      s'.performEntry b q e ys

/-- A queue performs down to a length; none where some entry waits. -/
def State.performDown (s : State) (b : BenchId) (q : Buf) (len : Nat) : Nat → Option State
  | 0 => some s
  | k + 1 =>
    if ((s.bench b).queue q).length ≤ len then some s
    else match s.performRun b q false with | some t => t.performDown b q len k | none => none

/-- How much of a queue has to go so that some of its entries go. -/
def reachOf (l ms : List StEntry) : Nat := l.length - (l.reverse.takeWhile fun y => !ms.contains y).length

/-- The queue of plain stores beside another. -/
def otherQueue : Buf → Buf
  | .c => .s
  | _ => .c

/-- The oldest store of a queue performs with all that merge with it, of its own queue and of the other (R293), and in the same step, so
that no order of R66 is seen broken, whatever is older than one of them; none where one of those has to wait, or only stores that follow
it at once merge with it (log entry 60). -/
def State.performGroup (s : State) (b : BenchId) (q : Buf) : Option State :=
  let x := s.bench b
  let o := otherQueue q
  match x.queue q with
  | [] => none
  | e :: rest =>
    let ys := s.merging b q e rest
    let zs := if q == .v then [] else s.merging b o e (x.queue o)
    if (zs.isEmpty && (rest.take ys.length == ys)) || !s.mayMerge e (ys ++ zs) || s.headReady b q e false != .yes then none
    else
      let left := rest.length - reachOf rest ys
      let leftO := (x.queue o).length - reachOf (x.queue o) zs
      let s1 := s.modBench b fun x => (x.setQueue q (rest.filter fun y => !ys.contains y)).setQueue o ((x.queue o).filter fun y => !zs.contains y)
      match s1.performEntry b q e (ys ++ zs) with
      | none => none
      | some s2 =>
        match s2.performDown b q left rest.length with
        | none => none
        | some s3 => s3.performDown b o leftO (x.queue o).length

/-- The oldest store of a retired team that a queue has left performs, if it may (R27, R64, R66); none while it waits. -/
def State.performOrphan (s : State) (b : BenchId) (q : Buf) : Option State :=
  match (s.bench b).orphansOf q with
  | [] => none
  | e :: _ =>
    if s.behind b e.seq ⟨e.leaf, e.pa⟩ || s.awayFrom (s.bench b).orphans q e then none
    else
      let s' := s.modBench b fun x => { x with orphans := x.orphans.erase (q, e) }
      match s.region e.pa with
      | .aperture _ => s'.performRemote b q e true
      | _ => s'.performStore b e (clearedBy [e])

/-- What is oldest of a queue performs, if it may: a store of a retired team, or else an entry with those that merge with it. -/
def State.performHead (s : State) (b : BenchId) (q : Buf) (force : Bool) : Option State :=
  match s.performOrphan b q with
  | some t => some t
  | none =>
    match (if force then none else s.performGroup b q) with
    | some t => some t
    | none => s.performRun b q force

/-- The oldest entry of a queue waits for a walk, which goes to home (R187, R296). -/
def State.stuck (s : State) (b : BenchId) (q : Buf) : State :=
  match (s.bench b).queue q with
  | e :: _ => if e.device && s.region e.pa == .device && s.headReady b q e false == .yes then s.devWalks e.pa e.bytes e.leaf.owner else s
  | [] => s

/-- How many entries a queue has, with those of retired teams. -/
def Bench.lined (x : Bench) (q : Buf) : Nat := (x.orphansOf q).length + (x.queue q).length

/-- Entries perform, oldest first, as long as they may. -/
def State.drain (s : State) (b : BenchId) (q : Buf) (force : Bool) : Nat → State
  | 0 => s
  | k + 1 => match s.performHead b q force with | some s' => s'.drain b q force k | none => s

/-- Entries perform, oldest first, as long as they may, but for a run that may still grow (R293). -/
def State.drainFree (s : State) (b : BenchId) (q : Buf) : Nat → State
  | 0 => s
  | k + 1 =>
    if s.openRun b q then s
    else match s.performHead b q false with | some s' => s'.drainFree b q k | none => s

/-- A queue drains as far as it goes while the stream issues on. -/
def State.drainOn (s : State) (b : BenchId) (q : Buf) : State := (s.drainFree b q ((s.bench b).lined q)).stuck b q

/-- Drain a queue as far as it goes. -/
def State.drainAll (s : State) (b : BenchId) (q : Buf) (force : Bool) : State :=
  (s.drain b q force ((s.bench b).lined q)).stuck b q

/-- Drain the buffers of a bench as far as they go. Stores of C and S may wait for each other at one home (R64). -/
def State.drainBench (s : State) (b : BenchId) (force : Bool) : State :=
  [Buf.s, .c, .s, .c, .v].foldl (fun s q => s.drainAll b q force) s

end Sys2Proof.Machine
end

