-- ==== Sys2Proof/Machine/Teams.lean ====
section
/-! DEFINITION. How a team and a hitch end: retirement (R26, R27, R392), kills (R403, R404), cancellation (R392),
reports (R405), and what leaves with them (R144, R150). -/

namespace Sys2Proof.Machine

/-! ### Writing by the dispatcher -/

/-- A store at home of bytes within a line, by no store buffer: it waits for a free tracker, and while its extent closes; to a
released range it is discarded and logged (R71, R415, R422, R423). On a page that is not cached it allocates nowhere (R293). -/
def State.storeHome (s : State) (die : Fin 8) (ten : BitVec 6) (leaf : Leaf) (pa : Nat) (bs : List Byte) : Option State :=
  let ln := pa / 128
  if s.releasedRange pa then some (s.logErr ((s.homeDie pa).getD die) pa 6 ten.toNat)
  else if s.closingRange pa then none
  else
    match s.dirStore ln (s.homeOf leaf ln) with
    | none => none
    | some s =>
      some ((if leaf.cache = 0 then s.touchL2 pa leaf 1 false ten else s.passL2 pa leaf ten).writeHomeAs (some die) pa (bs.map some)
        (coversSector pa (bs.map some)) (leaf.cache != 0))

/-- The oldest store of the dispatchers performs, if it may. -/
def State.performDisp (s : State) : Option State :=
  match s.dstores with
  | [] => none
  | e :: es =>
    if e.after.any s.pending then none
    else { s with dstores := es }.storeHome (dieAt e.die) e.tenant leafPhys e.pa e.bytes

/-- The stores of the dispatchers perform as far as they may. -/
def State.settleDisp (s : State) : Nat → State
  | 0 => s
  | k + 1 => match s.performDisp with | some t => t.settleDisp k | none => s

/-- Whatever may perform does. -/
def State.settleStores (s : State) : State := s.settleDisp s.dstores.length

/-- A report entry is written, and then counted, with a release at .ho (R405). A tenant without a valid entry has no ring. -/
def State.report (s : State) (h : Hitch) (what : Nat) (k : KillCause) : State :=
  match h.ent with
  | none => s
  | some t =>
    let c := Mem.nat s.mem t.rptb 8 + (s.dstores.filter fun e => e.pa == t.rptb).length
    let w8 := what + 256 * k.code.toNat + 65536 * k.source.toNat + 2 ^ 19 * k.bench.toNat + 2 ^ 32 * k.word.toNat
    let pa := t.rptb + 16 + 16 * (c % 2 ^ t.rptl)
    let entry : DStore := ⟨h.die.val, h.tenant, pa, leBytes 8 h.seq.toNat ++ leBytes 8 w8, []⟩
    let count : DStore := ⟨h.die.val, h.tenant, t.rptb, leBytes 8 (c + 1), [pa / 128]⟩
    { s with dstores := s.dstores ++ [entry, count] }.settleStores

/-! ### Barriers (R150) -/

/-- A hitch's teams leave an instance: it vanishes at .sp and .di, and may break at .mo. -/
def Barrier.leave (x : Barrier) (seq : W64) : Barrier :=
  if x.scope = .mo then
    let m := x.members.filter fun y => y.seq != seq
    { x with members := m, broken := x.broken || (m.length != x.members.length && decide (m.length < x.count)) }
  else if x.seq = seq then { x with members := [] } else x

/-- A hitch ends: an instance without members is gone. -/
def State.leaveBarriers (s : State) (seq : W64) : State :=
  { s with barriers := (s.barriers.map fun x => x.leave seq).filter fun x => !x.members.isEmpty }

/-! ### Benches -/

/-- The identity of a hitch's team on a bench. -/
def Bench.seqNo (x : Bench) : W64 := match x.team with | some t => t.seq | none => 0

/-- The launch with a sequence number, if it has not retired. -/
def State.hitch (s : State) (seq : W64) : Option Hitch := firstWhere (fun h => h.seq == seq) s.hitches
/-- Change the launch with a sequence number. -/
def State.modHitch (s : State) (seq : W64) (f : Hitch → Hitch) : State :=
  { s with hitches := replaceFirst (fun h => h.seq == seq) f s.hitches }

/-- The bytes that instructions in flight have still to write and that a test chooses land in their banks (R36). -/
def Bench.land (x : Bench) (p : Nat → Stream → Bool) : Bench :=
  if x.landing.isEmpty then x
  else
    let all := x.landing.zipIdx
    let go := all.filter fun e => p e.2 e.1.1
    { x with
      banks := go.foldl (fun bs e => vmod bs e.1.2.1 fun m => Mem.writeAll m e.1.2.2.1 [e.1.2.2.2]) x.banks
      landing := (all.filter fun e => !p e.2 e.1.1).map Prod.fst }

/-- A plane at team start; what it has stepped in the present window of its die's duty still counts (R216, R458). -/
def Plane.freed (p : Plane) : Plane := { Plane.start with stepWin := p.stepWin, stepUsed := p.stepUsed }

/-- The stores that teams of a bench leave when they are gone: what has left its buffers, and what is on its way to other modules (R27,
R404). -/
def Bench.orphaned (x : Bench) : List (Buf × StEntry) :=
  let all := x.orphans ++ x.fab ++ x.c.sb.map (fun e => (Buf.c, e)) ++ x.sq.map fun e => (Buf.s, e)
  all.map fun e => (e.1, { e.2 with own := [] })

/-- A bench without a team: the bytes of its banks and its TLB stay, its counter of issues runs on, and its stores go on to their
homes. -/
def Bench.freed (x : Bench) : Bench :=
  { Bench.idle with
    banks := (x.land fun _ _ => true).banks
    tlb := x.tlb
    seq := x.seq
    plane := x.plane.freed
    orphans := x.orphaned }

/-- The watches of a bench go (R144, R404). -/
def State.dropWatches (s : State) (b : BenchId) : State :=
  { s with watches := s.watches.filter fun w => w.bench != b || w.remote.isSome }

/-- A bench is freed: its watches, responses and forwards go; a forward that it has not received is never acknowledged (R276). -/
def State.freeBench (s : State) (b : BenchId) : State :=
  { (s.dropWatches b).modBench b Bench.freed with
    responses := s.responses.filter fun r => tagWho r.tag != b.val
    awaited := s.awaited.filter fun r => tagWho r.1 != b.val
    forwards := (s.forwards.filter fun f => f.src != b).map fun f => { f with rx := f.rx.map fun r => if r.1 = b && r.2 < 2 then (b, 4) else r }
    bands := s.bands.filter fun r => r.1 != b }

/-- An engine that issues nothing more. -/
def Eng.ended : Eng := { Eng.start with rdv := true }

/-- A killed team: its streams issue nothing more, its store buffers and its stores in the fabric stay (R404). -/
def Bench.stopped (x : Bench) : Bench :=
  { x.freed with
    team := x.team
    c := { CUnit.start with sb := x.c.sb }
    l := .ended
    p := .ended
    v := .ended
    s := .ended
    sq := x.sq
    vq := x.vq
    fab := x.fab
    orphans := x.orphans.map fun e => (e.1, { e.2 with own := [] })
    landing := [] }

/-- The store buffers of a bench are empty. -/
def Bench.drained (x : Bench) : Bool := x.c.sb.isEmpty && x.sq.isEmpty && x.vq.isEmpty

/-- What the store buffers of a bench hold can leave them at once: plain stores, which need not have performed for that (R27, R72). -/
def Bench.leaving (x : Bench) : Bool := x.c.sb.all StEntry.plain && x.sq.all StEntry.plain && x.vq.isEmpty

/-- The benches that hold teams of a launch. -/
def Hitch.benches (h : Hitch) : List BenchId := h.place.filterMap id

/-! ### Ending a launch -/

/-- A launch leaves its run queue. -/
def State.unqueue (s : State) (seq : W64) : State :=
  { s with dies := Vector.ofFn fun d : Fin 8 => { s.dies[d] with
      queues := Vector.ofFn fun q : Fin 64 => s.dies[d].queues[q].filter fun x => x != seq } }

/-- A launch is no more. -/
def State.dropHitch (s : State) (h : Hitch) : State :=
  { ((s.unqueue h.seq).leaveBarriers h.seq) with
    hitches := s.hitches.filter fun x => x.seq != h.seq
    ended := h.seq :: s.ended }

/-- A queued launch with a predecessor that was killed or cancelled (R392). -/
def State.doomed (s : State) : Option Hitch :=
  firstWhere (fun h => h.state == .queued && anyIn h.record.preds s.gone) s.hitches

/-- Launches whose predecessors were killed or cancelled are cancelled and reported (R392, R405). -/
def State.cancelDoomed (s : State) : Nat → State
  | 0 => s
  | k + 1 =>
    match s.doomed with
    | none => s
    | some h =>
      let s := s.dropHitch h
      ({ s with gone := h.seq :: s.gone }.report h 3 { code := 0, source := 0, bench := 0, word := 0 }).cancelDoomed k

/-- The launch retires; a killed one is reported, and its successors are cancelled (R392, R404, R405). -/
def State.endHitch (s : State) (h : Hitch) (killed : Bool) : State :=
  let s := s.dropHitch h
  let s := if killed then { s with gone := h.seq :: s.gone }.report h 2 h.why else s
  s.cancelDoomed s.hitches.length

/-- A killed launch whose buffers have drained frees its benches and retires as killed (R404). -/
def State.finishKill (s : State) (seq : W64) : State :=
  match s.hitch seq with
  | none => s
  | some h =>
    if h.state == .dying && h.benches.all fun b => (s.bench b).drained then
      (h.benches.foldl State.freeBench s).endHitch h true
    else s

/-- One killed team: its streams stop and its buffers drain (R404). -/
def State.stopBench (s : State) (b : BenchId) : State :=
  let s := s.modBench b Bench.stopped
  s.drainBench b true

/-- A launch is killed (R404): its watches and its barrier instances go at once, and its benches leave every instance (R150); its
buffers drain. -/
def State.kill (s : State) (seq : W64) (k : KillCause) : State :=
  match s.hitch seq with
  | none => s
  | some h =>
    if h.state == .dying then s
    else
      let s := (s.unqueue seq).modHitch seq fun x => { x with state := .dying, why := k, saved := [] }
      let s := h.benches.foldl State.dropWatches (s.leaveBarriers seq)
      (h.benches.foldl State.stopBench s).finishKill seq

/-! ### Retirement of a team (R26, R27) -/

/-- An engine's RDV has retired: nothing of the stream is left to do (R26). -/
def Eng.done (e : Eng) : Bool := e.rdv && e.gives.isEmpty && e.flags.isEmpty && !e.issued && e.held.isNone

/-- RDV has retired in all five streams, and every store has left the bench (R26, R27, R165). -/
def Bench.finished (x : Bench) : Bool :=
  (match x.c.ctxs[0].wait with | some w => w.kind == .rdv | none => false)
    && !x.c.ctxs[1].live && !x.c.ctxs[2].live && !x.c.ctxs[3].live && x.c.loads.isEmpty && x.c.lost.isEmpty
    && x.l.done && x.p.done && x.v.done && x.s.done && x.vfly.isEmpty && x.leaving

/-- The team of a bench retires if it has finished; with its last team the hitch retires (R26, R392). -/
def State.tryRetire (s : State) (b : BenchId) : State :=
  match (s.bench b).team with
  | none => s
  | some t =>
    if (s.bench b).finished then
      let s := s.freeBench b
      let s := s.modHitch t.seq fun h => { h with place := h.place.map fun p => if p == some b then none else p }
      match s.hitch t.seq with
      | some h => if h.benches.isEmpty && h.saved.all Option.isNone then s.endHitch h false else s
      | none => s
    else s

end Sys2Proof.Machine
end

