-- ==== Sys2Proof/Machine/Reset.lean ====
section
/-! DEFINITION. What an answer to the home side sets free (R72, R405, R431), boot as others see it (R460), and the resets (R462), which wait
for the stores of the hitches that they kill (R404). -/

namespace Sys2Proof.Machine

/-! ### PERF of the flows into the module (R431) -/

/-- An acknowledgement for a flow into this module leaves (R431). -/
def State.sendAck (s : State) (f : InFlow) : State :=
  let perf : W32 := match f.pending with | p :: _ => p.1 - 1 | [] => f.expect - 1
  let p : Packet :=
    ⟨f.smod, s.fabid, 1, s.fver.extractLsb' 0 4, 0, 6, 0, 0, false, .ack f.ch (f.expect - 1) perf⟩
  { s with egress := s.egress ++ [p] }

/-- Stores of other modules that have reached the .ho point, in the order of their flow, are pending no more, and an
acknowledgement says so (R72, R431). -/
def State.settleFlows (s : State) : State :=
  let settle (f : InFlow) : InFlow := { f with pending := f.pending.dropWhile fun p => !s.pending p.2 }
  let moved := s.inFlows.filter fun f => (settle f).pending.length != f.pending.length
  (moved.map settle).foldl State.sendAck { s with inFlows := s.inFlows.map settle }

/-- An answer of an agent may let stores of other modules reach the .ho point, and stores of the dispatchers perform (R405,
R415, R431). -/
def State.settleHome (s : State) : State := s.settleFlows.settleStores

/-- Boot has not stopped at a failed verification (R460). -/
def State.reachable (s : State) : Bool := s.bootErr == 0

/-! ### Resets (R462) -/

/-- Bytes, by address, that are no module memory: of hosts and of extents. -/
def Mem.outside (m : Mem) : Mem := m.filter fun c => decide (0xC000000000 ≤ c.1)

/-- Dirty lines of other memory than the module's are lost with the caches: memory holds what it held at their last write-back. -/
def State.loseDirty (s : State) : State :=
  (s.backing.filter fun l => decide (0xC000000000 ≤ 128 * l.line)).foldl (fun s l => s.restoreLine l.line l.data l.poison) s

/-- The module after a cold reset. The route tables, the clock, the turns and the memory of hosts and of extents are not the module's to
reset (log entry 23). -/
def State.cold (s : State) : State :=
  { State.reset with
    turns := s.turns
    free := s.free
    cur := s.cur
    clk := s.clk
    fver := s.fver
    verAt := s.verAt
    noRoute := s.noRoute
    mem := s.loseDirty.mem.outside
    poison := s.loseDirty.poison.filter fun x => decide (0xC000000000 ≤ 32 * x) }

/-- A bench after a warm reset: the bytes of its banks stay. -/
def Bench.warm (x : Bench) : Bench := { x.freed with tlb := [] }

/-- A die after a warm reset (R296, R402, R457, R462): the error log and the launch counter stay. -/
def Die.warm (x : Die) : Die :=
  { Die.start with
    ecnt := x.ecnt
    elog := x.elog
    launches := x.launches
    lim := x.lim
    duty := x.duty
    pwr := x.pwr
    telem := x.telem
    telemAt := x.telemAt }

/-- Every hitch is killed without a report, and its buffers drain as far as they go (R404, R462). -/
def State.killAll (s : State) : State :=
  let s := { s with hitches := s.hitches.map fun h : Hitch => { h with state := .dying, saved := [], ent := none } }
  let s := (s.hitches.flatMap Hitch.benches).foldl State.dropWatches s
  (s.hitches.flatMap Hitch.benches).foldl State.stopBench (s.hitches.foldl (fun s (h : Hitch) => (s.unqueue h.seq).leaveBarriers h.seq) s)

/-- The module after a warm reset, whose hitches have gone and whose buffers have drained (R462). Boot goes on from stage 1, if the ROM
has verified it (log entry 23). -/
def State.warm (s : State) : State :=
  let s := s.watches.foldl State.wakeWatch s
  let s := { s with trackers := [], dir := [] }.settleHome
  { s with
      benches := s.benches.map Bench.warm
      dies := s.dies.map Die.warm
      backing := []
      l2 := []
      msc := []
      dir := []
      watches := []
      hostHeld := []
      forwards := []
      bands := []
      barriers := []
      gone := s.hitches.map Hitch.seq ++ s.gone
      hitches := []
      fwin := Vector.replicate 128 0
      awaited := []
      responses := []
      mailbox := State.reset.mailbox
      resetting := none
      bootErr := 0
      bootStage := if s.bootStage = 0 then 0 else 1 }

/-- The stores of killed teams, and of teams that have retired, have performed, or have left the module; before a cold reset, which ends
its flows, other modules have accepted them too (R404, R431, R462). -/
def State.storesGone (s : State) (cold : Bool) : Bool :=
  (s.hitches.flatMap Hitch.benches).all (fun b => (s.bench b).drained)
    && s.benches.toList.all (fun x => (x.orphansOf .c).isEmpty && (x.orphansOf .s).isEmpty)
    && (!cold || s.outFlows.all fun f => f.ch != 0 || f.retry.isEmpty)

/-- A reset that has been asked for comes to its end once the stores have gone (R404, R462). -/
def State.tryReset (s : State) : State :=
  match s.resetting with
  | some cold => if s.storesGone cold then (if cold then s.cold else s.warm) else s
  | none => s

/-- A reset is asked for: every hitch is killed, and stores perform as far as they may; a cold one that waits already is not turned into a
warm one. -/
def State.askReset (s : State) (cold : Bool) : State :=
  { s.killAll with resetting := some (cold || s.resetting == some true) }.tryReset

end Sys2Proof.Machine
end

