-- ==== Sys2Proof/Machine/Lanes.lean ====
section
/-! DEFINITION. The lanes of V's registers and masks (R324, R325, R328), flag entries (R40, R329), and the retirement of V's
atomics in flight (R357 to R360). -/

namespace Sys2Proof.Machine

/-! ### Elements and lanes -/

/-- Element `e` of a register read with a width: lane e / k, and there from bit w · (e mod k) on. -/
def elem (w : Nat) (v : VReg) (e : Nat) : Nat := (v.extractLsb' (w * e) w).toNat

/-- The number that a list of elements of a width makes, the first lowest. -/
def packNat (w : Nat) : List Nat → Nat
  | [] => 0
  | x :: xs => x % 2 ^ w + 2 ^ w * packNat w xs

/-- A register from its elements. -/
def ofElems (w n : Nat) (f : Nat → Nat) : VReg := BitVec.ofNat 4096 (packNat w ((upTo n).map f))

/-- Lane `i` of a register. -/
def lane (v : VReg) (i : Nat) : W32 := v.extractLsb' (32 * i) 32

/-- Every lane. -/
def allLanes : Mask := BitVec.allOnes 128

/-- The active lanes in increasing order. -/
def lanesOf (m : Mask) : List Nat := (upTo 128).filter fun i => m.getLsbD i

/-- The register that takes the lanes of a mask from `new` and the others from `old` (R328). -/
def blend (m : Mask) (old new : VReg) : VReg :=
  let l := ofElems 32 128 fun i => if m.getLsbD i then 2 ^ 32 - 1 else 0
  (new &&& l) ||| (old &&& ~~~l)

/-- The register with some lanes replaced. -/
def withLanes (v : VReg) (m : Mask) (f : Nat → W32) : VReg := blend m v (ofElems 32 128 fun i => (f i).toNat)

/-- A mask register. -/
def Bench.mask (x : Bench) (n : Nat) : Mask := vget x.vmask n 0
/-- A vector register. -/
def Bench.vr (x : Bench) (n : Nat) : VReg := vget x.vreg n 0

/-- A flag queue entry (R40). -/
def flagEntry (set active : Mask) : W64 :=
  let n := popNat 128 set.toNat
  BitVec.ofNat 64 (8 * n + (if n = 0 then 4 else 0) + (if n = popNat 128 active.toNat then 2 else 0) + (if n = 0 then 0 else 1))

/-- An instruction of V has flag entries to push, after those of the instructions before it (R329, R332). -/
def Bench.flagOut (x : Bench) (f : FlagOut) : Bench := x.modEng .v fun e => { e with flags := e.flags ++ [f] }

/-- An instruction writes lanes of a register: an older atomic in flight no longer writes them, and an older instruction that faults no
longer gives them back (R331, R332). -/
def Bench.overV (x : Bench) (vd : Nat) (m : Mask) : Bench :=
  let keep (a : VFly) : VFly :=
    match a.out with | some (v, _, _) => if v.toNat = vd then { a with keepV := a.keepV ||| m } else a | none => a
  let give (f : FlagOut) : FlagOut := { f with regs := f.regs.map fun r => if r.1 = vd then (r.1, r.2.1 &&& ~~~m, r.2.2) else r }
  { x with vfly := x.vfly.map keep }.modEng .v fun e => { e with flags := e.flags.map give }

/-- An instruction writes bits of a mask: an older atomic in flight no longer writes them, and an older instruction that faults no longer
gives them back (R331, R332). -/
def Bench.overM (x : Bench) (md : Nat) (m : Mask) : Bench :=
  let keep (a : VFly) : VFly :=
    match a.out with | some (_, f, _) => if f.toNat = md then { a with keepM := a.keepM ||| m } else a | none => a
  let give (f : FlagOut) : FlagOut := { f with masks := f.masks.map fun r => if r.1 = md then (r.1, r.2.1 &&& ~~~m, r.2.2) else r }
  { x with vfly := x.vfly.map keep }.modEng .v fun e => { e with flags := e.flags.map give }

/-- What an instruction that faults before it has pushed its flags has written of V's registers and masks is as it was (R331). -/
def Bench.giveBack (x : Bench) (f : FlagOut) : Bench :=
  { x with
    vreg := f.regs.foldl (fun v r => vmod v r.1 fun new => blend r.2.1 new r.2.2) x.vreg
    vmask := f.masks.foldl (fun v r => vmod v r.1 fun new => (r.2.2 &&& r.2.1) ||| (new &&& ~~~r.2.1)) x.vmask }

/-! ### V's atomics in flight -/

/-- The record of lane `i` of an atomic, from home or from another module (R358). -/
def State.laneResult (s : State) (b : BenchId) (a : VFly) (i : Nat) : Option (W32 × Bool) :=
  match firstWhere (fun r => r.1 == a.k + i) (s.bench b).vres with
  | some r => some r.2
  | none => (s.response (tagOf b.val (a.k + i))).map fun r =>
      (if r.code = 0 then r.val.setWidth 32 else r.code.setWidth 32, r.code != 0)

/-- The records of an atomic have been used. -/
def State.takeLanes (s : State) (b : BenchId) (a : VFly) : State :=
  let mine (n : Nat) : Bool := decide (a.k ≤ n ∧ n < a.k + 128)
  { (s.modBench b fun x => { x with vres := x.vres.filter fun r => !mine r.1 }) with
    responses := s.responses.filter fun r => !(tagWho r.tag == b.val && mine (tagNo r.tag))
    awaited := s.awaited.filter fun r => !(tagWho r.1 == b.val && mine (tagNo r.1)) }

/-- A REDM or REDT fails at home: its fault is held, and its gives are not pushed (R359, R360, R435). -/
def Bench.failAtomic (x : Bench) (a : VFly) (code : Byte) : Bench :=
  x.modEng .v fun e =>
    { e with
      held := match e.held with
        | some h => some h
        | none => some ⟨code, a.va, a.word, a.pc, false, false, none, 0⟩
      gives := e.gives.eraseP fun g => g.mark == a.k + 128 && g.word == a.word }

/-- An atomic's replies have returned: it writes the records of its lanes (R358), but for what younger instructions have written since
(R332), and its flag entry can be pushed. -/
def Bench.landAtomic (x : Bench) (a : VFly) (res : Nat → W32 × Bool) : Bench :=
  match a.out with
  | some (vd, mf, fo) =>
    let bad : Mask := a.active &&& bitsFrom 128 fun i => (res i).2
    let y :=
      { x with
        vreg := vmod x.vreg vd.toNat fun v => withLanes v (a.active &&& ~~~a.keepV) fun i => (res i).1
        vmask := vmod x.vmask mf.toNat fun m => (bad &&& ~~~a.keepM) ||| (m &&& a.keepM) }
    let known (f : FlagOut) : FlagOut :=
      { f with
        atom := none
        es := [flagEntry bad a.active]
        regs := [(vd.toNat, a.active &&& ~~~a.keepV, x.vr vd.toNat)]
        masks := [(mf.toNat, ~~~a.keepM, x.mask mf.toNat)] }
    if fo then y.modEng .v fun e => { e with flags := replaceFirst (fun f => f.atom == some a.k) known e.flags } else y
  | none =>
    let (w, bad) := res 0
    if bad then x.failAtomic a (w.setWidth 8) else x

/-- POISON that another module answers to a lane on a PREP page is logged (R186, R422). -/
def State.logLane (s : State) (b : BenchId) (a : VFly) (l : Nat × Nat × Leaf) : State :=
  match s.response (tagOf b.val (a.k + l.1)) with
  | some r => if r.code = cPOISON then s.logPrep ⟨l.2.2, l.2.1⟩ b else s
  | none => s

/-- V's atomics retire, oldest first, as long as every lane has its record (R357). -/
def State.landV (s : State) (b : BenchId) : Nat → State
  | 0 => s
  | n + 1 =>
    match (s.bench b).vfly with
    | [] => s
    | a :: rest =>
      if a.lanes.all fun i => (s.laneResult b a i).isSome then
        ((((a.preps.foldl (fun s l => s.logLane b a l) s).takeLanes b a).modBench b fun x => { x with vfly := rest }).modBench b fun x =>
          x.landAtomic a fun i => (s.laneResult b a i).getD (0, false)).landV b n
      else s

end Sys2Proof.Machine
end

