-- ==== Sys2Proof/Machine/Ops.lean ====
section
/-! DEFINITION. The shared operations of the streams: tokens and queues (R29 to R38), retirement of an engine
instruction (R33, R34), checked mode (R55, R56), held faults (R181), taking an exception and returning from one (R163,
R177 to R180), the named registers of C (R87 to R91, R103), and the issue of an engine instruction (R30, R32, R44). -/

namespace Sys2Proof.Machine

/-- What a step of this machine answers. -/
abbrev Out := Host.Outcome State Fault Refusal

/-! ### Tokens (R29, R31) -/

/-- The place of a stream in the order C, L, P, V, S. -/
def streamIdx : Stream → Nat
  | .c => 0 | .l => 1 | .p => 2 | .v => 3 | .s => 4

/-- The stream at a place of the order. -/
def streamAt : Nat → Stream
  | 0 => .c | 1 => .l | 2 => .p | 3 => .v | _ => .s

/-- The stream that bit `j` of a mask of `me` names (R29). -/
def otherStream (me : Stream) (j : Nat) : Stream := streamAt (if j < streamIdx me then j else j + 1)

/-- The FIFO from `x` to `y`. -/
def fifo (x y : Stream) : Nat := 4 * streamIdx x + (if streamIdx y < streamIdx x then streamIdx y else streamIdx y - 1)

/-- The streams that a mask names. -/
def maskStreams (me : Stream) (m : BitVec 4) : List Stream := (bitsOf m).map (otherStream me)

/-- Every FIFO that a take of `me` names holds a token (R32). -/
def Bench.canTake (x : Bench) (me : Stream) (from_ : List Stream) : Bool :=
  from_.all fun g => decide (0 < vget x.tokens (fifo g me) 0)

/-- A token from V: one that an atomic gave acquires at that atomic's scope (R76, R357). -/
def Bench.takeV (x : Bench) (me : Stream) : Bench :=
  let n := fifo .v me - 12
  let x' := { x with vtok := vmod x.vtok n fun l => l.drop 1 }
  match vget x.vtok n [] with
  | sc :: _ => if sc = .en || sc = .st then x' else x'.acquire sc
  | [] => x'

/-- One token is popped from each FIFO; a token from C, V or S discards the blocks fetched ahead (R32, R288). The releases of
the taking stream, `c` being its context, cover from now on what those of the giving streams must cover (R35, R73). -/
def Bench.takeTokens (x : Bench) (me : Stream) (c : Fin 4) (from_ : List Stream) : Bench :=
  let x := { x with tokens := from_.foldl (fun t g => vmod t (fifo g me) fun n => n - 1) x.tokens }
  let x := if from_.contains .v then x.takeV me else x
  let givers (g : Stream) : List Nat := if g = .c then upTo 4 else [ownerOf g 0]
  let x := (from_.flatMap givers).foldl (fun x i => x.joinDuty i (ownerOf me c)) x
  if from_.any fun g => g == .c || g == .v || g == .s then x.discardAhead else x

/-- The scope at which a take from V acquires (R357). -/
def Bench.takeScope (x : Bench) (me : Stream) (from_ : List Stream) : Scope :=
  if from_.contains .v then (vget x.vtok (fifo .v me - 12) []).headD .en else .en

/-- A stream of a bench takes tokens: an acquire, of a V atomic's scope where one gave (R32, R76, R357). -/
def State.takeFrom (s : State) (b : BenchId) (me : Stream) (c : Fin 4) (from_ : List Stream) : State :=
  let sc := (s.bench b).takeScope me from_
  let s := s.modBench b fun x => x.takeTokens me c from_
  if sc = .en then s else s.dutyAll b (ownerOf me c) sc

/-- Every FIFO that a give of `me` names has room (R33). -/
def Bench.canGive (x : Bench) (me : Stream) (dst : List Stream) : Bool :=
  dst.all fun r => decide (vget x.tokens (fifo me r) 0 < 8)

/-- One token is pushed into each FIFO (R33); V's tokens carry the scope of an acquire (R357). -/
def Bench.giveTokens (x : Bench) (me : Stream) (dst : List Stream) (acq : Scope) : Bench :=
  { x with
    tokens := dst.foldl (fun t r => vmod t (fifo me r) fun n => n + 1) x.tokens
    vtok := if me = .v then dst.foldl (fun t r => vmod t (fifo me r - 12) fun l => l ++ [acq]) x.vtok else x.vtok }

/-! ### Value queues (R37) -/

/-- The value queue of a stream: ql 0, qp 1, qv 2, qs 3. -/
def queueOf (st : Stream) : Nat := streamIdx st - 1

/-- The entries of a value queue. -/
def Bench.queued (x : Bench) (q : Nat) : List W64 := vget x.queues q []

/-- The oldest `n` entries leave a value queue. -/
def Bench.popQueue (x : Bench) (q n : Nat) : Bench := { x with queues := vmod x.queues q fun l => l.drop n }

/-- The count that a queue entry stands for (R43). -/
def entryCount (v : W64) : W32 := if v.toNat < 2 ^ 32 then v.setWidth 32 else 0xFFFFFFFF#32

/-! ### Gives of a retired instruction (R33, R77) -/

/-- A give waits for what its stream has still to complete: stores of S that cannot reach the .en point yet, such as those behind an
SREL (R77, R370, R380), an atomic of V whose replies have not returned (R357), or V's flag entries (R332). The stream goes on
meanwhile. -/
def Bench.giveEarly (x : Bench) (st : Stream) (g : Give) : Bool :=
  decide (0 < g.flags) || (st == .s && x.sq.any fun e => decide (e.seq < g.mark) && !e.plain) || (st == .v && x.vfly.any fun a => decide (a.k < g.mark))

/-- A wait of a kind is over. -/
def Eng.calm (e : Eng) (k : WaitKind) : Eng :=
  { e with wait := match e.wait with | some w => if w.kind = k then none else some w | none => none }

/-- The instruction whose flag entries come first has left the list of those to be pushed. -/
def Eng.flagsGone (e : Eng) (k : Nat) : Eng :=
  { (e.calm .flag) with
    flags := e.flags.eraseIdx k
    gives := e.gives.map fun g => if k < g.flags then { g with flags := g.flags - 1 } else g }

/-- The flag entries of the oldest instruction that has any to push, all together, if they are known and there is room (R329, R354). -/
def Bench.pushFlags (x : Bench) (st : Stream) : Option Bench :=
  match (x.eng st).flags with
  | f :: _ =>
    if f.atom.isNone && decide (x.flagq.length + f.es.length ≤ 16) then
      some ({ x with flagq := x.flagq ++ f.es }.modEng st fun e => e.flagsGone 0)
    else none
  | [] => none

/-- The oldest give of a stream, if what it waits for is complete and every FIFO has room (R33). -/
def Bench.pushGive (x : Bench) (st : Stream) : Option Bench :=
  match (x.eng st).gives with
  | g :: gs =>
    let dst := maskStreams st g.mask
    if !x.giveEarly st g && x.canGive st dst then
      let x := if st == .s then x.leave 7 g.mark else x
      some ((x.giveTokens st dst g.acq).modEng st fun e => { (e.calm .give) with gives := gs })
    else none
  | [] => none

/-- What a stream has to push and may push now. -/
def Bench.pushOne (x : Bench) (st : Stream) : Option Bench :=
  match x.pushFlags st with | some y => some y | none => x.pushGive st

/-- The place of the first instruction whose flag entries the flag queue has no room for behind those of the instructions before it. -/
def flagsOver (room : Nat) : List FlagOut → Nat → Option Nat
  | [], _ => none
  | f :: fs, k => if f.es.length ≤ room then flagsOver (room - f.es.length) fs (k + 1) else some k

/-- The instruction of V that waits because the flag queue is too full for its entries: V issues nothing more meanwhile (R37, R329,
R354). -/
def Bench.flagWaits (x : Bench) (st : Stream) : Option Nat := flagsOver (16 - x.flagq.length) (x.eng st).flags 0

/-- Push whatever may go. -/
def Bench.pushAll (x : Bench) (st : Stream) : Nat → Bench
  | 0 => x
  | k + 1 =>
    match x.pushOne st with
    | some y => y.pushAll st k
    | none => x

/-- Some bytes of the instruction of a range have still to be written, so that it has not retired (R36, R55). -/
def Bench.stillWrites (x : Bench) (r : Range) : Bool :=
  x.landing.any fun l => l.1 == r.st && x.ranges.any fun q =>
    q.st == r.st && q.word == r.word && q.pc == r.pc && q.write && q.bank == l.2.1 && decide (q.lo ≤ l.2.2.1 ∧ l.2.2.1 < q.hi)

/-- A range belongs to an instruction that has not retired: one that has issued and waits, one that has faulted, one that has bytes to
write or flag entries to push, or one of an open tile (R55). -/
def Bench.holds (x : Bench) (r : Range) : Bool :=
  let e := x.eng r.st
  let is (w : W128) (pc : W64) : Bool := w == r.word && pc == r.pc
  (e.issued && match e.cap with | some c => is c.1 e.pc | none => true)
    || (match e.held with | some h => is h.word h.pc | none => false)
    || (e.flags.any fun f => is f.word f.pc) || x.stillWrites r || (r.st == .p && x.plane.tile)

/-- The ranges of a stream's instructions that have retired are no longer held (R55). -/
def Bench.dropRanges (x : Bench) (st : Stream) : Bench := { x with ranges := x.ranges.filter fun r => r.st != st || x.holds r }

/-- What the stream has begun ends as far as it may: its bytes land, its flags and gives go, the ranges of what has retired end (R33,
R36, R55). -/
def Bench.settle (x : Bench) (st : Stream) : Bench :=
  let x := x.land fun _ t => t == st
  (x.pushAll st ((x.eng st).flags.length + (x.eng st).gives.length)).dropRanges st

/-- What the stream has begun ends as far as it may: of V, first the atomics whose replies have returned (R33, R357). -/
def State.pushGives (s : State) (b : BenchId) (st : Stream) : State :=
  (if st = .v then s.landV b (s.bench b).vfly.length else s).modBench b fun x => x.settle st

/-! ### Checked mode (R55, R56) -/

/-- A byte range of a bank that an instruction reads or writes. -/
structure Acc where
  bank : Nat
  lo : Nat
  hi : Nat
  write : Bool
  deriving DecidableEq, Repr

/-- A recorded range of another stream that an instruction about to issue overlaps, one of the two writing; of several, the
one recorded first (log entry 42). Neither is ordered before the other: the recorded instruction has not retired. -/
def Bench.overlap (x : Bench) (st : Stream) (acc : List Acc) : Option Range :=
  if (match x.team with | some t => t.checked | none => false) then
    firstWhere (fun r => r.st != st && acc.any fun a =>
      a.bank == r.bank && decide (a.lo < r.hi ∧ r.lo < a.hi) && (a.write || r.write)) x.ranges
  else none

/-- The ranges of an instruction in flight are recorded, each once (R55). -/
def State.record (s : State) (acc : List Acc) : State :=
  s.modHere fun x =>
    if (match x.team with | some t => t.checked | none => false) then
      let new := acc.map fun a => (⟨s.cur.stream, a.bank, a.lo, a.hi, a.write, s.cur.word, s.cur.pc⟩ : Range)
      { x with ranges := x.ranges ++ new.filter fun r => !x.ranges.contains r }
    else x

/-! ### Held faults (R181) -/

/-- The stream of the turn stops with a held fault. -/
def State.hold (s : State) (code : Byte) (va : W64) (eret : Bool) : State :=
  s.modMyEng fun e =>
    { e with
      held := some ⟨code, va, s.cur.word, s.cur.pc, eret, false, none, 0⟩
      wait := none
      issued := false
      step := 0
      cap := none }

/-- The stream of the turn stops with OVERLAP: both instructions are recorded (R56). -/
def State.holdOverlap (s : State) (r : Range) : State :=
  s.modMyEng fun e =>
    { e with held := some ⟨cOVERLAP, 0, s.cur.word, s.cur.pc, false, false, some (r.word, r.pc), 0⟩, wait := none }

/-! ### Loops and bank offsets (R41 to R45) -/

/-- A loop level, or an inactive one. -/
def Eng.loop (e : Eng) (n : Nat) : Loop := vget e.loops n .off

/-- Whether a level above `n` is active. -/
def Eng.loopAbove (e : Eng) (n : Nat) : Bool := (upTo 6).any fun k => decide (n < k) && (e.loop k).active

/-- The loop term of a stride slot: 0 for none, 1 to 4 for a to d (R45, R240). -/
def loopTerm (loops : Vector Loop 6) (sl : BitVec 3) : Int :=
  if sl = 0 then 0
  else (upTo 6).foldl (fun t n =>
    let l := vget loops n .off
    if l.active then t + (l.i.toNat : Int) * (vget l.s (sl.toNat - 1) 0).toInt else t) 0

/-- The bytes `n` from an offset lie in the bank (R45). -/
def inBank (off : Int) (n : Nat) : Bool := decide (0 ≤ off ∧ off + n ≤ 0x20000)

/-- A header that R30 accepts for the stream's loops. One that it refuses raises its fault only where R44 lets the word issue. -/
def hdrOk (h : Hdr) (e : Eng) (loopWord : Bool) : Bool :=
  if h.first || h.last then !loopWord && (e.loop h.lvl.toNat).active else true

/-- FIRST and LAST let the instruction issue (R44). -/
def hdrSelected (h : Hdr) (e : Eng) : Bool :=
  let l := e.loop h.lvl.toNat
  (!h.first || l.i == 0) && (!h.last || l.i.toNat + 1 == l.n.toNat)

/-- FIRST and LAST keep the instruction from issuing: of a level that is active (R30, R44). -/
def hdrSkips (h : Hdr) (e : Eng) : Bool := hdrOk h e false && !hdrSelected h e

/-! ### Waits (R60) -/

/-- A wait that goes on keeps its beginning. -/
def waitFrom (old : Option Wait) (kind : WaitKind) (what need now : Nat) (word : W128) : Option Wait :=
  match old with
  | some w => if w.kind == kind && w.what == what && w.need == need then some w else some ⟨kind, now, what, need, word⟩
  | none => some ⟨kind, now, what, need, word⟩

/-- The engine of the turn waits: on what, and for how many entries. -/
def State.waitEng (s : State) (kind : WaitKind) (what need : Nat) : State :=
  s.modMyEng fun e => { e with wait := waitFrom e.wait kind what need s.clk s.cur.word }

/-- A context that was chosen is found stalled: it has not issued, and C skips it in this cycle (R84). -/
def Robin.stall (r : Robin) (c : Fin 4) (clk : Nat) : Robin :=
  { last := r.prev, prev := r.prev, issuedAt := none, tried := if r.triedAt = clk then c :: r.tried else [c], triedAt := clk }

/-- The context of the turn cannot issue in this cycle (R84). -/
def State.stallC (s : State) : State := s.modMyC fun u => { u with rr := u.rr.stall s.cur.ctx s.clk }

/-- The context of the turn waits. -/
def State.waitC (s : State) (kind : WaitKind) (what : Nat) : State :=
  (s.modMy fun k => { k with wait := waitFrom k.wait kind what 1 s.clk s.cur.word }).stallC

/-! ### The issue of an engine instruction -/

/-- How an engine instruction ends: done, with the ranges it accessed and, for a jump, the next address; a fault
before issue, which takes nothing (`preEret`: a fetch fault, which ERET clears; `preDo`: after a change of the state); a fault after
issue, which keeps what was taken, with the ranges that the instruction accesses; a wait before issue (`ask`: after a change of the state before it took anything); or it has issued and waits
(`stay`), keeping entries `more` beside what it popped, for what R60 counts or for its completion, with the ranges that it
holds from now on. -/
inductive Eff where
  | done (s : State) (acc : List Acc) (pc : Option W64)
  | pre (code : Byte) (va : W64)
  | preEret (code : Byte) (va : W64)
  | preDo (f : State → State) (code : Byte)
  | post (s : State) (code : Byte) (va : W64) (eret : Bool) (acc : List Acc)
  | wait (kind : WaitKind) (what : Nat)
  | ask (f : State → State)
  | stay (s : State) (more : List W64) (on : Option (WaitKind × Nat × Nat)) (acc : List Acc)

/-- The word size of an engine stream in bytes (R22). -/
def wordSize : Stream → Nat
  | .c => 4 | .p => 16 | _ => 8

/-- The address after the word of the turn. -/
def State.nextPc (s : State) : W64 := s.cur.pc + BitVec.ofNat 64 (wordSize s.cur.stream)

/-- What an engine instruction captures when it issues (R52, R210, R245, R310): what it captured, if it has issued. -/
def State.cap (s : State) : PCap :=
  let x := s.here
  (s.myEng.cap.map Prod.snd).getD ⟨x.bfmt, x.frames, x.plane.mode, x.plane.prof, s.myEng.loops, s.free⟩

/-- The bytes that an instruction in flight has written since its turn began are taken back, and land later (R36). R54 does not say when
before its retirement a write that covers a whole sector clears its poison: DESIGN CHOICE, when the instruction issues, so that a read
that is not ordered after it may get old bytes and no POISON (log entry 64). -/
def Bench.lift (x : Bench) (st : Stream) (base : Vector Mem 16) (acc : List Acc) : Bench :=
  let changed (a : Acc) : List (Stream × Nat × Nat × Byte) :=
    let m := vget x.banks a.bank []
    let o := vget base a.bank []
    if !a.write || decide (16 ≤ a.bank) || m == o then []
    else ((span a.lo (a.hi - a.lo)).filter fun i => Mem.nat m i 1 != Mem.nat o i 1).map fun i =>
      (st, a.bank, i, BitVec.ofNat 8 (Mem.nat m i 1))
  let new := acc.flatMap changed
  { x with
    banks := new.foldl (fun bs e => vmod bs e.2.1 fun m =>
      Mem.writeAll m e.2.2.1 [BitVec.ofNat 8 (Mem.nat (vget base e.2.1 []) e.2.2.1 1)]) x.banks
    landing := x.landing ++ new }

/-- An instruction of L, P, V or S retires: its gives wait to be pushed, and are pushed unless the turn leaves them in
flight (R33). It holds its ranges until then, or until it has pushed its flags (R55, R354). A give waits for every store of S
that has been issued (R370); a give of an open tile is held until the tile commits (R245). -/
def State.retire (s : State) (give : BitVec 4) (acc : List Acc) (pc : Option W64) : State :=
  let st := s.cur.stream
  let tile := st == .p && s.here.plane.tile
  let s := s.modHere fun x => x.modEng st fun e =>
    { e with
      pc := pc.getD s.nextPc
      taken := false
      popped := []
      issued := false
      step := 0
      wait := none
      cap := none
      gives := if give = 0 || tile then e.gives else e.gives ++ [⟨give, x.seq, if st == .v then x.vscope.getD .en else .en, s.cur.word, s.cur.pc, e.flags.length⟩] }
  let s := if st == .v then s.modHere fun x => { x with vscope := none } else s
  let s := if tile then s.modHere fun x => x.modPlane fun p => { p with gives := p.gives ++ [give] }
    else (s.modHere fun x => x.dropRanges st).record acc
  if s.cur.late then s.modHere fun x => x.lift st s.cur.base acc else s.pushGives s.cur.bench st

/-- An instruction that has issued, or issues again with what it took (`first` is false), comes to an end, or waits. A body
that waits, completes or faults after issue for the first time is checked for overlaps before it takes effect (R56). One that faults
keeps the `nq` entries that it popped at issue, and its ranges (R55, R290, R318). -/
def State.conclude (s : State) (h : Hdr) (nq : Nat) (first : Bool) (ents : List W64) (r : Eff) : Out :=
  let keep (t : State) (more : List W64) : State := t.modMyEng fun e => { e with taken := true, popped := ents ++ more }
  let clash (acc : List Acc) : Option Range := if first then s.here.overlap s.cur.stream acc else none
  match r with
  | .pre code va => .next (s.hold code va false)
  | .preEret code va => .next (s.hold code va true)
  | .preDo f code => .next ((f s).hold code 0 false)
  | .wait kind what => .next (s.waitEng kind what 1)
  | .ask f => .next ((f s).waitEng .other 0 1)
  | .post t code va eret acc =>
    (match clash acc with
    | some q => .next (s.holdOverlap q)
    | none =>
      let t := t.modMyEng fun e => { e with taken := true, popped := ents.take nq }
      .next ((if first then t.record acc else t).hold code va eret))
  | .stay t more on acc =>
    (match clash acc with
    | some q => .next (s.holdOverlap q)
    | none =>
      let t := (keep t more).modMyEng fun e =>
        { e with issued := true, cap := some (s.cur.word, s.cap), wait := if first then none else e.wait }
      let t := if first then t.record acc else t
      .next (match on with
        | some w => t.waitEng w.1 w.2.1 w.2.2
        | none => t.modMyEng fun e => { e with wait := none }))
  | .done t acc pc =>
    match clash acc with
    | some q => .next (s.holdOverlap q)
    | none => .next (t.retire h.give acc pc)

/-- The turn of an engine instruction with header `h` that pops `nq` entries at issue (R30, R32, R38, R44, R56). A header that
R30 refuses raises ILL when the instruction would issue: when its tokens and entries are there (log entry 43). -/
def State.issue (s : State) (h : Hdr) (loopWord : Bool) (nq : Nat) (body : State → List W64 → Eff) : Out :=
  let st := s.cur.stream
  let e := s.myEng
  let x := s.here
  let q := queueOf st
  let from_ := maskStreams st h.take
  if e.issued then s.conclude h nq false e.popped (body s e.popped)
  else if hdrSkips h e then
    .next (s.modMyEng fun e => { e with pc := s.nextPc, wait := none })
  else if !e.taken && !x.canTake st from_ then .next (s.waitEng .take h.take.toNat 1)
  else if !e.taken && (x.queued q).length < nq then .next (s.waitEng .queue q nq)
  else if !hdrOk h e loopWord then .next (s.hold cILL 0 false)
  else
    let ents := if e.taken then e.popped else (x.queued q).take nq
    let s1 := if e.taken then s else (s.takeFrom s.cur.bench st s.cur.ctx from_).modHere fun x => x.popQueue q nq
    s.conclude h nq true ents (body s1 ents)

/-! ### Taking an exception (R177 to R180) -/

/-- s.cause (R92). -/
def causeWord (code : Byte) (src : BitVec 3) (deferred : Bool) (w : W32) : W64 :=
  w ++ 0#20 ++ bit deferred ++ src ++ code

/-- Both shadow levels of a context are cleared; a boosted load in flight writes nothing (R91). -/
def Bench.clearShadows (x : Bench) (c : Fin 4) : Bench :=
  let drop (l : PendLoad) : PendLoad :=
    match l.dst with
    | some (.shadow d _ _) => if d = c then { l with dst := none } else l
    | _ => l
  (x.modC fun u => { u with loads := u.loads.map drop }).modCtx c fun k => { k with sh1 := .empty, sh2 := .empty }

/-- A context's watch is dropped, with a wake if it was armed (R144). -/
def State.dropWatch (s : State) (b : BenchId) (c : Fin 4) : State :=
  if (s.bench b).ctx c |>.watch.isSome then
    { (s.wakeCtx b c) with watches := s.watches.filter fun w => !(w.bench == b && w.ctx == c && w.remote.isNone) }
  else s

/-- A context stands at an instruction boundary: no access of it awaits a response (R131, R428), and no LAUNCH whose record the
dispatcher has read awaits its result (R182). -/
def Ctx.atBoundary (k : Ctx) : Bool :=
  match k.phase with | .remote _ _ _ _ _ => false | .atomic _ _ _ _ => false | .launch => false | _ => true

/-- A context that is waiting counts as not issued: it issues afresh later (R166, R178). What has issued goes on to its next
boundary. -/
def Ctx.unissue (k : Ctx) : Ctx := if k.atBoundary then { k with wait := none, phase := .idle } else k

/-- Trap entry (R178): context `c` runs the handler of the bench; without one the hitch is killed (R403). The source
is a context, or 4 to 7 for L, P, V and S. -/
def State.enterTrap (s : State) (b : BenchId) (c : Fin 4) (code : Byte) (src : BitVec 3) (deferred : Bool) (w : W32)
    (epc tval : W64) : State :=
  let x := s.bench b
  if x.c.trap = 0 then s.kill x.seqNo ⟨code, src, BitVec.ofNat 10 (identOf b), w, 0⟩
  else
    let s := (s.dropWatch b c).modBench b fun x => x.clearShadows c
    let s := s.modBench b fun x => { x with asks := x.asks.filter fun a => a.st != .c || (x.ctx a.ctx).phase == .launch }
    s.modBench b fun x => x.modC fun u =>
      { u with
        cause := causeWord code src deferred w
        epc := epc
        tval := tval
        handler := some c
        owed := false
        ctxs := Vector.ofFn fun i : Fin 4 =>
          if i = c then { u.ctxs[i] with pc := u.trap, wait := none, phase := .idle } else u.ctxs[i].unissue }

/-- The word of the turn as a C word. -/
def State.cword (s : State) : W32 := s.cur.word.setWidth 32

/-- A double fault of a context that runs the handler: the hitch is killed, and both causes go to the dispatcher (R180, R403). -/
def State.doubleFault (s : State) (b : BenchId) (c : Fin 4) (code : Byte) (w : W32) : State :=
  let x := s.bench b
  s.kill x.seqNo ⟨code, BitVec.ofNat 3 c.val, BitVec.ofNat 10 (identOf b), w, x.c.cause⟩

/-- A precise fault of the context of the turn (R177). It waits for an older access of the context that may still fault (R131). In the
context that runs the handler it is a double fault (R180); in another, which completes an access while the handler runs, the access
issues again after ERET (R178). -/
def State.raiseC (s : State) (code : Byte) (tval : W64) : State :=
  if s.here.unsure s.cur.ctx then s.waitC .other 0
  else
    match s.here.c.handler with
    | some h =>
      if h = s.cur.ctx then s.doubleFault s.cur.bench s.cur.ctx code s.cword
      else s.modMy fun k => { k with wait := none, phase := .idle }
    | none => s.enterTrap s.cur.bench s.cur.ctx code (BitVec.ofNat 3 s.cur.ctx.val) false s.cword s.cur.pc tval

/-- A feed whose block has raised a fault in a stream fetches that block again, unless the stream holds a fault of which C
has not been told (R290). -/
def Bench.refetch (x : Bench) (f : Feed) : Feed :=
  match f.ahead with
  | k :: _ =>
    (match k.raised with
    | some st => (match (x.eng st).held with
      | some h => if h.reported then { f with ahead := [] } else f
      | none => { f with ahead := [] })
    | none => f)
  | [] => f

/-- Return from the handler (R163): held faults that ERET clears are cleared, and their streams go on (R181, R290,
R463). -/
def State.exitTrap (s : State) : State :=
  let s := s.modHere fun x => x.clearShadows s.cur.ctx
  let s := s.modHere fun x => { x with feeds := x.feeds.map x.refetch }
  let clear (e : Eng) : Eng :=
    match e.held with
    | some h => if h.eret && h.reported then { e with held := none } else e
    | none => e
  s.modHere fun x =>
    let x := { x with l := clear x.l, p := clear x.p, v := clear x.v, s := clear x.s }
    (x.modC fun u => { u with handler := none }).modCtx s.cur.ctx fun k => { k with pc := x.c.epc, wait := none, phase := .idle }

/-! ### The named registers of C (R87 to R90) -/

/-- Where register k of a window w lies; nowhere for k0. -/
def regDst (w : BitVec 4) (k : BitVec 4) : Option Dst :=
  if k = 0 then none
  else if k.toNat < 8 then some (.glob ⟨k.toNat % 8, by omega⟩)
  else if k.toNat < 12 then some (.phys ⟨(4 * w.toNat + (k.toNat - 8)) % 64, by omega⟩)
  else some (.phys ⟨(4 * ((w.toNat + 1) % 16) + (k.toNat - 12)) % 64, by omega⟩)

/-- A load in flight writes the place. -/
def CUnit.pendingAt (u : CUnit) (d : Dst) : Bool := u.loads.any fun l => l.dst == some d

/-- What a source specifier gives: a value, nothing yet, or a deferred fault (R89, R90). -/
inductive Src where
  | val (v : W64)
  | wait
  | deferred (d : Deferred)
  deriving DecidableEq, Repr

/-- A shadow level of a context. -/
def Ctx.shadow (k : Ctx) (lvl : BitVec 2) : Shadow := if lvl = 2 then k.sh2 else k.sh1

/-- Read a valid shadow register. -/
def Bench.readShadow (x : Bench) (c : Fin 4) (lvl : BitVec 2) (k : BitVec 4) : Option Src :=
  let r := ((x.ctx c).shadow lvl).regs[k.toFin]
  if r.valid then
    some (if x.c.pendingAt (.shadow c lvl k.toFin) then .wait
      else match r.fault with | some d => .deferred d | none => .val r.val)
  else none

/-- Read a named register at a boost level (R90). -/
def Bench.readReg (x : Bench) (c : Fin 4) (lvl : BitVec 2) (k : BitVec 4) : Src :=
  let arch : Src :=
    match regDst (x.ctx c).w k with
    | none => .val 0
    | some d => if x.c.pendingAt d then .wait else .val (x.c.at_ (some d))
  let one : Src := if lvl = 0 then arch else (x.readShadow c 1 k).getD arch
  if k = 0 then .val 0 else if lvl = 2 then (x.readShadow c 2 k).getD one else one

/-- Read a source specifier (R88): a named register, or the result queue entry of age 1 to 16. -/
def Bench.readSrc (x : Bench) (c : Fin 4) (lvl : BitVec 2) (a : BitVec 5) : Src :=
  if a.toNat < 16 then x.readReg c lvl (a.setWidth 4)
  else match (x.ctx c).rq[a.toNat - 16]? with
    | none => .val 0
    | some e => if e.tag.isSome then .wait else .val e.val

/-- The context goes on at the next word. -/
def State.doneC (s : State) : State := s.modMy fun k => { k with pc := s.nextPc, wait := none, phase := .idle }

/-- The context goes on at an address. -/
def State.goC (s : State) (pc : W64) : State := s.modMy fun k => { k with pc := pc, wait := none, phase := .idle }

/-- A result enters the queue of a context (R85). -/
def Ctx.push (k : Ctx) (e : QEntry) : Ctx := { k with rq := (e :: k.rq).take 16 }

/-- Set a shadow register of the context of the turn. -/
def State.setShadow (s : State) (lvl : BitVec 2) (d : BitVec 4) (r : ShadowReg) : State :=
  let drop (l : PendLoad) : PendLoad :=
    if l.dst == some (.shadow s.cur.ctx lvl d.toFin) then { l with dst := none } else l
  (s.modMyC fun u => { u with loads := u.loads.map drop }).modMy fun k =>
    k.modShadow lvl fun h => { h with regs := h.regs.set d.toFin r }

/-- put(value) of R103. -/
def State.put (s : State) (d : BitVec 4) (lvl : BitVec 2) (v : W64) : State :=
  if lvl = 0 then
    let w := s.myCtx.w
    (s.modMyC fun u => u.write (regDst w d) v).modMy fun k => k.push ⟨v, none⟩
  else s.setShadow lvl d ⟨true, v, none⟩

/-- A boosted instruction records a fault in its destination's shadow (R89). -/
def State.defer (s : State) (lvl : BitVec 2) (d : BitVec 4) (f : Deferred) : State :=
  s.setShadow lvl d ⟨true, 0, some f⟩

/-- A boosted instruction records a fault of its own (R89, R121). -/
def State.deferNew (s : State) (lvl : BitVec 2) (d : BitVec 4) (code : Byte) (va : W64) : State :=
  (s.defer lvl d ⟨code, va, s.cur.pc, s.cword, s.here.seq⟩).modHere fun x => { x with seq := x.seq + 1 }

/-- An instruction whose sources are read at a level: it waits for a value that has not arrived, and a boosted one
inherits a deferred fault (R90, R103). Of several sources that hold deferred faults it inherits that of the first, in the order
in which it names them (log entry 44). -/
def State.withSrc (s : State) (lvl : BitVec 2) (d : BitVec 4) (a : BitVec 5) (f : W64 → Out) : Out :=
  match s.here.readSrc s.cur.ctx lvl a with
  | .val v => f v
  | .wait => .next (s.waitC .other 0)
  | .deferred r => .next (s.defer lvl d r).doneC

/-- A one-source instruction with a result. -/
def State.op1 (s : State) (d : BitVec 4) (lvl : BitVec 2) (a : BitVec 5) (f : W64 → W64) : Out :=
  s.withSrc lvl d a fun x => .next (s.put d lvl (f x)).doneC

/-- A two-source instruction with a result. -/
def State.op2 (s : State) (d : BitVec 4) (lvl : BitVec 2) (a b : BitVec 5) (f : W64 → W64 → W64) : Out :=
  s.withSrc lvl d a fun x => s.withSrc lvl d b fun y => .next (s.put d lvl (f x y)).doneC

/-- A three-source instruction with a result. -/
def State.op3 (s : State) (d : BitVec 4) (lvl : BitVec 2) (a b c : BitVec 5) (f : W64 → W64 → W64 → W64) : Out :=
  s.withSrc lvl d a fun x => s.withSrc lvl d b fun y => s.withSrc lvl d c fun z =>
    .next (s.put d lvl (f x y z)).doneC

/-- In a tail context the instruction raises ILL (R130). -/
def State.mainOnly (s : State) (r : Out) : Out := if s.cur.ctx = 0 then r else .next (s.raiseC cILL 0)

end Sys2Proof.Machine
end

