-- ==== Sys2Proof/Machine/Flags.lean ====
section
/-! DEFINITION. The F32 results of C and V with their exception flags (R110 to R115, R202). -/

namespace Sys2Proof.Machine

/-- The quiet NaN that every NaN result is (R112). -/
def qnan : W32 := 0x7FC00000#32

/-- A signalling NaN (R112). -/
def isSnan32 (a : W32) : Bool := ffF32.isSnan a.toNat
/-- A NaN. -/
def isNan32 (a : W32) : Bool := (valF32 a).isNan

/-- Flag [4], invalid (R92). -/
def fInvalid : FFlags := 0b10000
/-- Flag [3], divide by zero (R92). -/
def fDivZero : FFlags := 0b01000
/-- Flag [0], inexact (R92). -/
def fInexact : FFlags := 0b00001

/-- An exact result rounded once, with its flags: invalid for a signalling NaN input, and for a NaN that no input NaN
explains or that `bad` names (R111, R112). -/
def arith32 (md : RMode) (ins : List W32) (bad : Bool) (v : Val) : W32 × FFlags :=
  let (r, fl) := ffF32.round md v
  let inv := bad || ins.any isSnan32 || (v.isNan && !ins.any isNan32)
  (BitVec.ofNat 32 r, if inv then fl ||| fInvalid else fl)

/-- round(a + b) (R113). -/
def fadd32 (md : RMode) (a b : W32) : W32 × FFlags := arith32 md [a, b] false (sumVals md [valF32 a, valF32 b])
/-- round(a − b) (R113). -/
def fsub32 (md : RMode) (a b : W32) : W32 × FFlags := arith32 md [a, b] false (sumVals md [valF32 a, (valF32 b).neg])
/-- round(a · b) (R113). -/
def fmul32 (md : RMode) (a b : W32) : W32 × FFlags := arith32 md [a, b] false ((valF32 a).mul (valF32 b))
/-- round(a / b), with the divide-by-zero flag (R113). -/
def fdiv32 (md : RMode) (a b : W32) : W32 × FFlags :=
  let (r, fl) := arith32 md [a, b] false ((valF32 a).div (valF32 b))
  let va := valF32 a
  (r, if (valF32 b).isZero && !va.isNan && !va.isInf && !va.isZero then fl ||| fDivZero else fl)
/-- round(√a) (R113). -/
def fsqrt32 (md : RMode) (a : W32) : W32 × FFlags := arith32 md [a] false (valF32 a).sqrt

/-- round(±(a · b) ± c): ∞ · 0 is invalid whatever c is (R116). -/
def ffma32 (md : RMode) (negp negc : Bool) (a b c : W32) : W32 × FFlags :=
  let p := (valF32 a).mul (valF32 b)
  let bad := p.isNan && !isNan32 a && !isNan32 b
  let p := if negp then p.neg else p
  let z := if negc then (valF32 c).neg else valF32 c
  arith32 md [a, b, c] bad (sumVals md [p, z])

/-- FMIN and FMAX: −0 lies below +0, a single NaN yields the other input (R112). -/
def fminmax32 (wantMax : Bool) (a b : W32) : W32 × FFlags :=
  let fl : FFlags := if isSnan32 a || isSnan32 b then fInvalid else 0
  let va := valF32 a
  let vb := valF32 b
  let aLow := va.lt vb || (va.eqv vb && va.isNeg)
  let r :=
    if va.isNan && vb.isNan then qnan
    else if va.isNan then b
    else if vb.isNan then a
    else if aLow != wantMax then a else b
  (r, fl)

/-- FABS clears bit 31; a NaN passes unchanged (R112). DEDUCED (log entry 24). -/
def fabs32 (a : W32) : W32 := if isNan32 a then a else a &&& 0x7FFFFFFF#32
/-- FNEG flips bit 31; a NaN passes unchanged (R112). DEDUCED (log entry 24). -/
def fneg32 (a : W32) : W32 := if isNan32 a then a else a ^^^ 0x80000000#32

/-- The compares: EQ is invalid for a signalling NaN, LT and LE for any NaN (R113). -/
def fcmp32 (op : Nat) (a b : W32) : Bool × FFlags :=
  let va := valF32 a
  let vb := valF32 b
  let snan := isSnan32 a || isSnan32 b
  let nan := va.isNan || vb.isNan
  match op with
  | 0 => (va.eqv vb, if snan then fInvalid else 0)
  | 1 => (va.lt vb, if nan then fInvalid else 0)
  | 2 => (va.lt vb || va.eqv vb, if nan then fInvalid else 0)
  | _ => (nan, if snan then fInvalid else 0)

/-- A conversion to an integer in a range (R114). -/
def fcvtInt (md : RMode) (lo hi : Int) (a : W32) : Int × FFlags :=
  match valF32 a with
  | .nan => (0, fInvalid)
  | .inf s => (if s then lo else hi, fInvalid)
  | .fin s m e =>
    let (n, inx) := roundInt md s m e
    if n < lo then (lo, fInvalid) else if hi < n then (hi, fInvalid) else (n, if inx then fInexact else 0)

/-- An integer rounded to F32: inexact alone (R114). -/
def icvt32 (md : RMode) (x : Int) : W32 × FFlags :=
  let (r, fl) := ffF32.round md (.ofInt x)
  (BitVec.ofNat 32 r, fl)

/-- The class of a value, one bit set (R115). -/
def fclass32 (a : W32) : W64 :=
  let e := a.toNat / 2 ^ 23 % 256
  let m := a.toNat % 2 ^ 23
  let neg := a.getLsbD 31
  let k : Nat :=
    if e = 255 then (if m = 0 then (if neg then 0 else 7) else if isSnan32 a then 8 else 9)
    else if e = 0 then (if m = 0 then (if neg then 3 else 4) else (if neg then 2 else 5))
    else (if neg then 1 else 6)
  BitVec.ofNat 64 (2 ^ k)

/-! ### Sticky flags (R92, R111, R121) -/

/-- OR flags into s.fflags, or into the pending flags of a shadow level. -/
def State.orFlags (s : State) (lvl : BitVec 2) (fl : FFlags) : State :=
  if lvl = 0 then s.modMyC fun u => { u with fflags := u.fflags ||| fl }
  else s.modMy fun k => k.modShadow lvl fun h => { h with flags := h.flags ||| fl }

/-- The rounding mode of a word of the F32 group (R110). -/
def State.cmode (s : State) (rm : BitVec 3) : RMode := rmodeField rm s.here.c.mode

/-- A one-source F32 instruction (R110, R111). -/
def State.fop1 (s : State) (o : CFlt) (f : RMode → W32 → W64 × FFlags) : Out :=
  s.withSrc o.boost o.d o.a fun x =>
    let (r, fl) := f (s.cmode o.rm) (x.setWidth 32)
    .next ((s.orFlags o.boost fl).put o.d o.boost r).doneC

/-- A two-source F32 instruction (R110, R111). -/
def State.fop2 (s : State) (o : CFlt) (f : RMode → W32 → W32 → W64 × FFlags) : Out :=
  s.withSrc o.boost o.d o.a fun x => s.withSrc o.boost o.d o.b fun y =>
    let (r, fl) := f (s.cmode o.rm) (x.setWidth 32) (y.setWidth 32)
    .next ((s.orFlags o.boost fl).put o.d o.boost r).doneC

/-- A three-source F32 instruction, which rounds under s.mode (R116). -/
def State.fop3 (s : State) (o : CTri) (f : RMode → W32 → W32 → W32 → W32 × FFlags) : Out :=
  s.withSrc o.boost o.d o.a fun x => s.withSrc o.boost o.d o.b fun y => s.withSrc o.boost o.d o.c fun z =>
    let (r, fl) := f (s.cmode 0) (x.setWidth 32) (y.setWidth 32) (z.setWidth 32)
    .next ((s.orFlags o.boost fl).put o.d o.boost (r.setWidth 64)).doneC

/-- An F32 result in bits [31:0] (R110). -/
def wide32 (r : W32 × FFlags) : W64 × FFlags := (r.1.setWidth 64, r.2)

end Sys2Proof.Machine
end

