-- ==== Sys2Proof/Machine/CFloat.lean ====
section
/-! DEFINITION. The F32 instructions of C (R110 to R116). -/

namespace Sys2Proof.Machine

/-- FADD (R113). -/
def execFadd (o : CFlt) (s : State) : Out := s.fop2 o fun md a b => wide32 (fadd32 md a b)
/-- FSUB (R113). -/
def execFsub (o : CFlt) (s : State) : Out := s.fop2 o fun md a b => wide32 (fsub32 md a b)
/-- FMUL (R113). -/
def execFmul (o : CFlt) (s : State) : Out := s.fop2 o fun md a b => wide32 (fmul32 md a b)
/-- FDIV (R113). -/
def execFdiv (o : CFlt) (s : State) : Out := s.fop2 o fun md a b => wide32 (fdiv32 md a b)
/-- FSQRT (R113). -/
def execFsqrt (o : CFlt) (s : State) : Out := s.fop1 o fun md a => wide32 (fsqrt32 md a)
/-- FMIN (R112). -/
def execFmin (o : CFlt) (s : State) : Out := s.fop2 o fun _ a b => wide32 (fminmax32 false a b)
/-- FMAX (R112). -/
def execFmax (o : CFlt) (s : State) : Out := s.fop2 o fun _ a b => wide32 (fminmax32 true a b)
/-- FABS (R112). -/
def execFabs (o : CFlt) (s : State) : Out := s.fop1 o fun _ a => wide32 (fabs32 a, 0)
/-- FNEG (R112). -/
def execFneg (o : CFlt) (s : State) : Out := s.fop1 o fun _ a => wide32 (fneg32 a, 0)
/-- FCMPEQ (R113). -/
def execFcmpeq (o : CFlt) (s : State) : Out :=
  s.fop2 o fun _ a b => let r := fcmp32 0 a b; (if r.1 then 1 else 0, r.2)
/-- FCMPLT (R113). -/
def execFcmplt (o : CFlt) (s : State) : Out :=
  s.fop2 o fun _ a b => let r := fcmp32 1 a b; (if r.1 then 1 else 0, r.2)
/-- FCMPLE (R113). -/
def execFcmple (o : CFlt) (s : State) : Out :=
  s.fop2 o fun _ a b => let r := fcmp32 2 a b; (if r.1 then 1 else 0, r.2)
/-- FCMPUN (R113). -/
def execFcmpun (o : CFlt) (s : State) : Out :=
  s.fop2 o fun _ a b => let r := fcmp32 3 a b; (if r.1 then 1 else 0, r.2)
/-- FCVT.i32 (R113, R114). -/
def execFcvtI32 (o : CFlt) (s : State) : Out :=
  s.fop1 o fun md a => let r := fcvtInt md (-(2 ^ 31 : Nat)) (2 ^ 31 - 1) a; (BitVec.ofInt 64 r.1, r.2)
/-- FCVT.n32 (R113, R114). -/
def execFcvtN32 (o : CFlt) (s : State) : Out :=
  s.fop1 o fun md a => let r := fcvtInt md (0) (2 ^ 32 - 1) a; (BitVec.ofInt 64 r.1, r.2)
/-- FCVT.i64 (R113, R114). -/
def execFcvtI64 (o : CFlt) (s : State) : Out :=
  s.fop1 o fun md a => let r := fcvtInt md (-(2 ^ 63 : Nat)) (2 ^ 63 - 1) a; (BitVec.ofInt 64 r.1, r.2)
/-- FCVT.n64 (R113, R114). -/
def execFcvtN64 (o : CFlt) (s : State) : Out :=
  s.fop1 o fun md a => let r := fcvtInt md (0) (2 ^ 64 - 1) a; (BitVec.ofInt 64 r.1, r.2)
/-- ICVT.f32 (R113, R114). -/
def execIcvtF32 (o : CFlt) (s : State) : Out :=
  s.withSrc o.boost o.d o.a fun x =>
    let r := icvt32 (s.cmode o.rm) x.toInt
    .next ((s.orFlags o.boost r.2).put o.d o.boost (r.1.setWidth 64)).doneC
/-- NCVT.f32 (R113, R114). -/
def execNcvtF32 (o : CFlt) (s : State) : Out :=
  s.withSrc o.boost o.d o.a fun x =>
    let r := icvt32 (s.cmode o.rm) (x.toNat : Int)
    .next ((s.orFlags o.boost r.2).put o.d o.boost (r.1.setWidth 64)).doneC
/-- FCLASS (R115). -/
def execFclass (o : CFlt) (s : State) : Out := s.fop1 o fun _ a => (fclass32 a, 0)
/-- FMA (R116). -/
def execFma (o : CTri) (s : State) : Out := s.fop3 o fun md a b c => ffma32 md false false a b c
/-- FMS (R116). -/
def execFms (o : CTri) (s : State) : Out := s.fop3 o fun md a b c => ffma32 md false true a b c
/-- FNMA (R116). -/
def execFnma (o : CTri) (s : State) : Out := s.fop3 o fun md a b c => ffma32 md true false a b c

end Sys2Proof.Machine
end

