-- ==== Sys2Proof/Machine/CInt.lean ====
section
/-! DEFINITION. The integer, three-source integer, immediate and LI instructions of C (R104 to R109, R116, R117). -/

namespace Sys2Proof.Machine

/-! ### Integer functions (R105, R106) -/

/-- A truth value as a result. -/
def truth (b : Bool) : W64 := if b then 1 else 0

/-- High 64 bits of the signed product. -/
def mulHigh (a b : W64) : W64 := BitVec.ofInt 64 (a.toInt * b.toInt / (2 ^ 64 : Nat))
/-- High 64 bits of the unsigned product. -/
def mulHighU (a b : W64) : W64 := BitVec.ofNat 64 (a.toNat * b.toNat / 2 ^ 64)
/-- Signed division, truncated (R106). -/
def divS (a b : W64) : W64 := if b = 0 then BitVec.allOnes 64 else BitVec.ofInt 64 (Int.tdiv a.toInt b.toInt)
/-- Unsigned division (R106). -/
def divU (a b : W64) : W64 := if b = 0 then BitVec.allOnes 64 else BitVec.ofNat 64 (a.toNat / b.toNat)
/-- Signed remainder; its sign follows a (R106). -/
def remS (a b : W64) : W64 := if b = 0 then a else BitVec.ofInt 64 (Int.tmod a.toInt b.toInt)
/-- Unsigned remainder (R106). -/
def remU (a b : W64) : W64 := if b = 0 then a else BitVec.ofNat 64 (a.toNat % b.toNat)
/-- A shift count: b[5:0] (R106). -/
def shiftCount (b : W64) : Nat := (b.extractLsb' 0 6).toNat
/-- The shifts and the rotation of R105 and R108: 0 SHL, 1 SHR, 2 SAR, 3 ROR. -/
def shiftBy (kind : BitVec 2) (a : W64) (n : Nat) : W64 :=
  match kind.toNat with
  | 0 => a <<< n
  | 1 => a >>> n
  | 2 => a.sshiftRight n
  | _ => a.rotateRight n
/-- A signed result saturated to 64 bits (R105). -/
def satS (x : Int) : W64 := BitVec.ofInt 64 (clampInt (-(2 ^ 63 : Nat)) ((2 ^ 63 : Nat) - 1) x)
/-- The low 32 bits sign-extended. -/
def sext32 (a : W64) : W64 := (a.setWidth 32).signExtend 64
/-- The low 32 bits zero-extended. -/
def zext32 (a : W64) : W64 := (a.setWidth 32).setWidth 64
/-- RNDC: the grain hash of the key and the three coordinates (R117). -/
def rndcOf (a b c : W64) : W64 :=
  (grainHash (a.setWidth 32) (b.setWidth 32) (c.setWidth 32) (a.extractLsb' 32 32)).setWidth 64

/-! ### Integer group (R105) -/

/-- ADD (R105). -/
def execAdd (o : COp) (s : State) : Out := s.op2 o.d o.boost o.a o.b fun a b => a + b
/-- SUB (R105). -/
def execSub (o : COp) (s : State) : Out := s.op2 o.d o.boost o.a o.b fun a b => a - b
/-- MUL (R105). -/
def execMul (o : COp) (s : State) : Out := s.op2 o.d o.boost o.a o.b fun a b => a * b
/-- MULH (R105). -/
def execMulh (o : COp) (s : State) : Out := s.op2 o.d o.boost o.a o.b fun a b => mulHigh a b
/-- MULHU (R105). -/
def execMulhu (o : COp) (s : State) : Out := s.op2 o.d o.boost o.a o.b fun a b => mulHighU a b
/-- DIV (R105). -/
def execDiv (o : COp) (s : State) : Out := s.op2 o.d o.boost o.a o.b fun a b => divS a b
/-- DIVU (R105). -/
def execDivu (o : COp) (s : State) : Out := s.op2 o.d o.boost o.a o.b fun a b => divU a b
/-- REM (R105). -/
def execRem (o : COp) (s : State) : Out := s.op2 o.d o.boost o.a o.b fun a b => remS a b
/-- REMU (R105). -/
def execRemu (o : COp) (s : State) : Out := s.op2 o.d o.boost o.a o.b fun a b => remU a b
/-- AND (R105). -/
def execAnd (o : COp) (s : State) : Out := s.op2 o.d o.boost o.a o.b fun a b => a &&& b
/-- OR (R105). -/
def execOr (o : COp) (s : State) : Out := s.op2 o.d o.boost o.a o.b fun a b => a ||| b
/-- XOR (R105). -/
def execXor (o : COp) (s : State) : Out := s.op2 o.d o.boost o.a o.b fun a b => a ^^^ b
/-- ANDN (R105). -/
def execAndn (o : COp) (s : State) : Out := s.op2 o.d o.boost o.a o.b fun a b => a &&& ~~~b
/-- SHL (R105). -/
def execShl (o : COp) (s : State) : Out := s.op2 o.d o.boost o.a o.b fun a b => shiftBy 0 a (shiftCount b)
/-- SHR (R105). -/
def execShr (o : COp) (s : State) : Out := s.op2 o.d o.boost o.a o.b fun a b => shiftBy 1 a (shiftCount b)
/-- SAR (R105). -/
def execSar (o : COp) (s : State) : Out := s.op2 o.d o.boost o.a o.b fun a b => shiftBy 2 a (shiftCount b)
/-- ROR (R105). -/
def execRor (o : COp) (s : State) : Out := s.op2 o.d o.boost o.a o.b fun a b => shiftBy 3 a (shiftCount b)
/-- CMPEQ (R105). -/
def execCmpeq (o : COp) (s : State) : Out := s.op2 o.d o.boost o.a o.b fun a b => truth (a == b)
/-- CMPNE (R105). -/
def execCmpne (o : COp) (s : State) : Out := s.op2 o.d o.boost o.a o.b fun a b => truth (a != b)
/-- CMPLT (R105). -/
def execCmplt (o : COp) (s : State) : Out := s.op2 o.d o.boost o.a o.b fun a b => truth (a.slt b)
/-- CMPLTU (R105). -/
def execCmpltu (o : COp) (s : State) : Out := s.op2 o.d o.boost o.a o.b fun a b => truth (a.ult b)
/-- CMPLE (R105). -/
def execCmple (o : COp) (s : State) : Out := s.op2 o.d o.boost o.a o.b fun a b => truth (a.sle b)
/-- CMPLEU (R105). -/
def execCmpleu (o : COp) (s : State) : Out := s.op2 o.d o.boost o.a o.b fun a b => truth (a.ule b)
/-- MIN (R105). -/
def execMin (o : COp) (s : State) : Out := s.op2 o.d o.boost o.a o.b fun a b => if a.sle b then a else b
/-- MAX (R105). -/
def execMax (o : COp) (s : State) : Out := s.op2 o.d o.boost o.a o.b fun a b => if a.sle b then b else a
/-- MINU (R105). -/
def execMinu (o : COp) (s : State) : Out := s.op2 o.d o.boost o.a o.b fun a b => if a.ule b then a else b
/-- MAXU (R105). -/
def execMaxu (o : COp) (s : State) : Out := s.op2 o.d o.boost o.a o.b fun a b => if a.ule b then b else a
/-- ADDS (R105). -/
def execAdds (o : COp) (s : State) : Out := s.op2 o.d o.boost o.a o.b fun a b => satS (a.toInt + b.toInt)
/-- SUBS (R105). -/
def execSubs (o : COp) (s : State) : Out := s.op2 o.d o.boost o.a o.b fun a b => satS (a.toInt - b.toInt)
/-- CLZ (R105). -/
def execClz (o : COp) (s : State) : Out := s.op1 o.d o.boost o.a fun a => BitVec.ofNat 64 (clzNat 64 a.toNat)
/-- CTZ (R105). -/
def execCtz (o : COp) (s : State) : Out := s.op1 o.d o.boost o.a fun a => BitVec.ofNat 64 (ctzNat 64 a.toNat)
/-- POPC (R105). -/
def execPopc (o : COp) (s : State) : Out := s.op1 o.d o.boost o.a fun a => BitVec.ofNat 64 (popNat 64 a.toNat)
/-- SEXT32 (R105). -/
def execSext32 (o : COp) (s : State) : Out := s.op1 o.d o.boost o.a fun a => sext32 a
/-- ZEXT32 (R105). -/
def execZext32 (o : COp) (s : State) : Out := s.op1 o.d o.boost o.a fun a => zext32 a

/-! ### Three-source integer functions (R116, R117) -/

/-- SEL (R116). -/
def execSel (o : CTri) (s : State) : Out := s.op3 o.d o.boost o.a o.b o.c fun a b c => if a = 0 then c else b
/-- RNDC (R116). -/
def execRndc (o : CTri) (s : State) : Out := s.op3 o.d o.boost o.a o.b o.c fun a b c => rndcOf a b c
/-- IMAD (R116). -/
def execImad (o : CTri) (s : State) : Out := s.op3 o.d o.boost o.a o.b o.c fun a b c => a * b + c

/-! ### Immediate group and LI (R107 to R109) -/

/-- ADDI (R107). -/
def execAddi (o : CImm) (s : State) : Out := s.op1 o.d o.boost o.a fun a => a + o.imm.signExtend 64
/-- ANDI (R107). -/
def execAndi (o : CImm) (s : State) : Out := s.op1 o.d o.boost o.a fun a => a &&& o.imm.signExtend 64
/-- ORI (R107). -/
def execOri (o : CImm) (s : State) : Out := s.op1 o.d o.boost o.a fun a => a ||| o.imm.signExtend 64
/-- XORI (R107). -/
def execXori (o : CImm) (s : State) : Out := s.op1 o.d o.boost o.a fun a => a ^^^ o.imm.signExtend 64
/-- CMPEQI (R107). -/
def execCmpeqi (o : CImm) (s : State) : Out := s.op1 o.d o.boost o.a fun a => truth (a == o.imm.signExtend 64)
/-- CMPLTI (R107). -/
def execCmplti (o : CImm) (s : State) : Out := s.op1 o.d o.boost o.a fun a => truth (a.slt (o.imm.signExtend 64))
/-- CMPLTUI (R107). -/
def execCmpltui (o : CImm) (s : State) : Out := s.op1 o.d o.boost o.a fun a => truth (a.ult (o.imm.signExtend 64))
/-- SHFI (R108). -/
def execShfi (o : CShf) (s : State) : Out := s.op1 o.d o.boost o.a fun a => shiftBy o.kind a o.n.toNat
/-- LI (R109). -/
def execLi (o : CWide) (s : State) : Out := .next (s.put o.d o.boost (o.imm.signExtend 64)).doneC

end Sys2Proof.Machine
end

