-- ==== Sys2Proof/Machine/CBranch.lean ====
section
/-! DEFINITION. The conditional branches of C, the settling of the shadows (R118 to R122), and the jumps (R123,
R124). -/

namespace Sys2Proof.Machine

/-- The address `off` words from the instruction (R96). -/
def State.relative {n : Nat} (s : State) (off : BitVec n) : W64 := s.cur.pc + 4 * off.signExtend 64

/-! ### Shadows (R120, R121) -/

/-- The deferred faults of the valid registers of a shadow level. -/
def Shadow.faults (h : Shadow) : List Deferred := h.regs.toList.filterMap fun r => if r.valid then r.fault else none

/-- The record of the oldest boosted instruction. -/
def oldest : List Deferred → Option Deferred
  | [] => none
  | d :: ds => match oldest ds with
    | none => some d
    | some e => if d.age ≤ e.age then some d else some e

/-- A load in flight of a context moves with its shadow: level 1 to the named register, level 2 to level 1. -/
def commitLoad (c : Fin 4) (w : BitVec 4) (l : PendLoad) : PendLoad :=
  match l.dst with
  | some (.shadow d lvl k) =>
    if d = c then { l with dst := if lvl = 2 then some (.shadow c 1 k) else regDst w (BitVec.ofNat 4 k.val) } else l
  | _ => l

/-- The shadows commit (R120). -/
def Bench.commitShadows (x : Bench) (c : Fin 4) : Bench :=
  let k := x.ctx c
  let put (u : CUnit) (i : Fin 16) : CUnit :=
    if k.sh1.regs[i].valid then u.write (regDst k.w (BitVec.ofNat 4 i.val)) k.sh1.regs[i].val else u
  let u := (List.finRange 16).foldl put x.c
  let u := { u with fflags := u.fflags ||| k.sh1.flags, loads := u.loads.map (commitLoad c k.w) }
  ({ x with c := u }).modCtx c fun k => { k with sh1 := k.sh2, sh2 := .empty }

/-- A boosted load of level 1 of the context has not arrived (a load of level 2 goes on). -/
def Bench.shadowPending (x : Bench) (c : Fin 4) : Bool :=
  x.c.loads.any fun l => match l.dst with | some (.shadow d lvl _) => d == c && lvl != 2 | _ => false

/-- A resolved branch settles the shadows and then goes on at `pc`; with a deferred fault among them it traps instead
(R120, R121). -/
def State.settle (s : State) (assumed : Bool) (pc : W64) : Out :=
  let c := s.cur.ctx
  if !assumed then .next ((s.modHere fun x => x.clearShadows c).goC pc)
  else if s.here.shadowPending c then .next (s.waitC .other 0)
  else
    match oldest s.myCtx.sh1.faults with
    | some d =>
      let src : BitVec 3 := BitVec.ofNat 3 c.val
      if s.here.c.handler.isSome then .next (s.doubleFault s.cur.bench c d.code d.word)
      else .next (s.enterTrap s.cur.bench c d.code src true d.word d.pc d.va)
    | none => .next ((s.modHere fun x => x.commitShadows c).goC pc)

/-- A two-source conditional branch (R118). -/
def State.branch (s : State) (o : CBr) (f : W64 → W64 → Bool) : Out :=
  s.withSrc 0 0 o.a fun a => s.withSrc 0 0 o.b fun b =>
    let t := f a b
    s.settle (t == o.h) (if t then s.relative o.off else s.nextPc)

/-- BEQ (R118). -/
def execBeq (o : CBr) (s : State) : Out := s.branch o fun a b => a == b
/-- BNE (R118). -/
def execBne (o : CBr) (s : State) : Out := s.branch o fun a b => a != b
/-- BLT (R118). -/
def execBlt (o : CBr) (s : State) : Out := s.branch o fun a b => a.slt b
/-- BGE (R118). -/
def execBge (o : CBr) (s : State) : Out := s.branch o fun a b => b.sle a
/-- BLTU (R118). -/
def execBltu (o : CBr) (s : State) : Out := s.branch o fun a b => a.ult b
/-- BGEU (R118). -/
def execBgeu (o : CBr) (s : State) : Out := s.branch o fun a b => b.ule a

/-- The condition of BRF on a flag queue entry (R40, R122). -/
def brfTaken (cond : BitVec 3) (e : W64) : Bool :=
  match cond.toNat with
  | 0 => e.getLsbD 0
  | 1 => e.getLsbD 1
  | 2 => e.getLsbD 2
  | _ => !e.getLsbD 1

/-- BRF (R122): it pops its entry when it issues, also when a deferred fault then traps (R121); while it waits for a boosted
load it has not issued. -/
def execBrf (o : CBrf) (s : State) : Out :=
  s.mainOnly
    (match s.here.flagq with
    | [] => .next (s.waitC .queue 4)
    | e :: rest =>
      let t := brfTaken o.cond e
      let keeps := t == o.h && s.here.shadowPending s.cur.ctx
      let s := if keeps then s else s.modHere fun x => { x with flagq := rest }
      s.settle (t == o.h) (if t then s.relative o.off else s.nextPc))

/-! ### Jumps (R123, R124) -/

/-- JMP (R123). -/
def execJmp (off : BitVec 26) (s : State) : Out := .next (s.goC (s.relative off))

/-- The fault of an indirect target, if any (R124). R124 gives no order between its two faults: DESIGN CHOICE, a target that both
name raises ALIGN (log entry 51). -/
def targetFault (a : W64) : Option Byte :=
  if a.extractLsb' 0 2 != 0 then some cALIGN else if 2 ^ 57 ≤ a.toNat then some cXLAT else none

/-- JMPI (R123, R124). -/
def execJmpi (a : BitVec 5) (s : State) : Out :=
  s.withSrc 0 0 a fun t =>
    match targetFault t with
    | some c => .next (s.raiseC c t)
    | none => .next (s.goC t)

end Sys2Proof.Machine
end

