-- ==== Sys2Proof/Machine/CCall.lean ====
section
/-! DEFINITION. Window groups, spill and fill (R167 to R172), CALL, CALLI, RET and RELS (R124 to R128, R174), and the
steps of the spill engine (R170, R171). -/

namespace Sys2Proof.Machine

/-! ### Groups (R167) -/

/-- A physical group, modulo 16. -/
def groupAt (n : Nat) : Fin 16 := ⟨n % 16, by omega⟩

/-- The physical index of a context's i-th group, counted from its oldest. -/
def Ctx.group (k : Ctx) (i : Nat) : Fin 16 := groupAt (k.w.toNat + 16 * (k.depth + 1) - k.depth + i)

/-- The first group of a context that may be spilled: a tail's first two stay pinned. -/
def firstSpillable (c : Fin 4) : Nat := if c = 0 then 0 else 2

/-- How many older groups of a context are in the file (R167). -/
def Ctx.olderInFile (k : Ctx) (c : Fin 4) : Nat := k.depth - (firstSpillable c + k.spilled)

/-- The physical group is one of the current groups of a live context. -/
def Bench.isCurrent (x : Bench) (g : Fin 16) : Bool :=
  (List.finRange 4).any fun c => let k := x.ctx c; k.live && (groupAt k.w.toNat == g || groupAt (k.w.toNat + 1) == g)

/-- A load in flight writes a register of the group. -/
def Bench.groupPending (x : Bench) (g : Fin 16) : Bool :=
  x.c.loads.any fun l => match l.dst with | some (.phys i) => i.val / 4 == g.val | _ => false

/-- Loads in flight to a group that is freed write nothing. -/
def Bench.dropGroupLoads (x : Bench) (g : Fin 16) : Bench :=
  let drop (l : PendLoad) : PendLoad :=
    match l.dst with | some (.phys i) => if i.val / 4 = g.val then { l with dst := none } else l | _ => l
  x.modC fun u => { u with loads := u.loads.map drop }

/-- Set the state of a group. -/
def Bench.setGroup (x : Bench) (g : Fin 16) (st : GState) : Bench :=
  x.modC fun u => { u with groups := u.groups.set g st }

/-- A group is freed. -/
def Bench.freeGroup (x : Bench) (g : Fin 16) : Bench := (x.dropGroupLoads g).setGroup g .free

/-- The number of free groups. -/
def Bench.freeGroups (x : Bench) : Nat := (x.c.groups.toList.filter fun g => g == .free).length

/-! ### Spill and fill (R169 to R172) -/

/-- The address of slot `i` of a context (R169). -/
def Bench.slotVa (x : Bench) (c : Fin 4) (i : Nat) : W64 :=
  x.c.spill + BitVec.ofNat 64 (c.val * 0x4000 + i * 0x40)

/-- What a spill, a fill or a claim comes to: done, a wait, or a fault; each with what has become of the state. -/
inductive Got where
  | ok (s : State)
  | wait (s : State)
  | fault (s : State) (code : Byte) (va : W64)

/-- The 64 bytes of a group's slot (R169). -/
def Bench.groupBytes (x : Bench) (g : Fin 16) : List Byte :=
  ((upTo 4).flatMap fun j => leBytes 8 (vget x.c.file (4 * g.val + j) 0).toNat)
    ++ leBytes 8 (x.c.link[g]).toNat ++ List.replicate 24 0

/-- A spill write is a store at .bn that goes directly to home, to a device, or to another module; none while it waits (R71, R131,
R170). -/
def State.spillStore (s : State) (b : BenchId) (c : Fin 4) (va : W64) (p : Passed) (bs : List Byte) : Option State :=
  let ten := (s.bench b).tenant
  match s.region p.pa with
  | .device => if s.devWaits p.pa (bs.map some) ten then none else some (s.devStore p.pa (bs.map some) ten)
  | .aperture _ =>
    (s.send (s.moduleOf p.pa) ten 2 (.store (p.pa % 2 ^ 40) (bs.map some))).map fun r =>
      let e : StEntry :=
        ⟨(s.bench b).seq, c, .store, 64, va, p.pa, bs.map some, .bn, false, false, 1, false, false, p.leaf, 0, 0,
          some (s.moduleOf p.pa, r.2), [c.val]⟩
      r.1.modBench b fun x => { x with fab := x.fab ++ [(.c, e)], seq := x.seq + 1 }
  | _ =>
    (s.storeHome (dieOf b) ten p.leaf p.pa bs).map fun s =>
      let s := if s.pending (p.pa / 128) then s.modBench b fun x => x.addDuty c.val [p.pa / 128] else s
      s.modBench b fun x => x.updateL1 p.pa (bs.map some) (coversSector p.pa (bs.map some)) 1 false

/-- Save a context's oldest older group that is in the file, and free it (R170, R172). A slot whose checks fail raises SPILL, behind a
window without a route too (log entry 50). -/
def State.spillOldest (s : State) (b : BenchId) (c : Fin 4) : Got :=
  let x := s.bench b
  let k := x.ctx c
  let g := k.group (firstSpillable c + k.spilled)
  let va := x.slotVa c k.spilled
  if x.c.spill = 0 then .fault s cSPILL 0
  else if 255 ≤ k.spilled then .fault s cSPILL va
  else if x.groupPending g then .wait s
  else
    match s.check b va.toNat 64 .write false false with
    | (s, .fault _) => .fault s cSPILL va
    | (s, .wait) => .wait s
    | (s, .ok p) =>
      match s.spillStore b c va p (x.groupBytes g) with
      | none => .wait s
      | some s => .ok (s.modBench b fun x => (x.freeGroup g).modCtx c fun k => { k with spilled := k.spilled + 1 })

/-- The bytes of a slot go back into their group. -/
def Bench.refill (x : Bench) (c : Fin 4) (g : Fin 16) (i : Nat) (bs : List Byte) : Bench :=
  let word (j : Nat) : W64 := BitVec.ofNat 64 (leNat ((bs.drop (8 * j)).take 8))
  ((x.modC fun u =>
    { u with
      file := (upTo 4).foldl (fun f j => vset f (4 * g.val + j) (word j)) u.file
      link := u.link.set g (word 4) }).setGroup g (.held c)).modCtx c fun k => { k with spilled := i }

/-- Fill back the group that a context spilled most recently, into its own physical index, which is free: a load at .bn
(R171, R172). Checks that fail raise SPILL, a lost response FABRIC (log entry 50). -/
def State.fillLatest (s : State) (b : BenchId) (c : Fin 4) : Got :=
  let x := s.bench b
  let k := x.ctx c
  let i := k.spilled - 1
  let g := k.group (firstSpillable c + i)
  let va := x.slotVa c i
  match s.check b va.toNat 64 .read false false with
  | (s, .fault _) => .fault s cSPILL va
  | (s, .wait) => .wait s
  | (s, .ok p) =>
    match s.load b p 64 .bn 1 false (fun _ => none) with
    | .wait s => .wait s
    | .fault s code => .fault s code va
    | .ok s bs => .ok (s.modBench b fun x => x.refill c g i bs)
    | .remote s =>
      match s.askRemote (.of b .c c) (s.bench b).tenant p 64 with
      | (s, none) => .wait s
      | (s, some (v, code)) =>
        let s := s.dropAsks (.of b .c c)
        if code != 0 then .fault (if code = cPOISON then s.logPrep p b else s) code va
        else .ok (s.modBench b fun x => x.refill c g i (leBytes 64 v))

/-- Save older groups of a context, oldest first, until its group `g` is free. -/
def State.spillUntil (s : State) (b : BenchId) (c : Fin 4) (g : Fin 16) : Nat → Got
  | 0 => .wait s
  | n + 1 =>
    match s.spillOldest b c with
    | .ok s => if (s.bench b).c.groups[g] = .free then .ok s else s.spillUntil b c g n
    | r => r

/-- claim(g, c) of R168, the group then being in the given state. -/
def State.claim (s : State) (b : BenchId) (g : Fin 16) (to_ : GState) : Got :=
  let x := s.bench b
  match x.c.groups[g] with
  | .free => .ok (s.modBench b fun x => x.setGroup g to_)
  | .pinned _ => .wait s
  | .held o =>
    if x.isCurrent g then .wait s
    else
      match s.spillUntil b o g 16 with
      | .ok s => .ok (s.modBench b fun x => x.setGroup g to_)
      | r => r

/-- The group below a context's current window is back in the file, as a return needs it (R171). Where its physical index is an
older group of another context, that group is spilled on demand, and what stops that spill stops the return, with the slot
address of that group (log entry 45). -/
def State.needBelow (s : State) (b : BenchId) (c : Fin 4) : Got :=
  let k := (s.bench b).ctx c
  if k.spilled = 0 || k.spilled + firstSpillable c != k.depth then .ok s
  else
    let g := k.group (k.depth - 1)
    match s.claim b g (.held c) with
    | .ok s =>
      match s.fillLatest b c with
      | .ok s => .ok s
      | .wait s => .wait (s.modBench b fun x => x.setGroup g .free)
      | .fault s code va => .fault (s.modBench b fun x => x.setGroup g .free) code va
    | r => r

/-! ### Calls and returns (R125, R126) -/

/-- CALL and CALLI (R125). -/
def State.call (s : State) (target : W64) : Out :=
  let b := s.cur.bench
  let c := s.cur.ctx
  let k := s.myCtx
  match s.claim b (groupAt (k.w.toNat + 2)) (.held c) with
  | .wait s => .next (s.waitC .claim 0)
  | .fault s code va => .next (s.raiseC code va)
  | .ok s =>
    let s := s.modHere fun x => (x.clearShadows c).modC fun u => { u with link := u.link.set (groupAt (k.w.toNat + 1)) s.nextPc }
    .next ((s.modMy fun k => { k with w := k.w + 1, depth := k.depth + 1 }).goC target)

/-- CALL (R125). -/
def execCall (off : BitVec 26) (s : State) : Out := s.call (s.relative off)

/-- CALLI (R124, R125). -/
def execCalli (a : BitVec 5) (s : State) : Out :=
  s.withSrc 0 0 a fun t =>
    match targetFault t with
    | some c => .next (s.raiseC c t)
    | none => s.call t

/-- A tail ends (R126, R174): its groups are freed and its context is free. It waits for its own loads to bind. -/
def State.endTail (s : State) : Out :=
  let c := s.cur.ctx
  let k := s.myCtx
  if s.here.c.loads.any fun l => l.ctx == c then .next (s.waitC .other 0)
  else
    let s := s.modHere fun x => (x.freeGroup (groupAt k.w.toNat)).freeGroup (groupAt (k.w.toNat + 1))
    let s := (s.dropWatch s.cur.bench c).modMy fun _ => Ctx.start
    .next (s.tryRetire s.cur.bench)

/-- RET (R126, R171, R172). -/
def execRet (s : State) : Out :=
  let b := s.cur.bench
  let c := s.cur.ctx
  let k := s.myCtx
  if k.depth = 0 then (if c = 0 then .next (s.raiseC cILL 0) else s.endTail)
  else
    match s.needBelow b c with
    | .wait s => .next (s.waitC .fill 0)
    | .fault s code va => .next (s.raiseC code va)
    | .ok s =>
      let pc := (s.bench b).c.link[groupAt k.w.toNat]
      let s := s.modHere fun x => (x.clearShadows c).freeGroup (groupAt (k.w.toNat + 1))
      .next ((s.modMy fun k => { k with w := k.w - 1, depth := k.depth - 1 }).goC pc)

/-! ### RELS (R127, R128) -/

/-- The lowest-numbered free tail context. -/
def Bench.freeTail (x : Bench) : Option (Fin 4) :=
  firstWhere (fun c => !(x.ctx c).live) [1, 2, 3]

/-- Copy the registers of a group. -/
def CUnit.copyGroup (u : CUnit) (src dst : Fin 16) : CUnit :=
  { u with file := (upTo 4).foldl (fun f j => vset f (4 * dst.val + j) (vget u.file (4 * src.val + j) 0)) u.file }

/-- The tail takes the frame on, the main context returns (R127). -/
def State.splitTail (s : State) (t : Fin 4) : State :=
  let k := s.myCtx
  let w := k.w.toNat
  let pc := s.here.c.link[groupAt w]
  let s := s.modHere fun x => (x.clearShadows 0).modC fun u =>
    (u.copyGroup (groupAt w) (groupAt (w + 2))).copyGroup (groupAt (w + 1)) (groupAt (w + 3))
  let tail : Ctx := { Ctx.start with live := true, pc := s.nextPc, w := k.w + 2, rq := k.rq }
  let s := s.modHere fun x => (x.modCtx t fun _ => tail).freeGroup (groupAt (w + 1))
  ((s.modHere fun x => x.joinDuty 0 t.val).modMy fun k => { k with w := k.w - 1, depth := k.depth - 1 }).goC pc

/-- A RELS waits, having chosen its tail (R127). -/
def State.waitRels (s : State) (t : Fin 4) (kind : WaitKind) : State := (s.modMy fun k => { k with phase := .rels t }).waitC kind 0

/-- The tail that a RELS has chosen, or chooses now (R127). -/
def State.relsTail (s : State) : Option (Fin 4) := match s.myCtx.phase with | .rels t => some t | _ => s.here.freeTail

/-- RELS (R127, R128). It is a release within its stream: it waits until every older load of its context has bound (R73), so that the
registers and the queue that the tail copies are there. R127 and R168 do not say what becomes of the first group while the claim of the
second stalls: DESIGN CHOICE, it is freed again, and the time of both claims counts as one stall (log entry 45). -/
def execRels (s : State) : Out :=
  let b := s.cur.bench
  let k := s.myCtx
  let w := k.w.toNat
  if s.cur.ctx != 0 || k.depth = 0 then .next (s.raiseC cILL 0)
  else
    match s.relsTail with
    | none => .next (s.raiseC cTAILFULL 0)
    | some t =>
      if s.here.c.loads.any fun l => l.ctx == s.cur.ctx then .next (s.waitRels t .other)
      else
        let free (s : State) : State := s.modHere fun x => x.setGroup (groupAt (w + 2)) .free
        match s.needBelow b 0 with
        | .wait s => .next (s.waitRels t .fill)
        | .fault s code va => .next (s.raiseC code va)
        | .ok s =>
          match s.claim b (groupAt (w + 2)) (.pinned t) with
          | .wait s => .next (s.waitRels t .claim)
          | .fault s code va => .next (s.raiseC code va)
          | .ok s =>
            match s.claim b (groupAt (w + 3)) (.pinned t) with
            | .wait s => .next ((free s).waitRels t .claim)
            | .fault s code va => .next ((free s).raiseC code va)
            | .ok s => .next (s.splitTail t)

/-! ### The spill engine (R170, R171) -/

/-- The context that holds the most groups in the file, a tail's two pinned groups among them, of those with an older group
there; of equals the lowest-numbered (log entry 46). -/
def Bench.fullest (x : Bench) : Option (Fin 4) :=
  let held (c : Fin 4) : Nat := (x.ctx c).depth + 2 - (x.ctx c).spilled
  let cand := (List.finRange 4).filter fun c => (x.ctx c).live && decide (0 < (x.ctx c).olderInFile c)
  cand.foldl (fun r c => match r with | some d => if held d < held c then some c else r | none => some c) none

/-- BACKGROUND_SPILL: while fewer than 4 groups are free (R170); one that would fault is not done (R172). -/
def execBackgroundSpill (s : State) : Out :=
  let b := s.cur.bring.bench
  let x := s.bench b
  match x.team, x.fullest with
  | some _, some c =>
    if 4 ≤ x.freeGroups then .next s
    else match s.spillOldest b c with
      | .ok t => .next t
      | .wait t => .next t
      | .fault _ _ _ => .next s
  | _, _ => .next s

/-- A fill of a context is due: 5 or more groups are free, and so is the physical index of the group that it spilled last (R171). -/
def Bench.fillDue (x : Bench) (c : Fin 4) : Bool :=
  let k := x.ctx c
  x.team.isSome && k.live && decide (0 < k.spilled) && decide (5 ≤ x.freeGroups)
    && x.c.groups[k.group (firstSpillable c + k.spilled - 1)] == .free

/-- A group has to be saved before it can be claimed (R168). -/
def Bench.toSpill (x : Bench) (g : Fin 16) : Bool := (match x.c.groups[g] with | .held _ => true | _ => false) && !x.isCurrent g

/-- The spill engine is at work for a context that stalls in CALL, RET or RELS: it saves a group that the context claims, or fills its group
back (R168, R170, R171). -/
def Bench.onDemand (x : Bench) (c : Fin 4) : Bool :=
  let k := x.ctx c
  let w := k.w.toNat
  match k.wait with
  | some q =>
    (match q.kind with
    | .claim => x.toSpill (groupAt (w + 2)) || (match k.phase with | .rels _ => x.toSpill (groupAt (w + 3)) | _ => false)
    | .fill => x.c.groups[k.group (k.depth - 1)] == .free || x.toSpill (k.group (k.depth - 1))
    | _ => false)
  | none => false

/-- The spill engine is not idle: a spill or a fill is under way on demand, or due, and nothing faults it (R93, R170 to R173). -/
def State.engineBusy (s : State) (b : BenchId) : Bool :=
  let x := s.bench b
  let goes (r : Got) : Bool := match r with | .fault _ _ _ => false | _ => true
  (match x.fullest with | some c => decide (x.freeGroups < 4) && goes (s.spillOldest b c) | none => false)
    || (List.finRange 4).any fun c => (x.ctx c).live && x.onDemand c || x.fillDue c && goes (s.fillLatest b c)

/-- GROUP_FILL: while 5 or more groups are free, the engine fills back the group that the context spilled last, if its
physical index is free (R171). -/
def execGroupFill (s : State) : Out :=
  let b := s.cur.bring.bench
  let c := s.cur.bring.ctx
  if (s.bench b).fillDue c then
    match s.fillLatest b c with
    | .ok t => .next t
    | .wait t => .next t
    | .fault t _ _ => .next t
  else .next s

/-- The turn acts for a waiting context: its instruction raises a fault (R60, R168, R171). -/
def State.asContext (s : State) (b : BenchId) (c : Fin 4) (word : W128) : State :=
  { s with cur := { s.cur with bench := b, stream := .c, ctx := c, word := word, pc := ((s.bench b).ctx c).pc } }

/-- A wait of a context has lasted 2^30 clk (R60, R168, R171). -/
def State.overdue (s : State) (w : Wait) : Bool := decide (w.since + 2 ^ 30 ≤ s.clk)

/-- CLAIM_STALL_TIMEOUT (R168). -/
def execClaimStallTimeout (s : State) : Out :=
  let b := s.cur.bring.bench
  let c := s.cur.bring.ctx
  match ((s.bench b).ctx c).wait with
  | some w => if w.kind == .claim && s.overdue w then .next ((s.asContext b c w.word).raiseC cSPILL 0) else .next s
  | none => .next s

/-- FILL_STALL_TIMEOUT (R171). -/
def execFillStallTimeout (s : State) : Out :=
  let b := s.cur.bring.bench
  let c := s.cur.bring.ctx
  let x := s.bench b
  match (x.ctx c).wait with
  | some w =>
    if w.kind == .fill && s.overdue w then
      .next ((s.asContext b c w.word).raiseC cSPILL (x.slotVa c ((x.ctx c).spilled - 1)))
    else .next s
  | none => .next s

end Sys2Proof.Machine
end

