-- ==== Sys2Proof/Machine/CMem.lean ====
section
/-! DEFINITION. The memory instructions of C (R131 to R141), and the steps in which their loads, stores and atomics
complete (R63, R66, R71, R85, R407). -/

namespace Sys2Proof.Machine

/-! ### Addresses and values -/

/-- The address of a load or a store: base and scaled offset (R132, R136). -/
def addrOf {n : Nat} (base : W64) (off : BitVec n) (size : Nat) : W64 :=
  base + off.signExtend 64 * BitVec.ofNat 64 size

/-- A loaded value extended to 64 bits (R132). -/
def extend (size : Nat) (sext : Bool) (bs : List Byte) : W64 :=
  let v := leNat bs
  if sext then BitVec.ofInt 64 (signedNat (8 * size) v) else BitVec.ofNat 64 v

/-- Two byte ranges overlap. -/
def overlaps (a n b m : Nat) : Bool := decide (a < b + m ∧ b < a + n)

/-- A load in flight of the context reads some of the bytes (R65). -/
def Bench.loadInFlight (x : Bench) (c : Fin 4) (pa n : Nat) : Bool :=
  x.c.loads.any fun l => l.ctx == c && overlaps pa n l.pa l.size

/-- A buffered store of the context writes some of the bytes. -/
def Bench.storeInFlight (x : Bench) (c : Fin 4) (pa n : Nat) : Bool :=
  x.c.sb.any fun e => e.ctx == c && overlaps pa n e.pa e.size

/-- An access of the context that is performed at a device or uncached is still in the store buffer, or on its way to another
module (R81). -/
def Bench.deviceInFlight (x : Bench) (c : Fin 4) : Bool :=
  (x.c.sb.any fun e => e.ctx == c && e.device) || x.fab.any fun f => f.1 == .c && f.2.own.contains c.val && f.2.device

/-- Whether an access goes past every cache: .io, an uncached or write-combining page, device space (R81, R131). -/
def State.goesDirect (s : State) (p : Passed) (sc : Scope) : Bool := sc == .io || s.uncached p

/-- A new tag of the bench of the turn. -/
def State.newTag (s : State) : Nat := tagOf s.cur.bench.val s.here.seq

/-- One number of the bench's issue order is used up. -/
def State.count (s : State) : State := s.modHere fun x => { x with seq := x.seq + 1 }

/-! ### Loads (R132 to R135) -/

/-- What a load of C is. -/
structure LoadKind where
  size : Nat
  sext : Bool
  /-- through the constant cache (R135) -/
  const : Bool
  d : BitVec 4
  boost : BitVec 2
  scope : Scope
  acq : Bool
  pri : BitVec 2
  last : Bool

/-- A load faults: precisely, or into the shadow when it is boosted (R89, R131). -/
def State.loadFault (s : State) (k : LoadKind) (code : Byte) (va : W64) : Out :=
  if k.boost = 0 then .next (s.raiseC code va) else .next (s.deferNew k.boost k.d code va).doneC

/-- An acquire of the context of the turn (R70, R73, R82). -/
def State.acquireC (s : State) (sc : Scope) : State :=
  (s.modHere fun x => x.acquire sc).dutyAll s.cur.bench (ownerOf .c s.cur.ctx) sc

/-- A load has bound: its value is put, and an acquire takes effect (R74, R132). -/
def State.loadDone (s : State) (k : LoadKind) (bs : List Byte) : Out :=
  let s := if k.acq then s.acquireC k.scope else s
  .next (s.put k.d k.boost (extend k.size k.sext bs)).doneC

/-- What the context of the turn holds of its own (R131). -/
def State.mark (s : State) : Mark :=
  let k := s.myCtx
  ⟨k.rq, k.sh1, k.sh2, (upTo 8).map fun j => vget s.here.c.file (windowReg k.w j) 0⟩

/-- An access that may still fault can be left in flight: its context has nothing else in flight, and nothing of another is on its way
to its destination, so that the context can return to it (R131, log entry 9). -/
def State.mayUndo (s : State) (d : BitVec 4) : Bool :=
  !(s.here.c.loads.any fun l => l.ctx == s.cur.ctx)
    && (match regDst s.myCtx.w d with | some r => !s.here.c.pendingAt r | none => true)

/-- A load stays in flight: its queue slot is taken, its register is pending (R85, R103). -/
def State.loadLate (s : State) (k : LoadKind) (va : W64) (p : Passed) (bs : List Byte) (away : Bool) : Out :=
  let tag := s.newTag
  let origin : Origin := ⟨s.cur.pc, s.cword, k.boost != 0⟩
  let c := s.cur.ctx
  let w := s.myCtx.w
  let mark := s.mark
  let v := extend k.size k.sext bs
  let s := if k.boost = 0 then (s.modMyC fun u => u.write (regDst w k.d) (u.at_ (regDst w k.d))).modMy fun x => x.push ⟨0, some tag⟩
    else s.setShadow k.boost k.d ⟨true, 0, none⟩
  let dst := if k.boost = 0 then regDst w k.d else some (.shadow c k.boost k.d.toFin)
  let l : PendLoad :=
    ⟨tag, s.here.seq, c, dst, k.size, k.sext, k.scope, va, p.pa, k.pri, k.last, p.leaf, v, none, origin, away, mark⟩
  .next ((s.modMyC fun u => { u with loads := u.loads ++ [l] }).count).doneC

/-- A request for bytes of another module leaves; none while the retry buffer is full (R428, R431). -/
def State.request (s : State) (pa size : Nat) : Option State :=
  (s.send (s.moduleOf pa) s.here.tenant 1 (.load (pa % 2 ^ 40) size s.newTag)).map Prod.fst

/-- A load in another module: the request leaves, and the context awaits the response (R428). -/
def State.loadRemote (s : State) (va : W64) (p : Passed) (pa size : Nat) : Out :=
  match s.request pa size with
  | none => .next (s.waitC .other 0)
  | some t => .next (((t.modMy fun k => { k with phase := .remote s.newTag p.pa p.leaf va (s.moduleOf pa) }).count).waitC .other 0)

/-- LDC asks another module for the whole line when its page lets the constant cache take it (R135, R428). -/
def LoadKind.wholeLine (k : LoadKind) (leaf : Leaf) : Bool := k.const && leaf.cache == 0

/-- A load whose checks have passed: it binds, or the turn leaves it in flight (R85, R132). -/
def State.loadAt (s : State) (k : LoadKind) (va : W64) (p : Passed) : Out :=
  let x := s.here
  let c := s.cur.ctx
  let direct := s.goesDirect p k.scope
  if k.boost != 0 && direct then s.loadFault k cPROT va
  else if x.loadInFlight c p.pa k.size then .next (s.waitC .other 0)
  else if direct && x.deviceInFlight c then .next ((s.drainAll s.cur.bench .c false).waitC .other 0)
  else if s.behind s.cur.bench x.seq p then .next (s.waitC .other 0)
  else
    let fwd := if k.const then fun _ => none else forwardByte x.c.sb c x.seq
    let late := s.cur.late && !k.acq && !k.const && !direct
    match (if k.const then s.loadConst s.cur.bench p else s.load s.cur.bench p k.size k.scope k.pri k.last fwd) with
    | .ok t bs =>
      if late then s.loadLate k va p bs false else t.loadDone k bs
    | .wait t => .next (t.waitC .other 0)
    | .fault t code => t.loadFault k code va
    | .remote t => 
      if x.storeInFlight c p.pa k.size then .next ((s.drainAll s.cur.bench .c false).waitC .other 0)
      else if k.wholeLine p.leaf then
        (t.modHere fun x => x.fillConst ⟨p.pa / 128, 0, 0, true⟩).loadRemote va p (p.pa / 128 * 128) 128
      else if late && (k.boost != 0 || s.mayUndo k.d) then
        match t.request p.pa k.size with
        | none => .next (t.waitC .other 0)
        | some t => t.loadLate k va p [] true
      else t.loadRemote va p p.pa k.size

/-- A line that another module has sent enters the constant cache, unless an acquire or a fence has emptied the cache since it was
asked for (R82, R135). -/
def Bench.constBack (x : Bench) (n : CopyLine) : Bench :=
  if x.cc.any fun l => l.line == n.line && l.keep then x.fillConst n else x

/-- The response to a load of another module has come: a fault, a line for the constant cache, of which a poisoned sector faults the
loads that read it, or the value (R131, R135, R419, R422, R428). -/
def State.loadBack (s : State) (k : LoadKind) (va : W64) (pa : Nat) (leaf : Leaf) (r : Response) : Out :=
  let none_ (_ : Nat) : Option Byte := none
  let whole := k.wholeLine leaf && (r.code == 0 || r.code == cPOISON)
  let s := if whole then s.modHere fun x => x.constBack ⟨pa / 128, r.val, r.po, false⟩ else s
  let code := if whole then (if bindsPoison r.po pa k.size none_ then cPOISON else 0) else r.code
  if code != 0 then (if code = cPOISON then s.logPrep ⟨leaf, pa⟩ s.cur.bench else s).loadFault k code va
  else s.loadDone k (if whole then overlay r.val pa k.size none_ else leBytes k.size r.val.toNat)

/-- A load of C (R131, R132, R134). While it awaits a response from another module it is stalled; its address is that of its issue. -/
def State.loadC (s : State) (k : LoadKind) (a : BitVec 5) (off : BitVec 7) : Out :=
  match s.myCtx.phase with
  | .remote tag pa leaf va _ =>
    match s.response tag with
    | none => .next (s.waitC .other 0)
    | some r => ((s.takeResponse tag).modMy fun x => { x with phase := .idle }).loadBack k va pa leaf r
  | _ =>
    s.withSrc k.boost k.d a fun base =>
      let va := addrOf base off k.size
      match s.check s.cur.bench va.toNat k.size .read false (k.scope == .io) with
      | (s, .fault c) => s.loadFault k c va
      | (s, .wait) => .next (s.waitC .other 0)
      | (s, .ok p) => s.loadAt k va p

/-- The kind of an LD word. -/
def ldKind (size : Nat) (sext : Bool) (o : CLd) : LoadKind :=
  ⟨size, sext, false, o.d, o.boost, o.scope, o.acq, o.pri, o.last⟩

/-- LD (R132). -/
def execLd (o : CLd) (s : State) : Out := s.loadC (ldKind 8 false o) o.a o.off
/-- LD.i32 (R132). -/
def execLdI32 (o : CLd) (s : State) : Out := s.loadC (ldKind 4 true o) o.a o.off
/-- LD.n32 (R132). -/
def execLdN32 (o : CLd) (s : State) : Out := s.loadC (ldKind 4 false o) o.a o.off
/-- LD.i16 (R132). -/
def execLdI16 (o : CLd) (s : State) : Out := s.loadC (ldKind 2 true o) o.a o.off
/-- LD.n16 (R132). -/
def execLdN16 (o : CLd) (s : State) : Out := s.loadC (ldKind 2 false o) o.a o.off
/-- LD.i8 (R132). -/
def execLdI8 (o : CLd) (s : State) : Out := s.loadC (ldKind 1 true o) o.a o.off
/-- LD.n8 (R132). -/
def execLdN8 (o : CLd) (s : State) : Out := s.loadC (ldKind 1 false o) o.a o.off
/-- LDC (R135). -/
def execLdc (o : CLdc) (s : State) : Out := s.loadC ⟨8, false, true, o.d, o.boost, .sp, false, 1, false⟩ o.a o.off

/-! ### Stores (R136, R137) -/

/-- An entry of C's store buffer. -/
def State.entry (s : State) (kind : StKind) (size : Nat) (va : W64) (p : Passed) (bytes : List (Option Byte))
    (sc : Scope) (acq rel : Bool) (pri : BitVec 2) (last : Bool) : StEntry :=
  ⟨s.here.seq, s.cur.ctx, kind, size, va, p.pa, bytes, sc, acq, rel, pri, last, s.goesDirect p sc, p.leaf, s.newTag,
    s.cur.word, none, [s.cur.ctx.val]⟩

/-- An entry enters C's store buffer; the buffer then drains as far as it may, but for stores that may still merge (R293), unless the
turn leaves it (R83), or an older atomic of the context is in it that may still fault (R131). -/
def State.enterBuffer (s : State) (e : StEntry) : State :=
  let s := (s.modMyC fun u => { u with sb := u.sb ++ [e] }).count
  if s.cur.late || s.here.unsure s.cur.ctx then s else s.drainOn s.cur.bench .c

/-- A store of C (R131, R136). -/
def State.storeC (s : State) (size : Nat) (o : CSt) : Out :=
  s.withSrc 0 0 o.a fun base => s.withSrc 0 0 o.b fun v =>
    let va := addrOf base o.off size
    match s.check s.cur.bench va.toNat size .write false (o.scope == .io) with
    | (s, .fault c) => .next (s.raiseC c va)
    | (s, .wait) => .next (s.waitC .other 0)
    | (s, .ok p) =>
      let e := s.entry .store size va p ((leBytes size v.toNat).map some) o.scope false o.rel o.pri o.last
      .next (s.enterBuffer e).doneC

/-- ST (R136). -/
def execSt (o : CSt) (s : State) : Out := s.storeC 8 o
/-- ST.i32 (R136). -/
def execStI32 (o : CSt) (s : State) : Out := s.storeC 4 o
/-- ST.i16 (R136). -/
def execStI16 (o : CSt) (s : State) : Out := s.storeC 2 o
/-- ST.i8 (R136). -/
def execStI8 (o : CSt) (s : State) : Out := s.storeC 1 o

/-! ### Atomics (R138 to R141) -/

/-- The register that takes the high half of a pair (R141). -/
def nextReg (d : BitVec 4) : BitVec 4 := if d = 0 then 0 else d + 1

/-- The old value of an atomic is put; CAS128 puts two halves (R138, R141). -/
def State.putOld (s : State) (d : BitVec 4) (size : Nat) (v : Nat) : State :=
  if size = 16 then
    (s.put d 0 (BitVec.ofNat 64 v)).put (nextReg d) 0 (BitVec.ofNat 64 (v / 2 ^ 64))
  else s.put d 0 (BitVec.ofNat 64 v)

/-- The response to an atomic, if it has arrived, completes it (R131, R138); `p` is its address and its page. -/
def State.atomicDone (s : State) (tag : Nat) (p : Passed) (d : BitVec 4) (size : Nat) (sc : Scope) (acq : Bool) (va : W64) : Out :=
  match s.response tag with
  | none => .next (s.waitC .other 0)
  | some r =>
    let s := (s.takeResponse tag).modMy fun x => { x with phase := .idle }
    if r.code != 0 then
      let away := match s.region p.pa with | .aperture _ => true | _ => false
      .next ((if r.code = cPOISON && away then s.logPrep p s.cur.bench else s).raiseC r.code va)
    else
      let s := s.putOld d size r.val.toNat
      .next (if acq then s.acquireC sc else s).doneC

/-- A result of an atomic stays in flight: its queue slot is taken, its register is pending (R85, R103); `mark` is what its context
held when it issued. -/
def State.halfLate (s : State) (e : StEntry) (mark : Mark) (d : BitVec 4) (hi : Bool) : State :=
  let tag := if hi then s.newTag else e.tag
  let dst := regDst s.myCtx.w d
  let l : PendLoad := ⟨tag, e.seq, e.ctx, dst, e.size, false, e.scope, e.va, e.pa, 1, false, e.leaf, 0, some (e.tag, hi),
    ⟨s.cur.pc, s.cword, false⟩, false, mark⟩
  let s := (s.modMyC fun u => u.write dst (u.at_ dst)).modMy fun x => x.push ⟨0, some tag⟩
  (s.modMyC fun u => { u with loads := u.loads ++ [l] }).count

/-- An atomic that has entered the store buffer may be left in flight there: it acquires nothing, no poison is seen for it now, and its
context can return to it (R66, R85, R131, log entry 9). -/
def State.mayLeave (s : State) (e : StEntry) (d : BitVec 4) : Bool :=
  s.cur.late && !e.acq && !s.poisoned e.pa e.size && !s.releasedRange e.pa && s.mayUndo d && (e.size != 16 || s.mayUndo (nextReg d))

/-- An atomic of C whose sources are there: it enters the store buffer, and the context awaits its old value, or goes on without it (R85,
R138). -/
def State.atomicC (s : State) (a : BitVec 5) (d : BitVec 4) (op : AtomOp) (size : Nat) (sc : Scope) (acq rel : Bool)
    (b ex : State → W128) : Out :=
  s.withSrc 0 0 a fun va =>
    match s.check s.cur.bench va.toNat size .both true (sc == .io) with
    | (s, .fault c) => .next (s.raiseC c va)
    | (s, .wait) => .next (s.waitC .other 0)
    | (s, .ok p) =>
      let e := s.entry (.atomic op (b s) (ex s)) size va p [] sc acq rel 1 false
      let s := (s.modHere fun x => { x with l1 := x.l1.filter fun l => l.line != p.pa / 128 }).enterBuffer e
      if s.mayLeave e d then
        let m := s.mark
        let s := s.halfLate e m d false
        .next (if size = 16 then s.halfLate e m (nextReg d) true else s).doneC
      else
        (s.modMy fun k => { k with phase := .atomic e.tag p.pa p.leaf va, wait := none }).atomicDone e.tag p d size sc acq va

/-- The turn of an atomic of C: one that is in the store buffer awaits its old value, and its sources are those of its issue; another
issues. -/
def State.atomicTurn (s : State) (d : BitVec 4) (size : Nat) (sc : Scope) (acq : Bool) (issue : Out) : Out :=
  match s.myCtx.phase with
  | .atomic tag pa leaf va =>
    (if s.cur.late then s else s.drainAll s.cur.bench .c false).atomicDone tag ⟨leaf, pa⟩ d size sc acq va
  | _ => issue

/-- The value of a source that is known to have arrived. -/
def State.srcVal (s : State) (a : BitVec 5) : W64 :=
  match s.here.readSrc s.cur.ctx 0 a with | .val v => v | _ => 0

/-- The low `8n` bits of a value. -/
def lowBytes (n : Nat) (v : W128) : W128 := BitVec.ofNat 128 (v.toNat % 2 ^ (8 * n))

/-- ATOM (R138, R139). -/
def execAtom (o : CAtm) (s : State) : Out :=
  let n := if o.wide then 8 else 4
  s.atomicTurn o.d n o.scope o.acq <| s.withSrc 0 0 o.b fun _ =>
    s.atomicC o.a o.d o.op n o.scope o.acq o.rel (fun s => lowBytes n ((s.srcVal o.b).setWidth 128)) fun _ => 0

/-- CAS (R140). -/
def execCas (o : CCas) (s : State) : Out :=
  let n := if o.wide then 8 else 4
  s.atomicTurn o.d n o.scope o.acq <| s.withSrc 0 0 o.b fun _ => s.withSrc 0 0 o.c fun _ =>
    s.atomicC o.a o.d .cas n o.scope o.acq o.rel (fun s => lowBytes n ((s.srcVal o.c).setWidth 128)) fun s =>
      lowBytes n ((s.srcVal o.b).setWidth 128)

/-- The specifier of the high half of a pair (R141). -/
def highHalf (a : BitVec 5) : BitVec 5 := if a.toNat < 16 then a + 1 else a - 1

/-- The pair that a specifier names. -/
def State.pairVal (s : State) (a : BitVec 5) : W128 := s.srcVal (highHalf a) ++ s.srcVal a

/-- CAS128 (R141). -/
def execCas128 (o : CCas) (s : State) : Out :=
  s.atomicTurn o.d 16 o.scope o.acq <| s.withSrc 0 0 o.b fun _ => s.withSrc 0 0 (highHalf o.b) fun _ =>
    s.withSrc 0 0 o.c fun _ => s.withSrc 0 0 (highHalf o.c) fun _ =>
      s.atomicC o.a o.d .cas 16 o.scope o.acq o.rel (fun s => s.pairVal o.c) fun s => s.pairVal o.b

/-! ### Completion -/

/-- A response of another module answers a load: its value, or, for a boosted load, a fault, which it records in its shadow while that
still holds it (R89, R121, R131, R435). -/
def Bench.loadAnswer (x : Bench) (l : PendLoad) (r : Response) : Bench :=
  if r.code = 0 then x.arriveVal l (extend l.size l.sext (leBytes l.size r.val.toNat))
  else
    let x := x.arriveVal l 0
    match l.dst with
    | some (.shadow c lvl k) =>
      let f : Deferred := ⟨r.code, l.va, l.origin.pc, l.origin.word, l.seq⟩
      x.modCtx c fun q => q.modShadow lvl fun h => { h with regs := h.regs.set k ⟨true, 0, some f⟩ }
    | _ => x

/-- What another module answers arrives once its response has come: a load, or the result of an atomic (R422, R428). The context
returns to an access that has failed and is not boosted, which then faults (R131). -/
def State.arriveAway (s : State) (b : BenchId) (l : PendLoad) : State :=
  let tag := match l.atom with | some (t, _) => t | none => l.tag
  match s.response tag with
  | none => s
  | some r =>
    let s := s.takeResponse tag
    if r.code != 0 && !l.origin.boosted then s.squash b l
    else
      let s := if r.code = cPOISON then s.logPrep ⟨l.leaf, l.pa⟩ b else s
      s.modBench b fun x => if l.atom.isSome then x.landHalves (x.halves tag) r.val.toNat else x.loadAnswer l r

/-- A load binds and its value arrives: one that would fault now has bound when it issued, and keeps what it read then (R63,
R85, R292); one that has to wait at home stays in flight (R64, R71). -/
def State.arrive (s : State) (b : BenchId) (l : PendLoad) : State :=
  let x := s.bench b
  if l.away || l.atom.isSome then s.arriveAway b l
  else if s.behind b l.seq ⟨l.leaf, l.pa⟩ then s
  else
    match s.load b ⟨l.leaf, l.pa⟩ l.size l.scope l.pri l.last (forwardByte x.c.sb l.ctx l.seq) with
    | .ok t bs => t.modBench b fun x => x.arriveVal l (extend l.size l.sext bs)
    | .wait t => t
    | _ => (if l.last && l.leaf.cache == 0 then s.dropAfter b (l.pa / 128) else s).modBench b fun x => x.arriveVal l l.val

/-- The load in flight with a tag arrives, if there still is one. -/
def State.arriveTag (s : State) (b : BenchId) (tag : Nat) : State :=
  match firstWhere (fun l => l.tag == tag) (s.bench b).c.loads with
  | none => s
  | some l => s.arrive b l

/-- RESULT_ARRIVAL (R85). -/
def execResultArrival (s : State) : Out := .next (s.arriveTag s.cur.bring.bench s.cur.bring.tag)

/-- The oldest entry of a buffer performs, for a killed team without its release (R404); a reset may have waited for it (R462). -/
def State.performOne (s : State) (b : BenchId) (q : Buf) : State :=
  let dying := match s.hitch (s.bench b).seqNo with | some h => h.state == .dying | none => false
  match s.performHead b q dying with
  | none => s.stuck b q
  | some t => (if dying then t.finishKill (s.bench b).seqNo else t.tryRetire b).tryReset

/-- Which of the three events performs an entry: 0 a store or a release, 1 an atomic, 2 a partial. -/
def StKind.event : StKind → Nat
  | .atomic _ _ _ => 1
  | .redt _ _ _ => 2
  | _ => 0

/-- The oldest entry of a buffer performs, if it is of a kind. -/
def State.performKind (s : State) (k : Nat) : State :=
  let b := s.cur.bring.bench
  let q := s.cur.bring.buf
  match (s.bench b).queue q with
  | e :: _ => if e.kind.event = k then s.performOne b q else s
  | [] => s

/-- A TLBI of some bench waits: what has been translated has to perform (R164), so that merging ends (log entry 60). -/
def State.tlbiWaits (s : State) : Bool :=
  s.benches.toList.any fun x =>
    match x.c.handler with
    | none => false
    | some h =>
      match (x.ctx h).wait with
      | none => false
      | some w => match decodeWord (.c (w.word.setWidth 32)) with | .ok (.tlbi _ _) => true | _ => false

/-- STORE_PERFORM (R27, R66, R71): a store of a retired team, or the oldest of a queue, performs; stores that may still merge stay (R293,
log entry 60). -/
def execStorePerform (s : State) : Out :=
  match s.performOrphan s.cur.bring.bench s.cur.bring.buf with
  | some t => .next t.tryReset
  | none => .next (if s.openRun s.cur.bring.bench s.cur.bring.buf && !s.tlbiWaits then s else s.performKind 0)

/-- ATOMIC_PERFORM (R66, R407). -/
def execAtomicPerform (s : State) : Out := .next (s.performKind 1)

/-- REDT_COMBINE (R411, R412): the oldest entry of a queue is a partial, which combines at the home of its slot. -/
def execRedtCombine (s : State) : Out := .next (s.performKind 2)

end Sys2Proof.Machine
end

