-- ==== Sys2Proof/Machine/CSync.lean ====
section
/-! DEFINITION. The synchronising instructions of C: fences (R142), barriers (R146 to R150), watches (R143 to R145),
queues and tokens (R151 to R153), TJOIN (R155), and the steps WATCH_WAKE and GIVE_PUSH. -/

namespace Sys2Proof.Machine

/-! ### Fences (R142) -/

/-- What the store buffer may do before a release is asked for: it drains, unless the turn leaves it. -/
def State.settleBuffer (s : State) : State := if s.cur.late then s else s.drainAll s.cur.bench .c false

/-- A release at a scope by the context of the turn, and then what follows it (R73, R435). -/
def State.released (s : State) (sc : Scope) (k : State → Out) : Out :=
  let s := s.settleBuffer
  match s.releaseReady s.cur.bench .c s.cur.ctx sc s.here.seq with
  | .yes =>
    let i := ownerOf .c s.cur.ctx
    k ((s.publish s.cur.bench i sc).leaves s.cur.bench i sc s.here.seq)
  | .no => .next (s.waitC .other 0)
  | .lost => .next (s.raiseC cFABRIC 0)

/-- FENCE (R142). -/
def execFence (scope : Scope) (s : State) : Out := s.released scope fun s => .next (s.acquireC scope).doneC

/-! ### Barriers (R146 to R150) -/

/-- The instance of a scope where a bench meets others, within the owner. -/
def instOf (sc : Scope) (b : BenchId) : Nat :=
  match sc with | .sp => spanOf b | .di => (dieOf b).val | _ => 0

/-- The team on the bench of the turn, or a team that no launch has. -/
def State.team (s : State) : Team := s.here.team.getD ⟨0, 0, 0, 0, 10, false, false⟩

/-- A team is a member of an instance. -/
def Barrier.hasMember (x : Barrier) (t : Team) : Bool := x.members.any fun m => m.seq == t.seq && m.idx == t.idx

/-- The instance of barrier `n` that the team is a member of. -/
def State.membership (s : State) (n : Byte) : Option Barrier :=
  firstWhere (fun x => x.num == n && x.hasMember s.team) s.barriers

/-- The instance that a join at a scope reaches (R146). -/
def State.instanceAt (s : State) (sc : Scope) (n : Byte) : Option Barrier :=
  let t := s.team
  firstWhere (fun x => x.num == n && x.scope == sc
    && (if sc = .mo then x.tenant == t.tenant else x.seq == t.seq && x.inst == instOf sc s.cur.bench)) s.barriers

/-- Replace an instance; without members it is gone (R147). -/
def State.putBarrier (s : State) (old : Barrier) (new : Barrier) : State :=
  { s with barriers := (replaceFirst (fun x => x == old) (fun _ => new) s.barriers).filter fun x => !x.members.isEmpty }

/-- The team leaves the instance it is a member of. -/
def State.leaveBarrier (s : State) (x : Barrier) : State :=
  s.putBarrier x { x with members := x.members.filter fun m => !(m.seq == s.team.seq && m.idx == s.team.idx) }

/-- The scope of a membership word and its limit of members (R147). -/
def barrierScope (w : W64) : Option (Scope × Nat) :=
  match (w.extractLsb' 12 4).toNat with
  | 2 => some (.sp, 8)
  | 3 => some (.di, 96)
  | 4 => some (.mo, 768)
  | _ => none

/-- The team joins an instance, which begins with its COUNT if it has no members (R147). -/
def State.joinBarrier (s : State) (sc : Scope) (n : Byte) (count : Nat) : State :=
  let t := s.team
  let me : BarMember := ⟨t.seq, t.idx, none⟩
  match s.instanceAt sc n with
  | some x => s.putBarrier x { x with members := x.members ++ [me] }
  | none =>
    { s with barriers := ⟨if sc = .mo then 0 else t.seq, t.tenant, n, sc, instOf sc s.cur.bench, count, [me], 0, 0, false⟩
        :: s.barriers }

/-- The bench would be in an instance of the barrier that has members beside its own team, and that its hitch has begun at the
other of the scopes .sp and .di (R147, log entry 35). -/
def State.scopeClash (s : State) (sc : Scope) (n : Byte) : Bool :=
  let t := s.team
  sc != .mo && (match s.instanceAt (if sc = .sp then .di else .sp) n with
    | some y => y.members.any fun m => !(m.seq == t.seq && m.idx == t.idx)
    | none => false)

/-- The change of membership that a word asks for, or none where BSET raises BARGEN (R147). Three points are open: DESIGN CHOICE, a member
that names its own membership, scope, count and instance, keeps it and its last arrival, in a full instance too (log entry 52);
DESIGN CHOICE, a
bench that is the only member of its instance and names the same scope with another COUNT joins an instance that already has
members, itself, and raises BARGEN (log entry 52); DESIGN CHOICE, a broken .mo instance takes a new member and stays broken (R150,
log entry 52). -/
def State.setMembership (s : State) (n : Byte) (w : W64) : Option State :=
  let count := (w.extractLsb' 0 10).toNat
  match barrierScope w with
  | none => none
  | some (sc, limit) =>
    let mine := s.membership n
    let busy := match mine with | some x => decide (0 < x.arrivals) | none => false
    if w.extractLsb' 16 48 != 0 || w.extractLsb' 10 2 != 0 || decide (limit < count) || busy then none
    else if count = 0 then mine.map fun x => s.leaveBarrier x
    else if s.scopeClash sc n then none
    else
      let same := match mine, s.instanceAt sc n with | some x, some y => x == y | _, _ => false
      match s.instanceAt sc n with
      | some y =>
        if y.count != count then none
        else if same then some s
        else if y.count ≤ y.members.length then none
        else some ((match mine with | some x => s.leaveBarrier x | none => s).joinBarrier sc n count)
      | none => some ((match mine with | some x => s.leaveBarrier x | none => s).joinBarrier sc n count)

/-- BSET (R147). -/
def execBset (a : BitVec 5) (bar : Byte) (s : State) : Out :=
  s.withSrc 0 0 a fun w =>
    match s.setMembership bar w with
    | none => .next (s.raiseC cBARGEN 0)
    | some t => .next t.doneC

/-- The generation in which the team last arrived, if it has. -/
def Barrier.lastGen (x : Barrier) (t : Team) : Option Nat :=
  match firstWhere (fun m => m.seq == t.seq && m.idx == t.idx) x.members with
  | some m => m.gen
  | none => none

/-- One arrival; a full generation completes (R146, R148). -/
def Barrier.arrive (x : Barrier) (t : Team) : Barrier :=
  let mark (m : BarMember) : BarMember := if m.seq == t.seq && m.idx == t.idx then { m with gen := some x.gen } else m
  let x := { x with members := x.members.map mark }
  if x.arrivals + 1 = x.count then { x with gen := x.gen + 1, arrivals := 0 } else { x with arrivals := x.arrivals + 1 }

/-- ARRV (R148, R150). -/
def execArrv (scope : Scope) (bar : Byte) (s : State) : Out :=
  match s.membership bar with
  | none => .next (s.raiseC cBARGEN 0)
  | some x =>
    if x.scope != scope || x.broken || x.lastGen s.team == some x.gen then .next (s.raiseC cBARGEN 0)
    else s.released scope fun s =>
      match s.membership bar with
      | some x => .next (s.putBarrier x (x.arrive s.team)).doneC
      | none => .next (s.raiseC cBARGEN 0)

/-- A BWAIT that waits for a generation goes on when that has completed: the bench can have left the instance, or have joined it anew,
only after that (R147, R149). -/
def State.waitedFor (s : State) (bar : Byte) (g : Nat) : Bool :=
  match s.membership bar with
  | none => true
  | some x => (x.lastGen s.team).isNone || decide (g < x.gen)

/-- BWAIT (R149, R150). One that waits keeps the generation that it waits for, and completes if that has completed, broken or not. -/
def execBwait (scope : Scope) (bar : Byte) (s : State) : Out :=
  let wait (g : Nat) : Out := .next ((s.modMy fun k => { k with phase := .bwait g }).waitC .other 0)
  let broken := match s.membership bar with | some x => x.broken | none => false
  match s.myCtx.phase with
  | .bwait g =>
    if s.waitedFor bar g then .next (s.acquireC scope).doneC
    else if broken then .next (s.raiseC cBARGEN 0) else wait g
  | _ =>
    match s.membership bar with
    | none => .next (s.raiseC cBARGEN 0)
    | some x =>
      if x.scope != scope || x.broken then .next (s.raiseC cBARGEN 0)
      else
        match x.lastGen s.team with
        | none => .next (s.raiseC cBARGEN 0)
        | some g => if g < x.gen then .next (s.acquireC scope).doneC else wait g

/-! ### Watches (R143 to R145) -/

/-- The context's watch is armed on a line, or, with a module and a tag, at another module's home; the registration of an older watch in this
module goes (R143). -/
def State.armWatch (s : State) (ln : Nat) (tag : Option (BitVec 14 × Nat)) : State :=
  let mine (w : Watch) : Bool := w.bench == s.cur.bench && w.ctx == s.cur.ctx && w.remote.isNone && tag.isSome
  { s with watches := s.watches.filter fun w => !mine w }.modMy fun k => { k with watch := some ln, wtag := tag }

/-- The response to a registration in another module has come: it is recorded there, or the access has failed; a nonzero value
is a wake that has come already (R143, R144, R428). -/
def State.watchBack (s : State) (va : W64) (tag pa : Nat) (m : BitVec 14) (r : Response) : Out :=
  let s := (s.takeResponse tag).modMy fun k => { k with phase := .idle }
  if r.code != 0 then .next (s.raiseC r.code va)
  else
    let s := s.armWatch (pa / 128) (some (m, tag))
    .next (if r.val != 0 then s.modMy fun k => { k with watch := none, wtag := none, wake := true } else s).doneC

/-- WATCH (R131, R143, R428): in another module, that of its issue, the registration is a request without bytes, whose response says that
it is recorded. -/
def execWatch (a : BitVec 5) (s : State) : Out :=
  match s.myCtx.phase with
  | .remote tag pa _ va m =>
    (match s.response tag with
    | none => .next (s.waitC .other 0)
    | some r => s.watchBack va tag pa m r)
  | _ =>
    s.withSrc 0 0 a fun va =>
      match s.check s.cur.bench va.toNat 1 .read true false with
      | (s, .fault c) => .next (s.raiseC c va)
      | (s, .wait) => .next (s.waitC .other 0)
      | (s, .ok p) =>
        match s.region p.pa with
        | .aperture _ => s.loadRemote va p p.pa 0
        | _ =>
          let home := s.homeOf p.leaf (p.pa / 128)
          let die := if (s.homeDie p.pa).isSome then home.1 else 8
          .next ((s.addWatch ⟨p.pa / 128, die, home.2, s.cur.bench, s.cur.ctx, none⟩).armWatch (p.pa / 128) none).doneC

/-- WAIT (R145). -/
def execWait (s : State) : Out :=
  let k := s.myCtx
  if k.wake || k.watch.isNone then .next (s.modMy fun k => { k with wake := false }).doneC
  else .next (s.waitC .other 0)

/-- WATCH_WAKE: home drops a registration, or a host's write or back-invalidation takes the line away (R144). -/
def execWatchWake (s : State) : Out :=
  let b := s.cur.bring.bench
  let c := s.cur.bring.ctx
  .next (if ((s.bench b).ctx c).watch.isSome then s.dropWatch b c else s)

/-! ### Queues and tokens (R151 to R153) -/

/-- SEND (R37, R151). -/
def execSend (a : BitVec 5) (q : BitVec 2) (s : State) : Out :=
  s.mainOnly
    (s.withSrc 0 0 a fun v =>
      if (s.here.queued q.toNat).length < 16 then
        .next (s.modHere fun x => { x with queues := vmod x.queues q.toNat fun l => l ++ [v] }).doneC
      else .next (s.waitC .queue q.toNat))

/-- RECV (R152). -/
def execRecv (d : BitVec 4) (s : State) : Out :=
  s.mainOnly
    (match s.here.flagq with
    | [] => .next (s.waitC .queue 4)
    | e :: rest => .next ((s.modHere fun x => { x with flagq := rest }).put d 0 e).doneC)

/-- In a tail, GIVE and TAKE name S alone (R153). -/
def State.tailMask (s : State) (mask : BitVec 4) (r : Out) : Out :=
  if s.cur.ctx = 0 || mask = 0b1000 then r else .next (s.raiseC cILL 0)

/-- GIVE (R73, R77, R153): a release at .en, and then the tokens. -/
def execGive (mask : BitVec 4) (s : State) : Out :=
  s.tailMask mask
    (s.released .en fun s =>
      if s.here.canGive .c (maskStreams .c mask) then
        .next (s.modHere fun x => x.giveTokens .c (maskStreams .c mask) .en).doneC
      else .next (s.waitC .give mask.toNat))

/-- TAKE (R32, R153). -/
def execTake (mask : BitVec 4) (s : State) : Out :=
  s.tailMask mask
    (if s.here.canTake .c (maskStreams .c mask) then
      .next (s.takeFrom s.cur.bench .c s.cur.ctx (maskStreams .c mask)).doneC
    else .next (s.waitC .take mask.toNat))

/-- TJOIN (R155): the stores of the joined tails have left the buffer when it returns, and the releases of the main context
cover them from then on. -/
def execTjoin (t : BitVec 2) (s : State) : Out :=
  s.mainOnly
    (let s := s.settleBuffer
    let named (c : Fin 4) : Bool := c != 0 && (t == 0 || c.val == t.toNat)
    if (List.finRange 4).any fun c => named c && (s.here.ctx c).live then .next (s.waitC .other 0)
    else if s.here.c.sb.any fun e => named e.ctx then .next (s.waitC .other 0)
    else
      .next (s.modHere fun x =>
        (List.finRange 4).foldl (fun x c => if named c then x.joinDuty c.val 0 else x) x).doneC)

/-- GIVE_PUSH (R33). -/
def execGivePush (s : State) : Out :=
  let b := s.cur.bring.bench
  .next ((s.pushGives b s.cur.bring.stream).tryRetire b)

end Sys2Proof.Machine
end

