-- ==== Sys2Proof/Machine/Launch.lean ====
section
/-! DEFINITION. Launch records and their acceptance by a dispatcher (R157, R158, R386, R389 to R391), process-group
tables and views (R400, R401). -/

namespace Sys2Proof.Machine

/-! ### Memory of a tenant, as a dispatcher reaches it -/

/-- The checks of an access of `n` bytes by a dispatcher under a tenant, whose table it walks from an entry (R131, R185). -/
def State.tenantCheck (s : State) (d : Fin 8) (ten : BitVec 6) (ent : Option TenEntry) (va n : Nat) (need : Need) : State × Checked :=
  if 2 ^ 57 ≤ va then (s, .fault cXLAT)
  else if va % n != 0 then (s, .fault cALIGN)
  else
    match s.walkTenant d ten ent va with
    | (s, .none_) => (s, .fault cXLAT)
    | (s, .wait) => (s, .wait)
    | (s, .leaf l) => s.checkPage ten va need false false l

/-- What a read comes to: a value, a fault, or a wait. -/
inductive ReadRes where
  | val (v : Nat)
  | fault (code : Byte)
  | wait

/-- `n` bytes within a line read by a dispatcher as a load at .mo under a tenant, its scope widened by the page (R188, R391,
R420, R428). -/
def State.dispRead (s : State) (w : Asker) (d : Fin 8) (ten : BitVec 6) (p : Passed) (n : Nat) : State × ReadRes :=
  match s.region p.pa with
  | .device => (s, .val (leNat ((upTo (n / 8)).flatMap fun k => leBytes 8 (s.devRead (p.pa + 8 * k) 8))))
  | .aperture _ =>
    (match s.askRemote w ten p n with
    | (s, none) => (s, .wait)
    | (s, some (v, code)) =>
      if code = 0 then (s, .val v) else (if code = cPOISON then s.logPrepOf p d ten else s, .fault code))
  | _ =>
    if s.releasedRange p.pa then (s.logPrepOf p d ten, .fault cPOISON)
    else if s.closingRange p.pa then (s, .wait)
    else
      match s.fetchFor d ten p.leaf p.pa (scopeWiden .mo p.leaf.scope) 1 (p.leaf.cache == 0) with
      | none => (s, .wait)
      | some (s, data, po) =>
        if bindsPoison po p.pa n fun _ => none then (s.logPrepOf p d ten, .fault cPOISON)
        else (s, .val (data.toNat / 2 ^ (8 * (p.pa % 128)) % 2 ^ (8 * n)))

/-- The 64-bit word of a tenant at an address (R391). -/
def State.tenantWord (s : State) (w : Asker) (d : Fin 8) (ten : BitVec 6) (ent : Option TenEntry) (va : Nat) : State × ReadRes :=
  match s.tenantCheck d ten ent va 8 .read with
  | (s, .fault c) => (s, .fault c)
  | (s, .wait) => (s, .wait)
  | (s, .ok p) => s.dispRead w d ten p 8

/-- What the reading of several words comes to. -/
inductive WordsRes where
  | ok (l : List W64)
  | fault
  | wait

/-- `n` words from an address on. -/
def State.tenantWords (s : State) (w : Asker) (d : Fin 8) (ten : BitVec 6) (ent : Option TenEntry) : Nat → Nat → State × WordsRes
  | _, 0 => (s, .ok [])
  | va, n + 1 =>
    match s.tenantWord w d ten ent va with
    | (s, .fault _) => (s, .fault)
    | (s, .wait) => (s, .wait)
    | (s, .val v) =>
      match s.tenantWords w d ten ent (va + 8) n with
      | (s, .ok l) => (s, .ok (BitVec.ofNat 64 v :: l))
      | r => r

/-! ### Records (R389, R390) -/

/-- A word of a record. -/
def recWord (r : List W64) (k : Nat) : W64 := r.getD k 0

/-- The fields of a control word (R390). -/
def ctlBenches (c : W64) : Nat := (c.extractLsb' 0 7).toNat
def ctlSpan (c : W64) : Bool := c.getLsbD 7
def ctlPrio (c : W64) : BitVec 2 := c.extractLsb' 8 2
def ctlChecked (c : W64) : Bool := c.getLsbD 10
def ctlSave (c : W64) : Bool := c.getLsbD 11
def ctlPeriod (c : W64) : BitVec 5 := c.extractLsb' 12 5
def ctlPreds (c : W64) : Nat := (c.extractLsb' 17 3).toNat
def ctlTenant (c : W64) : BitVec 6 := c.extractLsb' 20 6

/-- A sequence number that its die has issued (R158). -/
def State.issued (s : State) (q : W64) : Bool :=
  let n := (q.extractLsb' 0 48).toNat
  q.extractLsb' 51 13 == 0 && decide (1 ≤ n ∧ n ≤ (s.die (dieAt (q.extractLsb' 48 3).toNat)).launches.toNat)

/-- The launch of a sequence number that was issued has retired (R392). -/
def State.retired (s : State) (q : W64) : Bool := (s.hitch q).isNone

/-- The fields of a record that R391 accepts, without its tenant and its group. -/
def State.recordOk (s : State) (r : List W64) : Bool :=
  let c := recWord r 6
  let words := [(0, 4), (1, 8), (2, 16), (3, 8), (4, 8)]
  let basesOk := words.all fun p => decide ((recWord r p.1).toNat < 2 ^ 57) && (recWord r p.1).toNat % p.2 == 0
  let n := ctlPreds c
  let predsOk := (upTo 4).all fun k => if k < n then s.issued (recWord r (8 + k)) else recWord r (8 + k) == 0
  let table := (recWord r 7).toNat
  let view := (recWord r 12).toNat
  basesOk && (recWord r 5).toNat % 8 == 0 && c.extractLsb' 26 38 == 0
    && decide (1 ≤ ctlBenches c ∧ ctlBenches c ≤ 96) && decide (10 ≤ (ctlPeriod c).toNat ∧ (ctlPeriod c).toNat ≤ 20)
    && decide (n ≤ 4) && predsOk && table % 64 == 0 && view % 128 == 0 && ((table == 0) == (view == 0))
    && recWord r 13 == 0 && recWord r 14 == 0 && recWord r 15 == 0

/-! ### Process groups (R400, R401) -/

/-- Whether a number occurs twice in a list. -/
def hasRepeat : List Nat → Bool
  | [] => false
  | x :: xs => xs.contains x || hasRepeat xs

/-- The place of a number in a list. -/
def placeOf (x : Nat) : List Nat → Nat → Option Nat
  | [], _ => none
  | y :: ys, k => if y = x then some k else placeOf x ys (k + 1)

/-- The words of the module's view of a process-group table, if the table is accepted (R400, R401, R437). -/
def State.groupView (s : State) (w : Asker) (d : Fin 8) (ten : BitVec 6) (ent : Option TenEntry) (table : Nat) : State × WordsRes :=
  match s.tenantWords w d ten ent table 8 with
  | (s, .ok h) =>
    let n := (recWord h 0).toNat
    let len := (recWord h 1).toNat
    if !s.fabidSet || n == 0 || decide (16384 < n) || (h.drop 2).any (fun w => w != 0) then (s, .fault)
    else
      (match s.tenantWords w d ten ent (table + 64) n with
      | (s, .ok es) =>
        let ids := es.map BitVec.toNat
        if ids.any (fun x => decide (2 ^ 14 ≤ x)) || hasRepeat ids then (s, .fault)
        else
          (match placeOf s.fabid.toNat ids 0 with
          | none => (s, .fault)
          | some r =>
            let opt (b : Bool) (x : Nat) : W64 := if b then BitVec.ofNat 64 x else BitVec.allOnes 64
            (s, .ok ([BitVec.ofNat 64 r, BitVec.ofNat 64 n, BitVec.ofNat 64 ((r + n - 1) % n), BitVec.ofNat 64 ((r + 1) % n),
              opt (r != 0) ((r - 1) / 2), opt (2 * r + 1 < n) (2 * r + 1), opt (2 * r + 2 < n) (2 * r + 2),
              BitVec.ofNat 64 (r * len / n), BitVec.ofNat 64 ((r + 1) * len / n), s.fabid.setWidth 64] ++
              List.replicate 6 0)))
      | r => r)
  | r => r

/-- What the writing of a view comes to: it is written and released, it rejects the record, or it waits. -/
inductive ViewRes where
  | ok | reject | wait
  deriving DecidableEq, Repr

/-- A view that has been written is released at .mo (R72, R401). -/
def State.viewReleased (s : State) (a : AskIn) : Bool :=
  match s.region a.pa with
  | .aperture _ => s.performedAt (s.moduleOf a.pa) (BitVec.ofNat 32 a.tag)
  | _ => !s.pendingMo (a.pa / 128)

/-- The stores of a view leave, and a note is taken of them (R401). -/
def State.storeView (s : State) (w : Asker) (d : Fin 8) (ten : BitVec 6) (p : Passed) (ws : List W64) : State :=
  let bs := ws.flatMap fun v => leBytes 8 v.toNat
  match s.region p.pa with
  | .device => (ws.zipIdx.foldl (fun s v => s.devWrite (p.pa + 8 * v.2) 8 v.1 ten) s).addAsk w p 0 0 (some (0, 0))
  | .aperture _ =>
    (match s.send (s.moduleOf p.pa) ten 2 (.store (p.pa % 2 ^ 40) (bs.map some)) with
    | none => s
    | some (s, seq) => s.addAsk w p 0 seq.toNat (some (0, 0)))
  | _ =>
    match s.storeHome d ten p.leaf p.pa bs with
    | none => s
    | some s => s.addAsk w p 0 0 (some (0, 0))

/-- The view is written, once, and released at .mo before the record is accepted; a table or a view that fails its checks
rejects the record (R401). -/
def State.writeView (s : State) (w : Asker) (d : Fin 8) (ten : BitVec 6) (ent : Option TenEntry) (table view : Nat) : State × ViewRes :=
  if table = 0 then (s, .ok)
  else
    match firstWhere (fun a => a.size == 0) (s.asksOf w) with
    | some a => (s, if s.viewReleased a then .ok else .wait)
    | none =>
      match s.groupView w d ten ent table with
      | (s, .fault) => (s, .reject)
      | (s, .wait) => (s, .wait)
      | (s, .ok ws) =>
        match s.tenantCheck d ten ent view 128 .write with
        | (s, .fault _) => (s, .reject)
        | (s, .wait) => (s, .wait)
        | (s, .ok p) =>
          let s := s.storeView w d ten p ws
          match firstWhere (fun a => a.size == 0) (s.asksOf w) with
          | some a => (s, if s.viewReleased a then .ok else .wait)
          | none => (s, .wait)

/-! ### Acceptance -/

/-- The run queue of a priority and a tenant (R386). -/
def runQueue (prio : BitVec 2) (ten : BitVec 6) : Fin 64 := ⟨(16 * prio.toNat + ten.toNat % 16) % 64, by omega⟩

/-- A run queue has room (R386). -/
def State.queueRoom (s : State) (d : Fin 8) (q : Fin 64) : Bool := decide ((s.die d).queues[q].length < 64)

/-- A launch enters its run queue, at the head or at the tail; its wait begins (R386, R388). -/
def State.enqueue (s : State) (d : Fin 8) (h : Hitch) (head : Bool) : State :=
  let q := runQueue h.prio h.tenant
  let put (l : List W64) : List W64 := if head then h.seq :: l else l ++ [h.seq]
  (s.modDie d fun x => { x with queues := x.queues.set q (put x.queues[q]) }).modHitch h.seq fun h =>
    { h with since := s.clk }

/-- The dispatcher of a die accepts a record for a tenant and answers the sequence number, or rejects it with 0 (R391), as it does
until boot has verified stage 2 (R460); no answer while it waits, as it does while a reset waits (R462) or the extent that holds the
tenant's entry closes (R423). It reads the tenant's entry afresh, for a record that it then rejects as well (R402). -/
def State.accept (s : State) (w : Asker) (d : Fin 8) (ten : BitVec 6) (r : List W64) : State × Option W64 :=
  let c := recWord r 6
  let ent := s.tenEntry d ten
  if s.bootStage != 2 || !s.recordOk r then (s, some 0)
  else if s.resetting.isSome || s.closingRange (s.tenAddr d ten) then (s, none)
  else if ent.isNone then (s.readTable d ten, some 0)
  else
    match s.writeView w d ten ent (recWord r 7).toNat (recWord r 12).toNat with
    | (s, .reject) => (s.readTable d ten, some 0)
    | (s, .wait) => (s, none)
    | (s, .ok) =>
      let n := (s.die d).launches + 1
      let seq : W64 := 0#13 ++ BitVec.ofNat 3 d.val ++ n
      let rec' : LRec := ⟨Vector.ofFn fun i : Fin 5 => recWord r i.val, recWord r 5, c, (r.drop 8).take (ctlPreds c)⟩
      let h : Hitch := ⟨seq, d, ten, rec', ctlPrio c, s.clk, 0, .queued, [], [], [], [], ent, [], ⟨0, 0, 0, 0, 0⟩⟩
      let s := (s.modDie d fun x => { x with launches := n })
      ((({ s with hitches := s.hitches ++ [h] }).readEntry d ten).enqueue d h false, some seq)

end Sys2Proof.Machine
end

