-- ==== Sys2Proof/Machine/CSys.lean ====
section
/-! DEFINITION. The system instructions of C: special registers (R92, R93, R160, R173), TRAP (R161), SYSC (R162), ERET
(R163), TLBI (R164, R189), ESTAT (R156), LAUNCH (R157), LWAIT (R159), CLOCK (R129), RDV (R165), and the steps
SYSC_COMPLETE and TRAP_ENTRY (R177 to R179). -/

namespace Sys2Proof.Machine

/-! ### Special registers (R92, R93) -/

/-- The special registers. -/
inductive SReg where
  | bench | team | clock | prio | tenant | spill | wp | tails | mode | fflags | trap | cause | epc | tval | hscr
  deriving DecidableEq, Repr

/-- The special register of a number (R92). -/
def sregOf (n : Byte) : Option SReg :=
  match n.toNat with
  | 0x00 => some .bench | 0x01 => some .team | 0x02 => some .clock | 0x03 => some .prio | 0x04 => some .tenant
  | 0x05 => some .spill | 0x06 => some .wp | 0x07 => some .tails | 0x08 => some .mode | 0x09 => some .fflags
  | 0x10 => some .trap | 0x11 => some .cause | 0x12 => some .epc | 0x13 => some .tval | 0x14 => some .hscr
  | _ => none

/-- A register of the handler alone (R92). -/
def SReg.handler (r : SReg) : Bool := r == .trap || r == .epc || r == .hscr

/-- A register that MTS writes (R92). -/
def SReg.writable (r : SReg) : Bool := r == .spill || r == .mode || r == .fflags || r.handler

/-- What a special register reads as (R92). -/
def State.sregRead (s : State) (r : SReg) : W64 :=
  let x := s.here
  let k := s.myCtx
  match r with
  | .bench => BitVec.ofNat 64 (identOf s.cur.bench)
  | .team => BitVec.ofNat 64 s.team.idx
  | .clock => s.team.period.setWidth 64
  | .prio => s.team.prio.setWidth 64
  | .tenant => x.tenant.setWidth 64
  | .spill => x.c.spill
  | .wp => BitVec.ofNat 64 (k.w.toNat + 16 * k.spilled)
  | .tails =>
    BitVec.ofNat 64 (16 * s.cur.ctx.val
      + sumNat ([1, 2, 3].map fun (i : Fin 4) => if (x.ctx i).live then 2 ^ i.val else 0))
  | .mode => x.c.mode.setWidth 64
  | .fflags => x.c.fflags.setWidth 64
  | .trap => x.c.trap
  | .cause => x.c.cause
  | .epc => x.c.epc
  | .tval => x.c.tval
  | .hscr => x.c.hscr

/-- Bits [56:7] of an address. -/
def spillBase (v : W64) : W64 := 0#7 ++ v.extractLsb' 7 50 ++ 0#7
/-- Bits [56:2] of an address. -/
def trapBase (v : W64) : W64 := 0#7 ++ v.extractLsb' 2 55 ++ 0#2

/-- Some context holds groups in the spill area (R173). -/
def Bench.anySpilled (x : Bench) : Bool := (List.finRange 4).any fun c => decide (0 < (x.ctx c).spilled)

/-- A value is written to a special register, or none where MTS raises ILL (R93, R173). -/
def State.sregWrite (s : State) (r : SReg) (v : W64) : Option State :=
  match r with
  | .spill => if s.here.anySpilled then none else some (s.modMyC fun u => { u with spill := spillBase v })
  | .mode => if 5 ≤ (v.extractLsb' 0 3).toNat then none else some (s.modMyC fun u => { u with mode := v.extractLsb' 0 3 })
  | .fflags => some (s.modMyC fun u => { u with fflags := v.extractLsb' 0 5 })
  | .trap => some (s.modMyC fun u => { u with trap := trapBase v })
  | .epc => some (s.modMyC fun u => { u with epc := v })
  | .hscr => some (s.modMyC fun u => { u with hscr := v })
  | _ => none

/-- MFS (R93, R160). -/
def execMfs (d : BitVec 4) (n : Byte) (s : State) : Out :=
  match sregOf n with
  | none => .next (s.raiseC cILL 0)
  | some r =>
    if r.handler && s.here.c.handler.isNone then .next (s.raiseC cPROT 0) else .next (s.put d 0 (s.sregRead r)).doneC

/-- MTS (R93, R160, R173): to s.spill it waits until the spill engine is idle. -/
def execMts (a : BitVec 5) (n : Byte) (s : State) : Out :=
  match sregOf n with
  | none => .next (s.raiseC cILL 0)
  | some r =>
    if !r.writable then .next (s.raiseC cILL 0)
    else if r.handler && s.here.c.handler.isNone then .next (s.raiseC cPROT 0)
    else s.withSrc 0 0 a fun v =>
      if r = .spill && s.engineBusy s.cur.bench then .next (s.waitC .other 0)
      else
      match s.sregWrite r v with
      | some t => .next t.doneC
      | none => .next (s.raiseC cILL 0)

/-! ### Traps and the return from them (R161 to R163, R177 to R180) -/

/-- TRAP (R161); in handler state it is a double fault (R180). -/
def execTrap (n : Byte) (s : State) : Out :=
  let src : BitVec 3 := BitVec.ofNat 3 s.cur.ctx.val
  if s.here.c.handler.isSome then
    .next (s.doubleFault s.cur.bench s.cur.ctx cTRAP s.cword)
  else .next (s.enterTrap s.cur.bench s.cur.ctx cTRAP src false s.cword s.nextPc (n.setWidth 64))

/-- SYSC (R162): a fence, a request that SYSC_COMPLETE answers, and a fence again. -/
def execSysc (n : Byte) (s : State) : Out :=
  match s.myCtx.phase with
  | .sysc _ true => s.released .mo fun s => .next (s.acquireC .mo).doneC
  | .sysc _ false => .next (s.waitC .other 0)
  | _ =>
    s.released .mo fun s =>
      .next ((s.acquireC .mo).modMy fun k => { k with phase := .sysc n false, wait := none })

/-- SYSC_COMPLETE: firmware's results come to k8 to k11 of the context (R162). -/
def execSyscComplete (s : State) : Out :=
  let b := s.cur.bring.bench
  let c := s.cur.bring.ctx
  let k := (s.bench b).ctx c
  match k.phase with
  | .sysc n false =>
    let vals := [(8, s.cur.bring.val), (9, s.cur.bring.val2), (10, s.cur.bring.val3), (11, s.cur.bring.val4)]
    let put (u : CUnit) (p : Nat × W64) : CUnit := u.write (regDst k.w (BitVec.ofNat 4 p.1)) p.2
    .next (s.modBench b fun x => (x.modC fun u => vals.foldl put u).modCtx c fun k => { k with phase := .sysc n true })
  | _ => .next s

/-- An engine's held fault that C has not been told of (R177, R181). -/
def Bench.unreported (x : Bench) (st : Stream) : Option Held :=
  match (x.eng st).held with | some h => if h.reported then none else some h | none => none

/-- A pending event of a bench, the lowest source first (R179): a lost release of a context (R435), or a held fault. -/
inductive Pending where
  | lost (c : Fin 4) (code : Byte) (va : W64) (w : W32)
  | engine (st : Stream) (h : Held)
  deriving DecidableEq, Repr

/-- A lost release of a context (R435). -/
def Bench.lostOf (x : Bench) (c : Fin 4) : Option Pending :=
  (firstWhere (fun (l : Fin 4 × Byte × W64 × W32) => l.1 == c) x.c.lost).map fun l => .lost c l.2.1 l.2.2.1 l.2.2.2

/-- The event that is taken first (R179). -/
def Bench.pending (x : Bench) : Option Pending :=
  let ofEng (st : Stream) : Option Pending := (x.unreported st).map fun h => .engine st h
  firstSome [x.lostOf 0, x.lostOf 1, x.lostOf 2, x.lostOf 3, ofEng .l, ofEng .p, ofEng .v, ofEng .s]
where
  /-- The first that is there. -/
  firstSome : List (Option Pending) → Option Pending
    | [] => none
    | some p :: _ => some p
    | none :: ps => firstSome ps

/-- The context that runs the handler for an event: main for an engine (R177). -/
def Pending.ctx : Pending → Fin 4
  | .lost c _ _ _ => c
  | .engine _ _ => 0

/-- An event can be taken now: its context stands at a boundary, with no access in flight that may still fault, and no handler runs, or
the context runs it (R178 to R180). -/
def Bench.takes (x : Bench) : Option Pending :=
  if x.team.isNone || x.stopping.isSome then none
  else match (match x.c.handler with | some h => x.lostOf h | none => x.pending) with
    | some p => if (x.ctx p.ctx).atBoundary && !x.unsure p.ctx then some p else none
    | none => none

/-- An event that waited while the handler ran has still to be taken, so that no context issues (R179). -/
def Bench.frozen (x : Bench) : Bool := x.c.owed && x.pending.isSome

/-- Enter the handler for an event (R177, R178, R435); in handler state it is a double fault (R180). -/
def State.takePending (s : State) (b : BenchId) (p : Pending) : State :=
  let k := (s.bench b).ctx p.ctx
  match p with
  | .lost c code va w =>
    let s := s.modBench b fun x => x.modC fun u =>
      { u with lost := match placeOf c.val (u.lost.map fun l => l.1.val) 0 with
          | some i => u.lost.eraseIdx i
          | none => u.lost }
    if (s.bench b).c.handler.isSome then s.doubleFault b c code w
    else s.enterTrap b c code (BitVec.ofNat 3 c.val) false w k.pc va
  | .engine st h =>
    let s := s.modBench b fun x => x.modEng st fun e => { e with held := some { h with reported := true } }
    s.enterTrap b 0 h.code (BitVec.ofNat 3 (3 + streamIdx st)) false 0 k.pc h.va

/-- ERET (R163): an event that waited for the handler to end is taken before any context issues (R179). -/
def execEret (s : State) : Out :=
  if s.here.c.handler = some s.cur.ctx then
    .next (s.exitTrap.modHere fun x => x.modC fun u => { u with owed := x.pending.isSome })
  else .next (s.raiseC cILL 0)

/-- TRAP_ENTRY (R177 to R179): the pending event of the bench that comes first enters the handler. -/
def execTrapEntry (s : State) : Out :=
  let b := s.cur.bring.bench
  match (s.bench b).takes with
  | some p => .next (s.takePending b p)
  | none => .next s

/-! ### TLBI (R164, R289) -/

/-- The benches that a TLBI of kind n reaches: this one, those of the die, or all. -/
def reach (b : BenchId) (kind : Nat) (x : BenchId) : Bool :=
  match kind % 3 with | 0 => x == b | 1 => dieOf x == dieOf b | _ => true

/-- A translation that a TLBI drops. -/
def tlbiHits (kind : Nat) (ten : BitVec 6) (va : Nat) (l : Leaf) : Bool := l.owner == ten && (decide (3 ≤ kind) || l.covers ten va)

/-- The access of a context that awaits its response was translated through an entry. -/
def Ctx.usesLeaf (k : Ctx) (hit : Leaf → Bool) : Bool :=
  match k.phase with | .remote _ _ l _ _ => hit l | .atomic _ _ l _ => hit l | _ => false

/-- An access in flight of a bench was translated through a dropped entry (R164): in its buffers, on its way to another module,
or awaiting a response. -/
def Bench.usesLeaf (x : Bench) (hit : Leaf → Bool) : Bool :=
  x.c.loads.any (fun l => hit l.leaf) || x.c.sb.any (fun e => hit e.leaf) || x.sq.any (fun e => hit e.leaf)
    || x.vq.any (fun e => hit e.leaf) || (x.fab ++ x.orphans).any (fun e => hit e.2.leaf)
    || x.asks.any (fun a => a.val.isNone && a.size != 0 && hit a.leaf) || x.c.ctxs.any fun k => k.usesLeaf hit

/-- A bench's translations go, those of its feeds too (R164, R289). -/
def Bench.dropLeaves (x : Bench) (hit : Leaf → Bool) : Bench :=
  let clean (f : Feed) : Feed := match f.trans with | some l => if hit l then { f with trans := none } else f | none => f
  { x with tlb := x.tlb.filter fun l => !hit l, feeds := Vector.ofFn fun i : Fin 16 => clean x.feeds[i] }

/-- The translations that a TLBI names go. -/
def State.tlbi (s : State) (b : BenchId) (kind : Nat) (hit : Leaf → Bool) : State :=
  let benches := Vector.ofFn fun i : BenchId => if reach b kind i then (s.benches[i]).dropLeaves hit else s.benches[i]
  let shared (d : Fin 8) : Bool := kind % 3 == 2 || (kind % 3 == 1 && d == dieOf b)
  let dies := Vector.ofFn fun d : Fin 8 => if shared d then { s.dies[d] with tlb := s.dies[d].tlb.filter fun l => !hit l } else s.dies[d]
  if kind % 3 = 0 then s.modBench b fun x => x.dropLeaves hit else { s with benches := benches, dies := dies }

/-- TLBI (R164): it waits until every access already translated has performed. R164 gives PROT and ILL no order: DESIGN CHOICE, a kind of
6 or more outside handler state raises PROT (log entry 63). -/
def execTlbi (a : BitVec 5) (kind : Byte) (s : State) : Out :=
  if s.here.c.handler.isNone then .next (s.raiseC cPROT 0)
  else if 6 ≤ kind.toNat then .next (s.raiseC cILL 0)
  else s.withSrc 0 0 a fun va =>
    let hit := tlbiHits kind.toNat s.here.tenant va.toNat
    let s := s.settleBuffer
    let b := s.cur.bench
    let busy := if kind.toNat % 3 = 0 then s.here.usesLeaf hit
      else (List.finRange 768).any fun i => reach b kind.toNat i && (s.bench i).usesLeaf hit
    if busy then .next (s.waitC .other 0) else .next (s.tlbi b kind.toNat hit).doneC

/-! ### ESTAT (R156) -/

/-- Whether a stream waits in a way. -/
def Eng.waits (e : Eng) (k : WaitKind) : Bool := match e.wait with | some w => w.kind == k | none => false

/-- The status byte of an engine stream. -/
def Bench.status (x : Bench) (st : Stream) : Nat :=
  let e := x.eng st
  (if e.rdv then 1 else 0) + (if e.waits .take then 2 else 0)
    + (if e.waits .give || !e.gives.isEmpty then 4 else 0) + (if e.waits .queue || e.waits .flag then 8 else 0)
    + (if e.abandon then 16 else 0) + (if e.held.isSome then 32 else 0) + (if st == .p && x.plane.tile then 64 else 0)

/-- The loop word of an engine stream. -/
def Eng.loopWord (e : Eng) : Nat :=
  let act := (upTo 6).filter fun n => (e.loop n).active
  match act.getLast? with
  | none => 0
  | some n => sumNat (act.map fun k => 2 ^ k) + 2 ^ 8 * n + 2 ^ 32 * (e.loop n).i.toNat

/-- The held fault's code, or 0. -/
def Eng.heldCode (e : Eng) : Nat := match e.held with | some h => h.code.toNat | none => 0

/-- The word of a selector (R156). -/
def Bench.estat (x : Bench) (sel : Nat) : Option Nat :=
  let giver (g : Nat) : Nat := sumNat ((upTo 4).map fun m => vget x.tokens (4 * g + m) 0 * 16 ^ m)
  match sel with
  | 0x00 => some (x.status .l + 2 ^ 8 * x.status .p + 2 ^ 16 * x.status .v + 2 ^ 24 * x.status .s
      + sumNat ([1, 2, 3].map fun (i : Fin 4) => if (x.ctx i).live then 2 ^ (31 + i.val) else 0)
      + (if x.c.handler.isSome then 2 ^ 35 else 0))
  | 0x01 => some (giver 0) | 0x02 => some (giver 1) | 0x03 => some (giver 2) | 0x04 => some (giver 3)
  | 0x05 => some (giver 4)
  | 0x06 => some (sumNat ((upTo 4).map fun q => (x.queued q).length * 2 ^ (8 * q)) + x.flagq.length * 2 ^ 32)
  | 0x08 => some x.l.loopWord | 0x09 => some x.p.loopWord | 0x0A => some x.v.loopWord | 0x0B => some x.s.loopWord
  | 0x0C => some x.l.heldCode | 0x0D => some x.p.heldCode | 0x0E => some x.v.heldCode | 0x0F => some x.s.heldCode
  | _ => none

/-- ESTAT (R156): the bench as it stood before this clk. -/
def execEstat (d : BitVec 4) (n : Byte) (s : State) : Out :=
  s.mainOnly
    (match s.before[s.cur.bench].estat n.toNat with
    | none => .next (s.raiseC cILL 0)
    | some v => .next (s.put d 0 (BitVec.ofNat 64 v)).doneC)

/-! ### Launches (R157, R159) -/

/-- The 16 words of a record's 128 bytes. -/
def recordWords (bs : List Byte) : List W64 := (upTo 16).map fun k => BitVec.ofNat 64 (leNat ((bs.drop (8 * k)).take 8))

/-- The record at an access that has passed its checks, read by the dispatcher once (R157, R182). -/
def State.launchRecord (s : State) (w : Asker) (p : Passed) : State × ReadRes :=
  let noted := (s.askAt w p.pa 128).isSome
  match s.askAt w p.pa 128 with
  | some ⟨_, _, _, _, _, some (v, 0), _⟩ => (s, .val v)
  | _ =>
    match s.dispRead w (dieOf s.cur.bench) s.here.tenant p 128 with
    | (s, .val v) => (if noted then s else s.addAsk w p 128 0 (some (v, 0)), .val v)
    | r => r

/-- The record that the dispatcher has read for an asker. -/
def State.readRecord (s : State) (w : Asker) : Option Nat :=
  (firstWhere (fun a => a.size == 128) (s.asksOf w)).bind fun a => a.val.map Prod.fst

/-- The dispatcher has read a record: it waits for room, refuses another tenant, rejects or accepts (R157). While an acceptance
that has room goes on, the LAUNCH is no longer one that waits for it (R182). -/
def State.submit (s : State) (w : Asker) (d : BitVec 4) (va : W64) (r : List W64) : Out :=
  let die := dieOf s.cur.bench
  let c := recWord r 6
  if !s.queueRoom die (runQueue (ctlPrio c) (ctlTenant c)) then
    .next ((s.modMy fun k => { k with phase := .idle }).waitC .other 0)
  else if ctlTenant c != s.here.tenant then .next (s.raiseC cPROT va)
  else
    match s.accept w die (ctlTenant c) r with
    | (t, none) => .next ((t.modMy fun k => { k with phase := .launch }).waitC .other 0)
    | (t, some q) => .next ((t.dropAsks w).put d 0 q).doneC

/-- LAUNCH (R157): until it has its result it counts as not issued (R166); a read that faults rejects the record, but for a lost
module (R391, R435). -/
def execLaunch (d : BitVec 4) (a : BitVec 5) (s : State) : Out :=
  let w : Asker := .of s.cur.bench .c s.cur.ctx
  s.withSrc 0 0 a fun va =>
    match s.myCtx.phase, s.readRecord w with
    | .launch, some v => s.submit w d va (recordWords (leBytes 128 v))
    | _, _ =>
    match s.check s.cur.bench va.toNat 128 .read false false with
    | (s, .fault c) => .next (s.raiseC c va)
    | (s, .wait) => .next (s.waitC .other 0)
    | (s, .ok p) =>
      s.released .di fun s =>
        match s.launchRecord w p with
        | (s, .wait) => .next (s.waitC .other 0)
        | (s, .fault c) =>
          .next (if c = cFABRIC then s.raiseC cFABRIC va else ((s.dropAsks w).put d 0 0).doneC)
        | (s, .val v) => s.submit w d va (recordWords (leBytes 128 v))

/-- LWAIT (R159). -/
def execLwait (a : BitVec 5) (s : State) : Out :=
  s.withSrc 0 0 a fun q =>
    if q != 0 && !s.issued q then .next (s.raiseC cPROT q)
    else if q = 0 || s.retired q then .next (s.acquireC .mo).doneC
    else .next (s.waitC .other 0)

/-! ### CLOCK and RDV -/

/-- CLOCK (R129, R399). -/
def execClock (d : BitVec 4) (s : State) : Out :=
  let p := s.team.period.toNat
  .next (s.put d 0 (BitVec.ofNat 64 (s.clk / 2 ^ p * 2 ^ p))).doneC

/-- RDV (R26, R165): it has issued, and the team retires once everything else of it has. -/
def execRdv (s : State) : Out :=
  s.mainOnly
    (if s.here.c.handler.isSome then .next (s.raiseC cILL 0)
     else .next ((s.settleBuffer.waitC .rdv 0).tryRetire s.cur.bench))

end Sys2Proof.Machine
end

