-- ==== Sys2Proof/Machine/Operands.lean ====
section
/-! DEFINITION. Bank operands (R45, R49, R52, R54, R199, R209, R240): where a run of elements lies, reading it as bytes
or values, and writing it with the conversion of the bank's format. -/

namespace Sys2Proof.Machine

/-! ### Format registers (R49) -/

/-- The format code of a BFMT word. -/
def bfFmt (w : W32) : BitVec 4 := w.extractLsb' 0 4
/-- The frame of a BFMT word. -/
def bfFrame (w : W32) : Nat := (w.extractLsb' 4 3).toNat
/-- DITH of a BFMT word. -/
def bfDith (w : W32) : Bool := w.getLsbD 8
/-- VLOCK of a BFMT word. -/
def bfLock (w : W32) : Bool := w.getLsbD 9

/-- The BFMT word of a bank. -/
def Bench.bf (x : Bench) (bank : Nat) : W32 := vget x.bfmt bank 0
/-- A grain frame. -/
def Bench.frame (x : Bench) (g : Nat) : BitVec 256 := vget x.frames g 0
/-- The bytes of a bank. -/
def Bench.bank (x : Bench) (bank : Nat) : Mem := vget x.banks bank []

/-! ### Runs of elements -/

/-- A run of elements of a bank: its format, DITH and frame as captured, and the byte offset of element p0. -/
structure Run where
  bank : Nat
  fmt : BitVec 4
  dith : Bool
  frame : BitVec 256
  off : Nat
  deriving DecidableEq, Repr

/-- The index of the element p0 + k of a run (R199, R209). -/
def Run.index (r : Run) (k : Nat) : Nat :=
  if fmtIsD r.fmt then (r.off - frameBase r.frame) / fmtBlock r.fmt * 32 + k
  else bankIndex r.fmt (frameBase r.frame) r.off k

/-- An offset begins an element, or a block, of a format (R199, R240). -/
def offsetOk (fmt : BitVec 4) (base : Nat) (off : Int) : Bool :=
  if fmtIsD fmt then decide ((base : Int) ≤ off) && (off - base) % (fmtBlock fmt : Int) == 0
  else off % (max 1 (fmtBits fmt / 8) : Nat) == 0

/-- The run at an effective offset of a bank, or the fault that R240 and R45 raise for a run of `n` elements. -/
def runAt (bfmt : Vector W32 16) (frames : Vector (BitVec 256) 8) (bank : Nat) (off : Int) (n : Nat) : Except Byte Run :=
  let w := vget bfmt bank 0
  let g := vget frames (bfFrame w) 0
  if !offsetOk (bfFmt w) (frameBase g) off then .error cBANKFMT
  else if !inBank off (fmtBytes (bfFmt w) n) then .error cPROT
  else .ok ⟨bank, bfFmt w, bfDith w, g, off.toNat⟩

/-- The run of a bench's bank. -/
def Bench.run (x : Bench) (bank : Nat) (off : Int) (n : Nat) : Except Byte Run := runAt x.bfmt x.frames bank off n

/-- The effective offset of a bank operand (R45). -/
def bopOffset (loops : Vector Loop 6) (o : Bop) : Int := (o.off.toNat : Int) + loopTerm loops o.sl

/-- The bytes that `n` elements of a run occupy. -/
def Run.bytes (r : Run) (n : Nat) : Nat := fmtBytes r.fmt n

/-- The range that `n` elements of a run occupy, for checked mode. -/
def Run.acc (r : Run) (n : Nat) (write : Bool) : Acc := ⟨r.bank, r.off, r.off + r.bytes n, write⟩

/-- A 32-byte sector of a byte range of a bank is poisoned (R54). -/
def Bench.bankPoisoned (x : Bench) (bank off n : Nat) : Bool :=
  x.bankPoison.any fun p => p.1 == bank && decide (32 * p.2 < off + n ∧ off < 32 * p.2 + 32)

/-- The offset that a decoder subtracts from element `i` of a dithered run (R213). -/
def ditherOf (fmt : BitVec 4) (dith : Bool) (frame : BitVec 256) (i : Nat) : Option Int :=
  if dith && fmtDithers fmt then some (grain frame i) else none

/-- The values of `n` elements of packed bytes (R193, R197, R200, R213). -/
def decodeRun (fmt : BitVec 4) (dith : Bool) (frame : BitVec 256) (index : Nat → Nat) (bs : List Byte) (n : Nat) : List Val :=
  (upTo n).map fun k => let c := codeAt fmt bs k; decodeCode fmt c.1 c.2 (ditherOf fmt dith frame (index k))

/-- The bytes of `n` elements of a run. -/
def Bench.runBytes (x : Bench) (r : Run) (n : Nat) : List Byte := Mem.read (x.bank r.bank) r.off (r.bytes n)

/-- The values of the first `n` elements of a run. -/
def Bench.runVals (x : Bench) (r : Run) (n : Nat) : List Val :=
  decodeRun r.fmt r.dith r.frame r.index (x.runBytes r n) n

/-- Write bytes into a bank; a sector written whole loses its poison (R54). -/
def Bench.writeBank (x : Bench) (bank off : Nat) (bs : List Byte) : Bench :=
  let covered (p : Nat × Nat) : Bool := p.1 == bank && decide (off ≤ 32 * p.2 ∧ 32 * p.2 + 32 ≤ off + bs.length)
  { x with
    banks := vmod x.banks bank fun m => Mem.writeAll m off bs
    bankPoison := x.bankPoison.filter fun p => !covered p }

/-- The offset that a store conversion adds to element `k` of a run (R206, R211). -/
def Run.addOff (r : Run) (mode : BitVec 3) (k : Nat) : Option Int :=
  if addsOffset r.fmt mode r.dith then some (grain r.frame (r.index k)) else none

/-- Convert values into the format of a run and write them (R203, R211, R212). -/
def Bench.writeVals (x : Bench) (r : Run) (mode : BitVec 3) (vs : List Val) : Bench :=
  let old := Mem.read (x.bank r.bank) r.off (r.bytes vs.length)
  x.writeBank r.bank r.off (encodeRun r.fmt mode r.dith (r.addOff mode) vs old)

/-- Raw little-endian 32-bit words of a bank. -/
def Bench.rawWord (x : Bench) (bank off : Nat) : W32 := BitVec.ofNat 32 (Mem.nat (x.bank bank) off 4)

end Sys2Proof.Machine
end

