-- ==== Sys2Proof/Machine/Feeds.lean ====
section
/-! DEFINITION. Feed descriptors (R282, R284), the walk (R285, R286), fetching and popping blocks (R287 to R290), and
FEED_BLOCK_ARRIVAL. -/

namespace Sys2Proof.Machine

/-! ### The control word of a descriptor (R282) -/

def fdFmt (c : W64) : BitVec 4 := c.extractLsb' 0 4
def fdPri (c : W64) : BitVec 2 := c.extractLsb' 4 2
def fdLast (c : W64) : Bool := c.getLsbD 6
def fdDims (c : W64) : Nat := (c.extractLsb' 8 3).toNat + 1
def fdWild (c : W64) : Bool := c.getLsbD 11
def fdScope (c : W64) : Option Scope := Scope.ofCode (c.extractLsb' 12 4)
def fdFrame (c : W64) : Nat := (c.extractLsb' 16 3).toNat
def fdDith (c : W64) : Bool := c.getLsbD 19
def fdSigma (c : W64) : Nat := (c.extractLsb' 20 3).toNat + 1
def fdPhase (c : W64) : Nat := (c.extractLsb' 23 3).toNat

/-- The scope of a feed's accesses. -/
def Feed.scope (f : Feed) : Scope := (fdScope f.ctl).getD .sp

/-- A format whose dimension 0 is packed: I4, N4, T2 and the D formats (R285). -/
def fmtPacked (f : BitVec 4) : Bool := f == 8 || f == 9 || f == 13 || fmtIsD f

/-- The unit of alignment of a feed's accesses: the element, a byte of a packed format, two bytes of a D format
(R284). -/
def fmtAlign (f : BitVec 4) : Nat := if fmtIsD f then 2 else if fmtPacked f then 1 else fmtBits f / 8

/-- The dimensions of a descriptor's words, count and stride, dimension 0 first. -/
def fdDimList (ws : List W64) (n : Nat) : List (W32 × W32) :=
  (upTo n).map fun k => let w := ws.getD (2 + k) 0; (w.setWidth 32, w.extractLsb' 32 32)

/-- The first check of R284 that a descriptor of eight words and a base fail; `dims` holds the bound counts. DESIGN CHOICE (R284 orders
its checks and R285 names BANKFMT for a COUNT_0 off the packing unit, without a place in that order): it comes after the format checks of
step 3 and before XLAT and ALIGN of the base (log entry 63). -/
def bindFault (ws : List W64) (dims : List (W32 × W32)) (base : W64) : Option Byte :=
  let c := ws.getD 0 0
  let n := fdDims c
  let d0 := dims.getD 0 (0, 0)
  let top := ws.getD (1 + n) 0
  let reserved := c.extractLsb' 26 38 != 0 || c.getLsbD 7 || decide (6 < n) || (fdScope c).isNone
    || ws.getD 1 0 != 0 || (span n (6 - n)).any (fun k => ws.getD (2 + k) 0 != 0)
  if reserved || decide (fdSigma c ≤ fdPhase c) || (fdWild c && top.setWidth 32 != 0#32) then some cILL
  else if fmtReserved (fdFmt c) || (fdDith c && !fmtDithers (fdFmt c)) then some cBANKFMT
  else if fmtPacked (fdFmt c) && (decide (1 < fdSigma c) || d0.2 != 0) then some cBANKFMT
  else if (fdFmt c == 8 || fdFmt c == 9 || fdFmt c == 13) && d0.1.toNat % fmtUnit (fdFmt c) != 0 then some cBANKFMT
  else if 2 ^ 57 ≤ base.toNat then some cXLAT
  else if base.toNat % fmtAlign (fdFmt c) != 0 then some cALIGN
  else none

/-! ### The walk (R285, R286) -/

/-- The index counts that one block of a format may hold: 512 bytes of memory format (R286). -/
def blockCap (f : BitVec 4) : Nat := if fmtIsD f then 512 / fmtBlock f else 4096 / fmtBits f

/-- The elements that one index of dimension 0 stands for: 32 in a D format (R285). -/
def perIndex (f : BitVec 4) : Nat := if fmtIsD f then 32 else 1

/-- The first position of a walk, or the end of a walk without elements (R286). -/
def walkStart (ctl : W64) (dims : List (W32 × W32)) : List Nat :=
  let ph := fdPhase ctl
  if dims.any (fun d => d.1 == 0) || decide ((dims.getD 0 (0, 0)).1.toNat ≤ ph) then []
  else ph :: (dims.drop 1).map fun _ => 0

/-- The outer indices after one run, innermost first; empty when the walk has ended. -/
def nextOuter : List Nat → List (W32 × W32) → Option (List Nat)
  | i :: is, d :: ds =>
    if i + 1 < d.1.toNat then some ((i + 1) :: is)
    else (nextOuter is ds).map fun js => 0 :: js
  | _, _ => none

/-- How many indices of dimension 0 the next block holds, and the position after it. -/
def blockAt (ctl : W64) (dims : List (W32 × W32)) (pos : List Nat) : Nat × List Nat :=
  let n0 := (dims.getD 0 (0, 0)).1.toNat
  let i0 := pos.getD 0 0
  let sg := fdSigma ctl
  let left := (n0 - i0 + sg - 1) / sg
  let cap := blockCap (fdFmt ctl)
  let n := if left < cap then left else cap
  let j := i0 + n * sg
  if j < n0 then (n, j :: pos.drop 1)
  else
    match nextOuter (pos.drop 1) (dims.drop 1) with
    | some js => (n, fdPhase ctl :: js)
    | none => (n, [])

/-- The address offset of a position: the strided indices, dimension 0 of a packed format by its bytes (R285). -/
def walkOffset (ctl : W64) (dims : List (W32 × W32)) (pos : List Nat) : Int :=
  let term (p : Nat × (W32 × W32)) : Int := (p.1 : Int) * p.2.2.toInt
  let outer := ((pos.zip dims).drop 1).foldl (fun t p => t + term p) 0
  let i0 := pos.getD 0 0
  let inner : Int :=
    if fmtIsD (fdFmt ctl) then (i0 * fmtBlock (fdFmt ctl) : Nat)
    else if fmtPacked (fdFmt ctl) then (i0 * fmtBits (fdFmt ctl) / 8 : Nat)
    else (i0 : Int) * (dims.getD 0 (0, 0)).2.toInt
  outer + inner

/-- The addresses of a block of `n` indices at a position, each with its length: one for each element, or one run of a
packed format cut into units of its alignment (R285, R289). -/
def blockPieces (ctl : W64) (dims : List (W32 × W32)) (base : W64) (pos : List Nat) (n : Nat) : List (W64 × Nat) :=
  let a := base + BitVec.ofInt 64 (walkOffset ctl dims pos)
  let f := fdFmt ctl
  if fmtPacked f then
    let u := fmtAlign f
    (upTo (fmtBytes f (n * perIndex f) / u)).map fun k => (a + BitVec.ofNat 64 (u * k), u)
  else
    let step := BitVec.ofInt 64 ((fdSigma ctl : Int) * (dims.getD 0 (0, 0)).2.toInt)
    (upTo n).map fun k => (a + step * BitVec.ofNat 64 k, fmtBits f / 8)

/-! ### Fetching (R288, R289) -/

/-- What a fetch comes to: the bytes, the translation that the feed then holds and the physical places that were read, a wait, a
fault at an address, or bytes that are not fetched ahead: of another module, or past the caches. -/
inductive Fetched where
  | ok (s : State) (bytes : List Byte) (trans : Option Leaf) (places : List (Nat × Nat))
  | wait (s : State)
  | fault (s : State) (code : Byte) (va : W64)
  | remote

/-- The checks of R131 for one piece, through the feed's current translation (R289). -/
def State.feedCheck (s : State) (b : BenchId) (va : W64) (n : Nat) (need : Need) (io : Bool) (trans : Option Leaf) :
    State × Checked :=
  match trans with
  | some l =>
    if va.toNat < 2 ^ 57 && va.toNat % n == 0 && l.covers (s.bench b).tenant va.toNat then
      s.checkPage (s.bench b).tenant va.toNat need false io l
    else s.check b va.toNat n need false io
  | none => s.check b va.toNat n need false io

/-- How an engine reads memory: scope and hints, and the stream that reads for its instruction, if one does: it alone asks other
modules, and reads at .io, at a device or on a page that is not cached, in its program order (R81). -/
structure Reading where
  scope : Scope
  pri : BitVec 2
  last : Bool
  asker : Option Stream

/-- Places share a byte. -/
def placesMeet (as bs : List (Nat × Nat)) : Bool :=
  as.any fun a => bs.any fun b => decide (a.1 < b.1 + b.2 ∧ b.1 < a.1 + a.2)

/-- An atomic of V to some of the places has not performed yet, as far as the bench knows (R65, R357). -/
def Bench.vStoresTo (x : Bench) (places : List (Nat × Nat)) : Bool :=
  x.vq.any (fun e => placesMeet [(e.pa, e.size)] places)
    || x.fab.any fun f => f.1 == .v && placesMeet [(f.2.pa, f.2.size)] places

/-- Read the pieces of a block, in order (R289); bytes of another module are asked for (R428), once no older atomic of V to them is
in flight (R65). -/
def State.fetchPieces (s : State) (b : BenchId) (r : Reading) : List (W64 × Nat) → Option Leaf → Fetched
  | [], tr => .ok s [] tr []
  | (va, n) :: ps, tr =>
    match s.feedCheck b va n .read (r.scope == .io) tr with
    | (s, .fault c) => .fault s c va
    | (s, .wait) => .wait s
    | (s, .ok p) =>
      let lastOfLine := match ps with | [] => true | q :: _ => q.1.toNat / 128 != va.toNat / 128
      let rest (s : State) (bs : List Byte) : Fetched :=
        match s.fetchPieces b r ps (some p.leaf) with
        | .ok s cs t ls => .ok s (bs ++ cs) t ((p.pa, n) :: ls)
        | e => e
      if r.asker.isNone && (r.scope == .io || s.uncached p) then .remote
      else if s.behind b (s.bench b).seq p then .wait s
      else
      match s.load b p n r.scope r.pri (r.last && lastOfLine) (fun _ => none) with
      | .wait s => .wait s
      | .fault s c => .fault s c va
      | .ok s bs => rest s bs
      | .remote s =>
        match r.asker with
        | none => .remote
        | some st =>
          if st != .l && (s.bench b).vStoresTo [(p.pa, n)] then .wait s else
          match s.askRemote (.of b st 0) (s.bench b).tenant p n with
          | (s, none) => .wait s
          | (s, some (v, code)) =>
            if code != 0 then .fault (if code = cPOISON then s.logPrep p b else s) code va else rest s (leBytes n v)

/-- Where the feed's next block to fetch lies: after the blocks fetched ahead. -/
def Feed.fetchPos (f : Feed) : List Nat × Nat :=
  match f.ahead.getLast? with
  | some k => (k.nextIdx, k.seq0 + k.n)
  | none => (f.idx, f.seq)

/-- The block that follows the blocks fetched ahead, without its bytes. -/
def Feed.nextBlock (f : Feed) : FBlock :=
  let (pos, seq) := f.fetchPos
  let (n, next) := blockAt f.ctl f.dims pos
  ⟨[], seq, n * perIndex (fdFmt f.ctl), none, none, next, 0, []⟩

/-- The addresses of the block that follows the blocks fetched ahead. -/
def Feed.nextPieces (f : Feed) : List (W64 × Nat) :=
  let pos := f.fetchPos.1
  blockPieces f.ctl f.dims f.base pos (blockAt f.ctl f.dims pos).1

/-- How a feed reads. -/
def Feed.reading (f : Feed) (asker : Option Stream) : Reading := ⟨f.scope, fdPri f.ctl, fdLast f.ctl, asker⟩

/-- What fetching the next block of a feed comes to: the block, with its fault if it has one (R290). -/
inductive Block where
  | ok (s : State) (k : FBlock) (trans : Option Leaf)
  | wait (s : State)
  | remote

/-- Fetch the block that follows the blocks fetched ahead; its loads bind together (R288). An atomic of V to its bytes is older than a
pop by V, which waits for it, and nothing is fetched ahead of it (R65). -/
def State.fetchBlock (s : State) (b : BenchId) (f : Feed) (asker : Option Stream) : Block :=
  let k := { f.nextBlock with bound := (s.bench b).seq }
  let next (s : State) : State := s.modBench b fun x => { x with seq := x.seq + 1 }
  match s.fetchPieces b (f.reading asker) f.nextPieces f.trans with
  | .ok t bs tr ls =>
    if asker != some .l && (s.bench b).vStoresTo ls then .wait s else .ok (next t) { k with bytes := bs, places := ls } tr
  | .fault s c va => .ok (next s) { k with fault := some (c, va) } f.trans
  | .wait s => .wait s
  | .remote => .remote

/-- Change a feed register. -/
def Bench.modFeed (x : Bench) (n : Nat) (f : Feed → Feed) : Bench := { x with feeds := vmod x.feeds n f }
/-- A feed register. -/
def Bench.feed (x : Bench) (n : Nat) : Feed := vget x.feeds n .unbound

/-- A feed may fetch ahead: bound for reading or not used yet, fewer than four blocks, no fault among them, more to
come (R287, R288). -/
def Feed.mayFetch (f : Feed) : Bool :=
  (f.dir == .rd || f.dir == .unused) && decide (f.ahead.length < 4) && f.ahead.all (fun k => k.fault.isNone)
    && !f.fetchPos.1.isEmpty

/-- FEED_BLOCK_ARRIVAL: a block fetched ahead arrives, or its fault is recorded (R288, R290). A block that lies in
another module is not fetched ahead: its pop asks for it; neither is one that is read past the caches, in program order (R81). -/
def execFeedBlockArrival (s : State) : Out :=
  let b := s.cur.bring.bench
  let n := s.cur.bring.n
  let f := (s.bench b).feed n
  if (s.bench b).team.isNone || !f.mayFetch then .next s
  else
    match s.fetchBlock b f none with
    | .ok s k tr => .next (s.modBench b fun x => x.modFeed n fun f => { f with ahead := f.ahead ++ [k], trans := tr })
    | .wait s => .next s
    | .remote => .next s

/-- Bytes have bound for a stream: blocks fetched ahead that bound some of the same bytes before are given up and are fetched
again, so that loads of one stream to overlapping bytes bind in program order (R65). -/
def Bench.orderFeeds (x : Bench) (bound : Nat) (places : List (Nat × Nat)) : Bench :=
  let fresh (k : FBlock) : Bool := k.raised.isSome || decide (bound ≤ k.bound) || !placesMeet places k.places
  { x with feeds := x.feeds.map fun f => if f.dir = .wr then f else { f with ahead := f.ahead.takeWhile fresh } }

/-- What the engines of a bench have asked for, but for instruction words (1 in the place of a context), is given up: it would be
no block of the feeds as they now stand (R309). -/
def Bench.dropEngineAsks (x : Bench) : Bench := { x with asks := x.asks.filter fun a => a.st == .c || a.ctx != 0 }

/-! ### Popping (R287, R290) -/

/-- What a pop comes to: a block, with the feed as it was; a wait for its arrival; a feed that gives none, without effect; or a
block whose fault the pop raises, `eret` as R290 says. -/
inductive Popped where
  | ok (s : State) (f : Feed) (k : FBlock)
  | wait (s : State)
  | bad (code : Byte)
  | fault (s : State) (code : Byte) (va : W64) (eret : Bool)

/-- A fault of a fetch that ERET clears: translation and permission (R290). -/
def eretClears (code : Byte) : Bool := code == cXLAT || code == cPROT

/-- The feed after a block has been popped. -/
def Feed.after (f : Feed) (k : FBlock) : Feed :=
  { f with dir := .rd, idx := k.nextIdx, seq := k.seq0 + k.n, ahead := f.ahead.drop 1 }

/-- A feed that no read can pop: of the other direction, unbound, or at its end (R287). -/
def Feed.readFault (f : Feed) : Option Byte :=
  if f.dir == .wr then some cILL else if f.dir == .unbound || f.idx.isEmpty then some cPROT else none

/-- A block is taken from its feed, or raises its fault; one whose fault ERET clears stays at the head, so that the feed fetches
nothing until then (R290). -/
def State.useBlock (s : State) (b : BenchId) (n : Nat) (f : Feed) (k : FBlock) : Popped :=
  let pop (s : State) : State :=
    s.modBench b fun x => ((x.modFeed n fun _ => f.after k).orderFeeds k.bound k.places).dropEngineAsks
  match k.fault with
  | none => .ok (pop s) f k
  | some (c, va) =>
    if eretClears c then
      let k := { k with raised := some s.cur.stream }
      .fault (s.modBench b fun x => (x.modFeed n fun _ => { f with dir := .rd, ahead := [k] }).dropEngineAsks) c va true
    else .fault (pop s) c va false

/-- Pop a block of a read feed: its direction and its end are checked, its fault is raised (R287, R290). -/
def State.popBlock (s : State) (b : BenchId) (n : Nat) : Popped :=
  let f := (s.bench b).feed n
  match f.readFault with
  | some c => .bad c
  | none =>
    match f.ahead with
    | k :: _ => s.useBlock b n f k
    | [] =>
      match s.fetchBlock b f (some s.cur.stream) with
      | .ok s k tr => s.useBlock b n { f with trans := tr } k
      | .wait s => .wait s
      | .remote => .wait s

/-- The values of a block's elements (R213, R310). -/
def Feed.values (f : Feed) (k : FBlock) : List Val :=
  decodeRun (fdFmt f.ctl) (fdDith f.ctl) f.frame (fun e => k.seq0 + e) k.bytes k.n

end Sys2Proof.Machine
end

