-- ==== Sys2Proof/Machine/Fetch.lean ====
section
/-! DEFINITION. Fetching instruction words (R20, R119, R463), the searches along the code (R43, R46), the loop
instructions of L, V and S (R42, R43, R317, R361, R381), and the steps INSTRUCTION_FETCH_FAULT and ABANDON_LAND. -/

namespace Sys2Proof.Machine

/-- The `n` bytes of a word at a physical address. -/
def State.codeBytes (s : State) (pa n : Nat) : Nat :=
  if s.region pa == .device then s.devRead pa n else Mem.nat s.mem pa n

/-- What fetching a word comes to. -/
inductive Word where
  | ok (w : Nat)
  | fault (code : Byte)
  | wait

/-- Fetch the word of a stream at an address: steps 1, 3 and 4 of R131 with the X permission (R463); code in another module is
asked for (R428), and a fetch from a lost module fails with FABRIC (R435, log entry 19). The request goes to home as any does, and
waits while its extent closes (R301, R302, R423). `c` is a context of C, or, for an
engine, 1 for the word at its PC and 2 for a search. -/
def State.fetch (s : State) (b : BenchId) (st : Stream) (c : Fin 4) (va : W64) : State × Word :=
  match s.check b va.toNat 1 .exec false false with
  | (s, .fault e) => (s, .fault e)
  | (s, .wait) => (s, .wait)
  | (s, .ok p) =>
    match s.region p.pa with
    | .aperture _ =>
      (match s.askRemote (.of b st c) (s.bench b).tenant p st.wordBytes with
      | (s, none) => (s, .wait)
      | (s, some (v, code)) => (s, if code = cFABRIC then .fault cFABRIC else .ok v))
    | _ =>
      if s.closingRange p.pa then (s, .wait)
      else (s.passL2 p.pa p.leaf (s.bench b).tenant, .ok (s.codeBytes p.pa st.wordBytes))

/-- Words that a stream has asked another module for are forgotten. -/
def State.dropWords (s : State) (b : BenchId) (st : Stream) (c : Fin 4) : State :=
  s.modBench b fun x =>
    { x with asks := x.asks.filter fun a => !(a.st == st && a.ctx == c && a.size == st.wordBytes) }

/-- The number under which the stream of the turn fetches the word at its PC. -/
def State.fetchNo (s : State) : Fin 4 := if s.cur.stream = .c then s.cur.ctx else 1

/-- Fetch the word at the PC of the stream of the turn. -/
def State.fetchHere (s : State) : State × Word := s.fetch s.cur.bench s.cur.stream s.fetchNo s.cur.pc

/-- A fetch fault of the stream of the turn: precise in C, held in an engine, where ERET clears XLAT and PROT (R119, R463). For C no
word was fetched, and s.cause[63:32] is zero (log entry 47). -/
def State.fetchFault (s : State) (code : Byte) (va : W64) : State :=
  let s := s.dropWords s.cur.bench s.cur.stream s.fetchNo
  if s.cur.stream = .c then { s with cur := { s.cur with word := 0 } }.raiseC code va else s.hold code va (eretClears code)

/-- INSTRUCTION_FETCH_FAULT (R119, R463). -/
def execInstructionFetchFault (s : State) : Out :=
  match s.fetchHere with
  | (s, .fault c) => .next (s.fetchFault c s.cur.pc)
  | (_, .ok _) => .next s
  | (s, .wait) => .next s

/-! ### Searches along the code (R43, R46) -/

/-- What a search comes to. -/
inductive Found where
  | at_ (pc : W64)
  | terminator
  | fault (code : Byte) (va : W64)
  | wait

/-- The first word from an address on that satisfies a test, up to the section's terminator. -/
def State.search (s : State) (b : BenchId) (st : Stream) (p : Nat → Bool) : Nat → W64 → State × Found
  | 0, _ => (s, .terminator)
  | k + 1, pc =>
    match s.fetch b st 2 pc with
    | (s, .fault c) => (s.dropWords b st 2, .fault c pc)
    | (s, .wait) => (s, .wait)
    | (s, .ok w) =>
      if w = 0 then (s.dropWords b st 2, .terminator)
      else if p w then (s.dropWords b st 2, .at_ pc)
      else s.search b st p k (pc + BitVec.ofNat 64 st.wordBytes)

/-- More words than an address space holds. -/
def searchFuel : Nat := 2 ^ 57

/-- The level that a word closes, if it is an ENDL or a PENDL. -/
def endlLevel (st : Stream) (w : Nat) : Option Nat :=
  match decodeWord (st.word w) with
  | .ok (.lEndl _ n) => some n.toNat
  | .ok (.pendl _ n) => some n.toNat
  | .ok (.vEndl _ n) => some n.toNat
  | .ok (.sEndl _ n) => some n.toNat
  | _ => none

/-! ### Loop instructions -/

/-- LOOP n may open level n (R42). -/
def Eng.mayOpen (e : Eng) (n : Nat) : Bool :=
  !(e.loop n).active && !e.loopAbove n && (n == 0 || (e.loop (n - 1)).active)

/-- Level n is the highest active one (R42). -/
def Eng.isTop (e : Eng) (n : Nat) : Bool := (e.loop n).active && !e.loopAbove n

/-- Change a loop level of the stream of the turn. -/
def State.modLoop (s : State) (n : Nat) (f : Loop → Loop) : State :=
  s.modMyEng fun e => { e with loops := vmod e.loops n f }

/-- The search for the end of a loop that the stream of the turn does not enter (R43). -/
def State.findEndl (s : State) (n : Nat) : State × Found :=
  s.search s.cur.bench s.cur.stream (fun w => endlLevel s.cur.stream w == some n) searchFuel s.nextPc

/-- LOOP n with a count (R42, R43). -/
def State.openLoop (s : State) (n : Nat) (count : W32) : Eff :=
  if !s.myEng.mayOpen n then .pre cILL 0
  else if count = 0 then
    match s.findEndl n with
    | (_, .terminator) => .pre cILL 0
    | (_, .fault c va) => if eretClears c then .preEret c va else .pre c va
    | (_, .wait) => .ask fun s => (s.findEndl n).1
    | (s, .at_ pc) => .done s [] (some (pc + BitVec.ofNat 64 (wordSize s.cur.stream)))
  else .done (s.modLoop n fun l => { l with active := true, n := count, i := 0, body := s.nextPc }) [] none

/-- ENDL n (R42, R43). -/
def State.closeLoop (s : State) (n : Nat) : Eff :=
  let l := s.myEng.loop n
  if !s.myEng.isTop n then .pre cILL 0
  else if l.i.toNat + 1 < l.n.toNat then .done (s.modLoop n fun l => { l with i := l.i + 1 }) [] (some l.body)
  else .done (s.modLoop n fun l => { l with active := false, i := l.i + 1 }) [] none

/-- A LOOP word of L, V or S (R317, R361, R381). -/
def State.loopWord (s : State) (h : Hdr) (o : LoopOp) : Out :=
  s.issue h true (if o.csrc then 1 else 0) fun s ents =>
    s.openLoop o.lvl.toNat (if o.csrc then entryCount (ents.getD 0 0) else o.count)

/-- An ENDL word of L, V or S. -/
def State.endlWord (s : State) (h : Hdr) (lvl : BitVec 3) : Out := s.issue h true 0 fun s _ => s.closeLoop lvl.toNat

/-- An RDV word of L, V or S: the stream issues nothing more (R26). -/
def State.rdvWord (s : State) (h : Hdr) : Out :=
  match s.issue h false 0 fun s _ => .done (s.modMyEng fun e => { e with rdv := true }) [] none with
  | .next t => .next (t.tryRetire s.cur.bench)
  | r => r

/-- A stride setter of L, V or S (R313, R361, R371). -/
def State.strideWord (s : State) (h : Hdr) (o : StrideSet) : Out :=
  s.issue h false 0 fun s _ =>
    .done (s.modLoop o.lvl.toNat fun l => { l with s := vset l.s o.sel.toNat o.value }) [] none

/-! ### The end of an ABANDON (R46) -/

/-- Nothing that had issued before the ABANDON is left in the stream; of S, no SREL that waits (R383). -/
def Bench.quiet (x : Bench) (st : Stream) : Bool :=
  let e := x.eng st
  !e.issued && e.gives.isEmpty && e.flags.isEmpty && (st != .v || (x.vq.isEmpty && x.vfly.isEmpty))
    && (st != .s || !x.sq.any fun q => q.kind == .release)

/-- ABANDON_LAND: the stream resumes at its landing point; a search that meets a fetch fault goes on from there once ERET
has cleared it (R46, R463). -/
def execAbandonLand (s : State) : Out :=
  let b := s.cur.bring.bench
  let st := s.cur.bring.stream
  let x := s.bench b
  let e := x.eng st
  if !e.abandon || e.held.isSome || !x.quiet st then .next s
  else
    let s := { s with cur := { s.cur with bench := b, stream := st, word := 0, pc := e.pc } }
    let landed (e : Eng) : Eng := { e with abandon := false }
    match s.search b st (fun w => w.testBit 13) searchFuel e.pc with
    | (s, .at_ pc) => .next (s.modMyEng fun e => { landed e with pc := pc })
    | (s, .terminator) => .next ((s.modMyEng landed).hold cILL 0 false)
    | (s, .fault c va) =>
      let s := { s with cur := { s.cur with pc := va } }
      .next ((s.modMyEng fun e => { e with pc := va }).hold c va (eretClears c))
    | (s, .wait) => .next s

end Sys2Proof.Machine
end

