-- ==== Sys2Proof/Machine/LEng.lean ====
section
/-! DEFINITION. The load engine L (R304 to R319): binding and popping feeds, gathers, copies between banks, and L's
registers. -/

namespace Sys2Proof.Machine

/-- A feed register as checked mode sees it: a pseudo-bank that every access writes (R309). -/
def feedAcc (n : Nat) : Acc := ⟨16 + n, 0, 1, true⟩

/-- A fault after issue that a fetch raises (R290, R318). -/
def postFault (s : State) (code : Byte) (va : W64) (acc : List Acc) : Eff := .post s code va (eretClears code) acc

/-! ### FBIND (R308) -/

/-- The address of a descriptor: popped, or relative to the word (R308). -/
def descAddr (o : LBind) (pc : W64) (ents : List W64) : W64 :=
  if o.dsrc then ents.getD 0 0 else (pc &&& ~~~0x3F#64) + 64 * o.doff.signExtend 64

/-- A feed as FBIND leaves it (R308). -/
def boundFeed (ctl : W64) (dims : List (W32 × W32)) (base : W64) (frame : BitVec 256) : Feed :=
  ⟨.unused, ctl, dims, base, walkStart ctl dims, 0, frame, none, []⟩

/-- Bytes that an instruction of the turn has read have bound, before later pops of its stream do (R65). -/
def State.bound (s : State) (places : List (Nat × Nat)) : State := s.modHere fun x => x.orderFeeds x.seq places

/-- The descriptor has been read and its count popped: R284, and the binding (R308). -/
def State.bind (s : State) (n : Nat) (ws : List W64) (count : Option W32) (base : W64) : Eff :=
  let ctl := ws.getD 0 0
  let k := fdDims ctl
  let dims := fdDimList ws k
  let dims := match count with
    | some c => dims.set (k - 1) (c, (dims.getD (k - 1) (0, 0)).2)
    | none => dims
  match bindFault ws dims base with
  | some c => .post s c (if c = cXLAT || c = cALIGN then base else 0) false [feedAcc n]
  | none =>
    .done (s.modHere fun x => (x.modFeed n fun _ => boundFeed ctl dims base (x.frame (fdFrame ctl))).dropEngineAsks) [feedAcc n] none

/-- The eight words of 64 bytes. -/
def words8 (bs : List Byte) : List W64 := (upTo 8).map fun k => BitVec.ofNat 64 (leNat ((bs.drop (8 * k)).take 8))

/-- A descriptor of eight words has been read: the count is popped if WILD is 1; while it waits for the count, the
instruction keeps the words `more` (R308). -/
def State.bindRead (s : State) (n : Nat) (ws more : List W64) (base : W64) : Eff :=
  if fdWild (ws.getD 0 0) then
    match s.here.queued 0 with
    | [] => .stay s more (some (.queue, 0, 1)) [feedAcc n]
    | v :: _ => (s.modHere fun x => x.popQueue 0 1).bind n ws (some (entryCount v)) base
  else s.bind n ws none base

/-- FBIND (R308). -/
def execFbind (h : Hdr) (o : LBind) (s : State) : Out :=
  let nq := if o.dsrc then 2 else 1
  s.issue h false nq fun s ents =>
    let base := ents.getD (nq - 1) 0
    let n := o.feed.toNat
    if nq < ents.length then s.bindRead n (ents.drop nq) [] base
    else
      let va := descAddr o s.cur.pc ents
      match s.fetchPieces s.cur.bench ⟨.sp, 1, false, some .l⟩ [(va, 64)] none with
      | .ok t bs _ ls => (t.bound ls).bindRead n (words8 bs) (words8 bs) base
      | .wait t => .stay t [] none [feedAcc n]
      | .fault t c va => postFault t c va [feedAcc n]
      | .remote => .stay s [] none [feedAcc n]

/-! ### FLOAD (R310, R311) -/

/-- A block goes into a bank: bytes when the format codes are equal, else values (R310, R311). -/
def Bench.blockIn (x : Bench) (r : Run) (rm : BitVec 3) (f : Feed) (k : FBlock) : Bench :=
  if fdFmt f.ctl = r.fmt then x.writeBank r.bank r.off k.bytes else x.writeVals r rm (f.values k)

/-- The block that the next pop takes, with or without its bytes. -/
def Feed.headBlock (f : Feed) : FBlock := match f.ahead with | k :: _ => k | [] => f.nextBlock

/-- FLOAD (R310): its format, frame and offset are those of its issue (R52, R210). -/
def execFload (h : Hdr) (o : LLoad) (s : State) : Out :=
  s.issue h false 0 fun s _ =>
    let c := s.cap
    let n := o.feed.toNat
    match runAt c.bfmt c.frames o.bop.bank.toNat (bopOffset c.loops o.bop) 1 with
    | .error e => .pre e 0
    | .ok r =>
      let acc : List Acc := [r.acc (s.here.feed n).headBlock.n true, feedAcc n]
      match s.popBlock s.cur.bench n with
      | .wait t => .stay t [] none acc
      | .bad e => .post s e 0 false acc
      | .fault t e va eret => .post t e va eret acc
      | .ok t f k =>
        if !inBank r.off (r.bytes k.n) then .post t cPROT 0 false acc
        else .done (t.modHere fun x => x.blockIn r o.rm f k) [r.acc k.n true, feedAcc n] none

/-! ### FGATH (R312) -/

/-- The indices of one row of a two-dimensional feed, and its elements (R312). -/
def Feed.rowLen (f : Feed) : Nat :=
  let n0 := (f.dims.getD 0 (0, 0)).1.toNat
  (n0 - fdPhase f.ctl + fdSigma f.ctl - 1) / fdSigma f.ctl

/-- A feed that FGATH takes: bound, two dimensions, rows of at most 512 bytes (R312). -/
def Feed.gathers (f : Feed) : Bool :=
  f.dir != .unbound && fdDims f.ctl == 2 && decide (fmtBytes (fdFmt f.ctl) (f.rowLen * perIndex (fdFmt f.ctl)) ≤ 512)

/-- The index words of a list: the count and the indices (R312, R373). -/
def Bench.indexList (x : Bench) (bank off : Nat) : Nat × List W32 :=
  let n := (x.rawWord bank off).toNat
  (n, (upTo n).map fun j => x.rawWord bank (off + 4 + 4 * j))

/-- The index that marks a padding row. -/
def padRow : W32 := 0xFFFFFFFF#32

/-- The addresses of row `i`. -/
def Feed.rowPieces (f : Feed) (i : W32) : List (W64 × Nat) :=
  if i = padRow || f.rowLen = 0 then [] else blockPieces f.ctl f.dims f.base [fdPhase f.ctl, i.toNat] f.rowLen

/-- The bytes of the rows of a gather, padding rows as zero codes (R312). -/
def rowBytes (f : Feed) : List W32 → List Byte → List Byte
  | [], _ => []
  | i :: is, bs =>
    let n := fmtBytes (fdFmt f.ctl) (f.rowLen * perIndex (fdFmt f.ctl))
    if i = padRow then List.replicate n 0 ++ rowBytes f is bs else bs.take n ++ rowBytes f is (bs.drop n)

/-- The values of the rows of a gather; element k of row i has the index i · rl + k (R312). -/
def rowVals (f : Feed) : List W32 → List Byte → List Val
  | [], _ => []
  | i :: is, bs =>
    let rl := f.rowLen * perIndex (fdFmt f.ctl)
    let n := fmtBytes (fdFmt f.ctl) rl
    if i = padRow then List.replicate rl .zero ++ rowVals f is bs
    else decodeRun (fdFmt f.ctl) (fdDith f.ctl) f.frame (fun e => i.toNat * rl + e) (bs.take n) rl
      ++ rowVals f is (bs.drop n)

/-- The rows of a gather go into a bank, one after another, as FLOAD writes (R310, R312). -/
def Bench.rowsIn (x : Bench) (r : Run) (rm : BitVec 3) (f : Feed) (is : List W32) (bs : List Byte) : Bench :=
  if fdFmt f.ctl = r.fmt then x.writeBank r.bank r.off (rowBytes f is bs) else x.writeVals r rm (rowVals f is bs)

/-- An index list has a fault of its own: its count, its range in the bank (R45) or an index that names no row (R312). -/
def Bench.indexBad (x : Bench) (bank off : Nat) (limit : Nat) : Bool :=
  let (n, is) := x.indexList bank off
  decide (128 < n) || !inBank off (4 + 4 * n) || is.any fun i => i != padRow && decide (limit ≤ i.toNat)

/-- An index list lies in poisoned sectors. -/
def Bench.indexPoison (x : Bench) (bank off : Nat) : Bool := x.bankPoisoned bank off (4 + 4 * (x.indexList bank off).1)

/-- The faults of an index list as a gather meets them after it has issued: the poison of its count before what the count says (R312). -/
def Bench.indexFault (x : Bench) (bank off : Nat) (limit : Nat) : Option Byte :=
  let n := (x.indexList bank off).1
  if x.bankPoisoned bank off 4 then some cPOISON
  else if n ≤ 128 ∧ inBank off (4 + 4 * n) = true ∧ x.indexPoison bank off = true then some cPOISON
  else if x.indexBad bank off limit then some cPROT
  else none

/-- The rows of a gather have been read, or are still awaited; the instruction keeps its index list from its issue on (R312). A feed that
S has made a write feed meanwhile is none that it takes (R287, R312). -/
def State.gather (s : State) (n : Nat) (r : Run) (ix : Acc) (is : List W32) : Eff :=
  let f := s.here.feed n
  let acc : List Acc := [ix, r.acc (f.rowLen * perIndex (fdFmt f.ctl) * is.length) true]
  let later (t : State) : Eff := .stay t (if s.myEng.issued then [] else is.map fun i => i.setWidth 64) none acc
  if f.dir == .wr then .post s cILL 0 false acc else
  match s.fetchPieces s.cur.bench (f.reading (some .l)) (is.flatMap f.rowPieces) none with
  | .wait t => later t
  | .remote => later s
  | .fault t c va => postFault t c va acc
  | .ok t bs _ ls =>
    .done ((t.bound ls).modHere fun x =>
      ((x.rowsIn r x.lcvc.rm f is bs).modFeed n fun f => { f with dir := .rd }).dropEngineAsks) acc none

/-- FGATH (R312): ILL, BANKFMT and the bounds of the destination's first element are checked before issue (R306), the feed's direction,
the index list and the rows after it (R318). -/
def execFgath (h : Hdr) (o : IdxMove) (s : State) : Out :=
  s.issue h false 0 fun s ents =>
    let x := s.here
    let c := s.cap
    let n := o.feed.toNat
    let f := x.feed n
    let ib := o.ibank.toNat
    let io := 512 * o.ioff.toNat
    let (cnt, is) := x.indexList ib io
    let rl := f.rowLen * perIndex (fdFmt f.ctl)
    let run := runAt c.bfmt c.frames o.bop.bank.toNat (bopOffset c.loops o.bop) 0
    match s.myEng.issued, run with
    | true, .ok r => s.gather n r ⟨ib, io, io + 4 + 4 * ents.length, false⟩ (ents.map fun v => v.setWidth 32)
    | true, .error e => .post s e 0 false []
    | false, run =>
      let rows := fmtIsD (bfFmt (vget c.bfmt o.bop.bank.toNat 0)) && rl % 32 != 0 && decide (1 < cnt)
      if !f.gathers then .pre cILL 0
      else if bfFmt (x.bf ib) != 0 || bfDith (x.bf ib) || rows then .pre cBANKFMT 0
      else
        match run with
        | .error e => .pre e 0
        | .ok r =>
          let ix : Acc := ⟨ib, io, io + 4 + 4 * min cnt 128, false⟩
          let acc : List Acc := [ix, r.acc (rl * min cnt 128) true]
          if f.dir == .wr then .post s cILL 0 false acc
          else
            match x.indexFault ib io (f.dims.getD 1 (0, 0)).1.toNat with
            | some e => .post s e 0 false acc
            | none =>
              if !inBank r.off (r.bytes (rl * cnt)) then .post s cPROT 0 false acc
              else s.gather n r ix is

/-! ### MOVB (R314) -/

/-- MOVB (R314). -/
def execMovb (h : Hdr) (o : LMovb) (s : State) : Out :=
  s.issue h false 0 fun s _ =>
    let x := s.here
    let n := x.lcvc.nm1.toNat + 1
    let term := loopTerm x.l.loops o.bop.sl
    match x.run o.sbank.toNat ((32 * o.soff.toNat : Nat) + term) n, x.run o.bop.bank.toNat ((o.bop.off.toNat : Int) + term) n with
    | .error a, .error b => .pre (if a = cBANKFMT || b = cBANKFMT then cBANKFMT else cPROT) 0
    | .error a, .ok _ => .pre a 0
    | .ok _, .error b => .pre b 0
    | .ok rs, .ok rd =>
      if x.bankPoisoned rs.bank rs.off (rs.bytes n) then .post s cPOISON 0 false [rs.acc n false, rd.acc n true]
      else .done (s.modHere fun x => x.writeVals rd x.lcvc.rm (x.runVals rs n)) [rs.acc n false, rd.acc n true] none

/-! ### FPREF (R315) -/

/-- What the prefetching of a block comes to. -/
inductive Pref where
  | ok (s : State)
  | wait (s : State)

/-- The pages of a block's pieces, each with its physical address; none where some check fails. -/
inductive Pages where
  | ok (s : State) (ps : List Passed)
  | fails (s : State)
  | wait (s : State)

/-- Every piece of a block is checked as a load. -/
def State.checkPieces (s : State) (b : BenchId) : List (W64 × Nat) → Pages
  | [] => .ok s []
  | (va, n) :: ps =>
    match s.check b va.toNat n .read false false with
    | (s, .fault _) => .fails s
    | (s, .wait) => .wait s
    | (s, .ok p) =>
      match s.checkPieces b ps with
      | .ok s l => .ok s (p :: l)
      | r => r

/-- The pages of the pieces of `k` blocks from a position on; a block whose translation fails gives none. -/
def State.checkBlocks (s : State) (b : BenchId) (f : Feed) : Nat → List Nat → Pages
  | 0, _ => .ok s []
  | k + 1, pos =>
    if pos.isEmpty then .ok s []
    else
      let (n, next) := blockAt f.ctl f.dims pos
      match s.checkPieces b (blockPieces f.ctl f.dims f.base pos n) with
      | .wait s => .wait s
      | .fails s => s.checkBlocks b f k next
      | .ok s ps =>
        match s.checkBlocks b f k next with
        | .ok s qs => .ok s (ps ++ qs)
        | r => r

/-- The first of the places that lie in each line. -/
def oncePerLine : List Passed → List Nat → List Passed
  | [], _ => []
  | p :: ps, seen => if seen.contains (p.pa / 128) then oncePerLine ps seen else p :: oncePerLine ps (p.pa / 128 :: seen)

/-- Lines come into L2, or into the RDC; none while one waits. -/
def State.prefetchLines (s : State) (b : BenchId) (sc : Scope) (pri : BitVec 2) : List Passed → Option State
  | [] => some s
  | p :: ps =>
    let local_ := match s.region p.pa with | .mem _ => true | .extent _ r => !r | .host => true | _ => false
    if local_ && p.leaf.cache == 0 then
      match s.fetchLine b p (scopeWiden sc p.leaf.scope) pri true with
      | some (t, _, _) => t.prefetchLines b sc pri ps
      | none => none
    else s.prefetchLines b sc pri ps

/-- The lines of `k` blocks from a position on are fetched, each once, without changing the walk (R315). -/
def State.prefetchBlocks (s : State) (b : BenchId) (f : Feed) (pri : BitVec 2) (k : Nat) (pos : List Nat) : Pref :=
  match s.checkBlocks b f k pos with
  | .wait s => .wait s
  | .fails s => .ok s
  | .ok s ps => match s.prefetchLines b f.scope pri (oncePerLine ps []) with | some t => .ok t | none => .wait s

/-- What an FPREF brings into the caches (R315). -/
def State.prefetch (s : State) (o : LPref) : Pref :=
  let f := s.here.feed o.feed.toNat
  if f.dir == .rd || f.dir == .unused then s.prefetchBlocks s.cur.bench f o.pri (o.nm1.toNat + 1) f.fetchPos.1 else .ok s

/-- FPREF (R315). -/
def execFpref (h : Hdr) (o : LPref) (s : State) : Out :=
  s.issue h false 0 fun s _ =>
    match s.prefetch o with
    | .ok t => .done t [] none
    | .wait _ => .ask fun s => match s.prefetch o with | .ok t => t | .wait t => t

/-! ### L's registers -/

/-- The BFMT word that BFSET writes (R49, R316). -/
def bfsetWord (o : LBfset) : W32 := 0#22 ++ bit o.vlock ++ bit o.dith ++ 0#1 ++ o.frame ++ o.fmt

/-- A BFMT write that R50 refuses. -/
def bfsetRefused (old new : W32) : Bool :=
  fmtReserved (bfFmt new) || (bfDith new && !fmtDithers (bfFmt new)) || (bfLock old && (old ^^^ new) &&& 0xFFFFFDFF#32 != 0)

/-- BFSET (R50, R316). -/
def execBfset (h : Hdr) (o : LBfset) (s : State) : Out :=
  s.issue h false 0 fun s _ =>
    let n := o.bank.toNat
    if bfsetRefused (s.here.bf n) (bfsetWord o) then .post s cBANKFMT 0 false [⟨n, 0, 0x20000, true⟩]
    else .done (s.modHere fun x => { x with bfmt := vset x.bfmt n (bfsetWord o) }) [⟨n, 0, 0x20000, true⟩] none

/-- LSET of a stride (R313). -/
def execLset (h : Hdr) (o : StrideSet) (s : State) : Out := s.strideWord h o

/-- LSET of the conversion control (R313). -/
def execLsetCvc (h : Hdr) (o : Cvc) (s : State) : Out :=
  s.issue h false 0 fun s _ => .done (s.modHere fun x => { x with lcvc := ⟨false, o.rm, o.nm1⟩ }) [] none

/-- LOOP of L (R317). -/
def execLLoop (h : Hdr) (o : LoopOp) (s : State) : Out := s.loopWord h o
/-- ENDL of L (R317). -/
def execLEndl (h : Hdr) (lvl : BitVec 3) (s : State) : Out := s.endlWord h lvl
/-- RDV of L (R317). -/
def execLRdv (h : Hdr) (s : State) : Out := s.rdvWord h

end Sys2Proof.Machine
end

