-- ==== Sys2Proof/Machine/PlaneNum.lean ====
section
/-! DEFINITION. The plane's arithmetic: profiles (R236 to R238), the step (R218 to R226), checksums (R270, R271), halo
bands and their merge (R231 to R234), draining (R257), and loading of sheet and weights (R248 to R252). -/

namespace Sys2Proof.Machine

/-! ### Geometry (R218, R219, R231) -/

/-- EH of a PGEO. -/
def geoEH (g : W32) : Nat := (g.extractLsb' 4 4).toNat + 1
/-- EW of a PGEO. -/
def geoEW (g : W32) : Nat := (g.extractLsb' 0 4).toNat + 1
/-- AXIS of a PGEO: the run tiles y. -/
def geoY (g : W32) : Bool := g.getLsbD 8
/-- HASLO or HASHI of a PGEO. -/
def geoHas (g : W32) (hi : Bool) : Bool := if hi then g.getLsbD 13 else g.getLsbD 12
/-- The output bounds BW, BE, BN, BS of a PGEO. -/
def geoBW (g : W32) : Nat := (g.extractLsb' 14 3).toNat
def geoBE (g : W32) : Nat := (g.extractLsb' 17 3).toNat
def geoBN (g : W32) : Nat := (g.extractLsb' 20 3).toNat
def geoBS (g : W32) : Nat := (g.extractLsb' 23 3).toNat
/-- The extent along the run axis, and across it. -/
def geoAlong (g : W32) : Nat := if geoY g then geoEH g else geoEW g
def geoAcross (g : W32) : Nat := if geoY g then geoEW g else geoEH g

/-- A PGEO value that R220 accepts at a position. -/
def geoOk (g : W32) (pos : Nat) : Bool :=
  g.extractLsb' 26 6 == 0 && g.extractLsb' 9 3 == 0
    && [geoBW g, geoBE g, geoBN g, geoBS g].all (fun b => decide (b ≤ 4))
    && !(geoHas g false && pos == 0) && !(geoHas g true && pos == 7)
    && !(geoHas g false && (if geoY g then geoBN g else geoBW g) != 0)
    && !(geoHas g true && (if geoY g then geoBS g else geoBE g) != 0)
    && !((geoHas g false || geoHas g true) && decide (geoAlong g < 4))

/-- A home lies in the core or the ring (R218). -/
def isHome (g : W32) (y x : Int) : Bool :=
  decide (-4 ≤ y ∧ y < geoEH g + 4 ∧ -4 ≤ x ∧ x < geoEW g + 4)

/-- The home and the layer of an entry of A. -/
def cellY (i : Nat) : Int := (i / 192 : Nat) - 4
def cellX (i : Nat) : Int := (i / 8 % 24 : Nat) - 4
def cellZ (i : Nat) : Nat := i % 8

/-- The entry of a home's layer. -/
def cellAt (y x : Int) (z : Nat) : Nat := ((y + 4).toNat * 24 + (x + 4).toNat) * 8 + z

/-- The accumulators after an update of each home of the core and the ring. -/
def updCells (g : W32) (a : Vector (BitVec 48) 4608) (f : Int → Int → Nat → BitVec 48 → BitVec 48) : Vector (BitVec 48) 4608 :=
  Vector.ofFn fun i : Fin 4608 =>
    if isHome g (cellY i) (cellX i) then f (cellY i) (cellX i) (cellZ i) a[i] else a[i]

/-- Layers of a mask set to zero (R254). -/
def zeroLayers (g : W32) (m : Byte) (a : Vector (BitVec 48) 4608) : Vector (BitVec 48) 4608 :=
  updCells g a fun _ _ z c => if m.getLsbD z then 0 else c

/-! ### Profiles (R236 to R238) -/

/-- A float cell (R223). -/
def cellF (w : W32) : BitVec 48 := w.setWidth 48
/-- The F32 value of a cell (R223). -/
def cellVal (c : BitVec 48) : Val := valF32 (c.setWidth 32)
/-- The value of a cell read by kind. -/
def cellOf (float : Bool) (c : BitVec 48) : Val := if float then cellVal c else .ofInt c.toInt
/-- sat48. -/
def sat48 (x : Int) : BitVec 48 := BitVec.ofInt 48 (clampInt (-2 ^ 47) (2 ^ 47 - 1) x)
/-- A value of the integer kind. -/
def valInt : Val → Int
  | .fin s m e => if 0 ≤ e then scaleTo 0 s m e else 0
  | _ => 0

/-- The exact products of a sheet cell and a weight row. -/
def products (s w : List Val) : List Val := (s.zip w).map fun p => p.1.mul p.2

/-- The sum of the finite terms, each truncated toward zero to a multiple of 2^q, in units of 2^q. -/
def truncSum (q : Int) : List Val → Int
  | [] => 0
  | .fin s m e :: l =>
    let n : Int := (roundAt .rtz s m e q).1
    (if s then -n else n) + truncSum q l
  | _ :: l => truncSum q l

/-- The greatest leading exponent of the nonzero finite terms, from a start. -/
def maxTop : List Val → Int → Int
  | [], E => E
  | .fin _ 0 _ :: l, E => maxTop l E
  | .fin _ m e :: l, E => maxTop l (if E < topExp m e then topExp m e else E)
  | _ :: l, E => maxTop l E

/-- win(terms, G) of R237 as a value, with the sticky addend of profile 1; a zero takes its sign by R238. -/
def winVal (md : RMode) (terms : List Val) (G : Nat) (sticky : Bool) : Val :=
  match terms.filter fun t => !t.isZero with
  | [] => sumVals md terms
  | t :: ts =>
    let E : Int := match t with | .fin _ m e => maxTop ts (topExp m e) | _ => 0
    let q := E - G
    let T := truncSum q terms
    let q0 := minExp (t :: ts) q
    let X := sumAt q0 terms
    let R := X - T * 2 ^ (q - q0).toNat
    let n := if sticky then 4 * T + R.sign else T
    if n = 0 then (if X = 0 then sumVals md terms else .fin (decide (X < 0)) 0 0)
    else .fin (decide (n < 0)) n.natAbs (if sticky then q - 2 else q)

/-- Neighbours added in F32 under RNE. -/
def pairSums : List Val → List Val
  | a :: b :: l => valF32 (roundF32 .rne (sumVals .rne [a, b])) :: pairSums l
  | l => l

/-- A pairwise tree of F32 additions (profile 2). -/
def pairTree : Nat → List Val → Val
  | 0, l => l.headD .zero
  | k + 1, l => if l.length ≤ 1 then l.headD .zero else pairTree k (pairSums l)

/-- The exact sum of profile 3. -/
def intSum (c : BitVec 48) (s w : List Val) : Int := c.toInt + ((s.zip w).map fun t => valInt t.1 * valInt t.2).sum

/-- profile_sum of R237; the integer profile saturates. -/
def profileSum (p : BitVec 6) (md : RMode) (c : BitVec 48) (s w : List Val) : BitVec 48 :=
  if p = 3 then sat48 (intSum c s w)
  else
    let a := cellVal c
    let t := products s w
    let md := if p = 4 then md else .rne
    let round (v : Val) : BitVec 48 := cellF (roundF32 md v)
    if (a :: t).any (fun v => v.isNan || v.isInf) then round (sumVals md (a :: t))
    else match p.toNat with
      | 0 => round (winVal .rne (a :: t) 58 false)
      | 2 => round (sumVals .rne [a, pairTree 4 (t.map fun v => valF32 (roundF32 .rne v))])
      | 5 => round (sumVals .rne [a, valF32 (roundF32 .rne (winVal .rne t 58 false))])
      | _ => round (winVal md (a :: t) 90 true)

/-- The profile fits the kind of a format (R236). -/
def profOk (p : BitVec 6) (fmt : BitVec 4) : Bool := decide (p.toNat < 6) && (fmtIsInt fmt == (p == 3))

/-! ### Operand registers -/

/-- The `D` values of a cell as an instruction of a kind reads them: values loaded as another kind or D are free
(R251, log entry 13). -/
def PCell.read (c : PCell) (float : Bool) (D base : Nat) : List Val :=
  if c.d = 0 then List.replicate D .zero
  else if c.float = float ∧ c.d = D then c.vals
  else (upTo D).map fun d =>
    let w := Config.freeOperand (base + d)
    if float then valF32 w else .ofInt (signedNat 16 w.toNat)

/-- A step's operands: kind, D, and where the free values of this instruction begin. -/
structure Opnd where
  float : Bool
  d : Nat
  base : Nat

/-- A sheet register's values by row and column. -/
def Opnd.sheet (o : Opnd) (sh : Vector PCell 256) (y x : Nat) : List Val :=
  (vget sh (16 * y + x) .zero).read o.float o.d (o.base + 8 * (16 * y + x))
/-- A layer's weights. -/
def Opnd.weight (o : Opnd) (w : Vector PCell 8) (z : Nat) : List Val :=
  (vget w z .zero).read o.float o.d (o.base + 2048 + 8 * z)

/-! ### Checksums (R270, R271) -/

/-- An entry of a checksum vector for column or row `k` and a layer. -/
def sumIdx (k : Int) (z : Nat) : Nat := 8 * (k + 4).toNat + z

/-- The homes of a row or column of the core and the ring, from -4 on. -/
def ringSpan (n : Nat) : List Int := (upTo (n + 8)).map fun (k : Nat) => Int.ofNat k - 4

/-- A sum kept as its kind keeps it: exact, or in the 96-bit window of profile 1 (R270). -/
def keepSum (float : Bool) (terms : List Val) : Val :=
  if float && !terms.any (fun v => v.isNan || v.isInf) then winVal .rne terms 90 true else sumVals .rne terms

/-- The cells of a column of a layer, and of a row. -/
def colCells (g : W32) (a : Vector (BitVec 48) 4608) (x : Int) (z : Nat) : List (BitVec 48) :=
  (ringSpan (geoEH g)).map fun y => vget a (cellAt y x z) 0
def rowCells (g : W32) (a : Vector (BitVec 48) 4608) (y : Int) (z : Nat) : List (BitVec 48) :=
  (ringSpan (geoEW g)).map fun x => vget a (cellAt y x z) 0

/-- Every entry of a checksum vector with a column (or row) of the extent, changed. -/
def updSums (n : Nat) (v : Vector Val 192) (f : Int → Nat → Val → Val) : Vector Val 192 :=
  Vector.ofFn fun i : Fin 192 => if i.val / 8 < n + 8 then f ((i.val / 8 : Nat) - 4) (i.val % 8) v[i] else v[i]

/-- Checksum sets without a tile's history. -/
def Checks.fresh : Checks :=
  ⟨Vector.replicate 192 .zero, Vector.replicate 192 .zero, Vector.replicate 192 .zero, Vector.replicate 192 .zero, 0, 0, 0, none⟩

/-- The sets formed from the current cells read by a kind (R270; the kind is that of the first step or merge). -/
def Checks.form (k : Checks) (g : W32) (a : Vector (BitVec 48) 4608) (float : Bool) : Checks :=
  if k.float = some float then k
  else
    let v (c : BitVec 48) : Val := cellOf float c
    { k with
      cc := updSums (geoEW g) k.cc fun x z _ => keepSum float ((colCells g a x z).map v)
      cr := updSums (geoEH g) k.cr fun y z _ => keepSum float ((rowCells g a y z).map v)
      mc := updSums (geoEW g) k.mc fun x z _ => keepSum float ((colCells g a x z).map fun c => (v c).abs)
      mr := updSums (geoEH g) k.mr fun y z _ => keepSum float ((rowCells g a y z).map fun c => (v c).abs)
      float := some float }

/-- Terms are added to the sets, as one step or merge (R270, R271): `col x z` and `row y z` give the terms of a column and of a row.
DESIGN CHOICE (R270 does not say whose magnitudes): MC and MR take the magnitude of each term, so that of each cell's product or partial,
and not the magnitude of the products of a row sum or of a band's sum (log entry 65). -/
def Checks.add (k : Checks) (g : W32) (float : Bool) (col row : Int → Nat → List Val) : Checks :=
  let abs (l : List Val) : List Val := l.map Val.abs
  { k with
    cc := updSums (geoEW g) k.cc fun x z v => keepSum float (v :: col x z)
    cr := updSums (geoEH g) k.cr fun y z v => keepSum float (v :: row y z)
    mc := updSums (geoEW g) k.mc fun x z v => keepSum float (v :: abs (col x z))
    mr := updSums (geoEH g) k.mr fun y z v => keepSum float (v :: abs (row y z))
    n := k.n + 1 }

/-- The sets of some layers are zero (R270). -/
def Checks.zero (k : Checks) (m : Byte) : Checks :=
  let z (v : Vector Val 192) : Vector Val 192 := Vector.ofFn fun i : Fin 192 => if m.getLsbD (i.val % 8) then .zero else v[i]
  { k with cc := z k.cc, cr := z k.cr, mc := z k.mc, mr := z k.mr }

/-- The layers of which a cell saturates: `sum` gives the exact new value of a home's cell, if it takes one (R271). -/
def satLayers (g : W32) (sum : Int → Int → Nat → Option Int) : BitVec 8 :=
  bitsFrom 8 fun z => (ringSpan (geoEH g)).any fun y => (ringSpan (geoEW g)).any fun x =>
    match sum y x z with
    | some v => decide (v < -2 ^ 47 ∨ 2 ^ 47 ≤ v)
    | none => false

/-- log2 of 1/τ: the largest τ of the profiles used (R271). A tile whose layers have been merged and not stepped has used no profile:
DESIGN CHOICE, τ is then 2^-23, whatever the profile register holds (log entry 57). -/
def tauExp (profs : BitVec 6) : Nat :=
  if profs.getLsbD 2 || profs.getLsbD 5 then 21 else if profs.getLsbD 0 || profs.getLsbD 4 then 22 else 23

/-- An observed and a predicted sum agree (R271). -/
def Checks.agree (k : Checks) (float : Bool) (o p m : Val) : Bool :=
  if float then !((Val.ofInt (k.n + 2)).mul ((Val.fin false 1 (-(tauExp k.profs : Int))).mul m)).lt (sumVals .rne [o, p.neg]).abs
  else o.eqv p

/-- The layers of a mask agree with their checksums (R258, R271). -/
def Checks.pass (k : Checks) (g : W32) (a : Vector (BitVec 48) 4608) (m : Byte) : Bool :=
  match k.float with
  | none => true
  | some float =>
    (upTo 8).all fun z =>
      let v (c : BitVec 48) : Val := cellOf float c
      let cols := (ringSpan (geoEW g)).map fun x =>
        (sumVals .rne ((colCells g a x z).map v), vget k.cc (sumIdx x z) .zero, vget k.mc (sumIdx x z) .zero)
      let rows := (ringSpan (geoEH g)).map fun y =>
        (sumVals .rne ((rowCells g a y z).map v), vget k.cr (sumIdx y z) .zero, vget k.mr (sumIdx y z) .zero)
      let all := cols ++ rows
      let special (x : Val) : Bool := x.isNan || x.isInf
      !m.getLsbD z || (if float then all.any (fun t => special t.1 || special t.2.1) else k.sat.getLsbD z)
        || all.all fun t => k.agree float t.1 t.2.1 t.2.2

/-! ### The step (R221) -/

/-- The sheet cell beneath a home, if one lies there. -/
def beneath (g : W32) (oy ox y x : Int) : Option (Nat × Nat) :=
  if 0 ≤ y + oy ∧ y + oy < geoEH g ∧ 0 ≤ x + ox ∧ x + ox < geoEW g then some ((y + oy).toNat, (x + ox).toNat) else none

/-- step(S, Wb, p, oy, ox) of R221, with its effect on the checksums (R270). -/
def PRegs.step (r : PRegs) (g : W32) (o : Opnd) (sh : Vector PCell 256) (p : BitVec 6) (md : RMode) (oy ox : Int) : PRegs :=
  let terms (y x : Int) (z : Nat) : List Val :=
    match beneath g oy ox y x with
    | some (sy, sx) => products (o.sheet sh sy sx) (o.weight r.w z)
    | none => []
  let a := updCells g r.a fun y x z c =>
    match beneath g oy ox y x with
    | some (sy, sx) => profileSum p md c (o.sheet sh sy sx) (o.weight r.w z)
    | none => c
  let checks := r.checks.map fun k =>
    let k := (k.form g r.a o.float).add g o.float
      (fun x z => (ringSpan (geoEH g)).flatMap fun y => terms y x z) (fun y z => (ringSpan (geoEW g)).flatMap fun x => terms y x z)
    let sat := satLayers g fun y x z => (beneath g oy ox y x).map fun c =>
      intSum (vget r.a (cellAt y x z) 0) (o.sheet sh c.1 c.2) (o.weight r.w z)
    { k with sat := if o.float then k.sat else k.sat ||| sat, profs := k.profs ||| BitVec.ofNat 6 (2 ^ p.toNat) }
  { r with a := a, checks := checks, seg := r.seg.map fun q => { q with seen := q.seen + 1 } }

/-! ### Halo bands (R231 to R234) -/

/-- The home at index `k` along the run axis and `j` across it. -/
def runHome (g : W32) (k j : Int) : Int × Int := if geoY g then (k, j) else (j, k)

/-- The Sent band of a side (R231, R255). -/
def sentBand (g : W32) (a : Vector (BitVec 48) 4608) (hi : Bool) : Band :=
  let base : Int := if hi then geoAlong g else -4
  ⟨(upTo 8).flatMap fun z => (upTo 4).flatMap fun (k : Nat) => (ringSpan (geoAcross g)).map fun j =>
    let h := runHome g (base + (k : Int)) j
    (z, k, j, vget a (cellAt h.1 h.2 z) 0)⟩

/-- The partial of a band for a home, if it holds one (R220, R234). -/
def Band.partial_ (b : Band) (g : W32) (hi : Bool) (y x : Int) (z : Nat) : Option (BitVec 48) :=
  let along := if geoY g then y else x
  let across := if geoY g then x else y
  let base : Int := if hi then (geoAlong g : Int) - 4 else 0
  if base ≤ along ∧ along < base + 4 then
    (firstWhere (fun c => c.1 == z && c.2.1 == (along - base).toNat && c.2.2.1 == across) b.cells).map fun c => c.2.2.2
  else none

/-- One band is added into the owner's cells (R234, R270). R271 does not say whether the bands of two sides that one PHRECV adds are one
merge or two: DESIGN CHOICE, each band counts as one in n (log entry 57). -/
def PRegs.merge (r : PRegs) (g : W32) (float : Bool) (md : RMode) (hi : Bool) (b : Band) : PRegs :=
  let one (y x : Int) (z : Nat) : List Val :=
    match b.partial_ g hi y x z with | some p => [cellOf float p] | none => []
  let a := updCells g r.a fun y x z c =>
    match b.partial_ g hi y x z with
    | none => c
    | some p => if float then cellF (roundF32 md (sumVals md [cellVal c, cellVal p])) else sat48 (c.toInt + p.toInt)
  let checks := r.checks.map fun k =>
    let k := (k.form g r.a float).add g float
      (fun x z => (ringSpan (geoEH g)).flatMap fun y => one y x z) (fun y z => (ringSpan (geoEW g)).flatMap fun x => one y x z)
    let sat := satLayers g fun y x z => (b.partial_ g hi y x z).map fun p => (vget r.a (cellAt y x z) 0).toInt + p.toInt
    { k with sat := if float then k.sat else k.sat ||| sat }
  { r with a := a, checks := checks }

/-! ### Draining (R257) -/

/-- The drained values in the order of their elements. -/
def drainVals (g : W32) (a : Vector (BitVec 48) 4608) (o : PDrainOp) : List Val :=
  let H := geoBN g + geoEH g + geoBS g
  let W := geoBW g + geoEW g + geoBE g
  let nz := o.zhi.toNat - o.zlo.toNat + 1
  (upTo (H * W * nz)).map fun e =>
    let (c, z) := if o.lay then (e % (H * W), e / (H * W)) else (e / nz, e % nz)
    let y : Int := (c / W : Nat) - (geoBN g : Int)
    let x : Int := (c % W : Nat) - (geoBW g : Int)
    cellOf (o.prof != 3) (vget a (cellAt y x (o.zlo.toNat + z)) 0)

/-! ### Reading banks (R217, R248 to R252) -/

/-- The bytes of elements `lo` to `hi - 1` of a run, as an offset and a length. -/
def Run.part (r : Run) (lo hi : Nat) : Nat × Nat :=
  let b := fmtBlock r.fmt
  let w := fmtBits r.fmt
  let (i, j) := if fmtIsD r.fmt then (lo / 32 * b, (hi + 31) / 32 * b) else (lo * w / 8, (hi * w + 7) / 8)
  (r.off + i, j - i)

/-- A bank operand of an instruction with a format (R222, R243): its run, or BANKFMT; the caller checks the bank's
bounds after every operand's format. -/
def bankFmtOk (cap : PCap) (o : Bop) (fmt : BitVec 4) : Bool :=
  let w := vget cap.bfmt o.bank.toNat 0
  !fmtReserved (bfFmt w) && fmtD (bfFmt w) == fmtD fmt && fmtIsInt (bfFmt w) == fmtIsInt fmt
    && offsetOk (bfFmt w) (frameBase (vget cap.frames (bfFrame w) 0)) (bopOffset cap.loops o)

/-- The run of a bank operand as captured. -/
def PCap.run (cap : PCap) (o : Bop) (n : Nat) : Except Byte Run :=
  runAt cap.bfmt cap.frames o.bank.toNat (bopOffset cap.loops o) n

/-- Cells of `D` values from a list. -/
def cellOfVals (float : Bool) (D : Nat) (vs : List Val) : PCell := ⟨float, D, padTo D .zero (vs.take D)⟩

/-- Weight block `t` of a run's values (R249). -/
def weightBlock (float : Bool) (D t : Nat) (vs : List Val) : Vector PCell 8 :=
  Vector.ofFn fun z : Fin 8 => cellOfVals float D (vs.drop ((8 * t + z) * D))

/-- A sheet register filled within the extent (R248): element y · rp + x · D + d of the values. -/
def fillSheet (g : W32) (sh : Vector PCell 256) (float : Bool) (D : Nat) (val : Nat → Nat → Nat → Val) : Vector PCell 256 :=
  Vector.ofFn fun i : Fin 256 =>
    if i.val / 16 < geoEH g ∧ i.val % 16 < geoEW g then
      ⟨float, D, (upTo D).map fun d => val (i.val / 16) (i.val % 16) d⟩
    else sh[i]

end Sys2Proof.Machine
end

