-- ==== Sys2Proof/Machine/Plane.lean ====
section
/-! DEFINITION. The plane engine's instructions (R239 to R264): tiles and their replay window (R242, R245, R265 to R268),
segments (R261), and one meaning for each P word. -/

namespace Sys2Proof.Machine

/-! ### The plane of the turn -/

/-- The plane of the turn. -/
def State.plane (s : State) : Plane := s.here.plane
/-- Change the plane of the turn. -/
def State.modPlane (s : State) (f : Plane → Plane) : State := s.modHere fun x => x.modPlane f
/-- Change the registers of the plane of the turn. -/
def State.modRegs (s : State) (f : PRegs → PRegs) : State := s.modPlane fun p => { p with regs := f p.regs }

/-- The tenant of the team of the turn. -/
def State.tenantNo (s : State) : Nat := match s.here.team with | some t => t.tenant.toNat | none => 0

/-- The bench `k` positions away, if a team of the same hitch holds it (R275). -/
def State.mate (s : State) (b : BenchId) (k : Int) : Option BenchId :=
  match neighbour b k with
  | none => none
  | some n =>
    match (s.bench n).team, (s.bench b).team with
    | some t, some u => if t.seq = u.seq then some n else none
    | _, _ => none

/-! ### Segments (R261) -/

/-- The observations of a segment agree with what PSEG named. -/
def Seg.ok (q : Seg) : Bool :=
  (q.steps == 0xFFFFFF || q.steps.toNat == q.seen) && BitVec.ofNat 32 (q.crc ^^^ 0xFFFFFFFF) == q.sig

/-- A reached word enters the signature of the open segment. -/
def State.crcWord (s : State) (w : W128) : State :=
  s.modRegs fun r => { r with seg := r.seg.map fun q => { q with crc := crcBytes q.crc (leBytes 16 w.toNat) } }

/-! ### Replay (R267, R268) -/

/-- The tile returns to its PTILE; what P itself has waited for ends (R269), and the steps of an instruction that has not
completed are taken again. -/
def State.startReplay (s : State) : State :=
  (s.modPlane fun p =>
    { p with regs := p.point.getD p.regs, replay := some 0, sendLo := none, sendHi := none, error := p.error &&& 0b110000 }).modHere fun x =>
    x.modEng .p fun e => { e with wait := none, step := 0 }

/-- A correctable event of the open tile: the first replays the tile, which writes A, the sheets and W again, but neither the receive
buffers nor the window, so that an error there is found again; a later one is held. `found` are the places of a storage error: DESIGN
CHOICE, one that has been found and held is there no more (log entry 28). -/
def State.tileEvent (s : State) (code : Byte) (found : BitVec 6) : State :=
  if s.plane.replayed then (s.modPlane fun p => { p with error := p.error &&& ~~~found }).hold code 0 false
  else
    (s.logErr (dieOf s.cur.bench) 0 5 s.tenantNo).startReplay.modPlane fun p => { p with replayed := true }

/-- The parts of the plane's state that an instruction reads, by the places of `Plane.error` (R267): the halo words only with a
neighbour, the checks only in a tile that forms checksums (R256, R258). -/
def Plane.readsOf (p : Plane) (i : Instr) : BitVec 6 :=
  let halo := geoHas p.pgeo false || geoHas p.pgeo true
  match i with
  | .ptile _ _ => 0b001111
  | .pcorr _ o => 1 ||| (if o.sh then 4 else 2) ||| (if o.wsrc then 8 else 0)
  | .pmm _ _ => 1
  | .phsend _ => if halo then 1 else 0
  | .phrecv _ => if halo then 0b010001 else 0
  | .pdrain _ _ => 1
  | .pchk _ _ => if p.chk then 1 else 0
  | .pcommit _ => if p.chk then 1 else 0
  | _ => 0

/-- The parts that an instruction writes whole (R248 to R254): a sheet or A only where the extents leave no cell out. -/
def planeWrites (g : W32) (i : Instr) : BitVec 6 :=
  let all := geoEH g == 16 && geoEW g == 16
  match i with
  | .psheet _ o => if !all then 0 else if o.sh then 4 else 2
  | .pwgt _ _ => 8
  | .pcorr _ o => if o.wsrc then 0 else 8
  | .pmm _ o => 8 ||| (if !all then 0 else if o.km1.toNat < fmtD o.fmt then 2 else 6)
  | .pzero _ m => if all && m == 0xFF then 1 else 0
  | _ => 0

/-- A storage error has been found on the read of an instruction in the tile, at the places `found`, or a check has failed: the first
replays the tile, and the instruction then goes on (R267); it has issued, and holds its ranges (R264). -/
def State.mismatch (s : State) (found : BitVec 6) (acc : List Acc) : Eff :=
  if s.plane.replayed then .post (s.modPlane fun p => { p with error := p.error &&& ~~~found }) cCHKSUM 0 false acc
  else .stay (s.tileEvent cCHKSUM found) [] none acc

/-- What an instruction of the tile comes to when the state that it reads holds a storage error: a fault before issue comes first, and
one that still waits has read nothing (R243, R267). R243 and R267 give no order to a storage error and to POISON that one instruction
finds: DESIGN CHOICE, the storage error comes first (log entry 28). -/
def State.foundError (s : State) (found : BitVec 6) (r : Eff) : Eff :=
  match r with
  | .post _ _ _ _ acc => s.mismatch found acc
  | .stay _ _ none acc => s.mismatch found acc
  | .done _ acc _ => s.mismatch found acc
  | r => r

/-- A storage error outside a tile is logged (R267). R267 does not say whether it is still there after an ABANDON when nothing has written
the place again: DESIGN CHOICE, it is not, and the next PTILE issues (log entry 28). -/
def State.logStorage (s : State) : State :=
  (s.logErr (dieOf s.cur.bench) 0 2 s.tenantNo).modPlane fun p => { p with error := 0 }

/-- What an instruction outside a tile comes to then: CHKSUM, and it does not issue (R267). -/
def foundOutside (r : Eff) : Eff :=
  match r with
  | .done _ _ _ => .preDo State.logStorage cCHKSUM
  | r => r

/-! ### The issue of a P word (R242, R243, R245) -/

/-- Where an instruction may stand (R241). -/
inductive Place where
  | inside | outside | any
  deriving DecidableEq, Repr

/-- An instruction in the tile joins the replay window; its word enters the signature if a segment was open before it. -/
def State.pDone (s : State) (i : Instr) (cap : PCap) (wasOpen : Bool) (acc : List Acc) : State :=
  let s := if wasOpen then s.crcWord s.cur.word else s
  let s := s.modPlane fun p => { p with error := p.error &&& ~~~planeWrites p.pgeo i }
  if s.plane.tile then
    (s.record acc).modPlane fun p =>
      { p with window := p.window ++ [⟨i, s.cur.word, s.cur.pc, p.skips, cap⟩], skips := [] }
  else s

/-- The word of the turn is reached and skipped: it enters the signature of an open segment (R261). -/
def State.skipWord (s : State) : State :=
  (s.crcWord s.cur.word).modPlane fun p => if p.tile then { p with skips := p.skips ++ [s.cur.word] } else p

/-- A word of P is reached: it enters the signature of an open segment at once if it is skipped (R44, R261). -/
def State.reachWord (s : State) (h : Hdr) : State := if !s.myEng.issued && hdrSkips h s.myEng then s.skipWord else s

/-- The turn of a P word. R242 and R243 give no order between TILEWIN and the other faults: DESIGN CHOICE, an instruction that would be the
65th of the tile raises TILEWIN before every fault but that of its placement (log entry 54). -/
def State.pWord (s : State) (h : Hdr) (i : Instr) (place : Place) (ending loopWord : Bool) (nq : Nat)
    (body : PCap → State → List W64 → Eff) : Out :=
  let p := s.plane
  if ending && !(match p.regs.seg with | some q => q.ok | none => true) then
    .next (if p.tile then s.tileEvent cSEGSIG 0 else s.hold cSEGSIG 0 false)
  else
    let s := if ending then s.modRegs fun r => { r with seg := none } else s
    (s.reachWord h).issue h loopWord nq fun s ents =>
      if (place == .inside && !p.tile) || (place == .outside && p.tile) then .pre cILL 0
      else if p.tile && decide (64 ≤ p.window.length) then .pre cTILEWIN 0
      else
        let r := body s.cap s ents
        if p.error &&& p.readsOf i != 0 then (if p.tile then s.foundError (p.error &&& p.readsOf i) r else foundOutside r)
        else
          match r with
          | .done t acc pc => .done (t.pDone i s.cap s.plane.regs.seg.isSome acc) acc pc
          | r => r

/-- Steps of an instruction of the plane, `n` in all: as many as the die's duty allows in this window of 16 clk; the others wait for
the next (R458). The instruction takes its effect with the last. -/
def State.stepping (s : State) (n : Nat) (acc : List Acc) (go : State → Eff) : Eff :=
  let p := s.plane
  let used := if p.stepWin = s.clk / 16 then p.stepUsed else 0
  let left := n - s.myEng.step
  let k := min left ((s.die (dieOf s.cur.bench)).duty.toNat - used)
  let s := s.modPlane fun p => { p with stepWin := s.clk / 16, stepUsed := used + k }
  if k = left then go s else .stay (s.modMyEng fun e => { e with step := e.step + k }) [] none acc

/-! ### Opening and closing a tile -/

/-- PTILE opens the tile (R246): PGEO, the flags of a new tile, and the checksums; a home that comes into the ring holds
a free value (R218, log entry 12). -/
def State.openTile (s : State) (g : W32) (chk : Bool) : State :=
  let free := s.free
  { (s.modPlane fun p =>
      let a : Vector (BitVec 48) 4608 := Vector.ofFn fun i : Fin 4608 =>
        if isHome g (cellY i) (cellX i) && !isHome p.pgeo (cellY i) (cellX i) then Config.freeCell (free + i.val) else p.regs.a[i]
      let regs := { p.regs with a := a, checks := if chk then some .fresh else none }
      { p with
        regs := regs
        pgeo := g
        tile := true
        chk := chk
        point := some regs
        window := []
        skips := []
        replay := none
        replayed := false
        gives := []
        sendLo := none
        sendHi := none
        rxUsed := false
        sent := false
        error := p.error &&& 0b011111 }) with
    free := s.free + 4608 }

/-- The body of PTILE; a replay has restored its effect (R245, R246, R267). -/
def bodyPtile (o : PTileOp) (_ : PCap) (s : State) : Eff :=
  let g : W32 := o.geo.setWidth 32
  if s.plane.replay.isSome then .done s [] none
  else if !geoOk g (posOf s.cur.bench) then .pre cILL 0
  else .done (s.openTile g o.chk) [] none

/-- PTILE (R246). A storage error found outside a tile is held, and the PTILE does not issue (R267). -/
def execPtile (h : Hdr) (o : PTileOp) (s : State) : Out :=
  s.pWord h (.ptile h o) .outside false false 0 fun cap s _ => bodyPtile o cap s

/-- A band lands in a receive buffer of a bench, and its reservation is used up (R233). -/
def Bench.landBand (x : Bench) (hi : Bool) (band : Band) : Bench :=
  x.modPlane fun p =>
    if hi then { p with rxHi := some band, rxHiResv := false } else { p with rxLo := some band, rxLoResv := false }

/-- A captured band leaves for the neighbour: on the span link, or there at once (R232, R233, R247). -/
def State.sendBand (s : State) (hi : Bool) : Option Band → State
  | none => s
  | some band =>
    match s.mate s.cur.bench (if hi then 1 else -1) with
    | none => s
    | some n =>
      if s.cur.late then { s with bands := s.bands ++ [(n, !hi, band)] } else s.modBench n fun x => x.landBand (!hi) band

/-- The replay window is gone, and so are the receive buffers that are empty, with a storage error that they held. -/
def Plane.forget (p : Plane) : Plane :=
  { p with error := p.error &&& (if p.rxLo.isNone && p.rxHi.isNone then 0b001111 else 0b011111) }

/-- The tile ends: bands leave, consumed bands are freed, ranges end, and the held gives may go (R247, R256). -/
def State.commitTile (s : State) : State :=
  let p := s.plane
  let s := (s.sendBand false p.sendLo).sendBand true p.sendHi
  s.modHere fun x =>
    let gives := (p.gives.filter fun m => m != 0).map fun m => (⟨m, 0, .en, s.cur.word, s.cur.pc, 0⟩ : Give)
    let x := x.modEng .p fun e => { e with gives := e.gives ++ gives }
    let x := { x with ranges := x.ranges.filter fun r => r.st != Stream.p }
    x.modPlane fun p =>
      Plane.forget { p with
        regs := { p.regs with checks := none }
        tile := false
        chk := false
        point := none
        window := []
        skips := []
        replayed := false
        gives := []
        sendLo := none
        sendHi := none
        resvLo := false
        resvHi := false
        rxLo := if p.rxUsed && geoHas p.pgeo false then none else p.rxLo
        rxHi := if p.rxUsed && geoHas p.pgeo true then none else p.rxHi
        rxUsed := false
        sent := false }

/-- The layers of a mask agree with their checksums, if the tile has any (R258, R271). -/
def Plane.checked (p : Plane) (m : Byte) : Bool :=
  match p.regs.checks with
  | some k => k.pass p.pgeo p.regs.a m
  | none => true

/-- PCOMMIT (R247). -/
def execPcommit (h : Hdr) (s : State) : Out :=
  s.pWord h (.pcommit h) .inside true false 0 fun _ s _ =>
    if s.plane.checked 0xFF then .done s.commitTile [] none else s.mismatch 0 []

/-! ### Loading -/

/-- The byte ranges that an instruction reads of a bank, as checked mode records them: no byte between them (R55, R264, log entry 55). -/
def readAccs (bank : Nat) (parts : List (Nat × Nat)) : List Acc := parts.map fun p => ⟨bank, p.1, p.1 + p.2, false⟩

/-- The poison of a read makes a fault after issue (R243, R267); `acc` are the ranges of the instruction. -/
def State.reads (s : State) (bank : Nat) (parts : List (Nat × Nat)) (acc : List Acc) (r : Eff) : Eff :=
  if parts.any fun p => s.here.bankPoisoned bank p.1 p.2 then .post s cPOISON 0 false acc else r

/-- The body of PSHEET (R248): it reads the rows of the sheet, and no byte between them. -/
def bodyPsheet (o : PSheetOp) (cap : PCap) (s : State) : Eff :=
  let g := s.plane.pgeo
  let D := fmtD o.fmt
  let w := geoEW g * D
  let rp := if o.rp = 0 then w else o.rp.toNat
  let n := (geoEH g - 1) * rp + w
  if fmtReserved o.fmt || !bankFmtOk cap o.bop o.fmt then .pre cBANKFMT 0
  else
    match cap.run o.bop n with
    | .error c => .pre c 0
    | .ok r =>
      let parts := (upTo (geoEH g)).map fun y => r.part (y * rp) (y * rp + w)
      s.reads r.bank parts (readAccs r.bank parts) <|
        let vs := s.here.runVals r n
        let fill (sh : Vector PCell 256) := fillSheet g sh (!fmtIsInt o.fmt) D fun y x d => vs.getD (y * rp + x * D + d) .zero
        .done (s.modRegs fun q => if o.sh then { q with sh1 := fill q.sh1 } else { q with sh0 := fill q.sh0 })
          (readAccs r.bank parts) none

/-- PSHEET (R248). -/
def execPsheet (h : Hdr) (o : PSheetOp) (s : State) : Out :=
  s.pWord h (.psheet h o) .inside false false 0 fun cap s _ => bodyPsheet o cap s

/-- The body of PWGT (R249, R250). -/
def bodyPwgt (o : PWgtOp) (cap : PCap) (s : State) : Eff :=
  let D := fmtD o.fmt
  if fmtReserved o.fmt || !bankFmtOk cap o.bop o.fmt then .pre cBANKFMT 0
  else
    match cap.run o.bop (8 * D) with
    | .error c => .pre c 0
    | .ok r =>
      s.reads r.bank [r.part 0 (8 * D)] [r.acc (8 * D) false] <|
        .done (s.modRegs fun q => { q with w := weightBlock (!fmtIsInt o.fmt) D 0 (s.here.runVals r (8 * D)) })
          [r.acc (8 * D) false] none

/-- PWGT (R250). -/
def execPwgt (h : Hdr) (o : PWgtOp) (s : State) : Out :=
  s.pWord h (.pwgt h o) .inside false false 0 fun cap s _ => bodyPwgt o cap s

/-! ### Stepping -/

/-- An offset component that R224 allows. -/
def shiftOk (k : Int) : Bool := decide (-7 ≤ k ∧ k ≤ 7)

/-- The tap offsets of a PCORR in order, base included (R227). -/
def pcorrTaps (o : PCorrOp) (by_ bx : Int) : List (Int × Int) :=
  (upTo (o.khm1.toNat + 1)).flatMap fun (i : Nat) => (upTo (o.kwm1.toNat + 1)).map fun (j : Nat) =>
    (by_ + o.ry.toInt + (i : Int) * (o.dym1.toNat + 1), bx + o.rx.toInt + (j : Int) * (o.dxm1.toNat + 1))

/-- The taps of a PCORR in turn; `blk t` loads tap t's block into W (R227, R251). -/
def runTaps (g : W32) (o : Opnd) (sh : Vector PCell 256) (p : BitVec 6) (md : RMode) (blk : Nat → Vector PCell 8 → Vector PCell 8) :
    List (Int × Int) → Nat → PRegs → PRegs
  | [], _, r => r
  | (oy, ox) :: ts, t, r =>
    runTaps g o sh p md blk ts (t + 1) ({ r with w := blk t r.w }.step g o sh p md oy ox)

/-- The body of PCORR (R227, R251). -/
def bodyPcorr (o : PCorrOp) (cap : PCap) (s : State) : Eff :=
  let p := s.plane
  let D := fmtD o.fmt
  let float := !fmtIsInt o.fmt
  let taps := pcorrTaps o p.regs.by_ p.regs.bx
  let n := taps.length * 8 * D
  let go (s : State) (blk : Nat → Vector PCell 8 → Vector PCell 8) : State :=
    { (s.modPlane fun p =>
        let r := runTaps p.pgeo ⟨float, D, cap.free⟩ (if o.sh then p.regs.sh1 else p.regs.sh0) o.prof (rmodeOf cap.mode) blk
          taps 0 p.regs
        { p with regs := r, prof := o.prof }) with
      free := s.free + 4096 }
  if !taps.all fun t => shiftOk t.1 && shiftOk t.2 then .pre cILL 0
  else if !profOk o.prof o.fmt then .pre cPROFILE 0
  else if fmtReserved o.fmt then .pre cBANKFMT 0
  else if o.wsrc then s.stepping taps.length [] fun s => .done (go s fun _ w => w) [] none
  else if !bankFmtOk cap o.bop o.fmt then .pre cBANKFMT 0
  else
    match cap.run o.bop n with
    | .error c => .pre c 0
    | .ok r =>
      s.reads r.bank [r.part 0 n] [r.acc n false] <| s.stepping taps.length [r.acc n false] fun s =>
        let vs := s.here.runVals r n
        .done (go s fun t _ => weightBlock float D t vs) [r.acc n false] none

/-- PCORR (R251). -/
def execPcorr (h : Hdr) (o : PCorrOp) (s : State) : Out :=
  s.pWord h (.pcorr h o) .inside false false 0 fun cap s _ => bodyPcorr o cap s

/-- The element of slice `t`, cell `c` and depth `d` of a PMM's sheet region (R252). -/
def pmmElem (rp cells D t c d : Nat) : Nat := if rp = 0 then t * cells * D + c * D + d else c * rp + t * D + d

/-- The steps of a PMM from slice `t` on; slice t goes to sheet register t mod 2 (R228, R252). -/
def runSlices (g : W32) (o : Opnd) (rp K : Nat) (p : BitVec 6) (md : RMode) (ss ws : List Val) : Nat → Nat → PRegs → PRegs
  | 0, _, r => r
  | k + 1, t, r =>
    let cells := geoEH g * geoEW g
    let fill (sh : Vector PCell 256) := fillSheet g sh o.float o.d fun y x d =>
      if K ≤ t * o.d + d then .zero else ss.getD (pmmElem rp cells o.d t (y * geoEW g + x) d) .zero
    let r := { r with w := weightBlock o.float o.d t ws }
    let r := if t % 2 = 0 then { r with sh0 := fill r.sh0 } else { r with sh1 := fill r.sh1 }
    runSlices g o rp K p md ss ws k (t + 1) (r.step g o (if t % 2 = 0 then r.sh0 else r.sh1) p md r.by_ r.bx)

/-- The body of PMM (R228, R252): with a row pitch it reads the rows of its sheet region, and no byte between them. -/
def bodyPmm (o : PMmOp) (cap : PCap) (s : State) : Eff :=
  let g := s.plane.pgeo
  let D := fmtD o.fmt
  let float := !fmtIsInt o.fmt
  let K := o.km1.toNat + 1
  let n := (K + D - 1) / D
  let cells := geoEH g * geoEW g
  let rp := o.rp.toNat
  let ns := pmmElem rp cells D ((K - 1) / D) (cells - 1) ((K - 1) % D) + 1
  if !profOk o.prof o.fmt then .pre cPROFILE 0
  else if fmtReserved o.fmt || !bankFmtOk cap o.sop o.fmt || !bankFmtOk cap o.wop o.fmt then .pre cBANKFMT 0
  else
    match cap.run o.sop ns, cap.run o.wop (n * 8 * D) with
    | .error c, _ => .pre c 0
    | _, .error c => .pre c 0
    | .ok rs, .ok rw =>
      let parts := if rp = 0 then [rs.part 0 ns] else (upTo cells).map fun c => rs.part (c * rp) (c * rp + K)
      let acc := readAccs rs.bank parts ++ [rw.acc (n * 8 * D) false]
      s.reads rs.bank parts acc <| s.reads rw.bank [rw.part 0 (n * 8 * D)] acc <|
        s.stepping n acc fun s =>
        let ss := s.here.runVals rs ns
        let ws := s.here.runVals rw (n * 8 * D)
        .done (s.modPlane fun p =>
            { p with regs := runSlices g ⟨float, D, cap.free⟩ rp K o.prof (rmodeOf cap.mode) ss ws n 0 p.regs, prof := o.prof })
          acc none

/-- PMM (R252). -/
def execPmm (h : Hdr) (o : PMmOp) (s : State) : Out :=
  s.pWord h (.pmm h o) .inside false false 0 fun cap s _ => bodyPmm o cap s

/-- The base shift moves (R224, R253). -/
def State.shiftTo (s : State) (sy sx : Int) : Eff :=
  if shiftOk sy && shiftOk sx then .done (s.modRegs fun r => { r with by_ := sy, bx := sx }) [] none else .pre cILL 0

/-- The body of PSHIFT (R253). -/
def bodyPshift (sx sy : BitVec 4) (_ : PCap) (s : State) : Eff := s.shiftTo sy.toInt sx.toInt

/-- PSHIFT (R253). -/
def execPshift (h : Hdr) (sx sy : BitVec 4) (s : State) : Out :=
  s.pWord h (.pshift h sx sy) .inside false false 0 fun cap s _ => bodyPshift sx sy cap s

/-- The body of PSHIFT.rel (R253). -/
def bodyPshiftRel (sx sy : BitVec 4) (_ : PCap) (s : State) : Eff :=
  s.shiftTo (s.plane.regs.by_ + sy.toInt) (s.plane.regs.bx + sx.toInt)

/-- PSHIFT.rel (R253). -/
def execPshiftRel (h : Hdr) (sx sy : BitVec 4) (s : State) : Out :=
  s.pWord h (.pshiftRel h sx sy) .inside false false 0 fun cap s _ => bodyPshiftRel sx sy cap s

/-- Layers are zero, and their checksums (R254, R270). -/
def State.zeroLayers (s : State) (m : Byte) : State :=
  s.modPlane fun p =>
    { p with regs := { p.regs with a := Machine.zeroLayers p.pgeo m p.regs.a, checks := p.regs.checks.map fun k => k.zero m } }

/-- The body of PZERO (R254). -/
def bodyPzero (m : Byte) (_ : PCap) (s : State) : Eff := if m = 0 then .pre cILL 0 else .done (s.zeroLayers m) [] none

/-- PZERO (R254). -/
def execPzero (h : Hdr) (zmask : Byte) (s : State) : Out :=
  s.pWord h (.pzero h zmask) .inside false false 0 fun cap s _ => bodyPzero zmask cap s

/-! ### Halo exchange and draining -/

/-- The sides on which PGEO names a neighbour. -/
def geoSides (g : W32) : List Bool := [false, true].filter fun hi => geoHas g hi

/-- A reservation in the neighbour's receive buffer, if this plane has it or the buffer has room (R255). -/
def State.reserve (s : State) (n : BenchId) (hi : Bool) : State :=
  let q := (s.bench n).plane
  let room := if hi then q.rxLo.isNone && !q.rxLoResv else q.rxHi.isNone && !q.rxHiResv
  let have_ := if hi then s.plane.resvHi else s.plane.resvLo
  if have_ || !room then s
  else
    (s.modBench n fun x => x.modPlane fun p => if hi then { p with rxLoResv := true } else { p with rxHiResv := true }).modPlane
      fun p => if hi then { p with resvHi := true } else { p with resvLo := true }

/-- The body of PHSEND (R231, R255, R275): the neighbours are checked at issue alone. A second PHSEND of a tile finds the buffers
reserved. -/
def bodyPhsend (_ : PCap) (s : State) : Eff :=
  let g := s.plane.pgeo
  let sides := geoSides g
  let again := s.plane.replay.isSome
  let to_ (hi : Bool) : Option BenchId := s.mate s.cur.bench (if hi then 1 else -1)
  let wait (s : State) : Eff := .stay s [] (some (.halo, 0, 1)) []
  if !again && !s.myEng.issued && sides.any fun hi => (to_ hi).isNone then .pre cILL 0
  else if s.plane.sent && !again && !sides.isEmpty then wait s
  else
    let s := sides.foldl (fun s hi => match to_ hi with | some n => s.reserve n hi | none => s) s
    let have_ (hi : Bool) : Bool := (if hi then s.plane.resvHi else s.plane.resvLo) || (again && (to_ hi).isNone)
    if sides.all have_ then
      .done (s.modPlane fun p =>
        { p with
          sendLo := if geoHas g false then some (sentBand g p.regs.a false) else p.sendLo
          sendHi := if geoHas g true then some (sentBand g p.regs.a true) else p.sendHi
          sent := true }) [] none
    else wait s

/-- PHSEND (R255). -/
def execPhsend (h : Hdr) (s : State) : Out :=
  s.pWord h (.phsend h) .inside false false 0 fun cap s _ => bodyPhsend cap s

/-- The body of PHRECV (R234, R256). Bands that the tile has consumed are no new bands. PHRECV has no format field, and R234 adds in an
integer or a float kind: DESIGN CHOICE, the kind is that of the profile register, integer for profile 3 (log entry 56). -/
def bodyPhrecv (cap : PCap) (s : State) : Eff :=
  let p := s.plane
  let sides := geoSides p.pgeo
  let band (hi : Bool) : Option Band := if hi then p.rxHi else p.rxLo
  if p.sent && p.replay.isNone then .pre cILL 0
  else if !sides.isEmpty && ((p.rxUsed && p.replay.isNone) || sides.any fun hi => (band hi).isNone) then
    .stay s [] (some (.halo, 1, 1)) []
  else
    let md := if cap.prof = 4 then rmodeOf cap.mode else .rne
    let add (r : PRegs) (hi : Bool) : PRegs :=
      match band hi with
      | some b => r.merge p.pgeo (cap.prof != 3) md hi b
      | none => r
    .done (s.modPlane fun p => { p with regs := sides.foldl add p.regs, rxUsed := p.rxUsed || !sides.isEmpty }) [] none

/-- PHRECV (R256). -/
def execPhrecv (h : Hdr) (s : State) : Out :=
  s.pWord h (.phrecv h) .inside false false 0 fun cap s _ => bodyPhrecv cap s

/-- The layers from ZLO to ZHI as a mask. -/
def drainMask (o : PDrainOp) : Byte := bitsFrom 8 fun z => decide (o.zlo.toNat ≤ z ∧ z ≤ o.zhi.toNat)

/-- The body of PDRAIN (R257). -/
def bodyPdrain (o : PDrainOp) (cap : PCap) (s : State) : Eff :=
  let vs := drainVals s.plane.pgeo s.plane.regs.a o
  let w := vget cap.bfmt o.bop.bank.toNat 0
  if o.zhi.toNat < o.zlo.toNat then .pre cILL 0
  else if 6 ≤ o.prof.toNat then .pre cPROFILE 0
  else if fmtReserved (bfFmt w) then .pre cBANKFMT 0
  else
    match cap.run o.bop vs.length with
    | .error c => .pre c 0
    | .ok r =>
      let s := s.modHere fun x => x.writeVals r cap.mode vs
      .done (if o.clr then s.zeroLayers (drainMask o) else s) [r.acc vs.length true] none

/-- PDRAIN (R257). -/
def execPdrain (h : Hdr) (o : PDrainOp) (s : State) : Out :=
  s.pWord h (.pdrain h o) .inside false false 0 fun cap s _ => bodyPdrain o cap s

/-- The body of PCHK (R258). -/
def bodyPchk (m : Byte) (_ : PCap) (s : State) : Eff :=
  if m = 0 then .pre cILL 0 else if s.plane.checked m then .done s [] none else s.mismatch 0 []

/-- PCHK (R258). -/
def execPchk (h : Hdr) (zmask : Byte) (s : State) : Out :=
  s.pWord h (.pchk h zmask) .inside false false 0 fun cap s _ => bodyPchk zmask cap s

/-! ### Forwarding (R235, R259, R275, R276) -/

/-- A receiver of a forward comes to a stage. -/
def State.stage (s : State) (src b : BenchId) (k : Nat) : State :=
  let mine (f : Forward) : Bool := f.src == src && f.rx.any fun r => r.1 == b && decide (r.2 < k)
  let next (f : Forward) : Forward := { f with rx := f.rx.map fun r => if r.1 = b ∧ r.2 < k then (b, k) else r }
  { s with forwards := replaceFirst mine next s.forwards }

/-- The region of a PFWD: it starts an element, or a block, of the bank's format (R240), and lies in the bank (R45). -/
def fwdRegion (cap : PCap) (o : PFwdOp) : Except Byte Nat :=
  let w := vget cap.bfmt o.bop.bank.toNat 0
  let off := bopOffset cap.loops o.bop
  if !offsetOk (bfFmt w) (frameBase (vget cap.frames (bfFrame w) 0)) off then .error cBANKFMT
  else if !inBank off (o.lenm1.toNat + 1) then .error cPROT
  else .ok off.toNat

/-- PFWD, sending: it retires when every receiver has acknowledged (R259). -/
def execPfwd (h : Hdr) (o : PFwdOp) (s : State) : Out :=
  s.pWord h (.pfwd h o) .outside false false 0 fun cap s _ =>
    let b := s.cur.bench
    let n := o.n.toNat
    let len := o.lenm1.toNat + 1
    let first := !s.myEng.issued
    if n = 0 ∨ 7 < posOf b + n then .pre cILL 0
    else if first && (span 1 n).any fun k => (s.mate b (k : Nat)).isNone then .pre cILL 0
    else
      match fwdRegion cap o with
      | .error e => .pre e 0
      | .ok off =>
        let acc : Acc := ⟨o.bop.bank.toNat, off, off + len, false⟩
        let wait (s : State) : Eff := .stay s [] (some (.fwd, 0, 1)) [acc]
        if first then
          s.reads acc.bank [(off, len)] [acc] <|
            let rx := (span 1 n).filterMap fun k => (s.mate b (k : Nat)).map fun m => (m, if s.cur.late then 0 else 1)
            let f : Forward := ⟨b, o.bop.bank, off, len, Mem.read (s.here.bank acc.bank) off len, rx⟩
            wait { s with forwards := s.forwards ++ [f] }
        else if s.forwards.any fun f => f.src == b && f.rx.any fun r => r.2 != 3 then wait s
        else .done { s with forwards := s.forwards.filter fun f => f.src != b } [acc] none

/-- PFWD, receiving: the region is written once all of it has arrived; a region that does not match raises ILL and is
acknowledged (R259). -/
def execPfwdRx (h : Hdr) (o : PFwdOp) (s : State) : Out :=
  s.pWord h (.pfwdRx h o) .outside false false 0 fun cap s _ =>
    let b := s.cur.bench
    let n := o.n.toNat
    let len := o.lenm1.toNat + 1
    if n = 0 ∨ posOf b < n then .pre cILL 0
    else
      match fwdRegion cap o with
      | .error e => .pre e 0
      | .ok off =>
        let acc : Acc := ⟨o.bop.bank.toNat, off, off + len, true⟩
        let wait : Eff := .stay s [] (some (.fwd, 1, 1)) [acc]
        match neighbour b (-(n : Int)) with
        | none => wait
        | some src =>
          match firstWhere (fun f => f.src == src && f.rx.any fun r => r.1 == b && decide (r.2 < 2)) s.forwards with
          | none => wait
          | some f =>
            if f.rx.any fun r => r.1 == b && r.2 == 0 then wait
            else
              let t := s.stage src b (if s.cur.late then 2 else 3)
              if f.bank ≠ o.bop.bank ∨ f.off ≠ off ∨ f.len ≠ len then .post t cILL 0 false [acc]
              else .done (t.modHere fun x => x.writeBank o.bop.bank.toNat off f.bytes) [acc] none

/-! ### Mode, segments, loops, rendezvous -/

/-- PMODE (R260). -/
def execPmode (h : Hdr) (mode : BitVec 3) (s : State) : Out :=
  s.pWord h (.pmode h mode) .outside false false 0 fun _ s _ =>
    if 6 ≤ mode.toNat then .pre cILL 0 else .done (s.modPlane fun p => { p with mode := mode }) [] none

/-- The body of PSEG (R261): a segment opens. -/
def bodyPseg (steps : BitVec 24) (sig : W32) (_ : PCap) (s : State) : Eff :=
  .done (s.modRegs fun r => { r with seg := some ⟨steps, sig, 0, 0xFFFFFFFF⟩ }) [] none

/-- PSEG (R261). -/
def execPseg (h : Hdr) (steps : BitVec 24) (sig : W32) (s : State) : Out :=
  s.pWord h (.pseg h steps sig) .any true false 0 fun cap s _ => bodyPseg steps sig cap s

/-- PLOOP (R262). -/
def execPloop (h : Hdr) (o : PLoopOp) (s : State) : Out :=
  s.pWord h (.ploop h o) .outside true true (if o.csrc then 1 else 0) fun _ s ents =>
    let strides : Vector W32 4 := Vector.ofFn fun k : Fin 4 => ([o.sa, o.sb, o.sc, o.sd].getD k.val 0).signExtend 32
    (s.modLoop o.lvl.toNat fun l => { l with s := strides }).openLoop o.lvl.toNat
      (if o.csrc then entryCount (ents.getD 0 0) else o.count.setWidth 32)

/-- PENDL (R262). -/
def execPendl (h : Hdr) (lvl : BitVec 3) (s : State) : Out :=
  s.pWord h (.pendl h lvl) .outside true true 0 fun _ s _ => s.closeLoop lvl.toNat

/-- RDV of P (R263). -/
def execPRdv (h : Hdr) (s : State) : Out :=
  match s.pWord h (.pRdv h) .outside true false 0 fun _ s _ => .done (s.modMyEng fun e => { e with rdv := true }) [] none with
  | .next t => .next (t.tryRetire s.cur.bench)
  | r => r

/-! ### A turn of a replay (R268) -/

/-- The body of an instruction of the window. -/
def tileBody (i : Instr) (cap : PCap) (s : State) : Eff :=
  match i with
  | .ptile _ o => bodyPtile o cap s
  | .psheet _ o => bodyPsheet o cap s
  | .pwgt _ o => bodyPwgt o cap s
  | .pcorr _ o => bodyPcorr o cap s
  | .pmm _ o => bodyPmm o cap s
  | .pshift _ sx sy => bodyPshift sx sy cap s
  | .pshiftRel _ sx sy => bodyPshiftRel sx sy cap s
  | .pzero _ m => bodyPzero m cap s
  | .phsend _ => bodyPhsend cap s
  | .phrecv _ => bodyPhrecv cap s
  | .pdrain _ o => bodyPdrain o cap s
  | .pchk _ m => bodyPchk m cap s
  | .pseg _ steps sig => bodyPseg steps sig cap s
  | _ => .done s [] none

/-- A word that ends a segment, skipped or not (R261). -/
def endsSeg (w : W128) : Bool :=
  match decodeWord (.p w) with
  | .ok (.pseg _ _ _) => true
  | .ok (.pcommit _) => true
  | .ok (.pRdv _) => true
  | _ => false

/-- A skipped word is reached again: it enters the signature of the open segment, or ends it (R261); none where the observations of
a segment that it ends do not agree. -/
def State.reSkip (s : Option State) (w : W128) : Option State :=
  s.bind fun s =>
    if endsSeg w then
      (if (match s.plane.regs.seg with | some q => q.ok | none => true) then some (s.modRegs fun r => { r with seg := none })
       else none)
    else some (s.crcWord w)

/-- The replay comes to the next item of the window. -/
def State.replayNext (s : State) (k : Nat) : State :=
  (s.modPlane fun p => { p with replay := some (k + 1) }).modHere fun x => x.modEng .p fun e => { e with wait := none, step := 0 }

/-- One instruction of the window is executed again, with what it captured; after the last, P goes on where it was. A wait of the
replay is none of P's own (R269). -/
def State.replayTurn (s : State) (k : Nat) : State :=
  let p := s.plane
  let at_ (w : WinItem) : State := { s with cur := { s.cur with word := w.word, pc := w.pc } }
  if p.error.getLsbD 5 then (match (p.window.drop k ++ p.window).head? with | some w => at_ w | none => s).tileEvent cCHKSUM 0b100000
  else
    match p.window[k]? with
    | none =>
      (match p.skips.foldl State.reSkip (some s) with
      | some t => t.modPlane fun p => { p with replay := none }
      | none =>
        { s with cur := { s.cur with word := (firstWhere endsSeg p.skips).getD 0, pc := s.myEng.pc } }.tileEvent cSEGSIG 0)
    | some w =>
      let s := at_ w
      let fresh := decide (s.here.p.step = 0) && !s.here.p.waits .other
      match (if fresh then w.skips.foldl State.reSkip (some s) else some s) with
      | none => s.tileEvent cSEGSIG 0
      | some s =>
        let seg := match w.instr with | .pseg _ _ _ => true | _ => false
        if seg && !(match s.plane.regs.seg with | some q => q.ok | none => true) then s.tileEvent cSEGSIG 0
        else if p.error &&& p.readsOf w.instr != 0 && k != 0 then s.tileEvent cCHKSUM (p.error &&& p.readsOf w.instr)
        else
          let s := if seg then s.modRegs fun r => { r with seg := none } else s
          let wasOpen := s.plane.regs.seg.isSome
          match tileBody w.instr w.cap s with
          | .done t _ _ =>
            ((if wasOpen then t.crcWord w.word else t).modPlane fun p => { p with error := p.error &&& ~~~planeWrites p.pgeo w.instr }).replayNext k
          | .pre code va => s.hold code va false
          | .preEret code va => s.hold code va true
          | .preDo f code => (f s).hold code 0 false
          | .post t code va eret _ => t.hold code va eret
          | .wait _ _ => s.waitEng .other 0 1
          | .ask f => (f s).waitEng .other 0 1
          | .stay t _ _ _ => t.waitEng .other 0 1

end Sys2Proof.Machine
end

