-- ==== Sys2Proof/Machine/PlaneEv.lean ====
section
/-! DEFINITION. ABANDON (R46, R47, R154, R274) and the span link's events: HALO_BAND_ARRIVAL (R233),
FORWARD_REGION_COMPLETE, FORWARD_ACK and FORWARD_RECEIPT_ERROR (R235, R259), PLANE_STATE_STORAGE_ERROR (R267). -/

namespace Sys2Proof.Machine

/-! ### ABANDON -/

/-- The reservations of a plane at its neighbours are released (R274, R277). -/
def State.unreserve (s : State) (b : BenchId) : State :=
  let p := (s.bench b).plane
  let free (s : State) (mine hi : Bool) : State :=
    if mine then
      match s.mate b (if hi then 1 else -1) with
      | some n => s.modBench n fun x => x.modPlane fun p => if hi then { p with rxLoResv := false } else { p with rxHiResv := false }
      | none => s
    else s
  (free (free s p.resvLo false) p.resvHi true).modBench b fun x => x.modPlane fun p => { p with resvLo := false, resvHi := false }

/-- The open tile of a plane is discarded with its withheld gives, and the open segment closes (R46, R261, R274). The ranges of the tile
end; those of a PFWD that runs on outside a tile do not (R264, R276). -/
def State.dropTile (s : State) (b : BenchId) : State :=
  (s.unreserve b).modBench b fun x =>
    (x.modPlane fun p =>
      Plane.forget { p with
        regs := { p.regs with checks := none, seg := none }
        tile := false
        chk := false
        point := none
        window := []
        skips := []
        replay := none
        replayed := false
        gives := []
        sendLo := none
        sendHi := none
        rxLo := if p.rxUsed && geoHas p.pgeo false then none else p.rxLo
        rxHi := if p.rxUsed && geoHas p.pgeo true then none else p.rxHi
        rxUsed := false
        sent := false }).dropRanges .p

/-- An instruction that waits for an entry of the value queue or for tokens is discarded, though it has issued (R46 step 1). -/
def Eng.discards (e : Eng) : Bool := match e.wait with | some w => w.kind == .queue || w.kind == .take | none => false

/-- Whether an instruction that has issued runs on after an ABANDON: it is no faulting one, waits for no queue entry
(R46 step 1), and is no sending PFWD (R276) and no instruction of a tile. -/
def State.runsOn (s : State) (b : BenchId) (st : Stream) : Bool :=
  let x := s.bench b
  let e := x.eng st
  e.issued && e.held.isNone
    && (if st = .p then !x.plane.tile && !s.forwards.any fun f => f.src == b else !e.discards)

/-- The engine of an abandoned stream (R46): what has issued goes on, with the loops it captured, and its gives and flags stay; of
the others nothing is left, and the search for a landing point begins at the oldest of them, a faulting one before all (R181). -/
def Eng.abandoned (e : Eng) (on : Bool) : Eng :=
  { e with
    pc := match e.held with | some h => h.pc | none => e.pc
    held := none
    abandon := true
    loops := Vector.ofFn fun n : Fin 6 => { e.loops[n] with active := false }
    wait := match e.wait with
      | some w => if on || w.kind == .give || w.kind == .flag then some w else none
      | none => none
    taken := on && e.taken
    popped := if on then e.popped else []
    issued := on
    step := if on then e.step else 0
    cap := if on then e.cap else none }

/-- One stream is abandoned (R46 steps 1 to 3, R181). One that has issued RDV keeps its place, and loses a held fault of
an older instruction (R47, R181). R276 does not say whether a PFWD.rx that P issues after its landing point may receive a forward that
waited for the discarded one: DESIGN CHOICE, it may (log entry 29). -/
def State.abandon (s : State) (b : BenchId) (st : Stream) : State :=
  let e := (s.bench b).eng st
  if e.rdv then s.modBench b fun x => x.modEng st fun e => { e with held := none }
  else
    let on := s.runsOn b st
    let gone (a : AskIn) : Bool := a.st == st && !(on && a.ctx == 0)
    let s := s.modBench b fun x =>
      let x := { x with queues := vmod x.queues (queueOf st) fun _ => [], asks := x.asks.filter fun a => !gone a }
      (x.modEng st fun e => e.abandoned on).dropRanges st
    if st = .p then
      let s := if on then s else { s with forwards := s.forwards.filter fun f => f.src != b }
      if (s.bench b).plane.tile || (s.bench b).plane.regs.seg.isSome then s.dropTile b else s
    else s

/-- ABANDON (R46, R47, R154): the queues are empty in the same step, so no SEND or GIVE has to wait (R47). -/
def execAbandon (mask : BitVec 4) (s : State) : Out :=
  s.mainOnly (.next ((maskStreams .c mask).foldl (fun s st => s.abandon s.cur.bench st) s).doneC)

/-! ### The span link -/

/-- HALO_BAND_ARRIVAL (R233): the oldest band on the link to a side of a bench lands in the receive buffer. -/
def execHaloBandArrival (s : State) : Out :=
  let b := s.cur.bring.bench
  let hi := s.cur.bring.hi
  let mine (r : BenchId × Bool × Band) : Bool := r.1 == b && r.2.1 == hi
  match firstWhere mine s.bands with
  | none => .next s
  | some r =>
    let s := s.modBench b fun x => x.landBand hi r.2.2
    .next { s with bands := s.bands.eraseP mine }

/-- A PFWD of a bench that has issued and waits goes on. -/
def State.resumeFwd (s : State) (b : BenchId) : Out :=
  let e := (s.bench b).p
  match e.issued, e.cap with
  | true, some (w, _) =>
    let t := { s with cur := { s.cur with bench := b, stream := .p, word := w, pc := e.pc } }
    match decodeWord (.p w) with
    | .ok (.pfwd h o) => execPfwd h o t
    | .ok (.pfwdRx h o) => execPfwdRx h o t
    | _ => .next s
  | _, _ => .next s

/-- FORWARD_REGION_COMPLETE (R235): a receiver holds a whole intact region; if its PFWD has issued, it writes the region
and acknowledges. -/
def execForwardRegionComplete (s : State) : Out :=
  let b := s.cur.bring.bench
  match firstWhere (fun f => f.rx.any fun r => r.1 == b && r.2 == 0) s.forwards with
  | none => .next s
  | some f => (s.stage f.src b 1).resumeFwd b

/-- FORWARD_ACK (R259): an acknowledgement of a receiver reaches the sender; the last one retires its PFWD. -/
def execForwardAck (s : State) : Out :=
  let b := s.cur.bring.bench
  match firstWhere (fun f => f.rx.any fun r => r.1 == b && r.2 == 2) s.forwards with
  | none => .next s
  | some f => (s.stage f.src b 3).resumeFwd f.src

/-- FORWARD_RECEIPT_ERROR (R235, R259): a receiver that has not written repeats its receipt; the sender retransmits to
it alone. -/
def execForwardReceiptError (s : State) : Out :=
  let b := s.cur.bring.bench
  let mine (f : Forward) : Bool := f.rx.any fun r => r.1 == b && r.2 == 1
  let again (f : Forward) : Forward := { f with rx := f.rx.map fun r => if r.1 = b ∧ r.2 = 1 then (b, 0) else r }
  .next { s with forwards := replaceFirst mine again s.forwards }

/-- PLANE_STATE_STORAGE_ERROR (R267): a parity error in a part of the plane's state, found when P reads it. -/
def execPlaneStateStorageError (s : State) : Out :=
  let b := s.cur.bring.bench
  let place : BitVec 6 := BitVec.ofNat 6 (2 ^ (s.cur.bring.n % 6))
  .next (if (s.bench b).team.isSome then s.modBench b fun x => x.modPlane fun p => { p with error := p.error ||| place } else s)

/-! ### A word that is no instruction (R20, R30, R102, R241, R305, R331) -/

/-- A word that is no instruction, or whose header R30 refuses, raises ILL when it would issue: C at once, an engine when FIRST and LAST let
it issue (R44) and its tokens are there. In a full tile too, since R242 counts instructions alone (R20, R241). R261 does not say whether an
ill-formed word with the opcode of PSEG, PCOMMIT, PLOOP, PENDL or RDV ends the open segment: DESIGN CHOICE, it does not, and raises ILL
alone (log entry 63). -/
def State.illegalWord (s : State) (w : Nat) : Out :=
  let h := hdrOf (BitVec.ofNat 16 w)
  match s.cur.stream with
  | .c => .next (s.raiseC cILL 0)
  | .p => (s.reachWord h).issue h false 0 fun _ _ => .pre cILL 0
  | _ => s.issue h false 0 fun _ _ => .pre cILL 0

/-- RESERVED_OPCODE_WORD: the word that the stream of the turn has reached is no instruction. -/
def execReservedOpcodeWord (s : State) : Out :=
  match s.fetchHere with
  | (s, .ok w) =>
    (match decodeWord (s.cur.stream.word w) with
    | .error _ =>
      let s := s.dropWords s.cur.bench s.cur.stream s.fetchNo
      { s with cur := { s.cur with word := BitVec.ofNat 128 w } }.illegalWord w
    | .ok _ => .next s)
  | (s, _) => .next s

/-! ### QDEAD (R60) -/

/-- A wait that R60 counts. -/
def Wait.counts (w : Wait) : Bool := [WaitKind.take, .give, .queue, .flag, .halo, .fwd].contains w.kind

/-- What a context waits on is there by now: tokens, room in the FIFOs, room in a value queue, or a flag entry. -/
def Bench.overC (x : Bench) (w : Wait) : Bool :=
  let streams := maskStreams .c (BitVec.ofNat 4 w.what)
  match w.kind with
  | .take => x.canTake .c streams
  | .give => x.canGive .c streams
  | .queue => if w.what < 4 then decide ((x.queued w.what).length < 16) else !x.flagq.isEmpty
  | _ => false

/-- What an engine waits on is there by now; its gives and flags have gone as far as they may. -/
def State.overE (s : State) (b : BenchId) (st : Stream) (w : Wait) : Bool :=
  let x := s.bench b
  let t := { s with cur := { s.cur with bench := b, stream := .p, word := w.word, pc := x.p.pc } }
  let goes (r : Eff) : Bool := match r with | .stay _ _ _ _ => false | _ => true
  match w.kind with
  | .take => x.canTake st (maskStreams st (BitVec.ofNat 4 w.what))
  | .queue => decide (w.need ≤ (x.queued (queueOf st)).length)
  | .flag => (x.flagWaits st).isNone
  | .halo => if w.what = 0 then goes (bodyPhsend t.cap t) else goes (bodyPhrecv t.cap t)
  | .fwd =>
    if w.what = 0 then !s.forwards.any fun f => f.src == b && f.rx.any fun r => r.2 != 3
    else s.forwards.any fun f => f.rx.any fun r => r.1 == b && r.2 == 1
  | _ => false

/-- An engine is held with QDEAD: the instruction that waits is recorded with what it waits on. It pushes nothing: of V it has
written no register and no mask (R331), and a PFWD of P that has not retired is forwarded no further (R276). -/
def Bench.qdead (x : Bench) (st : Stream) (w : Wait) : Bench :=
  let e := x.eng st
  let k := (x.flagWaits st).getD 0
  let out := if w.kind = .flag then e.flags[k]? else none
  let pc := match out, w.kind, e.gives with
    | some f, _, _ => f.pc
    | none, .give, g :: _ => g.pc
    | _, _, _ => e.pc
  let x := match out with | some f => x.giveBack f | none => x
  let own (g : Give) : Bool := out.isSome && g.flags == k + 1 && g.word == w.word && g.pc == pc
  let stop (e : Eng) : Eng :=
    { e with
      held := some ⟨cQDEAD, 0, w.word, pc, false, false, none, w.what⟩
      wait := none
      taken := false
      popped := []
      issued := false
      step := 0
      cap := none
      gives := if w.kind = .give then e.gives.drop 1 else e.gives.filter fun g => !own g }
  ((x.modEng st stop).modEng st fun e => if out.isSome then e.flagsGone k else e).settle st

/-- QDEAD (R60): a wait of 2^30 clk ends in a fault, unless what it waits on is there by now. -/
def execQdead (s : State) : Out :=
  let b := s.cur.bring.bench
  let c := s.cur.bring.ctx
  let st := s.cur.bring.stream
  let late (s : State) (w : Wait) : Bool := w.counts && s.overdue w && (s.bench b).stopping.isNone
  if st = .c then
    match ((s.bench b).ctx c).wait with
    | some w => .next (if late s w && !(s.bench b).overC w then (s.asContext b c w.word).raiseC cQDEAD 0 else s)
    | none => .next s
  else
    let s := s.pushGives b st
    match ((s.bench b).eng st).wait with
    | some w =>
      if late s w && !s.overE b st w then
        let s := if st = .p then { s with forwards := s.forwards.filter fun f => f.src != b } else s
        .next (s.modBench b fun x => x.qdead st w)
      else .next s
    | none => .next s

end Sys2Proof.Machine
end

