-- ==== Sys2Proof/Machine/VEng.lean ====
section
/-! DEFINITION. What the instructions of V share: element types (R325), source operands (R327, R348), predication (R328),
flag entries (R40, R329), waiting for V's atomics (R357) and the forms of the compute instructions (R326, R331, R332). -/

namespace Sys2Proof.Machine

/-! ### Element types (R325) -/

/-- The width of a type. -/
def tyW (t : BitVec 3) : Nat := match t.toNat with | 1 => 16 | 2 => 16 | 4 => 16 | 5 => 8 | _ => 32
/-- The elements of a lane. -/
def tyK (t : BitVec 3) : Nat := 32 / tyW t
/-- A float type. -/
def tyIsF (t : BitVec 3) : Bool := t.toNat < 3
/-- The float format of a type. -/
def tyFF (t : BitVec 3) : FF := match t.toNat with | 1 => ffB16 | 2 => ffF16 | _ => ffF32
/-- The types f32 and i32. -/
def tF32 : BitVec 3 := 0
def tI32 : BitVec 3 := 3

/-- A register of a type from its elements. -/
def ofTy (t : BitVec 3) (f : Nat → Nat) : VReg := ofElems (tyW t) (128 * tyK t) f

/-- An element's value as a float of its type. -/
def fval (t : BitVec 3) (x : Nat) : Val := (tyFF t).decode x
/-- A value rounded into a float type. -/
def fround (t : BitVec 3) (md : RMode) (v : Val) : Nat := ((tyFF t).round md v).1

/-! ### Predication and flags -/

/-- The active lanes (R328). -/
def Bench.active (x : Bench) (me : Bool) (mi : BitVec 3) : Mask := if me then x.mask mi.toNat else allLanes

/-- An instruction that reads some registers has to wait for a VATOM in flight: it reads its VD (R357). Its fault mask is as it was
until it retires (R358). -/
def Bench.vBlocked (x : Bench) (regs : List Nat) : Bool :=
  x.vfly.any fun a => match a.out with | some (vd, _, _) => regs.contains vd.toNat | none => false

/-- A V word, which reads some registers. -/
def State.vIssue (s : State) (h : Hdr) (nq : Nat) (regs : List Nat) (body : State → List W64 → Eff) : Out :=
  s.issue h false nq fun s ents => if s.here.vBlocked regs then .wait .other 0 else body s ents

/-- A vector register is written in the active lanes, with its flag entry (R328, R329). -/
def State.writeVr (s : State) (vd : Nat) (active : Mask) (fo : Bool) (new : VReg) : State :=
  let old := s.here.vr vd
  let r := blend active old new
  let set := active &&& bitsFrom 128 fun i => lane r i != 0
  s.modHere fun x =>
    let x := { x with vreg := vset x.vreg vd r }.overV vd active
    if fo then x.flagOut ⟨none, [flagEntry set active], s.cur.word, s.cur.pc, [(vd, active, old)], []⟩ else x

/-- A mask is written in the active lanes, with its flag entry (R328, R329). -/
def State.writeMask (s : State) (md : Nat) (active : Mask) (fo : Bool) (new : Mask) : State :=
  let old := s.here.mask md
  let r := (new &&& active) ||| (old &&& ~~~active)
  s.modHere fun x =>
    let x := { x with vmask := vset x.vmask md r }.overM md active
    if fo then x.flagOut ⟨none, [flagEntry (active &&& r) active], s.cur.word, s.cur.pc, [], [(md, active, old)]⟩ else x

/-! ### Sources (R327, R348) -/

/-- A format whose codes are a type's elements (R348). -/
def tyOfFmt (fmt : BitVec 4) : Option (BitVec 3) :=
  match fmt.toNat with | 0 => some 0 | 1 => some 1 | 2 => some 2 | 5 => some 4 | 6 => some 5 | _ => none

/-- A value as an element of a type (R203, R348). -/
def tyRound (t : BitVec 3) (md : RMode) (v : Val) : Nat :=
  if tyIsF t then fround t md v
  else wrapInt (tyW t) (toRange md (-(2 ^ (tyW t - 1) : Nat)) ((2 ^ (tyW t - 1) : Nat) - 1) v)

/-- A feed block as an operand: unchanged when its format is the type, else rounded; +0 beyond its end (R348). -/
def blockOperand (f : Feed) (k : FBlock) (t : BitVec 3) : VReg :=
  if tyOfFmt (fdFmt f.ctl) = some t then BitVec.ofNat 4096 (leNat k.bytes)
  else
    let vs := f.values k
    BitVec.ofNat 4096 (packNat (tyW t) (vs.map fun v => tyRound t .rne v))

/-- What the pops of an instruction's feed operands come to: the blocks, each with its feed, and the first fault that does not wait
for ERET; a wait for a block; a feed that gives none, and then none is popped; or a fault that ERET clears, at a feed whose block
stays (R290). -/
inductive Pops where
  | ok (s : State) (ks : List (Feed × FBlock)) (bad : Option (Byte × W64))
  | wait
  | bad (code : Byte)
  | eret (n : Nat) (ahead : List FBlock) (code : Byte) (va : W64)

/-- The block of every feed operand is popped, in order (R327); one with too many elements raises PROT and counts as popped (R348). -/
def State.popAll (s : State) : List (Nat × BitVec 3) → Pops
  | [] => .ok s [] none
  | (n, t) :: rest =>
    match s.popBlock s.cur.bench n with
    | .wait _ => .wait
    | .bad c => .bad c
    | .fault u code va false =>
      (match u.popAll rest with
      | .ok v ks _ => .ok v ((.unbound, ⟨[], 0, 0, none, none, [], 0, []⟩) :: ks) (some (code, va))
      | r => r)
    | .fault u code va true =>
      let k := (u.here).feed n
      .eret n (if k.seq = (s.here.feed n).seq then k.ahead else []) code va
    | .ok u f k =>
      match u.popAll rest with
      | .ok v ks bad => .ok v ((f, k) :: ks) (if 128 * tyK t < k.n then some (cPROT, 0) else bad)
      | r => r

/-- The blocks that feed operands need are fetched, without being popped, so that they come if another module has them: for each
feed those that follow its position. -/
def State.askBlocks (s : State) (fs : Vector Feed 16) : List Nat → State
  | [] => s
  | n :: ns =>
    let f := vget fs n .unbound
    if f.readFault.isSome then s.askBlocks fs ns
    else
      match s.fetchBlock s.cur.bench f (some s.cur.stream) with
      | .ok t k _ => t.askBlocks (vset fs n (f.after k)) ns
      | .wait t => t.askBlocks fs ns
      | .remote => s.askBlocks fs ns

/-- The feed operands among source specifiers, with their types. -/
def feedOps (srcs : List (BitVec 6 × BitVec 3)) : List (Nat × BitVec 3) :=
  (srcs.filter fun a => decide (32 ≤ a.1.toNat ∧ a.1.toNat < 48)).map fun a => (a.1.toNat - 32, a.2)

/-- The values of the sources, in order: registers, queue entries, feed blocks (R327). -/
def operands (x : Bench) : List (BitVec 6 × BitVec 3) → List W64 → List (Feed × FBlock) → List VReg
  | [], _, _ => []
  | (a, t) :: rest, ents, ks =>
    if a.toNat < 32 then x.vr a.toNat :: operands x rest ents ks
    else if a.toNat < 48 then
      (match ks with | k :: _ => blockOperand k.1 k.2 t | [] => 0) :: operands x rest ents (ks.drop 1)
    else if a.toNat = 48 then ofTy t (fun _ => (ents.getD 0 0).toNat) :: operands x rest (ents.drop 1) ks
    else 0 :: operands x rest ents ks

/-- The ranges of the feeds that a V word pops (R309). -/
def Eff.withFeeds (e : Eff) (fs : List (Nat × BitVec 3)) : Eff :=
  match e with
  | .done s acc pc => .done s (acc ++ fs.map fun p => feedAcc p.1) pc
  | .stay s more on acc => .stay s more on (acc ++ fs.map fun p => feedAcc p.1)
  | .post s c va eret acc => .post s c va eret (acc ++ fs.map fun p => feedAcc p.1)
  | e => e

/-- A V word with sources: it issues when its tokens, entries and blocks are there, and pops them all (R327, R331). Where a pop
raises a fault that ERET clears, it issues again and no block of it counts as popped (R290). `more` are the registers that it reads
beside its sources. -/
def State.vWord (s : State) (h : Hdr) (more : List Nat) (srcs : List (BitVec 6 × BitVec 3)) (body : State → List VReg → Eff) : Out :=
  let fs := feedOps srcs
  let regs := (srcs.filter fun a => decide (a.1.toNat < 32)).map fun a => a.1.toNat
  s.vIssue h (srcs.countP fun a => a.1 == 48) (regs ++ more) fun s ents =>
    match s.popAll fs with
    | .wait => .ask fun s => s.askBlocks (s.here.feeds.map fun f => { f with ahead := [] }) (fs.map Prod.fst)
    | .bad c => Eff.withFeeds (.post s c 0 false []) fs
    | .eret n ahead code va =>
      Eff.withFeeds (.post (s.modHere fun x => x.modFeed n fun f => { f with dir := .rd, ahead := ahead }) code va true []) fs
    | .ok t _ (some (code, va)) => Eff.withFeeds (.post t code va false []) fs
    | .ok t ks none => (body t (operands t.here srcs ents ks)).withFeeds fs

/-! ### The compute form (R326) -/

/-- The rounding mode of a V word. -/
def State.vmd (s : State) (rm : BitVec 3) : RMode := rmodeField rm s.here.vmode

/-- A source of a list. -/
def src (vs : List VReg) (i : Nat) : VReg := vs.getD i 0

/-- A compute instruction into a register: sources with their types, and the new register from the mode, the sources
and the old register. -/
def State.vComp (s : State) (h : Hdr) (o : VOp) (srcs : List (BitVec 6 × BitVec 3))
    (f : RMode → List VReg → VReg → VReg) : Out :=
  s.vWord h [] srcs fun s vs =>
    .done (s.writeVr o.vd.toNat (s.here.active o.me o.mi) o.fo (f (s.vmd o.rm) vs (s.here.vr o.vd.toNat))) [] none

/-- A compute instruction whose result depends on its old destination. -/
def State.vCompOld (s : State) (h : Hdr) (o : VOp) (srcs : List (BitVec 6 × BitVec 3))
    (f : RMode → List VReg → VReg → VReg) : Out :=
  s.vWord h [o.vd.toNat] srcs fun s vs =>
    .done (s.writeVr o.vd.toNat (s.here.active o.me o.mi) o.fo (f (s.vmd o.rm) vs (s.here.vr o.vd.toNat))) [] none

/-- One source, element by element. -/
def State.vEl1 (s : State) (h : Hdr) (o : VOp) (f : RMode → Nat → Nat) : Out :=
  s.vComp h o [(o.sa, o.ty)] fun md vs _ => ofTy o.ty fun e => f md (elem (tyW o.ty) (src vs 0) e)

/-- Two sources, element by element. -/
def State.vEl2 (s : State) (h : Hdr) (o : VOp) (f : RMode → Nat → Nat → Nat) : Out :=
  s.vComp h o [(o.sa, o.ty), (o.sb, o.ty)] fun md vs _ =>
    ofTy o.ty fun e => f md (elem (tyW o.ty) (src vs 0) e) (elem (tyW o.ty) (src vs 1) e)

/-- Three sources, element by element. -/
def State.vEl3 (s : State) (h : Hdr) (o : VOp) (f : RMode → Nat → Nat → Nat → Nat) : Out :=
  s.vComp h o [(o.sa, o.ty), (o.sb, o.ty), (o.sc, o.ty)] fun md vs _ =>
    ofTy o.ty fun e => f md (elem (tyW o.ty) (src vs 0) e) (elem (tyW o.ty) (src vs 1) e) (elem (tyW o.ty) (src vs 2) e)

/-- Two sources, lane by lane; each lane may read the whole sources. -/
def State.vLanes (s : State) (h : Hdr) (o : VOp) (f : VReg → VReg → Nat → W32) : Out :=
  s.vComp h o [(o.sa, o.ty), (o.sb, o.ty)] fun _ vs _ => ofElems 32 128 fun i => (f (src vs 0) (src vs 1) i).toNat

end Sys2Proof.Machine
end

