-- ==== Sys2Proof/Machine/VInt.lean ====
section
/-! DEFINITION. V's integer group (R333), VMAD and VDOT (R335), compares (R336), select (R337), moves and shuffles (R340),
VLI (R341), RNDC.v (R343), mask operations (R344), VMODE (R345), RDV (R346), and its loop words (R361). -/

namespace Sys2Proof.Machine

/-! ### Integer arithmetic (R333) -/

/-- An integer as bits of a type. -/
def iwrap (o : VOp) (x : Int) : Nat := wrapInt (tyW o.ty) x
/-- The signed value of an element. -/
def isgn (o : VOp) (x : Nat) : Int := signedNat (tyW o.ty) x
/-- The signed range of a type. -/
def isat (o : VOp) (x : Int) : Nat :=
  iwrap o (clampInt (-(2 ^ (tyW o.ty - 1) : Nat)) ((2 ^ (tyW o.ty - 1) : Nat) - 1) x)
/-- The unsigned range of a type. -/
def usat (o : VOp) (x : Int) : Nat := iwrap o (clampInt 0 ((2 ^ tyW o.ty : Nat) - 1) x)
/-- A shift count. -/
def ishn (o : VOp) (b : Nat) : Nat := b % tyW o.ty

/-- VADD of integers (R333). -/
def execVaddInt (h : Hdr) (o : VOp) (s : State) : Out := s.vEl2 h o fun _ a b => iwrap o ((a : Int) + b)
/-- VSUB of integers (R333). -/
def execVsubInt (h : Hdr) (o : VOp) (s : State) : Out := s.vEl2 h o fun _ a b => iwrap o ((a : Int) - b)
/-- VMUL of integers (R333). -/
def execVmulInt (h : Hdr) (o : VOp) (s : State) : Out := s.vEl2 h o fun _ a b => iwrap o ((a * b : Nat) : Int)
/-- VMULH (R333). -/
def execVmulh (h : Hdr) (o : VOp) (s : State) : Out :=
  s.vEl2 h o fun _ a b => iwrap o (isgn o a * isgn o b / (2 ^ tyW o.ty : Nat))
/-- VMULHU (R333). -/
def execVmulhu (h : Hdr) (o : VOp) (s : State) : Out := s.vEl2 h o fun _ a b => a * b / 2 ^ tyW o.ty
/-- VADDS (R333). -/
def execVadds (h : Hdr) (o : VOp) (s : State) : Out := s.vEl2 h o fun _ a b => isat o (isgn o a + isgn o b)
/-- VSUBS (R333). -/
def execVsubs (h : Hdr) (o : VOp) (s : State) : Out := s.vEl2 h o fun _ a b => isat o (isgn o a - isgn o b)
/-- VADDSU (R333). -/
def execVaddsu (h : Hdr) (o : VOp) (s : State) : Out := s.vEl2 h o fun _ a b => usat o ((a : Int) + b)
/-- VSUBSU (R333). -/
def execVsubsu (h : Hdr) (o : VOp) (s : State) : Out := s.vEl2 h o fun _ a b => usat o ((a : Int) - b)
/-- VAND (R333). -/
def execVand (h : Hdr) (o : VOp) (s : State) : Out := s.vEl2 h o fun _ a b => a &&& b
/-- VOR (R333). -/
def execVor (h : Hdr) (o : VOp) (s : State) : Out := s.vEl2 h o fun _ a b => a ||| b
/-- VXOR (R333). -/
def execVxor (h : Hdr) (o : VOp) (s : State) : Out := s.vEl2 h o fun _ a b => a ^^^ b
/-- VANDN (R333). -/
def execVandn (h : Hdr) (o : VOp) (s : State) : Out := s.vEl2 h o fun _ a b => a &&& (b ^^^ (2 ^ tyW o.ty - 1))
/-- VSHL (R333). -/
def execVshl (h : Hdr) (o : VOp) (s : State) : Out := s.vEl2 h o fun _ a b => a * 2 ^ ishn o b % 2 ^ tyW o.ty
/-- VSHR (R333). -/
def execVshr (h : Hdr) (o : VOp) (s : State) : Out := s.vEl2 h o fun _ a b => a / 2 ^ ishn o b
/-- VSAR (R333). -/
def execVsar (h : Hdr) (o : VOp) (s : State) : Out := s.vEl2 h o fun _ a b => iwrap o (isgn o a / (2 ^ ishn o b : Nat))
/-- VMIN of integers (R333). -/
def execVminInt (h : Hdr) (o : VOp) (s : State) : Out := s.vEl2 h o fun _ a b => if isgn o b < isgn o a then b else a
/-- VMAX of integers (R333). -/
def execVmaxInt (h : Hdr) (o : VOp) (s : State) : Out := s.vEl2 h o fun _ a b => if isgn o a < isgn o b then b else a
/-- VMINU (R333). -/
def execVminu (h : Hdr) (o : VOp) (s : State) : Out := s.vEl2 h o fun _ a b => if b < a then b else a
/-- VMAXU (R333). -/
def execVmaxu (h : Hdr) (o : VOp) (s : State) : Out := s.vEl2 h o fun _ a b => if a < b then b else a
/-- VABS of integers (R333). -/
def execVabsInt (h : Hdr) (o : VOp) (s : State) : Out := s.vEl1 h o fun _ a => iwrap o (isgn o a).natAbs
/-- VNEG of integers (R333). -/
def execVnegInt (h : Hdr) (o : VOp) (s : State) : Out := s.vEl1 h o fun _ a => iwrap o (-(a : Int))
/-- VPOPC (R333). -/
def execVpopc (h : Hdr) (o : VOp) (s : State) : Out := s.vEl1 h o fun _ a => popNat (tyW o.ty) a
/-- VCLZ (R333). -/
def execVclz (h : Hdr) (o : VOp) (s : State) : Out := s.vEl1 h o fun _ a => clzNat (tyW o.ty) a

/-! ### VMAD and VDOT (R335) -/

/-- VMAD (R335). -/
def execVmad (h : Hdr) (o : VOp) (s : State) : Out := s.vEl3 h o fun _ a b c => iwrap o ((a * b + c : Nat) : Int)

/-- VDOT's lane: the elements of a and b of one lane, and c (R335). -/
def dotLane (o : VOp) (md : RMode) (a b c : VReg) (i : Nat) : Nat :=
  let w := tyW o.ty
  let k := tyK o.ty
  let ps := (upTo k).map fun j => (elem w a (k * i + j), elem w b (k * i + j))
  if tyIsF o.ty then
    (roundF32 md (sumVals md (valF32 (lane c i) :: ps.map fun p => (fval o.ty p.1).mul (fval o.ty p.2)))).toNat
  else wrapInt 32 ((lane c i).toInt + (ps.map fun p => isgn o p.1 * isgn o p.2).sum)

/-- VDOT (R335). -/
def execVdot (h : Hdr) (o : VOp) (s : State) : Out :=
  s.vComp h o [(o.sa, o.ty), (o.sb, o.ty), (o.sc, if tyIsF o.ty then tF32 else tI32)] fun md vs _ =>
    ofElems 32 128 fun i => dotLane o md (src vs 0) (src vs 1) (src vs 2) i

/-! ### Compares (R336) and select (R337) -/

/-- A compare by a predicate on elements: into a mask by all or any element of a lane, or into a register (R336). -/
def State.vCmp (s : State) (h : Hdr) (c : VCmp) (p : Nat → Nat → Bool) : Out :=
  let o := c.o
  s.vWord h [] [(o.sa, o.ty), (o.sb, o.ty)] fun s vs =>
    let w := tyW o.ty
    let k := tyK o.ty
    let holds (e : Nat) : Bool := p (elem w (src vs 0) e) (elem w (src vs 1) e)
    let act := s.here.active o.me o.mi
    let ofLane (i : Nat) : Bool :=
      if c.kind = 0 then (upTo k).all fun j => holds (k * i + j) else (upTo k).any fun j => holds (k * i + j)
    .done
      (if c.kind = 2 then s.writeVr o.vd.toNat act o.fo (ofTy o.ty fun e => if holds e then 2 ^ w - 1 else 0)
       else s.writeMask (o.vd.toNat % 8) act o.fo (bitsFrom 128 ofLane)) [] none

/-- a < b by type. -/
def tyLt (t : BitVec 3) (a b : Nat) : Bool :=
  if tyIsF t then (fval t a).lt (fval t b) else decide (signedNat (tyW t) a < signedNat (tyW t) b)
/-- a = b by type. -/
def tyEq (t : BitVec 3) (a b : Nat) : Bool := if tyIsF t then (fval t a).eqv (fval t b) else a == b

/-- VCMPEQ (R336). -/
def execVcmpeq (h : Hdr) (o : VCmp) (s : State) : Out := s.vCmp h o fun a b => tyEq o.o.ty a b
/-- VCMPNE (R336). -/
def execVcmpne (h : Hdr) (o : VCmp) (s : State) : Out := s.vCmp h o fun a b => !tyEq o.o.ty a b
/-- VCMPLT (R336). -/
def execVcmplt (h : Hdr) (o : VCmp) (s : State) : Out := s.vCmp h o fun a b => tyLt o.o.ty a b
/-- VCMPLE (R336). -/
def execVcmple (h : Hdr) (o : VCmp) (s : State) : Out := s.vCmp h o fun a b => tyLt o.o.ty a b || tyEq o.o.ty a b
/-- VCMPLTU (R336). -/
def execVcmpltu (h : Hdr) (o : VCmp) (s : State) : Out := s.vCmp h o fun a b => decide (a < b)
/-- VCMPLEU (R336). -/
def execVcmpleu (h : Hdr) (o : VCmp) (s : State) : Out := s.vCmp h o fun a b => decide (a ≤ b)
/-- VCMPUN (R336). -/
def execVcmpun (h : Hdr) (o : VCmp) (s : State) : Out :=
  s.vCmp h o fun a b => (fval o.o.ty a).isNan || (fval o.o.ty b).isNan

/-- VSEL (R337). -/
def execVsel (h : Hdr) (o : VOp) (s : State) : Out :=
  let n := o.sc.toNat % 8
  s.vWord h [] [(o.sa, o.ty), (o.sb, o.ty)] fun s vs =>
    .done (s.writeVr o.vd.toNat (s.here.active o.me o.mi) o.fo (blend (s.here.mask n) (src vs 1) (src vs 0))) [] none
/-- VBSEL (R337). -/
def execVbsel (h : Hdr) (o : VOp) (s : State) : Out :=
  s.vComp h o [(o.sa, o.ty), (o.sb, o.ty), (o.sc, o.ty)] fun _ vs _ =>
    (src vs 0 &&& src vs 2) ||| (src vs 1 &&& ~~~(src vs 2))

/-! ### Moves, shuffles and immediates (R340, R341) -/

/-- VMOV (R340). -/
def execVmov (h : Hdr) (o : VOp) (s : State) : Out := s.vComp h o [(o.sa, o.ty)] fun _ vs _ => src vs 0
/-- VBCST (R340). -/
def execVbcst (h : Hdr) (o : VOp) (s : State) : Out :=
  s.vComp h o [(o.sa, o.ty)] fun _ vs _ => ofTy o.ty fun _ => elem (tyW o.ty) (src vs 0) 0
/-- VPERM (R340). -/
def execVperm (h : Hdr) (o : VOp) (s : State) : Out := s.vLanes h o fun a b i => lane a ((lane b i).toNat % 128)
/-- VROT (R340). -/
def execVrot (h : Hdr) (o : VOp) (s : State) : Out := s.vLanes h o fun a b i => lane a ((i + (lane b 0).toNat % 128) % 128)
/-- VXCH (R340). -/
def execVxch (h : Hdr) (o : VOp) (s : State) : Out := s.vLanes h o fun a b i => lane a (i ^^^ ((lane b 0).toNat % 128))
/-- VIDX (R340). -/
def execVidx (h : Hdr) (o : VOp) (s : State) : Out := s.vComp h o [] fun _ _ _ => ofTy o.ty fun e => e
/-- VLI (R341). -/
def execVli (h : Hdr) (o : VLiOp) (s : State) : Out :=
  s.vIssue h 0 [] fun s _ => .done (s.writeVr o.vd.toNat allLanes false (ofTy o.ty fun _ => o.imm.toNat)) [] none
/-- RNDC.v (R343): the third coordinate is the old destination. -/
def execRndcV (h : Hdr) (o : VOp) (s : State) : Out :=
  s.vCompOld h o [(o.sa, tI32), (o.sb, tI32), (o.sc, tI32)] fun _ vs old =>
    ofElems 32 128 fun i => (grainHash (lane (src vs 0) i) (lane (src vs 1) i) (lane (src vs 2) i) (lane old i)).toNat

/-! ### Mask operations (R344), VMODE (R345), RDV (R346) -/

/-- A mask operation. -/
def State.vMaskOp (s : State) (h : Hdr) (o : MOp) (f : Mask → Mask → Mask) : Out :=
  s.vIssue h 0 [] fun s _ =>
    .done (s.writeMask o.md.toNat allLanes o.fo (f (s.here.mask o.ma.toNat) (s.here.mask o.mb.toNat))) [] none

/-- MAND (R344). -/
def execMand (h : Hdr) (o : MOp) (s : State) : Out := s.vMaskOp h o fun a b => a &&& b
/-- MOR (R344). -/
def execMor (h : Hdr) (o : MOp) (s : State) : Out := s.vMaskOp h o fun a b => a ||| b
/-- MXOR (R344). -/
def execMxor (h : Hdr) (o : MOp) (s : State) : Out := s.vMaskOp h o fun a b => a ^^^ b
/-- MANDN (R344). -/
def execMandn (h : Hdr) (o : MOp) (s : State) : Out := s.vMaskOp h o fun a b => a &&& ~~~b
/-- MNOT (R344). -/
def execMnot (h : Hdr) (o : MOp) (s : State) : Out := s.vMaskOp h o fun a _ => ~~~a
/-- MSET (R344). -/
def execMset (h : Hdr) (o : MOp) (s : State) : Out := s.vMaskOp h o fun _ _ => allLanes
/-- MCLR (R344). -/
def execMclr (h : Hdr) (o : MOp) (s : State) : Out := s.vMaskOp h o fun _ _ => 0

/-- VMODE (R345). -/
def execVmode (h : Hdr) (mode : BitVec 3) (s : State) : Out :=
  s.issue h false 0 fun s _ =>
    if 5 ≤ mode.toNat then .pre cILL 0 else .done (s.modHere fun x => { x with vmode := mode }) [] none
/-- RDV of V (R346). -/
def execVRdv (h : Hdr) (s : State) : Out := s.rdvWord h
/-- LOOP of V (R361). -/
def execVLoop (h : Hdr) (o : LoopOp) (s : State) : Out := s.loopWord h o
/-- ENDL of V (R361). -/
def execVEndl (h : Hdr) (lvl : BitVec 3) (s : State) : Out := s.endlWord h lvl
/-- VLSET (R361). -/
def execVlset (h : Hdr) (o : StrideSet) (s : State) : Out := s.strideWord h o

end Sys2Proof.Machine
end

