-- ==== Sys2Proof/Machine/VFloat.lean ====
section
/-! DEFINITION. V's float group (R334), fused products (R335), conversions (R338), correctly rounded functions (R339) and
reductions (R342). -/

namespace Sys2Proof.Machine

/-- A float function of two values, rounded once. -/
def State.vF2 (s : State) (h : Hdr) (o : VOp) (f : RMode → Val → Val → Val) : Out :=
  s.vEl2 h o fun md a b => fround o.ty md (f md (fval o.ty a) (fval o.ty b))
/-- A float function of one value, rounded once under a mode. -/
def State.vF1 (s : State) (h : Hdr) (o : VOp) (f : RMode → Val → Val) : Out :=
  s.vEl1 h o fun md a => fround o.ty md (f md (fval o.ty a))
/-- A float function of three values, rounded once. -/
def State.vF3 (s : State) (h : Hdr) (o : VOp) (f : RMode → Val → Val → Val → Val) : Out :=
  s.vEl3 h o fun md a b c => fround o.ty md (f md (fval o.ty a) (fval o.ty b) (fval o.ty c))

/-- VADD of floats (R334). -/
def execVaddFloat (h : Hdr) (o : VOp) (s : State) : Out := s.vF2 h o fun md a b => sumVals md [a, b]
/-- VSUB of floats (R334). -/
def execVsubFloat (h : Hdr) (o : VOp) (s : State) : Out := s.vF2 h o fun md a b => sumVals md [a, b.neg]
/-- VMUL of floats (R334). -/
def execVmulFloat (h : Hdr) (o : VOp) (s : State) : Out := s.vF2 h o fun _ a b => a.mul b
/-- VDIV (R334). -/
def execVdiv (h : Hdr) (o : VOp) (s : State) : Out := s.vF2 h o fun _ a b => a.div b
/-- VSQRT (R334). -/
def execVsqrt (h : Hdr) (o : VOp) (s : State) : Out := s.vF1 h o fun _ a => a.sqrt

/-- FMIN and FMAX of R112 on elements of a float type (R334). -/
def tyMinMax (t : BitVec 3) (wantMax : Bool) (a b : Nat) : Nat :=
  let va := fval t a
  let vb := fval t b
  let aLow := va.lt vb || (va.eqv vb && va.isNeg)
  if va.isNan && vb.isNan then (tyFF t).nanBits
  else if va.isNan then b
  else if vb.isNan then a
  else if aLow != wantMax then a else b

/-- VMIN of floats (R334). -/
def execVminFloat (h : Hdr) (o : VOp) (s : State) : Out := s.vEl2 h o fun _ a b => tyMinMax o.ty false a b
/-- VMAX of floats (R334). -/
def execVmaxFloat (h : Hdr) (o : VOp) (s : State) : Out := s.vEl2 h o fun _ a b => tyMinMax o.ty true a b
/-- VABS of floats: the sign bit cleared, a NaN unchanged (R334). DEDUCED. -/
def execVabsFloat (h : Hdr) (o : VOp) (s : State) : Out :=
  s.vEl1 h o fun _ a => if (fval o.ty a).isNan then a else a % (tyFF o.ty).signBit
/-- VNEG of floats: the sign bit flipped, a NaN unchanged (R334). DEDUCED. -/
def execVnegFloat (h : Hdr) (o : VOp) (s : State) : Out :=
  s.vEl1 h o fun _ a => if (fval o.ty a).isNan then a else a ^^^ (tyFF o.ty).signBit

/-- A value rounded to an integral value, a zero keeping its sign (R334). -/
def Val.rint (md : RMode) : Val → Val
  | .fin s m e => if 0 ≤ e then .fin s m e else .fin s (roundInt md s m e).1.natAbs 0
  | v => v

/-- VRINT (R334). -/
def execVrint (h : Hdr) (o : VOp) (s : State) : Out := s.vF1 h o fun md a => a.rint md
/-- VFMA (R335). -/
def execVfma (h : Hdr) (o : VOp) (s : State) : Out := s.vF3 h o fun md a b c => sumVals md [a.mul b, c]
/-- VFMS (R335). -/
def execVfms (h : Hdr) (o : VOp) (s : State) : Out := s.vF3 h o fun md a b c => sumVals md [a.mul b, c.neg]
/-- VFNMA (R335). -/
def execVfnma (h : Hdr) (o : VOp) (s : State) : Out := s.vF3 h o fun md a b c => sumVals md [(a.mul b).neg, c]

/-! ### Conversions (R338) -/

/-- One element converted from a type to another; `u` as VCVTU (R338). -/
def cvtElem (u : Bool) (md : RMode) (sty dty : BitVec 3) (x : Nat) : Nat :=
  let w := tyW dty
  let lo : Int := if u then 0 else -(2 ^ (w - 1) : Nat)
  let hi : Int := if u then (2 ^ w : Nat) - 1 else (2 ^ (w - 1) : Nat) - 1
  let int : Int := if u then x else signedNat (tyW sty) x
  match tyIsF sty, tyIsF dty with
  | true, true => fround dty md (fval sty x)
  | true, false => wrapInt w (toRange md lo hi (fval sty x))
  | false, true => fround dty md (.ofInt int)
  | false, false => if tyW sty < w then wrapInt w int else wrapInt w (clampInt lo hi int)

/-- The converted register: the elements of a slice, the others as they were (R338). -/
def cvtReg (u : Bool) (md : RMode) (o : VCvt) (a old : VReg) : VReg :=
  let ks := tyK o.sty
  let kd := tyK o.o.ty
  let slc := o.slc.toNat
  let one (e : Nat) : Nat := cvtElem u md o.sty o.o.ty (elem (tyW o.sty) a e)
  ofTy o.o.ty fun e =>
    if ks < kd then
      let base := slc * 128 * ks
      if base ≤ e ∧ e < base + 128 * ks then one (e - base) else elem (tyW o.o.ty) old e
    else if kd < ks then one (slc * 128 * kd + e)
    else one e

/-- VCVT (R338). -/
def execVcvt (h : Hdr) (o : VCvt) (s : State) : Out :=
  s.vCompOld h o.o [(o.o.sa, o.sty)] fun md vs old => cvtReg false md o (src vs 0) old
/-- VCVTU (R338). -/
def execVcvtu (h : Hdr) (o : VCvt) (s : State) : Out :=
  s.vCompOld h o.o [(o.o.sa, o.sty)] fun md vs old => cvtReg true md o (src vs 0) old

/-! ### Correctly rounded functions (R339) -/

/-- VEXP2 (R339). -/
def execVexp2 (h : Hdr) (o : VOp) (s : State) : Out := s.vEl1 h o fun _ a => fround o.ty .rne (fval o.ty a).exp2
/-- VLOG2 (R339). -/
def execVlog2 (h : Hdr) (o : VOp) (s : State) : Out := s.vEl1 h o fun _ a => fround o.ty .rne (fval o.ty a).log2
/-- VRCP (R339). -/
def execVrcp (h : Hdr) (o : VOp) (s : State) : Out := s.vEl1 h o fun _ a => fround o.ty .rne (fval o.ty a).rcp
/-- VRSQ (R339). -/
def execVrsq (h : Hdr) (o : VOp) (s : State) : Out := s.vEl1 h o fun _ a => fround o.ty .rne (fval o.ty a).rsq

/-! ### Reductions (R342) -/

/-- One level of a tree, left operand first. -/
def treeLevel {α : Type} (f : α → α → α) : List α → List α
  | a :: b :: l => f a b :: treeLevel f l
  | l => l

/-- The value of a fixed tree over a power of two of leaves (R342). -/
def tree {α : Type} (f : α → α → α) (z : α) : Nat → List α → α
  | 0, l => l.headD z
  | n + 1, l => tree f z n (treeLevel f l)

/-- A leaf: a float as F32, an integer with its sign as 32 bits (R342). -/
def redLeaf (t : BitVec 3) (x : Nat) : W32 :=
  if t = tF32 then BitVec.ofNat 32 x
  else if tyIsF t then roundF32 .rne (fval t x) else BitVec.ofInt 32 (signedNat (tyW t) x)

/-- A reduction: node and identity in F32 and in I32 (R342). -/
def State.vReduce (s : State) (h : Hdr) (o : VOp) (fnode inode : W32 → W32 → W32) (fid iid : W32) : Out :=
  s.vWord h [] [(o.sa, o.ty)] fun s vs =>
    let k := tyK o.ty
    let act := s.here.active o.me o.mi
    let id_ := if tyIsF o.ty then fid else iid
    let leaves := (upTo (128 * k)).map fun e => if act.getLsbD (e / k) then redLeaf o.ty (elem (tyW o.ty) (src vs 0) e) else id_
    let v := tree (if tyIsF o.ty then fnode else inode) id_ 9 leaves
    let r := ofElems 32 128 fun _ => v.toNat
    let old := s.here.vr o.vd.toNat
    .done (s.modHere fun x =>
      let x := { x with vreg := vset x.vreg o.vd.toNat r }.overV o.vd.toNat allLanes
      if o.fo then x.flagOut ⟨none, [flagEntry (if v = 0 then 0 else act) act], s.cur.word, s.cur.pc, [(o.vd.toNat, allLanes, old)], []⟩ else x) [] none

/-- The sum node in F32 (R342). -/
def fsumNode (x y : W32) : W32 := roundF32 .rne (sumVals .rne [valF32 x, valF32 y])

/-- RSUM (R342). -/
def execRsum (h : Hdr) (o : VOp) (s : State) : Out := s.vReduce h o fsumNode (fun x y => x + y) 0 0
/-- RMAX (R342). -/
def execRmax (h : Hdr) (o : VOp) (s : State) : Out :=
  s.vReduce h o (fun x y => (fminmax32 true x y).1) (fun x y => if x.toInt < y.toInt then y else x) 0xFF800000 0x80000000
/-- RMIN (R342). -/
def execRmin (h : Hdr) (o : VOp) (s : State) : Out :=
  s.vReduce h o (fun x y => (fminmax32 false x y).1) (fun x y => if y.toInt < x.toInt then y else x) 0x7F800000 0x7FFFFFFF

end Sys2Proof.Machine
end

