-- ==== Sys2Proof/Machine/VMem.lean ====
section
/-! DEFINITION. V's bank accesses (R349 to R355) and its atomics at home (R356 to R360). -/

namespace Sys2Proof.Machine

/-! ### Bank words -/

/-- The four bytes of a word. -/
def wordBytes4 (w : W32) : List Byte := leBytes 4 w.toNat

/-- Words are written into a bank one after another; a sector that they cover whole loses its poison (R54, R351). -/
def Bench.writeWords (x : Bench) (bank : Nat) (ws : List (Nat × W32)) : Bench :=
  let covered (p : Nat × Nat) : Bool :=
    p.1 == bank && (upTo 32).all fun k => ws.any fun w => decide (w.1 ≤ 32 * p.2 + k ∧ 32 * p.2 + k < w.1 + 4)
  { x with
    banks := vmod x.banks bank fun m => ws.foldl (fun m w => Mem.writeAll m w.1 (wordBytes4 w.2)) m
    bankPoison := x.bankPoison.filter fun p => !covered p }

/-- A read of some of the words meets poison. -/
def Bench.wordsPoisoned (x : Bench) (bank : Nat) (as : List Nat) : Bool := as.any fun a => x.bankPoisoned bank a 4

/-! ### VLD and VST (R349 to R351) -/

/-- A bank format that the type of VLD and VST accepts (R350). -/
def vldFmtOk (t : BitVec 3) (fmt : BitVec 4) : Bool :=
  match t.toNat with
  | 0 => fmt == 0 | 3 => fmt == 0 | 1 => fmt == 1 | 2 => fmt == 2 | 4 => fmt == 5 | _ => fmt == 6 || fmt == 7

/-- A V word on 32-bit words of a bank: the format, the alignment and the bounds of the bytes from the effective offset
(R350, R352, R354). -/
def State.vBank (s : State) (bop : Bop) (fmtOk : BitVec 4 → Bool) (len : Nat) (body : Nat → Nat → Eff) : Eff :=
  let bank := bop.bank.toNat
  let w := s.here.bf bank
  let eff := bopOffset s.here.v.loops bop
  if bfDith w || !fmtOk (bfFmt w) || eff % 4 != 0 then .pre cBANKFMT 0
  else if !inBank eff len then .pre cPROT 0
  else body bank eff.toNat

/-- The address of lane `i` (R351). -/
def vldAddr (eff : Nat) (o : VMem) (i : Nat) : Nat := eff + 4 * i * (o.sm1.toNat + 1)

/-- VLD (R351). -/
def execVld (h : Hdr) (o : VMem) (s : State) : Out :=
  s.vIssue h 0 [] fun s _ =>
    s.vBank o.bop (vldFmtOk o.ty) (4 * 127 * (o.sm1.toNat + 1) + 4) fun bank eff =>
      let act := s.here.active o.me o.mi
      let as := (lanesOf act).map fun i => vldAddr eff o i
      if s.here.wordsPoisoned bank as then .post s cPOISON 0 false (as.map fun a => ⟨bank, a, a + 4, false⟩)
      else
        .done (s.modHere fun x =>
            { x with vreg := vmod x.vreg o.vr.toNat fun v => withLanes v act fun i => x.rawWord bank (vldAddr eff o i) }.overV
              o.vr.toNat act)
          (as.map fun a => ⟨bank, a, a + 4, false⟩) none

/-- VST (R351). -/
def execVst (h : Hdr) (o : VMem) (s : State) : Out :=
  s.vIssue h 0 [o.vr.toNat] fun s _ =>
    s.vBank o.bop (vldFmtOk o.ty) (4 * 127 * (o.sm1.toNat + 1) + 4) fun bank eff =>
      let x := s.here
      let ws := (lanesOf (x.active o.me o.mi)).map fun i => (vldAddr eff o i, lane (x.vr o.vr.toNat) i)
      .done (s.modHere fun x => x.writeWords bank ws) (ws.map fun w => ⟨bank, w.1, w.1 + 4, true⟩) none

/-! ### VGATH and VSCAT (R352, R353) -/

/-- The lanes that are live: active, with an index that is no padding (R353). -/
def liveLanes (act : Mask) (vi : VReg) : List Nat := (lanesOf act).filter fun i => lane vi i != padRow

/-- The address of a live lane; the effective offset itself may be negative (R45). -/
def idxAddr (eff : Int) (vi : VReg) (i : Nat) : Nat := (eff + 4 * (lane vi i).toNat).toNat

/-- A V word on the words of a bank that an index register names, its addresses checked before any effect (R353). -/
def State.vIndexed (s : State) (o : VIdx) (body : Nat → Int → Mask → List Nat → Eff) : Eff :=
  let x := s.here
  let act := x.active o.me o.mi
  let vi := x.vr o.vi.toNat
  let live := liveLanes act vi
  let bank := o.bop.bank.toNat
  let w := x.bf bank
  let eff := bopOffset x.v.loops o.bop
  if bfDith w || bfFmt w != 0 || eff % 4 != 0 then .pre cBANKFMT 0
  else if live.any fun i => !inBank (eff + 4 * ((lane vi i).toNat : Int)) 4 then .pre cPROT 0
  else body bank eff act live

/-- VGATH (R353); a padding lane reads 0. -/
def execVgath (h : Hdr) (o : VIdx) (s : State) : Out :=
  s.vIssue h 0 [o.vi.toNat] fun s _ =>
    s.vIndexed o fun bank eff act live =>
      let vi := s.here.vr o.vi.toNat
      let as := live.map fun i => idxAddr eff vi i
      if s.here.wordsPoisoned bank as then .post s cPOISON 0 false (as.map fun a => ⟨bank, a, a + 4, false⟩)
      else
        .done (s.modHere fun x =>
            { x with vreg := vmod x.vreg o.vr.toNat fun v => withLanes v act fun i =>
                if lane vi i = padRow then 0 else x.rawWord bank (idxAddr eff vi i) }.overV o.vr.toNat act)
          (as.map fun a => ⟨bank, a, a + 4, false⟩) none

/-- VSCAT (R353): a later lane overwrites an earlier one. -/
def execVscat (h : Hdr) (o : VIdx) (s : State) : Out :=
  s.vIssue h 0 [o.vr.toNat, o.vi.toNat] fun s _ =>
    s.vIndexed o fun bank eff _ live =>
      let x := s.here
      let ws := live.map fun i => (idxAddr eff (x.vr o.vi.toNat) i, lane (x.vr o.vr.toNat) i)
      .done (s.modHere fun x => x.writeWords bank ws) (ws.map fun w => ⟨bank, w.1, w.1 + 4, true⟩) none

/-! ### PART (R354, R355) -/

/-- A dense list: its count, and 128 entries padded (R354). -/
def denseList (ls : List Nat) : List Byte :=
  leBytes 4 ls.length ++ (padTo 128 padRow (ls.map fun i => BitVec.ofNat 32 i)).flatMap wordBytes4

/-- PART (R354): two lists into the bank, and two flag entries. -/
def execPart (h : Hdr) (o : VPart) (s : State) : Out :=
  s.vIssue h 0 [] fun s _ =>
    s.vBank o.bop (fun f => f == 0) 0x604 fun bank eff =>
      let act := s.here.active o.me o.mi
      let ms := s.here.mask o.ms.toNat
      let t := act &&& ms
      let f := act &&& ~~~ms
      .done (s.modHere fun x =>
          ((x.writeBank bank eff (denseList (lanesOf t))).writeBank bank (eff + 0x400) (denseList (lanesOf f))).flagOut
            ⟨none, [flagEntry t act, flagEntry f act], s.cur.word, s.cur.pc, [], []⟩)
        [⟨bank, eff, eff + 0x204, true⟩, ⟨bank, eff + 0x400, eff + 0x604, true⟩] none

/-! ### Atomics at home (R356 to R360) -/

/-- The checks of R131 for the lanes of an atomic, each with its address, step 5 included; nothing while a walk waits. -/
def State.checkLanes (s : State) (n : Nat) : List (Nat × W64) → State × Option (List (Nat × W64 × Except Byte Passed))
  | [] => (s, some [])
  | (i, va) :: rest =>
    let (t, r) := s.check s.cur.bench va.toNat n .both true false
    let more (c : Except Byte Passed) : State × Option (List (Nat × W64 × Except Byte Passed)) :=
      match t.checkLanes n rest with
      | (t, some l) => (t, some ((i, va, c) :: l))
      | (t, none) => (t, none)
    match r with
    | .wait => (t, none)
    | .fault c => more (.error c)
    | .ok p => more (.ok p)

/-- One lane of an atomic of `n` bytes, with number `k`: it enters V's queue, or has its record at once, if it fails its checks
(R131, R358). The L1 loses the line (R139). -/
def Bench.laneIssue (x : Bench) (b : BenchId) (n : Nat) (kind : StKind) (sc : Scope) (rel : Bool) (w : W128) (k : Nat) (va : W64)
    (c : Except Byte Passed) : Bench :=
  match c with
  | .error e => { x with vres := (k, e.setWidth 32, true) :: x.vres }
  | .ok p =>
    let e : StEntry := ⟨k, 0, kind, n, va, p.pa, [], sc, false, rel, 1, false, false, p.leaf, tagOf b.val k, w, none, [6]⟩
    { x with vq := x.vq ++ [e], l1 := x.l1.filter fun l => l.line != p.pa / 128 }

/-- V's atomics issue all their lanes together, the first of them after the release if there is one, and retire when every reply has
returned; V goes on meanwhile (R357). Blocks fetched ahead that read some of their bytes are given up: V's later pops read them again
(R65). A REDM or REDT whose checks fail sends nothing (R359, R360). -/
def State.vAtomic (s : State) (lanes : List (Nat × W64)) (n : Nat) (kind : Nat → StKind) (sc : Scope) (rel : Bool) (active : Mask)
    (out : Option (BitVec 5 × BitVec 3 × Bool)) (va : W64) : Eff :=
  match s.checkLanes n lanes with
  | (_, none) => .ask fun s => (s.checkLanes n lanes).1
  | (t, some cs) =>
    let bad := firstSome (cs.map fun c => match c.2.2 with | .error e => some e | .ok _ => none)
    match (if out.isNone then bad else none) with
    | some e => .post t e va (eretClears e) []
    | none =>
      let k := t.here.seq
      let one (x : Bench) (c : Nat × W64 × Except Byte Passed) : Bench :=
        x.laneIssue s.cur.bench n (kind c.1) sc (rel && x.vq.all fun e => decide (e.seq < k)) s.cur.word (k + c.1) c.2.1 c.2.2
      let passed := cs.filterMap fun c => match c.2.2 with | .ok p => some (c.1, p.pa, p.leaf) | .error _ => none
      let preps := passed.filter fun l => l.2.2.prep
      let flags (x : Bench) : Bench :=
        match out with
        | some (_, _, true) => x.flagOut ⟨some k, [0], s.cur.word, s.cur.pc, [], []⟩
        | _ => x
      let t := t.modHere fun x => flags
        { ((cs.foldl one x).orderFeeds k (passed.map fun l => (l.2.1, n))) with
          seq := k + 128
          vscope := some sc
          vfly := x.vfly ++ [⟨k, lanes.map Prod.fst, active, out, va, s.cur.word, s.cur.pc, 0, 0, preps⟩] }
      .done (if s.cur.late then t else t.drainAll s.cur.bench .v false) [] none
where
  /-- The first that is there. -/
  firstSome : List (Option Byte) → Option Byte
    | [] => none
    | some p :: _ => some p
    | none :: ps => firstSome ps

/-- VATOM (R357, R358). -/
def execVatom (h : Hdr) (o : VAtm) (s : State) : Out :=
  s.vIssue h 1 ((if o.op = .cas then [o.vd.toNat] else []) ++ [o.va.toNat, o.vb.toNat]) fun s ents =>
    let base := ents.getD 0 0
    let x := s.here
    let act := x.active o.me o.mi
    s.vAtomic ((lanesOf act).map fun i => (i, base + 4 * (lane (x.vr o.va.toNat) i).setWidth 64)) 4
      (fun i => .atomic o.op ((lane (x.vr o.vb.toNat) i).setWidth 128) ((lane (x.vr o.vd.toNat) i).setWidth 128))
      o.scope o.rel act (some (o.vd, o.mf, o.fo)) base

/-- The node and the identity of a REDM operation on 32 bits (R359). -/
def redmNode (op : AtomOp) (x y : W32) : W32 := BitVec.ofNat 32 (atomF op 32 x.toNat y.toNat 0)
def redmIdentity : AtomOp → W32
  | .and => 0xFFFFFFFF | .min => 0x7FFFFFFF | .max => 0x80000000 | .minn => 0xFFFFFFFF | _ => 0

/-- A single message of V's stream to home (R359, R360). -/
def State.vSend (s : State) (sc : Scope) (rel : Bool) (va : W64) (n : Nat) (kind : StKind) : Eff :=
  s.vAtomic [(0, va)] n (fun _ => kind) sc rel 1 none va

/-- REDM (R359). -/
def execRedm (h : Hdr) (o : VRedm) (s : State) : Out :=
  s.vIssue h 1 [o.va.toNat] fun s ents =>
    let x := s.here
    let act := x.active o.me o.mi
    let v := tree (redmNode o.op) 0 7
      ((upTo 128).map fun i => if act.getLsbD i then lane (x.vr o.va.toNat) i else redmIdentity o.op)
    s.vSend o.scope o.rel (ents.getD 0 0) 4 (.atomic o.op (v.setWidth 128) 0)

/-- REDT (R360). -/
def execRedt (h : Hdr) (o : VRedt) (s : State) : Out :=
  s.vIssue h 2 [o.va.toNat] fun s ents =>
    let x := s.here
    let act := x.active o.me o.mi
    let va := ents.getD 0 0
    let lo := ents.getD 1 0
    let p := tree fsumNode 0 7
      ((upTo (2 ^ o.lg.toNat)).map fun i => if act.getLsbD i then lane (x.vr o.va.toNat) i else 0)
    if va.toNat % 64 != 0 || decide (2 ^ 32 ≤ lo.toNat) || lo.toNat % 2 ^ o.lg.toNat != 0 then .post s cALIGN va false []
    else s.vSend o.scope o.rel va 64 (.redt lo o.lg p)

end Sys2Proof.Machine
end

