-- ==== Sys2Proof/Machine/SEng.lean ====
section
/-! DEFINITION. The store engine S (R366 to R383): blocks and rows into memory through write feeds, quantising and
requantising between banks, frames, releases and S's registers. -/

namespace Sys2Proof.Machine

/-! ### Stores through a write feed (R369, R372) -/

/-- A byte of a block with the place that it goes to: the element's address, its physical address and page. -/
structure OutByte where
  va : W64
  pa : Nat
  leaf : Leaf
  val : Byte

/-- What placing comes to, by the checks of R131 steps 1, 3 and 4 for each byte (R372): bytes or stores with the
feed's translation, a wait of a walk, or a fault. -/
inductive Placed (α : Type) where
  | ok (s : State) (out : List α) (trans : Option Leaf)
  | wait (s : State)
  | fault (s : State) (code : Byte) (va : W64)

/-- Place the bytes of one element, which lies at an address. -/
def State.placeBytes (s : State) (b : BenchId) (io : Bool) (va : W64) : List Byte → Nat → Option Leaf → Placed OutByte
  | [], _, tr => .ok s [] tr
  | v :: vs, k, tr =>
    match s.feedCheck b (va + BitVec.ofNat 64 k) 1 .write io tr with
    | (s, .fault c) => .fault s c va
    | (s, .wait) => .wait s
    | (s, .ok p) =>
      match s.placeBytes b io va vs (k + 1) (some p.leaf) with
      | .ok s l t => .ok s (⟨va, p.pa, p.leaf, v⟩ :: l) t
      | e => e

/-- Place the bytes of a block on its pieces. -/
def State.placePieces (s : State) (b : BenchId) (io : Bool) : List (W64 × Nat) → List Byte → Option Leaf → Placed OutByte
  | [], _, tr => .ok s [] tr
  | (va, n) :: ps, vs, tr =>
    match s.placeBytes b io va (vs.take n) 0 tr with
    | .fault s c va => .fault s c va
    | .wait s => .wait s
    | .ok s l t =>
      match s.placePieces b io ps (vs.drop n) t with
      | .ok s l' t => .ok s (l ++ l') t
      | e => e

/-- A store of S: its bytes of a line under a mask. -/
structure LineStore where
  va : W64
  line : Nat
  leaf : Leaf
  bytes : List (Option Byte)

/-- The stores that the bytes make, in order: one for each line that they touch (R369). -/
def lineStores (bs : List OutByte) : List LineStore :=
  bs.foldl (fun ls o =>
    let ln := o.pa / 128
    let mine (l : LineStore) : Bool := l.line == ln
    let ls := if ls.any mine then ls else ls ++ [⟨o.va, ln, o.leaf, List.replicate 128 none⟩]
    replaceFirst mine (fun l => { l with bytes := l.bytes.set (o.pa % 128) (some o.val) }) ls) []

/-- Stores enter the S store queue in order (R369). -/
def State.queueStores (s : State) (f : Feed) (ls : List LineStore) : State :=
  ls.foldl (fun s l =>
    let k := s.here.seq
    let e : StEntry := ⟨k, 0, .store, 128, l.va, 128 * l.line, l.bytes, f.scope, false, false, fdPri f.ctl, fdLast f.ctl,
      s.goesDirect ⟨l.leaf, 128 * l.line⟩ f.scope, l.leaf, tagOf s.cur.bench.val k, s.cur.word, none, [7]⟩
    s.modHere fun x => { x with sq := x.sq ++ [e], seq := k + 1 }) s

/-- The S store queue drains as far as it may, but for stores that may still merge (R293), unless the turn leaves it. -/
def State.drainS (s : State) : State := if s.cur.late then s else s.drainOn s.cur.bench .s

/-- The memory bytes of elements that a feed takes: a byte copy when the format codes are equal, else a store conversion
with the feed's frame copy and element numbers from `i0` on (R215, R372). -/
def Feed.encode (f : Feed) (r : Run) (mode : BitVec 3) (i0 : Nat) (bytes : List Byte) (vs : List Val) : List Byte :=
  if fdFmt f.ctl = r.fmt then bytes
  else
    let off (k : Nat) : Option Int :=
      if addsOffset (fdFmt f.ctl) mode (fdDith f.ctl) then some (grain f.frame (i0 + k)) else none
    encodeRun (fdFmt f.ctl) mode (fdDith f.ctl) off vs []

/-- The mode of an S word with an explicit mode (R371, R372). -/
def smodeOf (exm : Bool) (rm mode : BitVec 3) : BitVec 3 := if exm then rm else mode

/-- A feed that a write finds unusable: of the other direction, unbound, or at its end (R287, R368). -/
def Feed.writeFault (f : Feed) : Option Byte :=
  if f.dir = .rd then some cILL else if f.dir = .unbound || f.idx.isEmpty then some cPROT else none

/-- FSTORE (R372). -/
def execFstore (h : Hdr) (o : SStore) (s : State) : Out :=
  s.issue h false 0 fun s _ =>
    let x := s.here
    let c := s.cap
    let n := o.feed.toNat
    let f := x.feed n
    let (cnt, next) := blockAt f.ctl f.dims f.idx
    let els := cnt * perIndex (fdFmt f.ctl)
    let run := runAt c.bfmt c.frames o.bop.bank.toNat (bopOffset c.loops o.bop) els
    match f.writeFault, run with
    | some c, r => .pre (if c = cPROT && (match r with | .error e => e == cBANKFMT | _ => false) then cBANKFMT else c) 0
    | none, .error c => .pre c 0
    | none, .ok r =>
      let acc : List Acc := [r.acc els false, feedAcc n]
      let bs := f.encode r (smodeOf o.exm o.rm x.smode) f.seq (x.runBytes r els) (x.runVals r els)
      match s.placePieces s.cur.bench (f.scope == .io) (blockPieces f.ctl f.dims f.base f.idx cnt) bs f.trans with
      | .fault t c va => postFault t c va acc
      | .wait t => .stay t [] none acc
      | .ok t out tr =>
        if x.bankPoisoned r.bank r.off (r.bytes els) then .post s cPOISON 0 false acc
        else
          let t := (t.queueStores f (lineStores out)).modHere fun x =>
            x.modFeed n fun f => { f with dir := .wr, idx := next, seq := f.seq + els, trans := tr }
          .done t.drainS acc none

/-! ### SSCAT (R373) -/

/-- A feed that SSCAT takes (R373). -/
def Feed.scatters (f : Feed) : Bool :=
  (f.dir == .wr || f.dir == .unused) && fdDims f.ctl == 2
    && decide (fmtBytes (fdFmt f.ctl) (f.rowLen * perIndex (fdFmt f.ctl)) ≤ 512)

/-- The stores of the rows of a scatter, one row after another: row `j` of the list takes its elements from the run
(R373). -/
def State.placeRows (s : State) (b : BenchId) (f : Feed) (r : Run) (mode : BitVec 3) (x : Bench) (total : Nat) :
    List W32 → Nat → Placed LineStore
  | [], _ => .ok s [] f.trans
  | i :: is, j =>
    if i = padRow then s.placeRows b f r mode x total is (j + 1)
    else
      let rl := f.rowLen * perIndex (fdFmt f.ctl)
      let part := r.part (j * rl) (j * rl + rl)
      let vs := ((x.runVals r total).drop (j * rl)).take rl
      let bs := f.encode r mode (i.toNat * rl) (Mem.read (x.bank r.bank) part.1 part.2) vs
      match s.placePieces b (f.scope == .io) (f.rowPieces i) bs f.trans with
      | .fault s c va => .fault s c va
      | .wait s => .wait s
      | .ok s l _ =>
        match s.placeRows b f r mode x total is (j + 1) with
        | .ok s' ls t => .ok s' (lineStores l ++ ls) t
        | e => e

/-- The places in an index list of the rows that a scatter stores: all but the padding rows (R373). -/
def liveRows (is : List W32) : List Nat := ((upTo is.length).zip is).filterMap fun p => if p.2 = padRow then none else some p.1

/-- The rows of a scatter go to memory, or none of them (R373, R382): it reads the rows that its index list `ix` names, and no padding row
(R55). -/
def State.scatter (s : State) (n : Nat) (r : Run) (is : List W32) (ix : Acc) : Eff :=
  let x := s.here
  let f := x.feed n
  let rl := f.rowLen * perIndex (fdFmt f.ctl)
  let parts := (liveRows is).map fun j => r.part (j * rl) (j * rl + rl)
  let acc := ix :: readAccs r.bank parts
  match s.placeRows s.cur.bench f r x.smode x (rl * is.length) is 0 with
  | .fault t c va => postFault t c va acc
  | .wait t => .stay t [] none acc
  | .ok t ls _ =>
    if parts.any fun a => x.bankPoisoned r.bank a.1 a.2 then .post s cPOISON 0 false acc
    else .done ((t.queueStores f ls).modHere fun x => x.modFeed n fun f => { f with dir := .wr }).drainS acc none

/-- SSCAT (R373): ILL, BANKFMT and PROT are found before it issues, poison after (R368, R382). Only the rows that it stores count for the
bank's bounds and for the place of a row in a D format. -/
def execSscat (h : Hdr) (o : IdxMove) (s : State) : Out :=
  s.issue h false 0 fun s _ =>
    let x := s.here
    let c := s.cap
    let n := o.feed.toNat
    let f := x.feed n
    let ib := o.ibank.toNat
    let io := 512 * o.ioff.toNat
    let (cnt, is) := x.indexList ib io
    let rl := f.rowLen * perIndex (fdFmt f.ctl)
    let live := liveRows (is.take 128)
    let rows := fmtIsD (bfFmt (vget c.bfmt o.bop.bank.toNat 0)) && live.any fun j => j * rl % 32 != 0
    if !f.scatters then .pre cILL 0
    else if bfFmt (vget c.bfmt ib 0) != 0 || bfDith (vget c.bfmt ib 0) || rows then .pre cBANKFMT 0
    else
      match runAt c.bfmt c.frames o.bop.bank.toNat (bopOffset c.loops o.bop) 0 with
      | .error c => .pre c 0
      | .ok r =>
        let ix : Acc := ⟨ib, io, io + 4 + 4 * cnt, false⟩
        if x.indexBad ib io (f.dims.getD 1 (0, 0)).1.toNat || live.any (fun j => !inBank r.off (r.bytes (rl * (j + 1)))) then .pre cPROT 0
        else if x.indexPoison ib io then .post s cPOISON 0 false [ix]
        else s.scatter n r is ix

/-! ### QSTORE and REQ (R374 to R376) -/

/-- A run under a named frame, dithered whatever the bank's DITH (R374). -/
def Bench.namedRun (x : Bench) (bank frame : Nat) (off : Int) (n : Nat) : Except Byte Run :=
  let fmt := bfFmt (x.bf bank)
  let g := x.frame frame
  if !fmtDithers fmt || !offsetOk fmt (frameBase g) off then .error cBANKFMT
  else if !inBank off (fmtBytes fmt n) then .error cPROT
  else .ok ⟨bank, fmt, true, g, off.toNat⟩

/-- The elements of one run go into another, all of them read first (R375, R376). -/
def State.requant (s : State) (src dst : Except Byte Run) : Eff :=
  let x := s.here
  let n := x.scvc.nm1.toNat + 1
  match src, dst with
  | .error a, .error b => .pre (if a = cBANKFMT || b = cBANKFMT then cBANKFMT else cPROT) 0
  | .error a, .ok _ => .pre a 0
  | .ok _, .error b => .pre b 0
  | .ok rs, .ok rd =>
    if x.bankPoisoned rs.bank rs.off (rs.bytes n) then .post s cPOISON 0 false [rs.acc n false, rd.acc n true]
    else
      .done (s.modHere fun y => y.writeVals rd (smodeOf x.scvc.exm x.scvc.rm x.smode) (x.runVals rs n))
        [rs.acc n false, rd.acc n true] none

/-- QSTORE (R375). -/
def execQstore (h : Hdr) (o : SQst) (s : State) : Out :=
  s.issue h false 0 fun s _ =>
    let x := s.here
    let n := x.scvc.nm1.toNat + 1
    s.requant (x.run o.sbank.toNat ((512 * o.soff.toNat : Nat) + loopTerm x.s.loops o.bop.sl) n)
      (x.namedRun o.bop.bank.toNat o.frame.toNat (bopOffset x.s.loops o.bop) n)

/-- REQ (R376). -/
def execReq (h : Hdr) (o : SReq) (s : State) : Out :=
  s.issue h false 0 fun s _ =>
    let x := s.here
    let n := x.scvc.nm1.toNat + 1
    let base : Int := frameBase (x.frame o.sframe.toNat)
    s.requant (x.namedRun o.sbank.toNat o.sframe.toNat (base + loopTerm x.s.loops o.bop.sl) n)
      (x.namedRun o.bop.bank.toNat o.dframe.toNat (bopOffset x.s.loops o.bop) n)

/-! ### Frames, mode and control (R371, R377 to R379) -/

/-- A frame with the words of a mask replaced by entries in order (R377). -/
def grainWords (g : BitVec 256) (m : BitVec 4) (ents : List W64) : BitVec 256 :=
  ((bitsOf m).zip ents).foldl (fun (g : BitVec 256) (p : Nat × W64) =>
    (g &&& ~~~((BitVec.allOnes 256 >>> 192) <<< (64 * p.1))) ||| ((p.2.setWidth 256 : BitVec 256) <<< (64 * p.1))) g

/-- A change that a locked view forbids: key, base or extents (R51, R378). -/
def grainLocked (old new : BitVec 256) : Bool :=
  old.extractLsb' 32 32 != new.extractLsb' 32 32 || old.extractLsb' 0 17 != new.extractLsb' 0 17
    || old.extractLsb' 64 48 != new.extractLsb' 64 48

/-- GRAIN (R377, R378). -/
def execGrain (h : Hdr) (o : SGrain) (s : State) : Out :=
  s.issue h false (bitsOf o.wmask).length fun s ents =>
    let x := s.here
    let g := o.frame.toNat
    let new := grainWords (x.frame g) o.wmask ents
    let locked := (upTo 16).any fun k => let w := x.bf k; bfLock w && bfDith w && bfFrame w == g
    if o.wmask = 0 then .pre cILL 0
    else if !frameOk new || (locked && grainLocked (x.frame g) new) then .post s cGRAIN 0 false []
    else .done (s.modHere fun x => { x with frames := vset x.frames g new }) [] none

/-- SMODE (R379). -/
def execSmode (h : Hdr) (mode : BitVec 3) (s : State) : Out :=
  s.issue h false 0 fun s _ =>
    if 6 ≤ mode.toNat then .pre cILL 0 else .done (s.modHere fun x => { x with smode := mode }) [] none

/-- SLSET of a stride (R371). -/
def execSlset (h : Hdr) (o : StrideSet) (s : State) : Out := s.strideWord h o

/-- SLSET of the conversion control (R371). -/
def execSlsetCvc (h : Hdr) (o : Cvc) (s : State) : Out :=
  s.issue h false 0 fun s _ => .done (s.modHere fun x => { x with scvc := ⟨o.exm, o.rm, o.nm1⟩ }) [] none

/-! ### Release, loops, rendezvous -/

/-- SREL (R380): a release takes its place in the S store queue, younger stores queue behind it, and its gives wait for
it. -/
def execSrel (h : Hdr) (scope : Scope) (s : State) : Out :=
  s.issue h false 0 fun s _ =>
    let k := s.here.seq
    let e : StEntry := ⟨k, 0, .release, 0, s.cur.pc, 0, [], scope, false, true, 1, false, false, leafPhys, 0, s.cur.word, none, [7]⟩
    .done (s.modHere fun x => { x with sq := x.sq ++ [e], seq := k + 1 }).drainS [] none

/-- LOOP of S (R381). -/
def execSLoop (h : Hdr) (o : LoopOp) (s : State) : Out := s.loopWord h o
/-- ENDL of S (R381). -/
def execSEndl (h : Hdr) (lvl : BitVec 3) (s : State) : Out := s.endlWord h lvl
/-- RDV of S (R381). -/
def execSRdv (h : Hdr) (s : State) : Out := s.rdvWord h

end Sys2Proof.Machine
end

