-- ==== Sys2Proof/Machine/Turn.lean ====
section
/-! DEFINITION. Who moves: the turn of a stream or of an event (R22, R59, log entry 1), the fetch of its word (R20, R119,
R463), and the placing of a word where the next turn fetches it. -/

namespace Sys2Proof.Machine

/-- The rows of the opcode table that are no word of a stream. -/
def isEvent : Instr → Bool
  | .abandonLand | .syscComplete | .resultArrival | .storePerform | .givePush | .qdead | .backgroundSpill
  | .groupFill | .claimStallTimeout | .fillStallTimeout | .watchWake | .trapEntry | .feedBlockArrival
  | .haloBandArrival | .forwardRegionComplete | .forwardAck | .tilePreemptTimeout | .dispatchDecision
  | .launchAgeing | .preempt | .resume | .hitchKill | .atomicPerform | .redtCombine | .rdcFillRead
  | .evictionNotice | .invalidationAck | .hostMemRead | .hostMemWrite | .hostSnoop | .sramUncorrectableError
  | .memoryUncorrectableError | .dcExtentAdd | .dcExtentRelease | .channelPowerDown | .channelSelfRefresh
  | .hotRowThrottle | .hotRowThrottleEnd | .retnEnable | .retnDisable | .fwinWrite | .dcapWrite | .registerWrite
  | .powerCapControl | .telemetryRefresh | .fabricPacketAccept | .fabricAckReceive | .routerPacket
  | .routeVersionInstall | .replayTimeout | .moduleLost | .linkDeath | .linkStateRise | .linkRetrain
  | .fabidAssign | .claim | .ownerHandover | .ownerRelease | .ownerLinkDown | .go | .nonOwnerWriteDiscard
  | .attestationRequest | .attestationReportDone | .bootStageVerify | .coldReset | .warmReset
  | .reservedOpcodeWord | .instructionFetchFault | .planeStateStorageError | .forwardReceiptError
  | .tokenBucketGain => true
  | _ => false

/-- A result goes where a context can take it back: to the queue, a register of the window, or a shadow, and to no global register. -/
def takesBack (d : BitVec 4) (boost : BitVec 2) : Bool := boost != 0 || d == 0 || decide (8 ≤ d.toNat)

/-- An instruction that a context may begin while an access that it has left in flight may still fault: all that it does, the context
takes back if it has to return to that access, and no other stream sees it (R131, log entry 9). A branch with a shadow to commit is not
one of them. -/
def Ctx.mayBegin (k : Ctx) (i : Instr) : Bool :=
  let plain := k.sh1.flags == 0 && k.sh1.regs.toList.all fun r => !r.valid
  match i with
  | .add o | .sub o | .mul o | .mulh o | .mulhu o | .div o | .divu o | .rem o | .remu o | .and o | .or o | .xor o
  | .andn o | .shl o | .shr o | .sar o | .ror o | .cmpeq o | .cmpne o | .cmplt o | .cmpltu o | .cmple o | .cmpleu o
  | .min o | .max o | .minu o | .maxu o | .clz o | .ctz o | .popc o | .sext32 o | .adds o | .subs o | .zext32 o => takesBack o.d o.boost
  | .sel o | .rndc o | .imad o => takesBack o.d o.boost
  | .addi o | .andi o | .ori o | .xori o | .cmpeqi o | .cmplti o | .cmpltui o => takesBack o.d o.boost
  | .shfi o => takesBack o.d o.boost
  | .li o => takesBack o.d o.boost
  | .beq _ | .bne _ | .blt _ | .bge _ | .bltu _ | .bgeu _ => plain
  | .jmp _ | .jmpi _ => true
  | .ld o | .ldI32 o | .ldN32 o | .ldI16 o | .ldN16 o | .ldI8 o | .ldN8 o =>
    takesBack o.d o.boost && !o.acq && !o.last && o.scope != .io
  | .st _ | .stI32 _ | .stI16 _ | .stI8 _ => true
  | _ => false

/-- The context of the turn has an access in flight that may still fault, and the word is none that it may begin before that is
known. -/
def State.holdsBack (s : State) (i : Instr) : Bool := s.here.unsure s.cur.ctx && !s.myCtx.mayBegin i

/-- The word of the turn's stream at an address: the instruction that runs (R102, R119, R463); nothing runs while the word is
asked for in another module, or while C holds the instruction back. -/
def State.fetchTurn (s : State) (pc : W64) (held : Instr → Bool) : State × Option Instr :=
  let s := { s with cur := { s.cur with pc := pc } }
  match s.fetchHere with
  | (s, .fault _) => (s, some .instructionFetchFault)
  | (s, .wait) => (if s.cur.stream = .c then s.stallC else s, none)
  | (s, .ok w) =>
    match decodeWord (s.cur.stream.word w) with
    | .error _ => (s, some .reservedOpcodeWord)
    | .ok i =>
      if held i then (s.stallC, none)
      else
      ({ (s.dropWords s.cur.bench s.cur.stream s.fetchNo) with cur := { s.cur with word := BitVec.ofNat 128 w } }, some i)

/-- An instruction that has issued goes on: its word is not fetched again. -/
def State.goOn (s : State) (pc : W64) (w : W128) : State × Option Instr :=
  let s := { s with cur := { s.cur with pc := pc, word := w } }
  match decodeWord (s.cur.stream.word w.toNat) with
  | .ok i => (s, some i)
  | .error _ => (s, none)

/-- The turn runs an event of its own stream. -/
def State.ownEvent (s : State) (i : Instr) : State × Option Instr :=
  ({ s with cur := { s.cur with bring := { bench := s.cur.bench, stream := s.cur.stream, ctx := s.cur.ctx } } }, some i)

/-! ### C (R84, R178, R179, R182) -/

/-- A context may be chosen: it is live; while the handler runs, no other context issues, but one goes on to its next boundary (R178);
in a team that the dispatcher stops,
one moves only to complete what it has issued (R182); and where an event has still to be taken, only the context that takes it
(R179). -/
def Bench.mayMove (x : Bench) (c : Fin 4) : Bool :=
  let k := x.ctx c
  let other := k.atBoundary && match x.c.handler with | some h => h != c | none => false
  let kept := x.frozen && (match x.pending with | some p => p.ctx != c | none => false)
  x.team.isSome && k.live && !other && !kept && !(x.stopping.isSome && k.atBoundary)

/-- The context that C chooses in a cycle: round robin after the one that issued last, past those found stalled in this cycle; none
once one has issued (R84). -/
def Bench.chosen (x : Bench) (clk : Nat) : Option (Fin 4) :=
  let r := x.c.rr
  let stalled (c : Fin 4) : Bool := r.triedAt == clk && r.tried.contains c
  if r.issuedAt = some clk then none
  else firstWhere (fun c => x.mayMove c && !stalled c) [r.last + 1, r.last + 2, r.last + 3, r.last]

/-- A context issues in a cycle. -/
def Robin.issue (r : Robin) (c : Fin 4) (clk : Nat) : Robin := { r with last := c, prev := r.last, issuedAt := some clk }

/-- The turn of a context of C: nothing, where C chooses another. An access that awaits its response goes on with its word. -/
def State.turnC (s : State) : State × Option Instr :=
  let c := s.cur.ctx
  if s.here.chosen s.clk != some c then (s, none)
  else
    let s := s.modMyC fun u => { u with rr := u.rr.issue c s.clk }
    let k := s.myCtx
    if s.here.takes.isSome then s.ownEvent .trapEntry
    else match k.phase, k.wait with
      | .idle, _ => s.fetchTurn k.pc s.holdsBack
      | _, some w => s.goOn k.pc w.word
      | _, none => s.fetchTurn k.pc s.holdsBack

/-! ### The engines -/

/-- Whether an engine of a team that the dispatcher stops may still move: to complete what it has issued, P until its
tile commits, for 2048 clk, and to receive a forward that is in flight (R277, R319, R332, R383). -/
def State.mayGoOn (s : State) (b : BenchId) (st : Stream) : Bool :=
  let x := s.bench b
  match x.stopping with
  | none => true
  | some t =>
    if st == .p && x.plane.tile then decide (s.clk < t + 2048)
    else (x.eng st).issued || (st == .p && s.forwards.any fun f => f.rx.any fun r => r.1 == b && decide (r.2 < 2))

/-- An engine goes on with an instruction that has issued, lands after an ABANDON, or fetches. -/
def State.turnAt (s : State) (e : Eng) : State × Option Instr :=
  match e.issued, e.cap with
  | true, some (w, _) => s.goOn e.pc w
  | _, _ => if e.abandon then s.ownEvent .abandonLand else s.fetchTurn e.pc fun _ => false

/-- The turn of an engine: what it has still to push goes first (R33, R329), then a replay (R268), the end of an ABANDON
(R46), or the word at its PC. A stream whose oldest give waits for what it has still to complete goes on (R357, R370). -/
def State.turnE (s : State) : State × Option Instr :=
  let b := s.cur.bench
  let st := s.cur.stream
  let s := if s.here.team.isNone then s else s.pushGives b st
  let x := s.here
  let e := s.myEng
  if x.team.isNone || e.held.isSome || !s.mayGoOn b st then (s, none)
  else
    match x.flagWaits st with
    | some k => (({ s with cur := { s.cur with word := ((e.flags[k]?).map FlagOut.word).getD 0 } }).waitEng .flag 4 k, none)
    | none =>
    match firstWhere (fun g => !x.giveEarly st g) (e.gives.take 1) with
    | some g => (({ s with cur := { s.cur with word := g.word } }).waitEng .give g.mask.toNat 1, none)
    | none =>
      if e.rdv then (s.tryRetire b, none)
      else
        match x.plane.replay with
        | some k => if st == .p then (s.replayTurn k, none) else s.turnAt e
        | none => s.turnAt e

/-! ### The next turn -/

/-- The turn of a stream: the bytes that its own instructions have still to write land, and those of others that the turn says
(R36). -/
def State.turnOf (s : State) (b : BenchId) (st : Stream) (ctx : Fin 4) (late : Bool) (bring : Brought) :
    State × Option Instr :=
  let s := s.modBench b fun x => x.land fun i t => t == st || bring.lands.testBit i
  let s := { s with cur := ⟨b, st, ctx, late, 0, 0, bring, (s.bench b).banks⟩ }
  if st == .c then s.turnC else s.turnE

/-- The next turn: the first of the list, or one that the spec does not choose (log entries 1 and 2). -/
def State.nextTurn (s : State) : State × Turn :=
  match s.turns with
  | t :: ts => ({ s with turns := ts }, t)
  | [] => ({ s with free := s.free + 1 }, Config.freeTurn s.free)

/-- A die's stages, with the shared input first (R456). -/
def Die.withStages (st : List Stage) (x : Die) : Die :=
  { x with telem := Vector.ofFn fun k : Fin 4 => st.getD k.val ⟨0, 0, 0⟩ }

/-- The reading of the shared input in the interval that ends at a clk: that of a die which has been refreshed then, or else a given
one (R456). -/
def State.sharedInput (s : State) (at_ : Nat) (new : Stage) : Stage :=
  match firstWhere (fun x : Die => x.telemAt == at_) s.dies.toList with
  | some x => vget x.telem 0 ⟨0, 0, 0⟩
  | none => new

/-- The dies that have not been refreshed at a boundary of 2^16 clk are, with free values as their readings (R456, R457). -/
def State.refreshAll (s : State) (at_ : Nat) : State :=
  let input := s.sharedInput at_ (Config.freeStage (40 * (at_ / 2 ^ 16) + 4))
  let stage (d : Fin 8) (k : Nat) : Stage := if k = 0 then input else Config.freeStage (40 * (at_ / 2 ^ 16) + 5 * d.val + k)
  { s with dies := Vector.ofFn fun d : Fin 8 =>
      if s.dies[d].telemAt < at_ then
        { s.dies[d].withStages ((upTo 4).map (stage d)) with pwr := Config.freePower (8 * (at_ / 2 ^ 16) + d.val), telemAt := at_ }
      else s.dies[d] }

/-- Cycles pass: the benches stand before the new one as they do now (R156), and the telemetry of the last boundary of 2^16 clk that is
left behind has been refreshed (R456). -/
def State.advance (s : State) (dt : Nat) : State :=
  let left := (s.clk + dt - 1) / 2 ^ 16 * 2 ^ 16
  if dt = 0 then s
  else
    let s' := if s.clk ≤ left then s.refreshAll left else s
    { s' with clk := s.clk + dt, before := s.benches, ended := [] }

/-- Who moves next, and the instruction or event that runs, if any. -/
def State.turn (s : State) : State × Option Instr :=
  let (s, t) := s.nextTurn
  let s := s.advance t.dt
  let br := t.bring
  match t.who with
  | .stream b st ctx => s.turnOf b st ctx t.late br
  | .event .reservedOpcodeWord => s.turnOf br.bench br.stream br.ctx t.late br
  | .event .instructionFetchFault => s.turnOf br.bench br.stream br.ctx t.late br
  | .event .abandonLand => s.turnOf br.bench br.stream br.ctx t.late br
  | .event i =>
    ({ s with cur := ⟨br.bench, br.stream, br.ctx, t.late, 0, 0, br, (s.bench br.bench).banks⟩ }, if isEvent i then some i else none)

/-! ### Placing a word for the next turn (log entry 1) -/

/-- An engine that fetches next at address 0. -/
def Eng.ready (e : Eng) : Eng :=
  { e with
    pc := 0
    rdv := false
    held := none
    taken := false
    popped := []
    issued := false
    step := 0
    gives := []
    abandon := false
    wait := none
    flags := []
    cap := none }

/-- A bench whose stream fetches next at address 0, through a page of its tenant that maps addresses to themselves. -/
def Bench.ready (x : Bench) (st : Stream) : Bench :=
  let t : Team := x.team.getD ⟨0, 0, 0, 0, 10, false, false⟩
  let page : Leaf := ⟨t.tenant, 0, 48, 0, t.tenant, 0, 0, false, .sp, 0, true, true, true⟩
  let main (k : Ctx) : Ctx := { k with live := true, pc := 0, wait := none, phase := .idle }
  let calm (e : Eng) : Eng := { e with held := none }
  let x := { x with team := some t, stopping := none, tlb := page :: x.tlb }
  let x := { x with l := calm x.l, p := calm x.p, v := calm x.v, s := calm x.s }
  let x := (x.modPlane fun p => { p with replay := none, error := 0, stepUsed := 0 }).modEng st Eng.ready
  (x.modCtx 0 main).modC fun u => { u with handler := none, lost := [], rr := ⟨3, 3, none, [], 0⟩, owed := false }

/-- A word of a stream is placed where the next step of that stream on bench 0 fetches, and that stream moves next. -/
def State.placeWord (s : State) (st : Stream) (w : Nat) : State :=
  let s := { s with mem := Mem.writeAll s.mem 0 (leBytes st.wordBytes w), turns := [⟨0, false, .stream 0 st 0, {}⟩] }
  s.modBench 0 fun x => x.ready st

end Sys2Proof.Machine
end

