-- ==== Sys2Proof/Machine/Disp.lean ====
section
/-! DEFINITION. The dispatcher (R386 to R398, R402 to R404): DISPATCH_DECISION, LAUNCH_AGEING, PREEMPT with what it
saves (R182, R183, R277), TILE_PREEMPT_TIMEOUT, RESUME (R184, R397) and HITCH_KILL. -/

namespace Sys2Proof.Machine

/-! ### Which launch is next (R387, R392) -/

/-- A launch is eligible (R387); a predecessor that retires in this cycle makes it so in the next (R398). -/
def State.eligible (s : State) (h : Hitch) : Bool :=
  match h.state with
  | .queued => h.record.preds.all fun q => s.retired q && !s.ended.contains q
  | .saved => true
  | _ => false

/-- The first eligible launch of a list of sequence numbers. -/
def State.firstEligible (s : State) : List W64 → Option Hitch
  | [] => none
  | q :: qs =>
    match s.hitch q with
    | some h => if s.eligible h then some h else s.firstEligible qs
    | none => s.firstEligible qs

/-- The run queues of a die in the order in which they are served: the highest priority first, each from its round-robin
position on. -/
def Die.served (d : Die) : List Nat :=
  [3, 2, 1, 0].flatMap fun p => (upTo 16).map fun j => 16 * p + ((vget d.rr p 0).toNat + j) % 16

/-- The launch that the dispatcher of a die chooses, with its run queue. -/
def State.choose (s : State) (d : Fin 8) : Option (Nat × Hitch) :=
  pick (s.die d).served
where
  /-- The first queue that holds an eligible launch. -/
  pick : List Nat → Option (Nat × Hitch)
    | [] => none
    | q :: qs =>
      match s.firstEligible (vget (s.die d).queues q []) with
      | some h => some (q, h)
      | none => pick qs

/-! ### Where it fits (R393, R398) -/

/-- A launch occupies its benches. -/
def Hitch.occupies (h : Hitch) (gone : List W64) (b : BenchId) : Bool := !gone.contains h.seq && h.shape.contains b

/-- The free benches of a die, in increasing identity; the launches of a list count as gone. -/
def State.freeBenches (s : State) (d : Fin 8) (gone : List W64) : List BenchId :=
  ((span (96 * d.val) 96).filterMap benchAt).filter fun b => !s.hitches.any fun h => h.occupies gone b

/-- The lowest span from which consecutive spans have room for `n` teams (R393). -/
def spanFit (d : Fin 8) (free : List BenchId) (n : Nat) : Option (List BenchId) :=
  let spans := (n + 7) / 8
  let at_ (s0 : Nat) : List BenchId := (span (96 * d.val + 8 * s0) n).filterMap benchAt
  (firstWhere (fun s0 => (at_ s0).all fun b => free.contains b) (upTo (13 - spans))).map at_

/-- Which teams of a launch need benches: all of a new one, those not retired of a saved one (R398). -/
def Hitch.teams (h : Hitch) : List Bool :=
  if h.state == .saved then h.saved.map Option.isSome else List.replicate (ctlBenches h.record.ctl) true

/-- Benches, in their order, for the teams that need one. -/
def dealOut : List Bool → List BenchId → List (Option BenchId)
  | [], _ => []
  | false :: ts, bs => none :: dealOut ts bs
  | true :: ts, b :: bs => some b :: dealOut ts bs
  | true :: ts, [] => none :: dealOut ts []

/-- Where the teams of a launch go, and the benches it occupies, if it fits (R393, R397, R398). -/
def Hitch.fit (h : Hitch) (free : List BenchId) : Option (List (Option BenchId) × List BenchId) :=
  let need := (h.teams.filter id).length
  if ctlSpan h.record.ctl then
    (spanFit h.die free h.teams.length).map fun bs => (List.zipWith (fun t b => if t then some b else none) h.teams bs, bs)
  else if free.length < need then none
  else some (dealOut h.teams free, free.take need)

/-! ### Starting a team (R20, R58, R95, R167, R178, R394) -/

/-- The `k`th 32-bit number of a list of bytes. -/
def wordAt (bs : List Byte) (k : Nat) : W32 := BitVec.ofNat 32 (leNat ((bs.drop (4 * k)).take 4))

/-- A declared BFMT value, without its reserved bits and its view lock (R12, R49); one that BFSET would refuse counts as not
declared (R12, R50). -/
def declaredBfmt (w : W32) : W32 :=
  let v := w &&& 0x17F#32
  if bfsetRefused 0 v then 0 else v

/-- A declared grain frame; one that the assembler does not emit counts as not declared (R207). -/
def declaredFrame (w : BitVec 256) : BitVec 256 :=
  if w.extractLsb' 20 12 = 0 ∧ (w.extractLsb' 17 3).toNat < 6 ∧ w.extractLsb' 112 16 = 0 ∧ w.extractLsb' 224 32 = 0 then w else 0

/-- The bench of a starting team. `decl` holds the declared settings of the image: 16 BFMT words, then 8 frames (R20). -/
def Bench.begin (x : Bench) (h : Hitch) (idx : Nat) (trap : W64) (decl : List Byte) : Bench :=
  let c := h.record.ctl
  let pc (k : Nat) : W64 := vget h.record.bases k 0
  let main : Ctx := { Ctx.start with live := true, pc := pc 0 }
  let unit : CUnit :=
    { CUnit.start with
      ctxs := CUnit.start.ctxs.set 0 main
      globals := (CUnit.start.globals.set 1 h.record.args).set 2 (BitVec.ofNat 64 idx)
      groups := (CUnit.start.groups.set 0 (.held 0)).set 1 (.held 0)
      trap := trap }
  { x.freed with
    team := some ⟨h.seq, idx, h.tenant, h.prio, ctlPeriod c, ctlChecked c, ctlSave c⟩
    c := unit
    l := { Eng.start with pc := pc 1 }
    p := { Eng.start with pc := pc 2 }
    v := { Eng.start with pc := pc 3 }
    s := { Eng.start with pc := pc 4 }
    bfmt := Vector.ofFn fun k : Fin 16 => declaredBfmt (wordAt decl k.val)
    frames := Vector.ofFn fun k : Fin 8 => declaredFrame (BitVec.ofNat 256 (leNat ((decl.drop (64 + 32 * k.val)).take 32))) }

/-- Every stream of a team acquires at .mo: its releases cover from now on what it is ordered after (R73, R184, R455). -/
def State.acquireTeam (s : State) (b : BenchId) : State := (upTo 8).foldl (fun s i => s.dutyAll b i .mo) s

/-- Every team of a new hitch starts (R394); with predecessors, as if it had executed LWAIT on each of them (R455). -/
def State.startTeams (s : State) (h : Hitch) (place : List (Option BenchId)) : State :=
  let trap : W64 := match s.tenEntry h.die h.tenant with | some t => t.trape | none => 0
  let decl := s.cur.bring.bytes
  let one (s : State) (p : Option BenchId × Nat) : State :=
    match p.1 with
    | some b =>
      let s := s.modBench b fun x => x.begin h p.2 trap decl
      if h.record.preds.isEmpty then s else s.acquireTeam b
    | none => s
  place.zipIdx.foldl one s

/-! ### Resuming (R184, R278, R397) -/

/-- A wait's beginning becomes the time it has lasted, or the other way (R60). -/
def Wait.turnOver (w : Wait) (now : Nat) : Wait := { w with since := now - w.since }

/-- The waits of a bench are turned over. -/
def Bench.turnOver (x : Bench) (now : Nat) : Bench :=
  let eng (e : Eng) : Eng := { e with wait := e.wait.map fun w => w.turnOver now }
  let ctx (k : Ctx) : Ctx := { k with wait := k.wait.map fun w => w.turnOver now }
  let x := { x with l := eng x.l, p := eng x.p, v := eng x.v, s := eng x.s }
  x.modC fun u => { u with ctxs := u.ctxs.map ctx }

/-- A resumed team has the priority its launch has reached (R388). -/
def Team.withPrio (p : BitVec 2) (t : Team) : Team := { t with prio := p }

/-- A bench takes a saved team: its context acquires at .mo, caches and TLB begin empty (R184, R397). Without the
scratchpad, the bytes of the bench's banks stay and their poison is clear (R54, log entry 10). -/
def Bench.restore (x y : Bench) (prio : BitVec 2) (now : Nat) : Bench :=
  let keep := match y.team with | some t => t.save | none => false
  let y := { y with
    team := y.team.map (Team.withPrio prio)
    banks := if keep then y.banks else x.banks
    bankPoison := if keep then y.bankPoison else []
    l1 := []
    cc := []
    tlb := []
    ctr := Vector.replicate 7 0
    plane := { y.plane with stepWin := x.plane.stepWin, stepUsed := x.plane.stepUsed }
    orphans := x.orphans
    seq := max x.seq y.seq }
  (List.range 4).foldl (fun y _ => y.acquire .mo) (y.turnOver now)

/-- The bench of a team of a placement. -/
def placed (place : List (Option BenchId)) (t : BenchId) : Option BenchId := (place.getD t.val none)

/-- A forward of a saved PFWD goes on between the benches of a placement; a receiver whose team is gone still does not acknowledge
(R276). -/
def Forward.onto (f : Forward) (place : List (Option BenchId)) : Option Forward :=
  (placed place f.src).map fun b =>
    { f with src := b, rx := f.rx.filterMap fun r => if r.2 = 4 then some r else (placed place r.1).map fun q => (q, r.2) }

/-- An instance at .sp goes on in the span of its first member that has a bench again (R150, R365, log entry 35). -/
def Barrier.moved (x : Barrier) (place : List (Option BenchId)) : Barrier :=
  match x.members.filterMap fun m => place.getD m.idx none with
  | b :: _ => { x with inst := spanOf b }
  | [] => x

/-- Every saved team goes on, and each of its engines acquires at .mo (R184, R397). -/
def State.restoreTeams (s : State) (h : Hitch) (place : List (Option BenchId)) : State :=
  let one (s : State) (p : Option BenchId × Option Bench) : State :=
    match p with
    | (some b, some y) => (s.modBench b fun x => x.restore y h.prio s.clk).acquireTeam b
    | _ => s
  let s := (place.zip h.saved).foldl one s
  { s with
    forwards := s.forwards ++ h.fwds.filterMap fun f => f.onto place
    barriers := s.barriers.map fun x => if x.seq = h.seq && x.scope == .sp then x.moved place else x }

/-- Slots of the save area: 0x21_0000 bytes each (R396). -/
def slotBytes : Nat := 0x210000

/-- The save area of a hitch's tenant, with its slots, as the dispatcher last read it (R396, R402). -/
def Hitch.saveArea (h : Hitch) : Nat × Nat := match h.ent with | some t => (t.saveb, t.slots) | none => (0, 0)

/-- Where the slots of a hitch begin. -/
def Hitch.slotBases (h : Hitch) : List Nat := h.area.map fun k => h.saveArea.1 + slotBytes * k

/-- A slot shares an address with an extent that a test chooses. -/
def State.slotMeets (s : State) (p : Extent → Bool) (base : Nat) : Bool :=
  s.extents.any fun x => p x && decide (base < x.base + x.len ∧ x.base < base + slotBytes)

/-- The placement of a launch waits at home while the extent closes that holds its tenant's entry or a slot that it resumes from
(R423). -/
def State.placeWaits (s : State) (h : Hitch) : Bool :=
  s.closingRange (s.tenAddr h.die h.tenant) || (h.state == .saved && h.slotBases.any (s.slotMeets fun x => x.closing))

/-- A saved launch reads a slot that lies in a released range: it binds POISON (R423). -/
def State.slotPoison (s : State) (h : Hitch) : Bool := h.state == .saved && h.slotBases.any (s.slotMeets fun x => x.released)

/-- A chosen launch that fits is placed: a new one starts, a saved one resumes. It waits while what it reads waits. DESIGN CHOICE: one
that binds POISON in its slots is killed, as one whose save faults is (R396, log entry 21). -/
def State.placeHitch (s : State) (q : Nat) (h : Hitch) (place : List (Option BenchId)) (shape : List BenchId) : State :=
  if s.placeWaits h then s
  else if s.slotPoison h then s.kill h.seq ⟨cPOISON, 0, 0, 0, 0⟩
  else
  let s := (s.unqueue h.seq).modDie h.die fun d =>
    { d with rr := vset d.rr (q / 16) (BitVec.ofNat 4 (q % 16 + 1)), waiting := d.waiting.filter fun x => x != h.seq }
  let s := s.readEntry h.die h.tenant
  let s := if h.state == .saved then s.restoreTeams h place else s.startTeams h place
  let order := s.hitches.foldl (fun m x => max m (x.placedAt + 1)) 0
  s.modHitch h.seq fun x =>
    { x with state := .running, placedAt := order, place := place, shape := shape, saved := [], fwds := [], area := [] }

/-! ### Saving (R182, R183, R277, R319, R332, R363, R383, R395) -/

/-- The tile of a plane is saved for replay (R277). An instruction of it that has not completed issues again after the replay, with what
it captured at its first issue (R245, R268). -/
def State.saveTile (s : State) (b : BenchId) : State :=
  (s.unreserve b).modBench b fun x =>
    let x := x.modEng .p fun e => { e with issued := false, step := 0, wait := none }
    x.modPlane fun p => { p with regs := p.point.getD p.regs, replay := some 0, sendLo := none, sendHi := none }

/-- An open tile has had its time. -/
def State.tileOverdue (s : State) (b : BenchId) : Bool :=
  let x := s.bench b
  x.plane.tile && (match x.stopping with | some t => decide (t + 2048 ≤ s.clk) | none => false)

/-- What a step of an event answers, or the state before it. -/
def orElse (s : State) : Out → State
  | .next t => t
  | _ => s

/-- What of a PFWD is in flight arrives: regions, which receivers that wait write, and acknowledgements (R277). -/
def State.finishForward (s : State) (f : Forward) : State :=
  let one (s : State) (r : BenchId × Nat) : State :=
    let t := if r.2 = 0 then s.stage f.src r.1 1 else if r.2 = 2 then s.stage f.src r.1 3 else s
    orElse t (t.resumeFwd r.1)
  let s := f.rx.foldl one s
  orElse s (s.resumeFwd f.src)

/-- A receiver of a PFWD in flight cannot come to its PFWD.rx any more: its P is held, has issued RDV, has a tile that has had its time, or
waits on something that the stopped hitch does not give it, another sender that has sent nothing or a receiver of its own that cannot come
to its PFWD.rx among them (log entry 29). -/
def State.barred (s : State) (b src : BenchId) : Nat → Bool
  | 0 => true
  | k + 1 =>
    let x := s.bench b
    let never : Bool := match x.p.cap with
      | some (w, _) =>
        (match decodeWord (.p w) with
        | .ok (.pfwdRx _ o) =>
          (match neighbour b (-(o.n.toNat : Int)) with
          | some q => q != src && !s.forwards.any fun f => f.src == q && f.rx.any fun r => r.1 == b && decide (r.2 < 3)
          | none => true)
        | .ok (.pfwd _ _) => s.forwards.any fun f => f.src == b && f.rx.any fun r => r.2 == 4 || (decide (r.2 < 3) && s.barred r.1 b k)
        | _ => false)
      | none => false
    x.p.held.isSome || x.p.rdv || x.p.abandon || s.tileOverdue b || (match x.p.wait with
      | some w => (match w.kind with | .fwd => never | .other => false | _ => true)
      | none => false)

/-- A PFWD in flight has completed at every receiver that can come to it (R277). -/
def State.forwardDone (s : State) (f : Forward) : Bool := f.rx.all fun r => decide (3 ≤ r.2) || s.barred r.1 f.src 8

/-- What a stopped team has issued completes: its loads bind, its buffers drain, V's atomics retire, its bands land (R182, R363). -/
def State.settleBench (s : State) (b : BenchId) : State :=
  let s := ((s.bench b).c.loads.map PendLoad.tag).foldl (fun s t => s.arriveTag b t) s
  let s := s.drainBench b false
  let s := s.landV b (s.bench b).vfly.length
  let mine := s.bands.filter fun r => r.1 == b
  let s := mine.foldl (fun s r => s.modBench b fun x => x.landBand r.2.1 r.2.2) { s with bands := s.bands.filter fun r => r.1 != b }
  if s.tileOverdue b then s.saveTile b else s

/-- An engine stands at an instruction boundary, or its instruction waits for what a stopped team does not give. -/
def Eng.stopped (e : Eng) : Bool := !e.issued || e.waits .queue || e.waits .fwd

/-- A stopped team can be saved: it has completed what it issued, and the stores of every stream are released at .mo (R182). -/
def State.savable (s : State) (b : BenchId) : Bool :=
  let x := s.bench b
  let released (q : Buf) (c : Fin 4) : Bool := s.releaseReady b q c .mo x.seq != .no
  x.c.loads.isEmpty && x.c.ctxs.toList.all Ctx.atBoundary && [0, 1, 2, 3].all (released .c) && released .s 0 && released .v 0
    && x.fab.isEmpty && x.vfly.isEmpty
    && x.l.stopped && x.p.stopped && x.v.stopped && x.s.stopped
    && (!x.plane.tile || (s.tileOverdue b && x.plane.replay == some 0))

/-- A context is saved: what it waits for is not issued, but a stall of a claim or a fill goes on, and so does a BWAIT (R150, R166, R168,
R171). -/
def Ctx.rest (k : Ctx) : Ctx :=
  let w := match k.wait with | some w => if w.kind == .claim || w.kind == .fill then some w else none | none => none
  { k.unissue with wait := w, phase := match k.phase with | .bwait g => .bwait g | _ => k.unissue.phase }

/-- A feed is saved without what it has fetched ahead and its translation (R319). -/
def Feed.toSave (f : Feed) : Feed := { f.discard with trans := none }

/-- A bench as it is saved (R183, R216, R319, R395): caches, TLB, translations and blocks fetched ahead are not. -/
def Bench.toSave (x : Bench) (now : Nat) : Bench :=
  let eng (e : Eng) : Eng := if e.issued then e else { e with step := 0 }
  let keep := match x.team with | some t => t.save | none => false
  let x := (((((x.land fun _ _ => true).dropRanges .l).dropRanges .p).dropRanges .v).dropRanges .s)
  let x := { x with
    stopping := none
    asks := []
    orphans := []
    l := eng x.l
    p := eng x.p
    v := eng x.v
    s := eng x.s
    feeds := x.feeds.map Feed.toSave
    banks := if keep then x.banks else Vector.replicate 16 []
    bankPoison := if keep then x.bankPoison else []
    l1 := []
    cc := []
    tlb := []
    ctr := Vector.replicate 7 0 }
  let x := x.modC fun u => { u with ctxs := u.ctxs.map Ctx.rest }
  x.turnOver now

/-- The team index of a bench, as a number of a bench. -/
def Hitch.teamOf (h : Hitch) (b : BenchId) : Option BenchId := (placeOf b.val (h.place.map fun p => match p with | some x => x.val | none => 768) 0).bind benchAt

/-- A forward between the teams of a hitch. -/
def Forward.ofTeams (f : Forward) (h : Hitch) : Option Forward :=
  (h.teamOf f.src).map fun t => { f with src := t, rx := f.rx.filterMap fun r => if r.2 = 4 then some r else (h.teamOf r.1).map fun q => (q, r.2) }

/-- Ranges hold every address from one on to another: the first lies in one of them, and so does the end of that, and so on. -/
def holdAll (ranges : List (Nat × Nat)) (hi : Nat) : Nat → Nat → Bool
  | 0, lo => decide (hi ≤ lo)
  | k + 1, lo =>
    if hi ≤ lo then true
    else match firstWhere (fun r : Nat × Nat => decide (r.1 ≤ lo ∧ lo < r.1 + r.2)) ranges with
      | some r => holdAll ranges hi k (r.1 + r.2)
      | none => false

/-- A slot lies in memory that exists, byte for byte: of the module, of extents, or of the host (R396, R426). -/
def State.slotOk (s : State) (base : Nat) : Bool :=
  let far := (s.extents.filter fun x => !x.released).map fun x => (x.base, x.len)
  let ranges := (0, 0xC000000000) :: far ++ s.hostRanges
  holdAll ranges (base + slotBytes) (ranges.length + 1) base

/-- A team is written into a slot: what the dispatcher writes there is a free value, and no copy of the slot's lines stays anywhere
(R183, R396, log entry 21). Each line of it is a request of the tenant at its home (R301, R302). -/
def State.saveSlot (ten : BitVec 6) (s : State) (base : Nat) : State :=
  let image := (Config.saveImage s.free).take slotBytes
  let s := (span (base / 128) ((image.length + 127) / 128)).foldl (fun s ln => s.passL2 (128 * ln) leafPhys ten) s
  let mine (ln : Nat) : Bool := decide (base / 128 ≤ ln ∧ ln ≤ (base + slotBytes - 1) / 128)
  { s with
    free := s.free + 1
    mem := Mem.writeAll s.mem base image
    backing := s.backing.filter fun l => !mine l.line
    dir := s.dir.filter fun e => !mine e.1
    benches := s.benches.map fun x => { x with l1 := x.l1.filter fun l => !mine l.line, cc := x.cc.filter fun l => !mine l.line }
    dies := s.dies.map fun d => { d with rdc := d.rdc.filter fun l => !mine l.line } }

/-- The teams of a hitch are saved, and their benches are free; a save that faults kills the hitch (R395, R396). -/
def State.saveHitch (s : State) (h : Hitch) : State :=
  let bs := h.benches
  let area := h.area.take bs.length
  let bases := { h with area := area }.slotBases
  if decide (area.length < bs.length) || !bases.all s.slotOk then s.kill h.seq ⟨0, 0, 0, 0, 0⟩
  else
    let s := bs.foldl (fun s b => (List.finRange 4).foldl (fun s c => s.dropWatch b c) s) s
    let saved := h.place.map fun p => p.map fun b => (s.bench b).toSave s.clk
    let fwds := (s.forwards.filter fun f => bs.contains f.src).filterMap fun f => f.ofTeams h
    let s := bases.foldl (State.saveSlot h.tenant) (bs.foldl State.freeBench s)
    s.modHitch h.seq fun x =>
      { x with state := .saved, saved := saved, fwds := fwds, area := area, place := h.place.map fun _ => none, shape := [] }

/-- A hitch that is being saved goes on with it, and is saved once every team has come to rest and no extent that holds its slots is
closing (R423). -/
def State.trySave (s : State) (seq : W64) : State :=
  match s.hitch seq with
  | none => s
  | some h =>
    if h.state != .saving then s
    else
      let s := { s with cur := { s.cur with late := false } }
      let s := (s.forwards.filter fun f => h.benches.contains f.src).foldl State.finishForward s
      let s := h.benches.foldl State.settleBench s
      let s := h.benches.foldl State.tryRetire s
      match s.hitch seq with
      | none => s
      | some h =>
        let mine := s.forwards.filter fun f => h.benches.contains f.src
        if h.state == .saving && h.benches.all s.savable && mine.all s.forwardDone
            && !(h.slotBases.any (s.slotMeets fun x => x.closing)) then s.saveHitch h
        else s

/-- The slots of a tenant in use on a die: those of its launches that are saved or being saved (R396). -/
def State.slotsUsed (s : State) (d : Fin 8) (ten : BitVec 6) : List Nat :=
  (s.hitches.filter fun h => h.die == d && h.tenant == ten && (h.state == .saving || h.state == .saved)).flatMap Hitch.area

/-- The free slots of a hitch's tenant, in rising order. -/
def State.slotsFree (s : State) (h : Hitch) : List Nat :=
  let used := s.slotsUsed h.die h.tenant
  (upTo h.saveArea.2).filter fun k => !used.contains k

/-- A hitch can be pre-empted beside others of a list: the slots of its tenant suffice (R396). -/
def State.slotsOk (s : State) (h : Hitch) (others : List Hitch) : Bool :=
  let more := sumNat ((others.filter fun x => x.tenant == h.tenant).map fun x => x.benches.length)
  decide (more + h.benches.length ≤ (s.slotsFree h).length)

/-- Pre-emption of a running hitch begins: every team stops and has a slot (R182, R395, R396), and the launch re-enters its queue
(R386). -/
def State.preempt (s : State) (h : Hitch) : State :=
  let area := (s.slotsFree h).take h.benches.length
  let s := h.benches.foldl (fun s b => s.modBench b fun x => { x with stopping := some s.clk }) s
  let s := s.modHitch h.seq fun x => { x with state := .saving, area := area }
  (s.enqueue h.die h true).trySave h.seq

/-- PREEMPT: the tenant's owner asks for a hitch, or a save in progress goes on (R395, R396). -/
def execPreempt (s : State) : Out :=
  let seq := BitVec.ofNat 64 s.cur.bring.tag
  match s.hitch seq with
  | none => .next s
  | some h =>
    match h.state with
    | .running => .next (if s.slotsOk h [] then s.preempt h else s)
    | .saving => .next (s.trySave seq)
    | _ => .next s

/-- TILE_PREEMPT_TIMEOUT (R277). -/
def execTilePreemptTimeout (s : State) : Out :=
  let b := s.cur.bring.bench
  .next (if s.tileOverdue b then (s.saveTile b).trySave (s.bench b).seqNo else s)

/-! ### Making room (R387) -/

/-- Insert a hitch in the order of pre-emption: the lowest priority first, then the one placed last. -/
def insertVictim (h : Hitch) : List Hitch → List Hitch
  | [] => [h]
  | x :: xs =>
    if h.prio.toNat < x.prio.toNat || (h.prio == x.prio && decide (x.placedAt < h.placedAt)) then h :: x :: xs
    else x :: insertVictim h xs

/-- The hitches to pre-empt, in order, until a launch fits. -/
def State.victims (s : State) (h : Hitch) (gone : List W64) : List Hitch → List Hitch → Option (List Hitch)
  | [], _ => none
  | x :: xs, taken =>
    if !s.slotsOk x taken then s.victims h gone xs taken
    else
      let taken := taken ++ [x]
      if (h.fit (s.freeBenches h.die (gone ++ taken.map Hitch.seq))).isSome then some taken else s.victims h gone xs taken

/-- Running hitches of lower priority are pre-empted until a launch fits, and none if it cannot fit even then; benches
that are being vacated count as room. -/
def State.makeRoom (s : State) (h : Hitch) : State :=
  let mine := s.hitches.filter fun x => x.die == h.die
  let gone := (mine.filter fun x => x.state == .saving).map Hitch.seq
  if (h.fit (s.freeBenches h.die gone)).isSome then s
  else
    let cands := (mine.filter fun x => x.state == .running && decide (x.prio.toNat < h.prio.toNat)).foldl
      (fun l x => insertVictim x l) []
    match s.victims h gone cands [] with
    | some vs => vs.foldl State.preempt s
    | none => s

/-- The saves in progress on a die go on. -/
def State.continueSaves (s : State) (d : Fin 8) : State :=
  ((s.hitches.filter fun h => h.die == d && h.state == .saving).map Hitch.seq).foldl State.trySave s

/-- The launch with which the dispatcher of a die goes on: one that waits for benches, unless a launch of higher priority is chosen
(R387). -/
def State.candidate (s : State) (d : Fin 8) : Option (Nat × Hitch) :=
  let waits := (s.die d).waiting.filterMap fun q => s.hitch q
  match firstWhere s.eligible waits, s.choose d with
  | some l, some (q, h) => if l.prio.toNat < h.prio.toNat then some (q, h) else some (runQueue l.prio l.tenant, l)
  | some l, none => some (runQueue l.prio l.tenant, l)
  | none, c => c

/-- A launch that does not fit waits, and room is made for it (R387). -/
def State.await (s : State) (d : Fin 8) (h : Hitch) : State :=
  let s := s.modDie d fun x =>
    { x with waiting := h.seq :: x.waiting.filter fun q => q != h.seq && (s.hitch q).isSome }
  s.makeRoom h

/-- DISPATCH_DECISION (R387, R392 to R394): the next launch is placed, or room is made for it. -/
def execDispatchDecision (s : State) : Out :=
  let d := s.cur.bring.die
  let s := (s.cancelDoomed s.hitches.length).continueSaves d
  match s.candidate d with
  | none => .next s
  | some (q, h) =>
    match h.fit (s.freeBenches d []) with
    | some (place, shape) => .next (s.placeHitch q h place shape)
    | none => .next (s.await d h)

/-- RESUME: the launch with which the dispatcher of a die goes on is a saved hitch, and it fits (R184, R397). -/
def execResume (s : State) : Out :=
  let d := s.cur.bring.die
  match s.candidate d with
  | none => .next s
  | some (q, h) =>
    if h.state != .saved then .next s
    else
      match h.fit (s.freeBenches d []) with
      | some (place, shape) => .next (s.placeHitch q h place shape)
      | none => .next s

/-- LAUNCH_AGEING (R388). -/
def execLaunchAgeing (s : State) : Out :=
  match s.hitch (BitVec.ofNat 64 s.cur.bring.tag) with
  | none => .next s
  | some h =>
    let waits := match h.state with | .queued => true | .saving => true | .saved => true | _ => false
    if waits && h.prio != 3 && decide (h.since + 2 ^ 24 ≤ s.clk) then
      let h' := { h with prio := h.prio + 1 }
      .next (((s.unqueue h.seq).modHitch h.seq fun _ => h').enqueue h.die h' false)
    else .next s

/-- HITCH_KILL: the tenant's owner, or firmware in answer to a SYSC, ends a hitch (R403, R404). The report shows a request: its
cause is 0 (R405). -/
def execHitchKill (s : State) : Out := .next (s.kill (BitVec.ofNat 64 s.cur.bring.tag) ⟨0, 0, 0, 0, 0⟩)

end Sys2Proof.Machine
end

