-- ==== Sys2Proof/Machine/HomeEv.lean ====
section
/-! DEFINITION. The events of the home side: reads, notices and acknowledgements of directory agents (R414 to R418),
host accesses and snoops (R409, R418), uncorrectable errors (R54, R419), extents (R423), channels, buckets and hot rows
(R301 to R303). -/

namespace Sys2Proof.Machine

/-! ### Directory agents (R413 to R418) -/

/-- An agent that the module has: an RDC, or an assigned CXL caching agent (R413, R417). -/
def State.hasAgent (s : State) (a : BitVec 6) : Bool := decide (a.toNat < 8) || s.agents.contains a

/-- RDC_FILL_READ (R299, R414, R423): an agent's read reaches home, which records it; it waits while the line is pending or its
extent closes, and a caching agent of a host reaches no module whose boot has failed (R460). The RDC of a die takes the copy. -/
def execRdcFillRead (s : State) : Out :=
  let a := s.cur.bring.agent
  let ln := s.cur.bring.pa / 128
  match s.homeDie (128 * ln) with
  | none => .next s
  | some h =>
    if s.pending ln || s.closingRange (128 * ln) || !s.hasAgent a || a.toNat == h.val || (decide (8 ≤ a.toNat) && !s.reachable) then .next s
    else
      let s := s.touchL2 (128 * ln) leafPhys 1 false s.cur.bring.tenant
      let (d, po) := s.line ln
      let s := if a.toNat < 8 then s.fillRdc (dieAt a.toNat) ⟨ln, d, po, false⟩ 1 else s
      .next (s.dirRead a ln)

/-- EVICTION_NOTICE (R414, R416): the agent has dropped the line; the notice answers a tracker that awaits the agent. -/
def execEvictionNotice (s : State) : Out :=
  let a := s.cur.bring.agent
  let ln := s.cur.bring.pa / 128
  .next ((s.dropRdc a ln).noticeFrom a ln).settleHome

/-- INVALIDATION_ACK (R415, R416): the agent has dropped the line; a tracker that has all its answers closes. -/
def execInvalidationAck (s : State) : Out :=
  let a := s.cur.bring.agent
  let ln := s.cur.bring.pa / 128
  if s.trackers.any fun t => t.line == ln && t.sent.contains a then
    .next ((s.dropRdc a ln).dirAnswer a ln false).settleHome
  else .next s

/-! ### Hosts (R409, R418, R440) -/

/-- A host is the owner (R440). -/
def State.owns (s : State) (h : BitVec 4) : Bool := s.mailbox.owner == some h

/-- The write of a host that is not the owner is discarded and logged (R422, R440). -/
def State.discardWrite (s : State) (h : BitVec 4) (pa : Nat) : State := s.logErr 0 pa 8 h.toNat

/-- HOST_MEM_READ (R414, R418): the read of a host's caching agent reaches home. -/
def execHostMemRead (s : State) : Out :=
  let a := s.cur.bring.agent
  let pa := s.cur.bring.pa
  match s.homeDie pa with
  | none => .next s
  | some _ =>
    if !s.reachable || a.toNat < 8 || !s.agents.contains a || s.pending (pa / 128) || s.closingRange pa then .next s
    else .next ((s.touchL2 pa leafPhys 1 false 0).dirRead a (pa / 128))

/-- HOST_MEM_WRITE (R418, R423, R440): the owner's write of bytes within a line performs at home as a store; another host's is
discarded and logged. -/
def execHostMemWrite (s : State) : Out :=
  let pa := s.cur.bring.pa
  let bs := s.cur.bring.bytes.take (128 - pa % 128)
  match s.homeDie pa with
  | none => .next s
  | some d =>
    if !s.reachable || bs.isEmpty then .next s
    else if !s.owns s.cur.bring.host then .next (s.discardWrite s.cur.bring.host pa)
    else if s.closingRange pa then .next s
    else if s.releasedRange pa then .next (s.logErr d pa 6 0)
    else
      match s.dirStore (pa / 128) (s.homeOf leafPhys (pa / 128)) with
      | none => .next s
      | some s => .next ((s.touchL2 pa leafPhys 1 false 0).writeHome none pa (bs.map some))

/-- A bench's L1 loses a line. -/
def Bench.dropL1 (ln : Nat) (x : Bench) : Bench := { x with l1 := x.l1.filter fun l => l.line != ln }

/-- A bench's L1 and its constant cache lose a line. -/
def Bench.dropCopy (ln : Nat) (x : Bench) : Bench := { x.dropL1 ln with cc := x.cc.filter fun l => l.line != ln }

/-- HOST_SNOOP (R144, R409, R438): the host takes a host line away: the module's copies go, its watches wake, and the
host may write the line. -/
def execHostSnoop (s : State) : Out :=
  let ln := s.cur.bring.pa / 128
  let bs := s.cur.bring.bytes.take 128
  if s.region (128 * ln) != .host then .next s
  else
    let s := s.dropSharers ln
    let s := { s with
      hostHeld := s.hostHeld.filter fun x => x != ln
      benches := s.benches.map (Bench.dropL1 ln)
      mem := Mem.writeAll s.mem (128 * ln) bs }
    .next (s.wakeLine ln)

/-! ### Errors (R54, R419, R422) -/

/-- SRAM_UNCORRECTABLE_ERROR (R54): a sector of a bank is poisoned, and the error is logged. With `hi` the error is a correctable
one: it is corrected and logged, and sets nothing. -/
def execSramUncorrectableError (s : State) : Out :=
  let b := s.cur.bring.bench
  let p := (s.cur.bring.n % 16, s.cur.bring.pa % 4096)
  let put (x : Bench) : Bench := { x with bankPoison := if x.bankPoison.contains p then x.bankPoison else p :: x.bankPoison }
  let s := if s.cur.bring.hi then s else s.modBench b put
  .next (s.logErr (dieOf b) 0 2 (s.bench b).tenant.toNat)

/-- Every cached copy of a line at its home goes, its sharers' copies too. -/
def State.dropHome (s : State) (ln : Nat) : State :=
  { (s.dropSharers ln) with l2 := s.l2.filter fun x => x.line != ln, msc := s.msc.filter fun x => x.line != ln }

/-- MEMORY_UNCORRECTABLE_ERROR (R419, R422): an uncorrectable error, as the event's number says, in what a read of memory
gives (0), in a copy in L2 or the MSC (1), in a store path (2), or in a copy in a bench's L1 or constant cache or its die's RDC, which is
clean (3), of a line of another module or of the host as well. A clean copy is dropped and logged; otherwise the sector is poisoned and
logged. -/
def execMemoryUncorrectableError (s : State) : Out :=
  let br := s.cur.bring
  let pa := br.pa
  let ln := pa / 128
  let ten := br.tenant.toNat
  let held := s.l2.any (fun x => x.line == ln) || s.msc.any fun x => x.line == ln
  let die := dieOf br.bench
  let copied := (s.bench br.bench).l1.any (fun c => c.line == ln) || (s.bench br.bench).cc.any (fun c => c.line == ln)
    || (s.die die).rdc.any fun c => c.line == ln
  if br.n % 4 = 3 then
    .next (if copied then
      ((s.modBench br.bench (Bench.dropCopy ln)).modDie die fun x => { x with rdc := x.rdc.filter fun c => c.line != ln }).logErr die pa 2 ten
    else s)
  else
    match s.homeDie pa with
    | none => .next s
    | some d =>
      let poisons (kind : Nat) : Out := .next ((s.setPoison (pa / 32) true).logErr d pa kind ten)
      match br.n % 4 with
      | 0 => if held then .next s else poisons 1
      | 1 => if !held then .next s else if s.dirty ln then poisons 2 else .next ((s.dropHome ln).logErr d pa 2 ten)
      | _ => poisons 2

/-! ### Dynamic-capacity extents (R423) -/

/-- Two ranges share an address. -/
def meets (a n b m : Nat) : Bool := decide (a < b + m ∧ b < a + n)

/-- What is left of an extent outside a range. -/
def Extent.outside (x : Extent) (a n : Nat) : List Extent :=
  if !meets a n x.base x.len then [x]
  else
    (if x.base < a then [{ x with len := a - x.base }] else []) ++
    (if a + n < x.base + x.len then [{ x with base := a + n, len := x.base + x.len - (a + n) }] else [])

/-- DC_EXTENT_ADD (R423): an extent of far memory, whose sectors start clear; what it does not cover of a released one stays
released. -/
def execDcExtentAdd (s : State) : Out :=
  let base := s.cur.bring.pa / 128 * 128
  let len := s.cur.bring.len / 128 * 128
  let inSpace := decide (0x10000000000 ≤ base ∧ base + len ≤ 0x400000000000 ∧ 0 < len)
  if !inSpace || s.extents.any (fun x => meets base len x.base x.len && !x.released) then .next s
  else
    .next { s with
      extents := ⟨base, len, s.cur.bring.die.val, false, false⟩ :: s.extents.flatMap fun x => x.outside base len
      poison := s.poison.filter fun x => !meets base len (32 * x) 32 }

/-- A line lies in an extent. -/
def Extent.holds (x : Extent) (ln : Nat) : Bool := decide (x.base ≤ 128 * ln ∧ 128 * ln < x.base + x.len)

/-- Every sharer of a line is invalidated through a tracker of the slice that holds the line, if one is free (R415, R423). -/
def State.recallLine (s : State) (ln : Nat) : State :=
  match s.dirStore ln (s.homeOfCopy ln) with | some t => t | none => s

/-- A dirty line of a forcibly released extent is dropped, so that memory holds what it held at the last write-back, and logged
(R423). -/
def State.dropDirty (d : Fin 8) (s : State) (l : Backing) : State :=
  (s.restoreLine l.line l.data l.poison).logErr d (128 * l.line) 3 0

/-- DC_EXTENT_RELEASE (R423): fills stop and sharers are recalled; once no tracker of the extent is open, its lines are
written back, or on a forced release (`hi`) dropped, and the release is acknowledged. -/
def execDcExtentRelease (s : State) : Out :=
  let forced := s.cur.bring.hi
  match firstWhere (fun x => x.base == s.cur.bring.pa && !x.released) s.extents with
  | none => .next s
  | some x =>
    let close (y : Extent) : Extent := if y == x then { y with closing := true } else y
    let s := { s with extents := s.extents.map close }
    let s := ((s.dir.map Prod.fst).filter x.holds).foldl State.recallLine s
    if (s.trackers.any fun t => x.holds t.line) || (s.dir.any fun e => x.holds e.1) then .next s
    else
      let s := if forced then (s.backing.filter fun l => x.holds l.line).foldl (State.dropDirty (dieAt x.die)) s else s
      let rest := s.extents.filter fun y => y.base != x.base
      .next { s with
        backing := s.backing.filter fun l => !x.holds l.line
        l2 := s.l2.filter fun l => !x.holds l.line
        msc := s.msc.filter fun l => !x.holds l.line
        extents := if forced then { x with closing := false, released := true } :: rest else rest }

/-! ### Channels (R301) -/

/-- A pseudo-channel, Active since reset if nothing has used it (log entry 5). -/
def State.chan (s : State) (d : Fin 8) (c : Nat) : Chan :=
  (firstWhere (fun x => x.die == d.val && x.chan == c) s.chans).getD ⟨d.val, c, 0, 0⟩

/-- A pseudo-channel that has been idle for a time enters a state. -/
def State.rest (s : State) (d : Fin 8) (c : Nat) (idle : Nat) (st : BitVec 2) : State :=
  let x := s.chan d c
  if x.state.toNat < st.toNat && decide (x.last + idle ≤ s.clk) then
    { s with chans := { x with state := st } :: s.chans.filter fun y => !(y.die == d.val && y.chan == c) }
  else s

/-- CHANNEL_POWER_DOWN (R301). -/
def execChannelPowerDown (s : State) : Out := .next (s.rest s.cur.bring.die (s.cur.bring.n % 128) 64 1)

/-- CHANNEL_SELF_REFRESH (R301). -/
def execChannelSelfRefresh (s : State) : Out := .next (s.rest s.cur.bring.die (s.cur.bring.n % 128) (2 ^ 18) 2)

/-! ### Hot rows (R303) -/

/-- A tenant has activated a row 256 times within 2^16 clk (R303). -/
def State.hot (s : State) (d : Fin 8) (chan row : Nat) (ten : BitVec 6) : Bool :=
  decide (256 ≤ (s.rowActs.filter fun r =>
    r.die == d.val && r.chan == chan && r.row == row && r.tenant == ten && decide (s.clk < r.at_ + 2 ^ 16)).length)

/-- HOT_ROW_THROTTLE (R303): the activations of a row by a tenant that has activated it 256 times are throttled for 2^16 clk,
which changes their timing alone (log entry 15). -/
def execHotRowThrottle (s : State) : Out :=
  let br := s.cur.bring
  let chan := br.n % 128
  let mine (r : HotRow) : Bool := r.die == br.die.val && r.chan == chan && r.row == br.pa && r.tenant == br.tenant
  .next (if s.hot br.die chan br.pa br.tenant then
    { s with hotRows := ⟨br.die.val, chan, br.pa, br.tenant, s.clk + 2 ^ 16⟩ :: s.hotRows.filter fun r => !mine r }
  else s)

/-- HOT_ROW_THROTTLE_END (R303). -/
def execHotRowThrottleEnd (s : State) : Out := .next { s with hotRows := s.hotRows.filter fun r => decide (s.clk < r.till) }

/-! ### Token buckets (R302) -/

/-- TOKEN_BUCKET_GAIN (R302): the clk that have passed at the port of a slice act on its buckets, each once (log entry 15). -/
def execTokenBucketGain (s : State) : Out := .next (s.portTo s.cur.bring.die (s.cur.bring.n % 384))

end Sys2Proof.Machine
end

