-- ==== Sys2Proof/Machine/Fabric.lean ====
section
/-! DEFINITION. The events of the fabric (R428 to R437, R441, R459): packets accepted and acknowledged, routes, replays,
lost modules, links, the module's identity. -/

namespace Sys2Proof.Machine

/-! ### Acceptance (R428 to R432, R436) -/

/-- A response leaves for a module, with the poison of the sectors that it comes from (R419); none while the retry buffer is full
(R431). -/
def State.respond (s : State) (p : Packet) (tag val : Nat) (po : BitVec 4) : Option State :=
  if s.mayRetry then some (s.sendFlow p.smod 1 p.ten 5 (.data tag (BitVec.ofNat 1024 val) po)).1 else none

/-- The poison of the sectors of a line that hold some of the bytes of an access. -/
def State.poisonOf (s : State) (pa n : Nat) : BitVec 4 :=
  bitsFrom 4 fun i => let sec := 4 * (pa / 128) + i; s.poison.contains sec && decide (32 * sec < pa + n ∧ pa < 32 * sec + 32)

/-- A flow into this module. -/
def State.inFlow (s : State) (m : BitVec 14) (ch : BitVec 2) : InFlow :=
  (firstWhere (fun f => f.smod == m && f.ch == ch) s.inFlows).getD ⟨m, ch, 0, []⟩

/-- Replace a flow into this module. -/
def State.setInFlow (s : State) (f : InFlow) : State :=
  { s with inFlows := f :: s.inFlows.filter fun g => !(g.smod == f.smod && g.ch == f.ch) }

/-- The store or atomic of a packet joins those that have not reached the .ho point, while its line is pending. -/
def State.notePending (s : State) (p : Packet) (ln : Nat) : State :=
  if s.pending ln then
    let f := s.inFlow p.smod p.ch
    s.setInFlow { f with pending := f.pending ++ [(p.seq, ln)] }
  else s

/-- A load of another module performs at home: a registration of WATCH if it has no bytes (R428). -/
def State.remoteLoad (s : State) (p : Packet) (pa size tag : Nat) : Option State :=
  let ln := pa / 128
  if size = 0 then
    let home := s.homeOf leafPhys ln
    (s.addWatch ⟨ln, home.1, home.2, 0, 0, some (p.smod, tag)⟩).respond p tag 0 0
  else if s.pending ln then none
  else
    let s := s.touchL2 pa leafPhys 1 false p.ten
    s.respond p tag (Mem.nat s.mem pa (min size 128)) (s.poisonOf pa (min size 128))

/-- A store of another module performs at home (R428). -/
def State.remoteStore (s : State) (p : Packet) (pa : Nat) (bs : List (Option Byte)) : Option State :=
  let ln := pa / 128
  match s.dirStore ln (s.homeOf leafPhys ln) with
  | none => none
  | some s => some (((s.touchL2 pa leafPhys 1 false p.ten).writeHome none pa bs).notePending p ln)

/-- An atomic of another module performs at home, which first fills the line (R407, R420, R428). -/
def State.remoteAtomic (s : State) (p : Packet) (pa : Nat) (op : AtomOp) (size : Nat) (b ex : W128) (tag : Nat) : Option State :=
  let ln := pa / 128
  let old := Mem.nat s.mem pa size
  if s.poisoned pa size then (s.touchL2 pa leafPhys 1 false p.ten).respond p tag 0 (s.poisonOf pa size)
  else if op = .cas && old != ex.toNat then (s.touchL2 pa leafPhys 1 false p.ten).respond p tag old 0
  else
    match s.dirStore ln (s.homeOf leafPhys ln) with
    | none => none
    | some s =>
      let new := atomF op (8 * size) old b.toNat ex.toNat
      let s := (s.touchL2 pa leafPhys 1 false p.ten).writeHome none pa ((leBytes size new).map some)
      (s.notePending p ln).respond p tag old 0

/-- A partial of another module combines at the home of its slot, and is answered (R360, R411, R420, R428). -/
def State.remoteRedt (s : State) (p : Packet) (n : Node) (tag : Nat) : Option State :=
  let s := s.passL2 n.slot leafPhys p.ten
  if s.poisoned n.slot 64 then s.respond p tag 0 (s.poisonOf n.slot 64)
  else
    match s.combine n with
    | none => none
    | some s => (s.notePending p (n.slot / 128)).respond p tag 0 0

/-- A wake comes for a registration of a context of this module: beside the response that the context has not taken yet, or for
the watch that it holds; a watch that has been replaced has nothing to wake (R143, R144, R428). -/
def State.remoteWake (s : State) (tag : Nat) : State :=
  if s.responses.any fun r => r.tag == tag then
    { s with responses := s.responses.map fun r => if r.tag == tag then { r with val := 1 } else r }
  else
    match benchAt (tagWho tag) with
    | none => s
    | some b => (List.finRange 4).foldl (fun s c => if ((s.bench b).ctx c).wtag.map Prod.snd == some tag then s.wakeCtx b c else s) s

/-- What a packet does at this module; none while it waits at home (R412, R415, R428). -/
def State.perform (s : State) (p : Packet) : Option State :=
  match p.body with
  | .load pa size tag => s.remoteLoad p pa size tag
  | .store pa bs => s.remoteStore p pa bs
  | .atomic pa op size b ex tag => s.remoteAtomic p pa op size b ex tag
  | .redt slot lo lg val tag => s.remoteRedt p ⟨slot, lo.toNat, lg.toNat, val, s.homeOf leafPhys (slot / 128)⟩ tag
  | .data tag val po =>
    some (if s.awaited.any fun r => r.1 == tag then
      { s with
        awaited := s.awaited.filter fun r => r.1 != tag
        responses := s.responses ++ [⟨tag, val, if po = 0 then 0 else cPOISON, po⟩] }
    else s)
  | .wake tag => some (s.remoteWake tag)
  | .ack _ _ _ => some s
  | .mgmt => some s

/-- KIND and channel of a payload (R429). -/
def bodyKindOk (b : Body) (kind : Byte) (ch : BitVec 2) : Bool :=
  match b with
  | .load _ _ _ => kind == 1 && ch == 0
  | .store _ _ => kind == 2 && ch == 0
  | .atomic _ _ _ _ _ _ => kind == 3 && ch == 0
  | .redt _ _ _ _ _ => kind == 4 && ch == 0
  | .data _ _ _ => kind == 5 && ch == 1
  | .wake _ => kind == 7 && ch == 1
  | .ack _ _ _ => false
  | .mgmt => kind == 7 && ch == 2

/-- The address that a request names lies in module memory (R427, R428). -/
def bodyInMemory (b : Body) : Bool :=
  match b with
  | .load pa size _ => decide (pa + size ≤ 0xC000000000)
  | .store pa bs => decide (pa + bs.length ≤ 0xC000000000)
  | .atomic pa _ size _ _ _ => decide (pa + size ≤ 0xC000000000)
  | .redt slot _ _ _ _ => decide (slot + 64 ≤ 0xC000000000)
  | _ => true

/-- FABRIC_PACKET_ACCEPT (R432): the next packet of its flow is performed and acknowledged, unless it waits at home; a
duplicate has no effect but another acknowledgement; a later one is discarded. A module whose boot has failed accepts none (R460). -/
def execFabricPacketAccept (s : State) : Out :=
  let p := s.cur.bring.packet
  let f := s.inFlow p.smod p.ch
  if !s.reachable || p.resv || p.dmod != s.fabid || !bodyKindOk p.body p.kind p.ch || !bodyInMemory p.body then .next s
  else if p.seq = f.expect then
    match s.perform p with
    | none => .next s
    | some t =>
      let g := t.inFlow p.smod p.ch
      let g := { g with expect := p.seq + 1 }
      .next ((t.setInFlow g).sendAck g)
  else if seqCovers f.expect p.seq then .next (s.sendAck f)
  else .next s

/-! ### Acknowledgements (R431, R434) -/

/-- PERF of the request flow to a module covers a packet that has left (R431). -/
def StEntry.performedBy (e : StEntry) (m : BitVec 14) (perf : W32) : Bool :=
  match e.sent with | some (d, q) => d == m && seqCovers perf q | none => false

/-- Stores, atomics and partials of a bench that PERF of the request flow to a module covers have performed there (R431). -/
def Bench.perf (m : BitVec 14) (perf : W32) (x : Bench) : Bench :=
  { x with
    fab := x.fab.filter fun e => !e.2.performedBy m perf
    orphans := x.orphans.filter fun e => !e.2.performedBy m perf }

/-- Wakes that have waited for room in the retry buffer leave, as far as it has room (R431). -/
def State.flushWakes (s : State) : State :=
  s.wakesOut.foldl (fun s w => s.sendWake w.1 w.2) { s with wakesOut := [] }

/-- A number that is not older than the one received before (R431). -/
def newer (old : Option W32) (x : W32) : Option W32 :=
  match old with | some a => if seqCovers x a then some x else some a | none => some x

/-- FABRIC_ACK_RECEIVE (R431); a reset that waits for stores may come to its end (R462). -/
def execFabricAckReceive (s : State) : Out :=
  let p := s.cur.bring.packet
  match p.body with
  | .ack ch acc perf =>
    if p.kind != 6 || p.ch != 1 || p.dmod != s.fabid || p.resv then .next s
    else
      let got (f : OutFlow) : OutFlow :=
        if f.dmod == p.smod && f.ch == ch then
          { f with acc := newer f.acc acc, perf := newer f.perf perf, retry := f.retry.filter fun r => !seqCovers acc r.1.seq }
        else f
      let s := { s with outFlows := s.outFlows.map got }
      .next (if ch = 0 then { s with benches := s.benches.map (Bench.perf p.smod perf) } else s).flushWakes.tryReset
  | _ => .next s

/-! ### Routers and versions (R429, R433, R434) -/

/-- ROUTER_PACKET (R429, R433): the module's router sends a packet on, `n` units of time older, or discards it; one with a
reserved KIND or field it logs (log entry 31). -/
def execRouterPacket (s : State) : Out :=
  let p := s.cur.bring.packet
  let age := p.age.toNat + s.cur.bring.n
  let bad := p.resv || p.kind == 0 || decide (7 < p.kind.toNat) || p.ch == 3
  let stale := p.ver != s.fver.extractLsb' 0 4 || decide (4096 ≤ age)
  .next (if bad then { s with routerLog := s.routerLog ++ [p] }
    else if stale then s
    else { s with egress := s.egress ++ [{ p with age := BitVec.ofNat 12 age }] })

/-- The unacknowledged packets of a flow are sent again under the current version (R434). -/
def OutFlow.replay (f : OutFlow) (ver : BitVec 4) (now : Nat) : OutFlow :=
  { f with retry := f.retry.map fun r => ({ r.1 with ver := ver }, now) }

/-- The identities of a list of bytes, two each. -/
def identities (bs : List Byte) : List (BitVec 14) :=
  (upTo (bs.length / 2)).map fun k => BitVec.ofNat 14 (leNat ((bs.drop (2 * k)).take 2))

/-- ROUTE_VERSION_INSTALL (R427, R433, R434): tables with the next version, which give some identities no route, at least
2^23 clk after the last. -/
def execRouteVersionInstall (s : State) : Out :=
  let soon := match s.verAt with | some t => decide (s.clk < t + 2 ^ 23) | none => false
  if soon then .next s
  else
    let v := s.fver + 1
    .next { s with
      fver := v
      verAt := some s.clk
      noRoute := identities s.cur.bring.bytes
      outFlows := s.outFlows.map fun f => f.replay (v.extractLsb' 0 4) s.clk }

/-- REPLAY_TIMEOUT (R434): the oldest unacknowledged packet of a flow has waited 2^20 clk. -/
def execReplayTimeout (s : State) : Out :=
  let mine (f : OutFlow) : Bool := f.dmod == s.cur.bring.module && f.ch == s.cur.bring.flow
    && (match f.retry with | r :: _ => decide (r.2 + 2 ^ 20 ≤ s.clk) | [] => false)
  .next { s with outFlows := replaceFirst mine (fun f => f.replay (s.fver.extractLsb' 0 4) s.clk) s.outFlows }

/-! ### Lost modules (R427, R435) -/

/-- What a bench, or a team that it had, has on its way to a lost module is lost; stores are logged, and a release that covers one of
them, or awaits the PERF of an atomic, cannot take effect (R435). -/
def State.loseBench (s : State) (m : BitVec 14) (b : BenchId) : State :=
  let mine (e : Buf × StEntry) : Bool := match e.2.sent with | some (d, _) => d == m | none => false
  let gone := (s.bench b).orphans.filter mine ++ (s.bench b).fab.filter mine
  if gone.isEmpty then s
  else
    let s := s.modBench b fun x => { x with
      fab := x.fab.filter fun e => !mine e
      orphans := x.orphans.filter fun e => !mine e }
    gone.foldl (fun s e =>
      (match e.2.kind with | .store => s.logErr (dieOf b) e.2.pa 6 e.2.leaf.owner.toNat | _ => s).modBench b fun x => x.loseStore e.2) s

/-- The registration of a watch that a context awaits or has not taken yet: its module and its tag there. -/
def Ctx.registering (k : Ctx) : Option (BitVec 14 × Nat) :=
  match k.phase, k.wait with
  | .remote tag _ _ _ m, some w => (match decodeWord (.c (w.word.setWidth 32)) with | .ok (.watch _) => some (m, tag) | _ => none)
  | _, _ => none

/-- Contexts of a bench whose watch is registered in a lost module wake, one that has not taken the response yet as soon as it does
(R428). -/
def State.loseWatches (s : State) (m : BitVec 14) (b : BenchId) : State :=
  (List.finRange 4).foldl (fun s c =>
    let k := (s.bench b).ctx c
    if k.wtag.map Prod.fst == some m then s.wakeCtx b c
    else match k.registering with
      | some (d, tag) => if d == m then s.remoteWake tag else s
      | none => s) s

/-- MODULE_LOST (R435): windows that name the module are marked, accesses that await it fail with FABRIC, stores that no
PERF covers are dropped; a reset that waits for them may come to its end (R462). -/
def execModuleLost (s : State) : Out :=
  let m := s.cur.bring.module
  let s := (List.finRange 768).foldl (fun s b => (s.loseBench m b).loseWatches m b) s
  let mark (r : W64) : W64 := if r.extractLsb' 0 14 = m then r ||| (1#64 <<< 62) else r
  let t : State := { s with
    noRoute := if s.noRoute.contains m then s.noRoute else m :: s.noRoute
    fwin := s.fwin.map mark
    outFlows := s.outFlows.map fun f => if f.dmod == m then { f with retry := [] } else f
    responses := s.responses ++ (s.awaited.filter fun r => r.2 == m).map fun r => ⟨r.1, 0, cFABRIC, 0⟩
    awaited := s.awaited.filter fun r => r.2 != m
    wakesOut := s.wakesOut.filter fun w => w.1 != m
    watches := s.watches.filter fun w => w.remote.map Prod.fst != some m }
  .next t.flushWakes.tryReset

/-! ### Links (R441, R459) -/

/-- A connector's state rises: the entry of the log is written first (R459). -/
def State.raiseLink (s : State) (l : Nat) (st : BitVec 2) : State :=
  if (vget s.links l ⟨0, 0⟩).state.toNat < st.toNat then
    let s := s.logErr 0 0 7 l
    { s with links := vmod s.links l fun k => { k with state := st } }
  else s

/-- LINK_STATE_RISE (R459): what a connector reports, a margin, and a state, which only rises. -/
def execLinkStateRise (s : State) : Out :=
  let l := s.cur.bring.n
  .next (if l < 48 then
    { s with links := vmod s.links l fun k => { k with margin := BitVec.ofNat 8 s.cur.bring.len } }.raiseLink l
      (s.cur.bring.val.extractLsb' 0 2)
  else s)

/-- LINK_DEATH (R441, R459): a link that fails steps to state 3, and its end detects the failure. -/
def execLinkDeath (s : State) : Out :=
  let l := s.cur.bring.n
  if 48 ≤ l then .next s
  else
    let s := s.raiseLink l 3
    .next { s with linksDead := if s.linksDead.contains l then s.linksDead else l :: s.linksDead }

/-- LINK_RETRAIN (R459). -/
def execLinkRetrain (s : State) : Out :=
  let l := s.cur.bring.n
  .next { s with
    links := vset s.links l ⟨BitVec.ofNat 8 s.cur.bring.len, 0⟩
    linksDead := s.linksDead.filter fun x => x != l }

/-! ### Identity (R437, R460) -/

/-- FABID_ASSIGN (R437, R460): once, after boot, and not once it has failed. -/
def execFabidAssign (s : State) : Out :=
  .next (if s.fabidSet || !s.reachable || s.bootStage != 2 then s else { s with fabid := s.cur.bring.module, fabidSet := true })

end Sys2Proof.Machine
end

