-- ==== Sys2Proof/Machine/HostEv.lean ====
section
/-! DEFINITION. The events of registers, power, hosts and bring-up: writes of device registers (R296 to R298, R426, R427,
R457), the power cap and telemetry (R456 to R458), the mailbox (R439, R440, R461), boot and resets (R460, R462). -/

namespace Sys2Proof.Machine

/-! ### The mailbox (R439, R440) -/

/-- The mailbox has an owner, or none. -/
def State.setOwner (s : State) (h : Option (BitVec 4)) : State := { s with mailbox := { s.mailbox with owner := h } }

/-- The submission of the mailbox's record, by R391 with TEN as the tenant: it waits while the run queue is full, or for bytes of
another module, and RES is written before GO reads as 0 (R386, R391, R440). -/
def State.submitMail (s : State) : State :=
  let m := s.mailbox
  let d := dieAt m.die.toNat
  let r := recordWords (lineBytes m.record)
  let s := { s with mailbox := { m with go := true } }
  if !s.queueRoom d (runQueue (ctlPrio (recWord r 6)) m.ten) then s
  else
    match s.accept .mail d m.ten r with
    | (t, none) => t
    | (t, some q) => { t with mailbox := { t.mailbox with res := q, go := false } }.dropAsks .mail

/-- A host's 64-bit write to the mailbox, which it may do (R439, R440, R461). -/
def State.hostMail (s : State) (h : BitVec 4) (o : Nat) (val : W64) : State :=
  let m := s.mailbox
  if o = 8 then (if m.owner.isNone then s.setOwner (some h) else s)
  else if o = 0x10 then s.setOwner (if val.getLsbD 4 then none else some (val.extractLsb' 0 4))
  else if o = 0x180 then (let s := s.mailWrite o val; if val.getLsbD 63 then s.submitMail else s)
  else if 0x400 ≤ o ∧ o < 0x420 then
    if m.attest then s
    else
      let w := 8 * (o - 0x400)
      let keep : BitVec 256 := ~~~((BitVec.allOnes 64).setWidth 256 <<< w)
      { s with mailbox := { m with nonce := (m.nonce &&& keep) ||| (val.setWidth 256 <<< w) } }
  else if o = 0x420 then (if val.getLsbD 0 then { s with mailbox := { m with attest := true } } else s)
  else s.mailWrite o val

/-- A write that a host which is not the owner may not do: the control pages and the mailbox but for CLAIM and an
attestation request, and module memory (R440, R461). -/
def State.ownersOnly (s : State) (pa : Nat) : Bool :=
  match s.region pa with
  | .device => !(decide (0xFF00100008 ≤ pa ∧ pa < 0xFF00100010) || decide (0xFF00100400 ≤ pa ∧ pa < 0xFF00100428))
  | .mem _ => true
  | .extent _ _ => true
  | _ => false

/-- A host's 64-bit write to a retention register's CTL: as a team's, but a host has no tenant with which a range could be translated,
and an enabling write is refused (R296, log entry 49). -/
def State.hostRetn (s : State) (d : Fin 8) (n : Nat) (val : W64) : State :=
  let r := vget (s.die d).retn n ⟨0, 0, 0, false, false, 0, 0, 0⟩
  if val.getLsbD 0 then (if r.en then s else s.retnRefuse d n val r.tenant) else s.retnClear d n val

/-- A host's write to device space that only the owner may make, and the host is not the owner (R440). -/
def State.hostBarred (s : State) (h : BitVec 4) (pa : Nat) : Bool := devicePopulated pa && s.ownersOnly pa && !s.owns h

/-- A host's 64-bit write to device space: nothing while boot has failed, discarded and logged of a host that is not the owner
where only the owner may write, whatever its alignment (R426, R440, R460). -/
def State.hostWrite (s : State) (h : BitVec 4) (pa : Nat) (val : W64) : State :=
  let o := pa % 65536
  if !s.reachable || !devicePopulated pa then s
  else if s.hostBarred h pa then s.discardWrite h pa
  else if pa % 8 != 0 then s
  else if 0xFF00100000 ≤ pa then s.hostMail h o val
  else if 0x100 ≤ o ∧ o < 0x180 ∧ o % 0x20 = 0x10 then s.hostRetn (dieAt ((pa - 0xFF00000000) / 65536)) ((o - 0x100) / 0x20) val
  else s.pageWrite (dieAt ((pa - 0xFF00000000) / 65536)) o val 0

/-- CLAIM (R440, R460). -/
def execClaim (s : State) : Out := .next (s.hostWrite s.cur.bring.host 0xFF00100008 0)

/-- OWNER_HANDOVER (R440): the owner hands ownership to host TO. -/
def execOwnerHandover (s : State) : Out := .next (s.hostWrite s.cur.bring.host 0xFF00100010 (0#60 ++ s.cur.bring.dest))

/-- OWNER_RELEASE (R440). -/
def execOwnerRelease (s : State) : Out := .next (s.hostWrite s.cur.bring.host 0xFF00100010 0x10)

/-- OWNER_LINK_DOWN (R440): the link of a host reports down. -/
def execOwnerLinkDown (s : State) : Out := .next (if s.owns s.cur.bring.host then s.setOwner none else s)

/-- GO (R440): the owner submits, or its submission goes on. -/
def execGo (s : State) : Out :=
  .next (s.hostWrite s.cur.bring.host 0xFF00100180 (1#1 ++ 0#53 ++ s.mailbox.ten ++ 0#1 ++ s.mailbox.die))

/-- NON_OWNER_WRITE_DISCARD (R422, R440). -/
def execNonOwnerWriteDiscard (s : State) : Out :=
  let br := s.cur.bring
  .next (if s.reachable && !s.owns br.host && s.ownersOnly br.pa then s.discardWrite br.host br.pa else s)

/-! ### Writes of registers -/

/-- RETN_ENABLE (R296): a team's 64-bit store to CTL with EN set, under its tenant; it waits while the walk of its range's page does
(R187). -/
def execRetnEnable (s : State) : Out :=
  let br := s.cur.bring
  .next (if !s.reachable || !br.val.getLsbD 0 then s
    else if s.retnWaits br.die (br.n % 4) br.val br.tenant then (s.retnCheck br.die (br.n % 4) br.val br.tenant).1
    else s.retnCtl br.die (br.n % 4) br.val br.tenant)

/-- RETN_DISABLE (R296, R298): a 64-bit store to CTL with EN clear. -/
def execRetnDisable (s : State) : Out :=
  let br := s.cur.bring
  .next (if s.reachable && !br.val.getLsbD 0 then s.retnCtl br.die (br.n % 4) br.val br.tenant else s)

/-- FWIN_WRITE (R427). -/
def execFwinWrite (s : State) : Out :=
  .next (s.hostWrite s.cur.bring.host (0xFF00000A00 + 8 * (s.cur.bring.n % 128)) s.cur.bring.val)

/-- DCAP_WRITE (R457). -/
def execDcapWrite (s : State) : Out :=
  .next (s.hostWrite s.cur.bring.host (0xFF00000E00 + 0x10000 * s.cur.bring.die.val) s.cur.bring.val)

/-- REGISTER_WRITE (R426): a host's write of `len` bytes to a register; one narrower than 64 bits changes nothing, and one wider neither
(log entry 33), but each of a host that is not the owner is logged (R440). -/
def execRegisterWrite (s : State) : Out :=
  let br := s.cur.bring
  .next (if br.len = 8 then s.hostWrite br.host br.pa br.val
    else if s.reachable && s.hostBarred br.host br.pa then s.discardWrite br.host br.pa else s)

/-! ### Power (R456 to R458) -/

/-- The next duty: the controller's choice, which must go the way that power and cap say (R458; log entry 11). -/
def nextDuty (pwr cap : Nat) (duty : BitVec 5) (choice : Nat) : BitVec 5 :=
  let d := duty.toNat
  if cap < pwr then BitVec.ofNat 5 (if 1 ≤ choice ∧ choice < d then choice else if d ≤ 1 then 1 else d - 1)
  else if pwr < cap then BitVec.ofNat 5 (if d < choice ∧ choice ≤ 16 then choice else if 16 ≤ d then 16 else d + 1)
  else duty

/-- A plane of a die has stepped in the present window of 16 clk (R458). -/
def State.hasStepped (s : State) (d : Fin 8) : Bool :=
  (List.finRange 768).any fun b => let p := (s.bench b).plane; dieOf b == d && decide (p.stepWin = s.clk / 16 ∧ 0 < p.stepUsed)

/-- POWER_CAP_CONTROL (R457, R458): at a boundary of 16 clk, before any plane of the die has stepped in the window that begins there, the
controller of a die sets LIM and moves DUTY. -/
def execPowerCapControl (s : State) : Out :=
  let br := s.cur.bring
  if s.clk % 16 != 0 || s.hasStepped br.die then .next s
  else
    let lim : BitVec 10 := br.val.extractLsb' 0 10
    .next (s.modDie br.die fun x =>
      let cap := min (min x.dcap.toNat lim.toNat) 560
      { x with lim := lim, duty := nextDuty x.pwr.toNat cap x.duty br.n })

/-- TELEMETRY_REFRESH (R399, R456, R457): at a boundary of 2^16 clk, the averages of a die over the interval that ends there, once;
the shared input is that of the die which is refreshed first, in every die. A die without this event at a boundary is refreshed by the
passing of the clk. -/
def execTelemetryRefresh (s : State) : Out :=
  let br := s.cur.bring
  if s.clk % 2 ^ 16 != 0 || decide (s.clk ≤ (s.die br.die).telemAt) then .next s
  else
    let input := s.sharedInput s.clk (br.stages.getD 0 ⟨0, 0, 0⟩)
    let all := s.dies.map fun x => { x with telem := vset x.telem 0 input }
    .next ({ s with dies := all }.modDie br.die fun x =>
      { x.withStages (input :: br.stages.drop 1) with pwr := br.val.extractLsb' 0 10, telemAt := s.clk })

/-! ### Attestation (R461) -/

/-- ATTESTATION_REQUEST (R461): ignored while a report is being written. -/
def execAttestationRequest (s : State) : Out :=
  .next (if !s.reachable || s.mailbox.attest then s
    else { s with mailbox := { s.mailbox with nonce := s.cur.bring.nonce, attest := true } })

/-- The report: the nonce, three digests of 64 bytes, FABID, and the signature; digests and signature come from outside
(log entry 11). -/
def reportBytes (nonce : BitVec 256) (fabid : W64) (bs : List Byte) : List Byte :=
  leBytes 32 nonce.toNat ++ padTo 192 0 (bs.take 192) ++ leBytes 8 fabid.toNat ++ bs.drop 192

/-- ATTESTATION_REPORT_DONE (R461). -/
def execAttestationReportDone (s : State) : Out :=
  let m := s.mailbox
  let fab : W64 := bit s.fabidSet ++ 0#49 ++ s.fabid
  .next (if m.attest then
    { s with mailbox := { m with report := reportBytes m.nonce fab s.cur.bring.bytes, attest := false } } else s)

/-! ### Boot and resets (R460, R462) -/

/-- BOOT_STAGE_VERIFY (R417, R460): the next stage is verified, or boot stops with ERR, and FABID[63] is 0. With stage 2, system firmware has
numbered the caching agents and found the host range (log entry 4). -/
def execBootStageVerify (s : State) : Out :=
  let br := s.cur.bring
  if !s.reachable || s.bootStage.toNat ≥ 2 || decide (3 < br.err.toNat) then .next s
  else if br.err != 0 then .next { s with bootErr := br.err, fabidSet := false }
  else if s.bootStage = 0 then .next { s with bootStage := 1 }
  else
    let inHost := decide (0x400000000000 ≤ br.pa ∧ br.pa + br.len ≤ 0x800000000000 ∧ 0 < br.len)
    .next { s with
      bootStage := 2
      agents := (br.bytes.map fun b => b.setWidth 6).filter fun a => decide (8 ≤ a.toNat)
      hostRanges := if inHost then [(br.pa, br.len)] else [] }

/-- COLD_RESET (R462): at power-on (`hi`), or by the owner's request, which reaches no module whose boot has failed (R460) and waits for the
stores of the hitches that it kills (R404, log entry 23). -/
def execColdReset (s : State) : Out :=
  .next (if s.cur.bring.hi then s.cold else if s.reachable && s.owns s.cur.bring.host then s.askReset true else s)

/-- WARM_RESET (R462): the owner's request, which reaches no module whose boot has failed (R460). Every hitch is killed without a report,
and what its buffers hold performs first; dirty lines are written back with their poison (R404, R421). -/
def execWarmReset (s : State) : Out :=
  .next (if s.reachable && s.owns s.cur.bring.host then s.askReset false else s)

end Sys2Proof.Machine
end

