-- ==== Sys2Proof/Machine/Dispatch.lean ====
section
/-! DEFINITION. The dispatch of an instruction to its meaning. -/

namespace Sys2Proof.Machine

/-- What an instruction does. -/
def exec (i : Instr) (s : State) : Host.Outcome State Fault Refusal :=
  match i with
  | .add o => Sys2Proof.Machine.execAdd o s
  | .sub o => Sys2Proof.Machine.execSub o s
  | .mul o => Sys2Proof.Machine.execMul o s
  | .mulh o => Sys2Proof.Machine.execMulh o s
  | .mulhu o => Sys2Proof.Machine.execMulhu o s
  | .div o => Sys2Proof.Machine.execDiv o s
  | .divu o => Sys2Proof.Machine.execDivu o s
  | .rem o => Sys2Proof.Machine.execRem o s
  | .remu o => Sys2Proof.Machine.execRemu o s
  | .and o => Sys2Proof.Machine.execAnd o s
  | .or o => Sys2Proof.Machine.execOr o s
  | .xor o => Sys2Proof.Machine.execXor o s
  | .andn o => Sys2Proof.Machine.execAndn o s
  | .shl o => Sys2Proof.Machine.execShl o s
  | .shr o => Sys2Proof.Machine.execShr o s
  | .sar o => Sys2Proof.Machine.execSar o s
  | .ror o => Sys2Proof.Machine.execRor o s
  | .cmpeq o => Sys2Proof.Machine.execCmpeq o s
  | .cmpne o => Sys2Proof.Machine.execCmpne o s
  | .cmplt o => Sys2Proof.Machine.execCmplt o s
  | .cmpltu o => Sys2Proof.Machine.execCmpltu o s
  | .cmple o => Sys2Proof.Machine.execCmple o s
  | .cmpleu o => Sys2Proof.Machine.execCmpleu o s
  | .min o => Sys2Proof.Machine.execMin o s
  | .max o => Sys2Proof.Machine.execMax o s
  | .minu o => Sys2Proof.Machine.execMinu o s
  | .maxu o => Sys2Proof.Machine.execMaxu o s
  | .clz o => Sys2Proof.Machine.execClz o s
  | .ctz o => Sys2Proof.Machine.execCtz o s
  | .popc o => Sys2Proof.Machine.execPopc o s
  | .sext32 o => Sys2Proof.Machine.execSext32 o s
  | .adds o => Sys2Proof.Machine.execAdds o s
  | .subs o => Sys2Proof.Machine.execSubs o s
  | .zext32 o => Sys2Proof.Machine.execZext32 o s
  | .fadd o => Sys2Proof.Machine.execFadd o s
  | .fsub o => Sys2Proof.Machine.execFsub o s
  | .fmul o => Sys2Proof.Machine.execFmul o s
  | .fdiv o => Sys2Proof.Machine.execFdiv o s
  | .fsqrt o => Sys2Proof.Machine.execFsqrt o s
  | .fmin o => Sys2Proof.Machine.execFmin o s
  | .fmax o => Sys2Proof.Machine.execFmax o s
  | .fabs o => Sys2Proof.Machine.execFabs o s
  | .fneg o => Sys2Proof.Machine.execFneg o s
  | .fcmpeq o => Sys2Proof.Machine.execFcmpeq o s
  | .fcmplt o => Sys2Proof.Machine.execFcmplt o s
  | .fcmple o => Sys2Proof.Machine.execFcmple o s
  | .fcmpun o => Sys2Proof.Machine.execFcmpun o s
  | .fcvtI32 o => Sys2Proof.Machine.execFcvtI32 o s
  | .fcvtN32 o => Sys2Proof.Machine.execFcvtN32 o s
  | .fcvtI64 o => Sys2Proof.Machine.execFcvtI64 o s
  | .fcvtN64 o => Sys2Proof.Machine.execFcvtN64 o s
  | .icvtF32 o => Sys2Proof.Machine.execIcvtF32 o s
  | .ncvtF32 o => Sys2Proof.Machine.execNcvtF32 o s
  | .fclass o => Sys2Proof.Machine.execFclass o s
  | .sel o => Sys2Proof.Machine.execSel o s
  | .fma o => Sys2Proof.Machine.execFma o s
  | .fms o => Sys2Proof.Machine.execFms o s
  | .fnma o => Sys2Proof.Machine.execFnma o s
  | .rndc o => Sys2Proof.Machine.execRndc o s
  | .imad o => Sys2Proof.Machine.execImad o s
  | .addi o => Sys2Proof.Machine.execAddi o s
  | .andi o => Sys2Proof.Machine.execAndi o s
  | .ori o => Sys2Proof.Machine.execOri o s
  | .xori o => Sys2Proof.Machine.execXori o s
  | .cmpeqi o => Sys2Proof.Machine.execCmpeqi o s
  | .cmplti o => Sys2Proof.Machine.execCmplti o s
  | .cmpltui o => Sys2Proof.Machine.execCmpltui o s
  | .shfi o => Sys2Proof.Machine.execShfi o s
  | .li o => Sys2Proof.Machine.execLi o s
  | .beq o => Sys2Proof.Machine.execBeq o s
  | .bne o => Sys2Proof.Machine.execBne o s
  | .blt o => Sys2Proof.Machine.execBlt o s
  | .bge o => Sys2Proof.Machine.execBge o s
  | .bltu o => Sys2Proof.Machine.execBltu o s
  | .bgeu o => Sys2Proof.Machine.execBgeu o s
  | .brf o => Sys2Proof.Machine.execBrf o s
  | .call off => Sys2Proof.Machine.execCall off s
  | .jmp off => Sys2Proof.Machine.execJmp off s
  | .calli a => Sys2Proof.Machine.execCalli a s
  | .jmpi a => Sys2Proof.Machine.execJmpi a s
  | .ld o => Sys2Proof.Machine.execLd o s
  | .ldI32 o => Sys2Proof.Machine.execLdI32 o s
  | .ldN32 o => Sys2Proof.Machine.execLdN32 o s
  | .ldI16 o => Sys2Proof.Machine.execLdI16 o s
  | .ldN16 o => Sys2Proof.Machine.execLdN16 o s
  | .ldI8 o => Sys2Proof.Machine.execLdI8 o s
  | .ldN8 o => Sys2Proof.Machine.execLdN8 o s
  | .ldc o => Sys2Proof.Machine.execLdc o s
  | .st o => Sys2Proof.Machine.execSt o s
  | .stI32 o => Sys2Proof.Machine.execStI32 o s
  | .stI16 o => Sys2Proof.Machine.execStI16 o s
  | .stI8 o => Sys2Proof.Machine.execStI8 o s
  | .atom o => Sys2Proof.Machine.execAtom o s
  | .cas o => Sys2Proof.Machine.execCas o s
  | .cas128 o => Sys2Proof.Machine.execCas128 o s
  | .fence scope => Sys2Proof.Machine.execFence scope s
  | .arrv scope bar => Sys2Proof.Machine.execArrv scope bar s
  | .bwait scope bar => Sys2Proof.Machine.execBwait scope bar s
  | .bset a bar => Sys2Proof.Machine.execBset a bar s
  | .watch a => Sys2Proof.Machine.execWatch a s
  | .send a q => Sys2Proof.Machine.execSend a q s
  | .recv d => Sys2Proof.Machine.execRecv d s
  | .give mask => Sys2Proof.Machine.execGive mask s
  | .take mask => Sys2Proof.Machine.execTake mask s
  | .abandon mask => Sys2Proof.Machine.execAbandon mask s
  | .tjoin t => Sys2Proof.Machine.execTjoin t s
  | .mfs d n => Sys2Proof.Machine.execMfs d n s
  | .mts a n => Sys2Proof.Machine.execMts a n s
  | .trap n => Sys2Proof.Machine.execTrap n s
  | .sysc n => Sys2Proof.Machine.execSysc n s
  | .tlbi a kind => Sys2Proof.Machine.execTlbi a kind s
  | .estat d n => Sys2Proof.Machine.execEstat d n s
  | .launch d a => Sys2Proof.Machine.execLaunch d a s
  | .lwait a => Sys2Proof.Machine.execLwait a s
  | .clock d => Sys2Proof.Machine.execClock d s
  | .fbind h o => Sys2Proof.Machine.execFbind h o s
  | .fload h o => Sys2Proof.Machine.execFload h o s
  | .fgath h o => Sys2Proof.Machine.execFgath h o s
  | .movb h o => Sys2Proof.Machine.execMovb h o s
  | .fpref h o => Sys2Proof.Machine.execFpref h o s
  | .bfset h o => Sys2Proof.Machine.execBfset h o s
  | .lset h o => Sys2Proof.Machine.execLset h o s
  | .lsetCvc h o => Sys2Proof.Machine.execLsetCvc h o s
  | .lLoop h o => Sys2Proof.Machine.execLLoop h o s
  | .lEndl h lvl => Sys2Proof.Machine.execLEndl h lvl s
  | .lRdv h => Sys2Proof.Machine.execLRdv h s
  | .ptile h o => Sys2Proof.Machine.execPtile h o s
  | .pcommit h => Sys2Proof.Machine.execPcommit h s
  | .psheet h o => Sys2Proof.Machine.execPsheet h o s
  | .pcorr h o => Sys2Proof.Machine.execPcorr h o s
  | .pmm h o => Sys2Proof.Machine.execPmm h o s
  | .pwgt h o => Sys2Proof.Machine.execPwgt h o s
  | .pshift h sx sy => Sys2Proof.Machine.execPshift h sx sy s
  | .pshiftRel h sx sy => Sys2Proof.Machine.execPshiftRel h sx sy s
  | .pzero h zmask => Sys2Proof.Machine.execPzero h zmask s
  | .phsend h => Sys2Proof.Machine.execPhsend h s
  | .phrecv h => Sys2Proof.Machine.execPhrecv h s
  | .pdrain h o => Sys2Proof.Machine.execPdrain h o s
  | .pchk h zmask => Sys2Proof.Machine.execPchk h zmask s
  | .pfwd h o => Sys2Proof.Machine.execPfwd h o s
  | .pfwdRx h o => Sys2Proof.Machine.execPfwdRx h o s
  | .pmode h mode => Sys2Proof.Machine.execPmode h mode s
  | .pseg h steps sig => Sys2Proof.Machine.execPseg h steps sig s
  | .ploop h o => Sys2Proof.Machine.execPloop h o s
  | .pendl h lvl => Sys2Proof.Machine.execPendl h lvl s
  | .pRdv h => Sys2Proof.Machine.execPRdv h s
  | .vaddInt h o => Sys2Proof.Machine.execVaddInt h o s
  | .vsubInt h o => Sys2Proof.Machine.execVsubInt h o s
  | .vmulInt h o => Sys2Proof.Machine.execVmulInt h o s
  | .vmulh h o => Sys2Proof.Machine.execVmulh h o s
  | .vmulhu h o => Sys2Proof.Machine.execVmulhu h o s
  | .vadds h o => Sys2Proof.Machine.execVadds h o s
  | .vsubs h o => Sys2Proof.Machine.execVsubs h o s
  | .vaddsu h o => Sys2Proof.Machine.execVaddsu h o s
  | .vsubsu h o => Sys2Proof.Machine.execVsubsu h o s
  | .vand h o => Sys2Proof.Machine.execVand h o s
  | .vor h o => Sys2Proof.Machine.execVor h o s
  | .vxor h o => Sys2Proof.Machine.execVxor h o s
  | .vandn h o => Sys2Proof.Machine.execVandn h o s
  | .vshl h o => Sys2Proof.Machine.execVshl h o s
  | .vshr h o => Sys2Proof.Machine.execVshr h o s
  | .vsar h o => Sys2Proof.Machine.execVsar h o s
  | .vminInt h o => Sys2Proof.Machine.execVminInt h o s
  | .vmaxInt h o => Sys2Proof.Machine.execVmaxInt h o s
  | .vminu h o => Sys2Proof.Machine.execVminu h o s
  | .vmaxu h o => Sys2Proof.Machine.execVmaxu h o s
  | .vabsInt h o => Sys2Proof.Machine.execVabsInt h o s
  | .vnegInt h o => Sys2Proof.Machine.execVnegInt h o s
  | .vpopc h o => Sys2Proof.Machine.execVpopc h o s
  | .vclz h o => Sys2Proof.Machine.execVclz h o s
  | .vaddFloat h o => Sys2Proof.Machine.execVaddFloat h o s
  | .vsubFloat h o => Sys2Proof.Machine.execVsubFloat h o s
  | .vmulFloat h o => Sys2Proof.Machine.execVmulFloat h o s
  | .vdiv h o => Sys2Proof.Machine.execVdiv h o s
  | .vsqrt h o => Sys2Proof.Machine.execVsqrt h o s
  | .vminFloat h o => Sys2Proof.Machine.execVminFloat h o s
  | .vmaxFloat h o => Sys2Proof.Machine.execVmaxFloat h o s
  | .vabsFloat h o => Sys2Proof.Machine.execVabsFloat h o s
  | .vnegFloat h o => Sys2Proof.Machine.execVnegFloat h o s
  | .vrint h o => Sys2Proof.Machine.execVrint h o s
  | .vfma h o => Sys2Proof.Machine.execVfma h o s
  | .vfms h o => Sys2Proof.Machine.execVfms h o s
  | .vfnma h o => Sys2Proof.Machine.execVfnma h o s
  | .vmad h o => Sys2Proof.Machine.execVmad h o s
  | .vdot h o => Sys2Proof.Machine.execVdot h o s
  | .vcmpeq h o => Sys2Proof.Machine.execVcmpeq h o s
  | .vcmpne h o => Sys2Proof.Machine.execVcmpne h o s
  | .vcmplt h o => Sys2Proof.Machine.execVcmplt h o s
  | .vcmple h o => Sys2Proof.Machine.execVcmple h o s
  | .vcmpltu h o => Sys2Proof.Machine.execVcmpltu h o s
  | .vcmpleu h o => Sys2Proof.Machine.execVcmpleu h o s
  | .vcmpun h o => Sys2Proof.Machine.execVcmpun h o s
  | .vsel h o => Sys2Proof.Machine.execVsel h o s
  | .vbsel h o => Sys2Proof.Machine.execVbsel h o s
  | .vcvt h o => Sys2Proof.Machine.execVcvt h o s
  | .vcvtu h o => Sys2Proof.Machine.execVcvtu h o s
  | .vexp2 h o => Sys2Proof.Machine.execVexp2 h o s
  | .vlog2 h o => Sys2Proof.Machine.execVlog2 h o s
  | .vrcp h o => Sys2Proof.Machine.execVrcp h o s
  | .vrsq h o => Sys2Proof.Machine.execVrsq h o s
  | .vmov h o => Sys2Proof.Machine.execVmov h o s
  | .vbcst h o => Sys2Proof.Machine.execVbcst h o s
  | .vperm h o => Sys2Proof.Machine.execVperm h o s
  | .vrot h o => Sys2Proof.Machine.execVrot h o s
  | .vxch h o => Sys2Proof.Machine.execVxch h o s
  | .vidx h o => Sys2Proof.Machine.execVidx h o s
  | .vli h o => Sys2Proof.Machine.execVli h o s
  | .rsum h o => Sys2Proof.Machine.execRsum h o s
  | .rmax h o => Sys2Proof.Machine.execRmax h o s
  | .rmin h o => Sys2Proof.Machine.execRmin h o s
  | .rndcV h o => Sys2Proof.Machine.execRndcV h o s
  | .mand h o => Sys2Proof.Machine.execMand h o s
  | .mor h o => Sys2Proof.Machine.execMor h o s
  | .mxor h o => Sys2Proof.Machine.execMxor h o s
  | .mandn h o => Sys2Proof.Machine.execMandn h o s
  | .mnot h o => Sys2Proof.Machine.execMnot h o s
  | .mset h o => Sys2Proof.Machine.execMset h o s
  | .mclr h o => Sys2Proof.Machine.execMclr h o s
  | .vmode h mode => Sys2Proof.Machine.execVmode h mode s
  | .vRdv h => Sys2Proof.Machine.execVRdv h s
  | .vld h o => Sys2Proof.Machine.execVld h o s
  | .vst h o => Sys2Proof.Machine.execVst h o s
  | .vgath h o => Sys2Proof.Machine.execVgath h o s
  | .vscat h o => Sys2Proof.Machine.execVscat h o s
  | .part h o => Sys2Proof.Machine.execPart h o s
  | .vatom h o => Sys2Proof.Machine.execVatom h o s
  | .redm h o => Sys2Proof.Machine.execRedm h o s
  | .redt h o => Sys2Proof.Machine.execRedt h o s
  | .vLoop h o => Sys2Proof.Machine.execVLoop h o s
  | .vEndl h lvl => Sys2Proof.Machine.execVEndl h lvl s
  | .vlset h o => Sys2Proof.Machine.execVlset h o s
  | .fstore h o => Sys2Proof.Machine.execFstore h o s
  | .qstore h o => Sys2Proof.Machine.execQstore h o s
  | .req h o => Sys2Proof.Machine.execReq h o s
  | .grain h o => Sys2Proof.Machine.execGrain h o s
  | .smode h mode => Sys2Proof.Machine.execSmode h mode s
  | .sscat h o => Sys2Proof.Machine.execSscat h o s
  | .srel h scope => Sys2Proof.Machine.execSrel h scope s
  | .sLoop h o => Sys2Proof.Machine.execSLoop h o s
  | .sEndl h lvl => Sys2Proof.Machine.execSEndl h lvl s
  | .sRdv h => Sys2Proof.Machine.execSRdv h s
  | .slset h o => Sys2Proof.Machine.execSlset h o s
  | .slsetCvc h o => Sys2Proof.Machine.execSlsetCvc h o s
  | .ret => Sys2Proof.Machine.execRet s
  | .rels => Sys2Proof.Machine.execRels s
  | .wait => Sys2Proof.Machine.execWait s
  | .eret => Sys2Proof.Machine.execEret s
  | .rdv => Sys2Proof.Machine.execRdv s
  | .abandonLand => Sys2Proof.Machine.execAbandonLand s
  | .syscComplete => Sys2Proof.Machine.execSyscComplete s
  | .resultArrival => Sys2Proof.Machine.execResultArrival s
  | .storePerform => Sys2Proof.Machine.execStorePerform s
  | .givePush => Sys2Proof.Machine.execGivePush s
  | .qdead => Sys2Proof.Machine.execQdead s
  | .backgroundSpill => Sys2Proof.Machine.execBackgroundSpill s
  | .groupFill => Sys2Proof.Machine.execGroupFill s
  | .claimStallTimeout => Sys2Proof.Machine.execClaimStallTimeout s
  | .fillStallTimeout => Sys2Proof.Machine.execFillStallTimeout s
  | .watchWake => Sys2Proof.Machine.execWatchWake s
  | .trapEntry => Sys2Proof.Machine.execTrapEntry s
  | .feedBlockArrival => Sys2Proof.Machine.execFeedBlockArrival s
  | .haloBandArrival => Sys2Proof.Machine.execHaloBandArrival s
  | .forwardRegionComplete => Sys2Proof.Machine.execForwardRegionComplete s
  | .forwardAck => Sys2Proof.Machine.execForwardAck s
  | .tilePreemptTimeout => Sys2Proof.Machine.execTilePreemptTimeout s
  | .dispatchDecision => Sys2Proof.Machine.execDispatchDecision s
  | .launchAgeing => Sys2Proof.Machine.execLaunchAgeing s
  | .preempt => Sys2Proof.Machine.execPreempt s
  | .resume => Sys2Proof.Machine.execResume s
  | .hitchKill => Sys2Proof.Machine.execHitchKill s
  | .atomicPerform => Sys2Proof.Machine.execAtomicPerform s
  | .redtCombine => Sys2Proof.Machine.execRedtCombine s
  | .rdcFillRead => Sys2Proof.Machine.execRdcFillRead s
  | .evictionNotice => Sys2Proof.Machine.execEvictionNotice s
  | .invalidationAck => Sys2Proof.Machine.execInvalidationAck s
  | .hostMemRead => Sys2Proof.Machine.execHostMemRead s
  | .hostMemWrite => Sys2Proof.Machine.execHostMemWrite s
  | .hostSnoop => Sys2Proof.Machine.execHostSnoop s
  | .sramUncorrectableError => Sys2Proof.Machine.execSramUncorrectableError s
  | .memoryUncorrectableError => Sys2Proof.Machine.execMemoryUncorrectableError s
  | .dcExtentAdd => Sys2Proof.Machine.execDcExtentAdd s
  | .dcExtentRelease => Sys2Proof.Machine.execDcExtentRelease s
  | .channelPowerDown => Sys2Proof.Machine.execChannelPowerDown s
  | .channelSelfRefresh => Sys2Proof.Machine.execChannelSelfRefresh s
  | .hotRowThrottle => Sys2Proof.Machine.execHotRowThrottle s
  | .hotRowThrottleEnd => Sys2Proof.Machine.execHotRowThrottleEnd s
  | .retnEnable => Sys2Proof.Machine.execRetnEnable s
  | .retnDisable => Sys2Proof.Machine.execRetnDisable s
  | .fwinWrite => Sys2Proof.Machine.execFwinWrite s
  | .dcapWrite => Sys2Proof.Machine.execDcapWrite s
  | .registerWrite => Sys2Proof.Machine.execRegisterWrite s
  | .powerCapControl => Sys2Proof.Machine.execPowerCapControl s
  | .telemetryRefresh => Sys2Proof.Machine.execTelemetryRefresh s
  | .fabricPacketAccept => Sys2Proof.Machine.execFabricPacketAccept s
  | .fabricAckReceive => Sys2Proof.Machine.execFabricAckReceive s
  | .routerPacket => Sys2Proof.Machine.execRouterPacket s
  | .routeVersionInstall => Sys2Proof.Machine.execRouteVersionInstall s
  | .replayTimeout => Sys2Proof.Machine.execReplayTimeout s
  | .moduleLost => Sys2Proof.Machine.execModuleLost s
  | .linkDeath => Sys2Proof.Machine.execLinkDeath s
  | .linkStateRise => Sys2Proof.Machine.execLinkStateRise s
  | .linkRetrain => Sys2Proof.Machine.execLinkRetrain s
  | .fabidAssign => Sys2Proof.Machine.execFabidAssign s
  | .claim => Sys2Proof.Machine.execClaim s
  | .ownerHandover => Sys2Proof.Machine.execOwnerHandover s
  | .ownerRelease => Sys2Proof.Machine.execOwnerRelease s
  | .ownerLinkDown => Sys2Proof.Machine.execOwnerLinkDown s
  | .go => Sys2Proof.Machine.execGo s
  | .nonOwnerWriteDiscard => Sys2Proof.Machine.execNonOwnerWriteDiscard s
  | .attestationRequest => Sys2Proof.Machine.execAttestationRequest s
  | .attestationReportDone => Sys2Proof.Machine.execAttestationReportDone s
  | .bootStageVerify => Sys2Proof.Machine.execBootStageVerify s
  | .coldReset => Sys2Proof.Machine.execColdReset s
  | .warmReset => Sys2Proof.Machine.execWarmReset s
  | .reservedOpcodeWord => Sys2Proof.Machine.execReservedOpcodeWord s
  | .instructionFetchFault => Sys2Proof.Machine.execInstructionFetchFault s
  | .planeStateStorageError => Sys2Proof.Machine.execPlaneStateStorageError s
  | .forwardReceiptError => Sys2Proof.Machine.execForwardReceiptError s
  | .tokenBucketGain => Sys2Proof.Machine.execTokenBucketGain s

end Sys2Proof.Machine
end

