-- ==== Sys2Proof/Machine/Step.lean ====
section
/-! DEFINITION. One step of the machine: the next turn, and what runs in it. -/

namespace Sys2Proof.Machine

/-- One step: the next turn is taken, and the instruction or event of that turn runs, if any. -/
def step (s : State) : Host.Outcome State Fault Refusal :=
  match s.turn with
  | (t, none) => .next t
  | (t, some i) => exec i t

/-- The state in which the next step fetches and runs the instruction whose bits are `w` (log entry 1). -/
def State.withFetchWord (s : State) (nbits w : Nat) : State := s.placeWord (tableStream nbits w) w

end Sys2Proof.Machine
end

