-- ==== Sys2Proof/Safety.lean ====
section
/-! DEFINITION. What a safe run is, in the terms of the statements: every byte memory keeps its canonical form. With it the
words that the statements use: what a source gives, when an instruction issues, what stays as it was. -/

namespace Sys2Proof.Machine

/-! ### The canonical form of every memory -/

/-- Every bank of a bench is in the canonical form. -/
def Bench.memWf (x : Bench) : Prop := ∀ m ∈ x.banks.toList, Mem.wf m = true

/-- Memory, the banks of every bench and the banks of every saved team are in the canonical form. -/
def State.memWf (s : State) : Prop :=
  Mem.wf s.mem = true ∧ (∀ b : BenchId, (s.bench b).memWf) ∧ ∀ h ∈ s.hitches, ∀ x, some x ∈ h.saved → x.memWf

/-! ### What stays as it was -/

/-- Nothing but the bench of the turn has changed. -/
def State.onlyHere (s t : State) : Prop :=
  t = { s with benches := t.benches } ∧ ∀ b : BenchId, b ≠ s.cur.bench → t.bench b = s.bench b

/-- Nothing but the C unit of the bench of the turn, and its count of issues, has changed. -/
def State.onlyMyC (s t : State) : Prop :=
  s.onlyHere t ∧ t.here = { s.here with c := t.here.c, seq := t.here.seq }

/-- Of a C unit, nothing has changed but its registers, its contexts, its loads in flight, its flags and whose turn it is. -/
def CUnit.onlyRegs (u v : CUnit) : Prop :=
  v = { u with ctxs := v.ctxs, globals := v.globals, file := v.file, loads := v.loads, fflags := v.fflags, rr := v.rr }

/-- Of a C unit, no register but the one at a place has changed. -/
def CUnit.sameRegs (u v : CUnit) (d : Option Dst) : Prop :=
  (∀ i : Fin 8, d ≠ some (.glob i) → v.globals[i] = u.globals[i]) ∧
  ∀ i : Fin 64, d ≠ some (.phys i) → v.file[i] = u.file[i]

/-- A context keeps its window, its depth, its spilled groups and its watch. -/
def Ctx.sameFrame (k m : Ctx) : Prop :=
  m.live = k.live ∧ m.w = k.w ∧ m.depth = k.depth ∧ m.spilled = k.spilled ∧ m.watch = k.watch ∧ m.wake = k.wake

/-! ### Sources and issue -/

/-- A source of the context of the turn gives a value at a boost level. -/
def State.gives (s : State) (lvl : BitVec 2) (a : BitVec 5) (v : W64) : Prop := s.here.readSrc s.cur.ctx lvl a = .val v

/-- The engine instruction of the turn issues, and has not issued already: its header fits its loops and selects it, and its tokens and its queue
entries are there (R30, R32, R38, R44), or it has taken them already (R290, R318). -/
def State.issues (s : State) (h : Hdr) (loopWord : Bool) (nq : Nat) : Prop :=
  s.myEng.issued = false ∧ hdrOk h s.myEng loopWord = true ∧ hdrSelected h s.myEng = true ∧
  (s.myEng.taken = true ∨
    s.here.canTake s.cur.stream (maskStreams s.cur.stream h.take) = true ∧ nq ≤ (s.here.queued (queueOf s.cur.stream)).length)

/-- The state in which the instruction has its tokens and its entries. -/
def State.atIssue (s : State) (h : Hdr) (nq : Nat) : State :=
  if s.myEng.taken then s
  else
    (s.takeFrom s.cur.bench s.cur.stream s.cur.ctx (maskStreams s.cur.stream h.take)).modHere fun x =>
      x.popQueue (queueOf s.cur.stream) nq

/-- The entries that the instruction has popped. -/
def State.entriesAt (s : State) (nq : Nat) : List W64 :=
  if s.myEng.taken then s.myEng.popped else (s.here.queued (queueOf s.cur.stream)).take nq

/-- No access that another stream has recorded conflicts (R55). -/
def State.noOverlap (s : State) (acc : List Acc) : Prop := s.here.overlap s.cur.stream acc = none

end Sys2Proof.Machine
end

