-- ==== Sys2Proof/Certificates/Slice0/Obligations.lean ====
section
/-! DEFINITION. The statements for the provers. A statement with several parts is the conjunction of its parts, each of
which is a `Claims` of its own; a title says what it states, and cites the rules of spec/ that it rests on. -/

/-! ### Words, steps, reset, the whole machine -/

namespace Sys2Proof.Machine

/-- Words of the spec's own worked encodings, with the instructions that it says they are. -/
def sampleWords : List (Stream × Nat × Instr) :=
  [(.c, 0x0692_4000, .add ⟨10, 9, 4, 0⟩), (.c, 0x114A_79B1, .addi ⟨5, 5, 0, 0x79B1⟩), (.c, 0x3141_3C6F, .li ⟨5, 0, 0x13C6F⟩),
    (.c, 0x0D4C_0004, .rndc ⟨5, 6, 0, 0, 0⟩), (.c, 0x4600_8001, .bne ⟨16, 0, true, 1⟩), (.c, 0x6000_000A, .call 10),
    (.c, 0x8182_9903, .ld ⟨6, 1, 1, .di, false, 1, false, 3⟩), (.c, 0xA124_3A00, .st ⟨9, 4, .di, true, 1, false, 0⟩),
    (.c, 0xB290_4031, .atom ⟨10, 8, 4, .add, .di, false, false, true⟩), (.c, 0xC000_0600, .fence .di),
    (.c, 0xF000_0207, .trap 7), (.l, 0x0000_0000_0002_0044, .fload ⟨false, 0, false, false, 4, 4⟩ ⟨0, 0, ⟨0, 0, 0⟩⟩),
    (.l, 0x0000_0080_0007_0000, .lset ⟨false, 0, false, false, 0, 0⟩ ⟨512, 0, 0⟩),
    (.p, 0x0000_0000_0000_0000_0000_0020_0301_0000, .ptile ⟨false, 0, false, false, 0, 0⟩ ⟨false, 0x02003⟩),
    (.p, 0x0000_0000_0000_0000_0000_0000_0002_0080, .pcommit ⟨false, 0, false, false, 8, 0⟩),
    (.v, 0x1000_8000_0002_0000, .vaddFloat ⟨false, 0, false, false, 0, 0⟩ ⟨2, 0, 1, 0, false, 0, 0, 0, false⟩),
    (.v, 0x183F_8000_000C_0000, .vli ⟨false, 0, false, false, 0, 0⟩ ⟨3, 0, 0x3F800000⟩),
    (.s, 0x0001_0200_0001_0088, .fstore ⟨false, 0, false, false, 8, 8⟩ ⟨false, 0, 1, ⟨0, 1, 0⟩⟩),
    (.s, 0x0000_0000_0307_0010, .srel ⟨false, 0, false, false, 1, 0⟩ .di)]

/-- The state of a turn of a stream, before its word is fetched: the cycles of the turn have passed, and the bytes that its own
instructions have still to write, and those of others that the turn names, have landed. -/
def State.atTurn (s : State) (t : Turn) (rest : List Turn) (b : BenchId) (st : Stream) (c : Fin 4) : State :=
  let s := ({ s with turns := rest }.advance t.dt).modBench b fun x => x.land fun i u => u == st || t.bring.lands.testBit i
  { s with cur := ⟨b, st, c, t.late, 0, 0, t.bring, (s.bench b).banks⟩ }

/-- The state with an address for the turn's word. -/
def State.atPc (s : State) (pc : W64) : State := { s with cur := { s.cur with pc := pc } }

/-- The state with the word of the turn, which has been fetched. -/
def State.withWord (s : State) (w : Nat) : State :=
  { (s.dropWords s.cur.bench s.cur.stream s.fetchNo) with cur := { s.cur with word := BitVec.ofNat 128 w } }

/-- The instructions of C that read and write registers and flags alone: destination and boost level. -/
def regForm : Instr → Option (BitVec 4 × BitVec 2)
  | .add o | .sub o | .mul o | .mulh o | .mulhu o | .div o | .divu o | .rem o | .remu o | .and o | .or o | .xor o
  | .andn o | .shl o | .shr o | .sar o | .ror o | .cmpeq o | .cmpne o | .cmplt o | .cmpltu o | .cmple o | .cmpleu o
  | .min o | .max o | .minu o | .maxu o | .clz o | .ctz o | .popc o | .sext32 o | .adds o | .subs o | .zext32 o =>
    some (o.d, o.boost)
  | .sel o | .rndc o | .imad o | .fma o | .fms o | .fnma o => some (o.d, o.boost)
  | .fadd o | .fsub o | .fmul o | .fdiv o | .fsqrt o | .fmin o | .fmax o | .fabs o | .fneg o | .fcmpeq o | .fcmplt o
  | .fcmple o | .fcmpun o | .fcvtI32 o | .fcvtN32 o | .fcvtI64 o | .fcvtN64 o | .icvtF32 o | .ncvtF32 o | .fclass o =>
    some (o.d, o.boost)
  | .addi o | .andi o | .ori o | .xori o | .cmpeqi o | .cmplti o | .cmpltui o => some (o.d, o.boost)
  | .shfi o => some (o.d, o.boost)
  | .li o => some (o.d, o.boost)
  | .clock d => some (d, 0)
  | _ => none

/-- The F32 group and the fused products, which may set flags. -/
def setsFlags : Instr → Bool
  | .fadd _ | .fsub _ | .fmul _ | .fdiv _ | .fsqrt _ | .fmin _ | .fmax _ | .fabs _ | .fneg _ | .fcmpeq _ | .fcmplt _
  | .fcmple _ | .fcmpun _ | .fcvtI32 _ | .fcvtN32 _ | .fcvtI64 _ | .fcvtN64 _ | .icvtF32 _ | .ncvtF32 _ | .fclass _
  | .fma _ | .fms _ | .fnma _ => true
  | _ => false

end Sys2Proof.Machine

section Whole
open Sys2Proof Sys2Proof.Machine

/-- Words that the spec writes out decode to the instructions that it says they are (R96 to R101, R239, R304, R326, R366). -/
def Obligations.DecodeSamples : Prop := ∀ p ∈ sampleWords, decodeWord (p.1.word p.2.1) = .ok p.2.2

/-- Decoding and encoding agree: the word of every well-formed instruction of every stream decodes to that instruction, with
every operand at every value that the encoding admits. -/
def Obligations.DecodeEncode : Prop :=
  ∀ (i : Instr) (w : MWord), i.wellFormed = true → encode i = some w → decodeWord w = .ok i

/-- A step runs the decoded instruction: when it is the turn of the context of C that C chooses, or of an engine with nothing left
to push, and the word at its program counter decodes to i, the step is exec of i in the state of the turn; an engine instruction
that has issued goes on with its word, and C holds back what it may not begin while an access in flight may still fault (log entry
9). Whose turn it is stands in the list of turns, which is the model's (log entry 1). -/
def Obligations.StepRuns : Prop :=
  ∀ (s u : State) (t : Turn) (rest : List Turn) (b : BenchId) (w : Nat) (i : Instr), s.turns = t :: rest →
    (∀ c : Fin 4, t.who = .stream b .c c →
      let s0 := s.atTurn t rest b .c c
      let s1 := s0.modMyC fun m => { m with rr := m.rr.issue c s0.clk }
      s0.here.chosen s0.clk = some c → s1.here.takes = none → s1.myCtx.phase = .idle →
      (s1.atPc s1.myCtx.pc).fetchHere = (u, .ok w) → decodeWord (Stream.word .c w) = .ok i → s1.holdsBack i = false →
      step s = exec i (u.withWord w)) ∧
    ∀ (st : Stream) (c : Fin 4), st ≠ .c → t.who = .stream b st c → (s.atTurn t rest b st c).here.team ≠ none →
      let s1 := (s.atTurn t rest b st c).pushGives b st
      let e := s1.myEng
      e.held = none → e.gives = [] → e.flags = [] → e.rdv = false → s1.mayGoOn b st = true →
      (st = .p → s1.here.plane.replay = none) →
      (e.issued = false → e.abandon = false → (s1.atPc e.pc).fetchHere = (u, .ok w) → decodeWord (st.word w) = .ok i →
        step s = exec i (u.withWord w)) ∧
      ∀ (v : W128) (k : PCap), e.issued = true → e.cap = some (v, k) → decodeWord (st.word v.toNat) = .ok i →
        step s = exec i { s1 with cur := { s1.cur with pc := e.pc, word := v } }

/-- R462: what a cold reset leaves: memory zero without poison, caches and TLBs empty, no launch, no team, the registers of
the control pages and the mailbox at their reset values, boot before its first stage; every memory in the canonical form. -/
def Obligations.ResetState : Prop :=
  let s := State.reset
  (∀ a, Mem.get s.mem a = 0) ∧ s.poison = [] ∧ s.l2 = [] ∧ s.msc = [] ∧ s.dir = [] ∧ s.trackers = [] ∧ s.hitches = [] ∧
  s.fabidSet = false ∧ s.bootStage = 0 ∧ s.bootErr = 0 ∧ s.mailbox.owner = none ∧ (∀ w : Fin 128, s.fwin[w] = 0) ∧
  (∀ d, (s.die d).dcap = 560 ∧ (s.die d).ecnt = 0 ∧ (s.die d).launches = 0 ∧ (s.die d).tlb = [] ∧ (s.die d).rdc = [] ∧
    ∀ r ∈ (s.die d).retn.toList, r.en = false) ∧
  (∀ b, (s.bench b).team = none ∧ (s.bench b).l1 = [] ∧ (s.bench b).tlb = []) ∧ s.memWf

/-- No instruction and no event stops the machine: each answers a next state from every state. -/
def Obligations.NothingStops : Prop := ∀ (i : Instr) (s : State), ∃ t, exec i s = .next t

/-- R83 to R91, R103: the frame of C's arithmetic. It changes no memory, no other bench, no other context, no register but
its destination (none when it is boosted), no window, and, but for the F32 group, no flag. -/
def Obligations.RegisterFrame : Prop :=
  ∀ (i : Instr) (d : BitVec 4) (lvl : BitVec 2) (s t : State), regForm i = some (d, lvl) → exec i s = .next t →
    s.onlyMyC t ∧ t.here.seq = s.here.seq ∧ s.here.c.onlyRegs t.here.c ∧
    s.here.c.sameRegs t.here.c (if lvl = 0 then regDst s.myCtx.w d else none) ∧ s.myCtx.sameFrame t.myCtx ∧
    (∀ c : Fin 4, c ≠ s.cur.ctx → t.here.ctx c = s.here.ctx c) ∧
    (setsFlags i = false → t.here.c.fflags = s.here.c.fflags) ∧ t.mem = s.mem

/-- Every step keeps every memory in its canonical form: main memory, the banks of every bench, and the banks of every saved
team. -/
def Obligations.StepKeepsMemory : Prop := ∀ s t : State, s.memWf → step s = .next t → t.memWf

end Whole

/-! ### C: results -/

namespace Sys2Proof.Machine

/-- The two-source functions of R105, written from its table. -/
def intTable : List ((COp → Instr) × (W64 → W64 → W64)) :=
  [(.add, fun a b => a + b), (.sub, fun a b => a - b), (.mul, fun a b => a * b),
    (.mulh, fun a b => BitVec.ofInt 64 (a.toInt * b.toInt / 2 ^ 64)),
    (.mulhu, fun a b => BitVec.ofNat 64 (a.toNat * b.toNat / 2 ^ 64)),
    (.div, fun a b => if b = 0 then BitVec.allOnes 64 else BitVec.ofInt 64 (a.toInt.tdiv b.toInt)),
    (.divu, fun a b => if b = 0 then BitVec.allOnes 64 else BitVec.ofNat 64 (a.toNat / b.toNat)),
    (.rem, fun a b => if b = 0 then a else BitVec.ofInt 64 (a.toInt - b.toInt * a.toInt.tdiv b.toInt)),
    (.remu, fun a b => if b = 0 then a else BitVec.ofNat 64 (a.toNat - b.toNat * (a.toNat / b.toNat))),
    (.and, fun a b => a &&& b), (.or, fun a b => a ||| b), (.xor, fun a b => a ^^^ b), (.andn, fun a b => a &&& ~~~b),
    (.shl, fun a b => a <<< (b.toNat % 64)), (.shr, fun a b => a >>> (b.toNat % 64)),
    (.sar, fun a b => a.sshiftRight (b.toNat % 64)), (.ror, fun a b => a.rotateRight (b.toNat % 64)),
    (.cmpeq, fun a b => if a = b then 1 else 0), (.cmpne, fun a b => if a = b then 0 else 1),
    (.cmplt, fun a b => if a.toInt < b.toInt then 1 else 0), (.cmpltu, fun a b => if a.toNat < b.toNat then 1 else 0),
    (.cmple, fun a b => if a.toInt ≤ b.toInt then 1 else 0), (.cmpleu, fun a b => if a.toNat ≤ b.toNat then 1 else 0),
    (.min, fun a b => if a.toInt < b.toInt then a else b), (.max, fun a b => if a.toInt < b.toInt then b else a),
    (.minu, fun a b => if a.toNat < b.toNat then a else b), (.maxu, fun a b => if a.toNat < b.toNat then b else a),
    (.adds, fun a b => BitVec.ofInt 64 (max (-2 ^ 63) (min (2 ^ 63 - 1) (a.toInt + b.toInt)))),
    (.subs, fun a b => BitVec.ofInt 64 (max (-2 ^ 63) (min (2 ^ 63 - 1) (a.toInt - b.toInt))))]

/-- The one-source functions of R105. -/
def intTable1 : List ((COp → Instr) × (W64 → W64)) :=
  [(.clz, fun a => BitVec.ofNat 64 (if a = 0 then 64 else 63 - Nat.log2 a.toNat)),
    (.ctz, fun a => BitVec.ofNat 64 (((List.range 64).find? fun i => a.getLsbD i).getD 64)),
    (.popc, fun a => BitVec.ofNat 64 ((List.range 64).countP fun i => a.getLsbD i)),
    (.sext32, fun a => (a.extractLsb' 0 32).signExtend 64), (.zext32, fun a => (a.extractLsb' 0 32).setWidth 64)]

/-- The functions of R105 by their numbers, from 0 on. -/
def intNumbers : List (COp → Instr) :=
  [.add, .sub, .mul, .mulh, .mulhu, .div, .divu, .rem, .remu, .and, .or, .xor, .andn, .shl, .shr, .sar, .ror, .cmpeq, .cmpne,
    .cmplt, .cmpltu, .cmple, .cmpleu, .min, .max, .minu, .maxu, .clz, .ctz, .popc, .sext32, .adds, .subs, .zext32]

/-- The immediate functions of R107; the immediate is extended with its sign. -/
def immTable : List ((CImm → Instr) × (W64 → W64 → W64)) :=
  [(.addi, fun a i => a + i), (.andi, fun a i => a &&& i), (.ori, fun a i => a ||| i), (.xori, fun a i => a ^^^ i),
    (.cmpeqi, fun a i => if a = i then 1 else 0), (.cmplti, fun a i => if a.toInt < i.toInt then 1 else 0),
    (.cmpltui, fun a i => if a.toNat < i.toNat then 1 else 0)]

/-- The rounding F32 functions of two sources in R113: result and flags. -/
def fltTable2 : List ((CFlt → Instr) × (RMode → W32 → W32 → W32 × FFlags)) :=
  [(.fadd, fadd32), (.fsub, fsub32), (.fmul, fmul32), (.fdiv, fdiv32), (.fmin, fun _ => fminmax32 false),
    (.fmax, fun _ => fminmax32 true)]

/-- The compares of R113: the truth value and the flags, invalid for a signalling NaN alone in FCMPEQ and FCMPUN, for
any NaN in FCMPLT and FCMPLE. -/
def fltCmpTable : List ((CFlt → Instr) × (Val → Val → Bool) × Bool) :=
  [(.fcmpeq, fun a b => a.eqv b, false), (.fcmplt, fun a b => a.lt b, true),
    (.fcmple, fun a b => a.lt b || a.eqv b, true), (.fcmpun, fun a b => a.isNan || b.isNan, false)]

/-- The conversions to integers of R113 and R114, with the range that they clamp to. -/
def fltCvtTable : List ((CFlt → Instr) × Int × Int) :=
  [(.fcvtI32, -2 ^ 31, 2 ^ 31 - 1), (.fcvtN32, 0, 2 ^ 32 - 1), (.fcvtI64, -2 ^ 63, 2 ^ 63 - 1), (.fcvtN64, 0, 2 ^ 64 - 1)]

/-- The fused products of R116: which of the product and the addend is negated. -/
def fmaTable : List ((CTri → Instr) × Bool × Bool) := [(.fma, false, false), (.fms, false, true), (.fnma, true, false)]

end Sys2Proof.Machine

section CResults
open Sys2Proof Sys2Proof.Machine

/-- R105: an integer instruction puts the value that the table gives and the context goes on, for every pair of sources
that have arrived; the numbers of the table are those of the words. -/
def Obligations.IntegerResults : Prop :=
  (∀ p ∈ intTable, ∀ (o : COp) (s : State) (x y : W64), s.gives o.boost o.a x → s.gives o.boost o.b y →
    exec (p.1 o) s = .next (s.put o.d o.boost (p.2 x y)).doneC) ∧
  (∀ p ∈ intTable1, ∀ (o : COp) (s : State) (x : W64), s.gives o.boost o.a x →
    exec (p.1 o) s = .next (s.put o.d o.boost (p.2 x)).doneC) ∧
  ∀ p ∈ intNumbers.zipIdx, decodeWord (Stream.word .c (0x04000000 + p.2)) = .ok (p.1 ⟨0, 0, 0, 0⟩)

/-- R107 to R109: the immediate instructions, the shifts by an immediate count, and LI. -/
def Sys2Proof.Claims.ImmediateResults : Prop :=
  (∀ p ∈ immTable, ∀ (o : CImm) (s : State) (x : W64), s.gives o.boost o.a x →
    exec (p.1 o) s = .next (s.put o.d o.boost (p.2 x (o.imm.signExtend 64))).doneC) ∧
  (∀ (o : CShf) (s : State) (x : W64), s.gives o.boost o.a x →
    exec (.shfi o) s = .next (s.put o.d o.boost
      (if o.kind = 0 then x <<< o.n.toNat else if o.kind = 1 then x >>> o.n.toNat
       else if o.kind = 2 then x.sshiftRight o.n.toNat else x.rotateRight o.n.toNat)).doneC) ∧
  ∀ (o : CWide) (s : State), exec (.li o) s = .next (s.put o.d o.boost (o.imm.signExtend 64)).doneC

/-- R116 and R117: SEL, IMAD and the grain hash of RNDC. -/
def Sys2Proof.Claims.ThreeSourceResults : Prop :=
  ∀ (o : CTri) (s : State) (a b c : W64), s.gives o.boost o.a a → s.gives o.boost o.b b → s.gives o.boost o.c c →
    exec (.sel o) s = .next (s.put o.d o.boost (if a ≠ 0 then b else c)).doneC ∧
    exec (.imad o) s = .next (s.put o.d o.boost (a * b + c)).doneC ∧
    exec (.rndc o) s = .next (s.put o.d o.boost
      (let x : W32 := a.extractLsb' 0 32 ^^^ (b.extractLsb' 0 32 * 0x9E3779B1#32) ^^^ (c.extractLsb' 0 32 * 0x85EBCA77#32)
        ^^^ (a.extractLsb' 32 32 * 0xC2B2AE3D#32)
       let y := (x ^^^ (x >>> 16)) * 0x7FEB352D#32
       (y ^^^ (y >>> 15)).setWidth 64)).doneC

/-- R110 to R116: the F32 instructions round once under their mode, write the result with zeros above, and OR their flags
into s.fflags, or into the pending flags of their shadow level; the values are those of the model's exact arithmetic. FABS and FNEG
change bit 31 and let a NaN pass unchanged: that its sign bit stays too is the model's reading of R112 (log entry 24, DEDUCED). -/
def Sys2Proof.Claims.FloatResults : Prop :=
  (∀ p ∈ fltTable2, ∀ (o : CFlt) (s : State) (x y : W64), s.gives o.boost o.a x → s.gives o.boost o.b y →
    let r := p.2 (s.cmode o.rm) (x.extractLsb' 0 32) (y.extractLsb' 0 32)
    exec (p.1 o) s = .next ((s.orFlags o.boost r.2).put o.d o.boost (r.1.setWidth 64)).doneC) ∧
  (∀ p ∈ fltCmpTable, ∀ (o : CFlt) (s : State) (x y : W64), s.gives o.boost o.a x → s.gives o.boost o.b y →
    let a : W32 := x.extractLsb' 0 32
    let b : W32 := y.extractLsb' 0 32
    let inv := isSnan32 a || isSnan32 b || (p.2.2 && ((valF32 a).isNan || (valF32 b).isNan))
    exec (p.1 o) s = .next ((s.orFlags o.boost (if inv then fInvalid else 0)).put o.d o.boost
      (if p.2.1 (valF32 a) (valF32 b) then 1 else 0)).doneC) ∧
  (∀ p ∈ fltCvtTable, ∀ (o : CFlt) (s : State) (x : W64), s.gives o.boost o.a x →
    let r := fcvtInt (s.cmode o.rm) p.2.1 p.2.2 (x.extractLsb' 0 32)
    exec (p.1 o) s = .next ((s.orFlags o.boost r.2).put o.d o.boost (BitVec.ofInt 64 r.1)).doneC) ∧
  (∀ (o : CFlt) (s : State) (x : W64), s.gives o.boost o.a x →
    let r := fsqrt32 (s.cmode o.rm) (x.extractLsb' 0 32)
    let i := icvt32 (s.cmode o.rm) x.toInt
    let n := icvt32 (s.cmode o.rm) x.toNat
    exec (.fsqrt o) s = .next ((s.orFlags o.boost r.2).put o.d o.boost (r.1.setWidth 64)).doneC ∧
    exec (.icvtF32 o) s = .next ((s.orFlags o.boost i.2).put o.d o.boost (i.1.setWidth 64)).doneC ∧
    exec (.ncvtF32 o) s = .next ((s.orFlags o.boost n.2).put o.d o.boost (n.1.setWidth 64)).doneC ∧
    let nan := (valF32 (x.extractLsb' 0 32)).isNan
    exec (.fabs o) s = .next (s.orFlags o.boost 0 |>.put o.d o.boost
      (if nan then x &&& 0xFFFFFFFF#64 else x &&& 0x7FFFFFFF#64)).doneC ∧
    exec (.fneg o) s = .next (s.orFlags o.boost 0 |>.put o.d o.boost
      (if nan then x &&& 0xFFFFFFFF#64 else (x &&& 0xFFFFFFFF#64) ^^^ 0x80000000#64)).doneC ∧
    exec (.fclass o) s = .next (s.orFlags o.boost 0 |>.put o.d o.boost (fclass32 (x.extractLsb' 0 32))).doneC) ∧
  ∀ p ∈ fmaTable, ∀ (o : CTri) (s : State) (x y z : W64), s.gives o.boost o.a x → s.gives o.boost o.b y →
    s.gives o.boost o.c z →
    let r := ffma32 (s.cmode 0) p.2.1 p.2.2 (x.extractLsb' 0 32) (y.extractLsb' 0 32) (z.extractLsb' 0 32)
    exec (p.1 o) s = .next ((s.orFlags o.boost r.2).put o.d o.boost (r.1.setWidth 64)).doneC

/-- R112 and R115: a rounding function answers the quiet NaN whenever its result is a NaN, and FCLASS sets one bit of the
ten. -/
def Sys2Proof.Claims.NanResults : Prop :=
  (∀ (md : RMode) (a b : W32), (valF32 a).isNan = true ∨ (valF32 b).isNan = true →
    (fadd32 md a b).1 = 0x7FC00000 ∧ (fsub32 md a b).1 = 0x7FC00000 ∧ (fmul32 md a b).1 = 0x7FC00000 ∧
    (fdiv32 md a b).1 = 0x7FC00000) ∧
  (∀ (big : Bool) (a b : W32), (valF32 a).isNan = true → (valF32 b).isNan = true →
    (fminmax32 big a b).1 = 0x7FC00000) ∧
  (∀ (big : Bool) (a b : W32), (valF32 a).isNan = true → (valF32 b).isNan = false →
    (fminmax32 big a b).1 = b ∧ (fminmax32 big b a).1 = b) ∧
  ∀ a : W32, ∃ k : Nat, k < 10 ∧ fclass32 a = BitVec.ofNat 64 (2 ^ k)

/-- R103, R84, R85 and R87: what put does at level 0. The value enters the result queue at age 1 and every older entry is
one age older; register DST holds it, unless DST is 0, and no other register of the context's window has changed; k0
reads as zero. -/
def Obligations.PutResult : Prop :=
  ∀ (s : State) (d : BitVec 4) (v : W64),
    let t := s.put d 0 v
    t.myCtx.rq = (⟨v, none⟩ :: s.myCtx.rq).take 16 ∧
    t.gives 0 16 v ∧
    t.gives 0 0 0 ∧
    (d ≠ 0 → t.gives 0 (d.setWidth 5) v) ∧
    ∀ k : BitVec 4, k ≠ d → t.here.readReg s.cur.ctx 0 k = s.here.readReg s.cur.ctx 0 k

end CResults

/-! ### C: branches, jumps, calls -/

namespace Sys2Proof.Machine

/-- The conditions of R118. -/
def brTable : List ((CBr → Instr) × (W64 → W64 → Bool)) :=
  [(.beq, fun a b => a == b), (.bne, fun a b => a != b), (.blt, fun a b => decide (a.toInt < b.toInt)),
    (.bge, fun a b => decide (b.toInt ≤ a.toInt)), (.bltu, fun a b => decide (a.toNat < b.toNat)),
    (.bgeu, fun a b => decide (b.toNat ≤ a.toNat))]

/-- What BRF branches on (R122): any, all, none, not all, of a flag queue entry of R40. -/
def brfTable (cond : BitVec 3) (e : W64) : Bool :=
  if cond = 0 then e.getLsbD 0 else if cond = 1 then e.getLsbD 1 else if cond = 2 then e.getLsbD 2 else !e.getLsbD 1

/-- How a resolved branch leaves the context of the turn (R120), in a state with no fault and no load in flight in
level 1. -/
def State.branchTo (s : State) (assumed : Bool) (pc : W64) : State :=
  if assumed then (s.modHere fun x => x.commitShadows s.cur.ctx).goC pc
  else (s.modHere fun x => x.clearShadows s.cur.ctx).goC pc

/-- The state holds the oldest deferred fault `d` of level 1 of the context of the turn. -/
def State.oldestFault (s : State) (d : Deferred) : Prop :=
  oldest s.myCtx.sh1.faults = some d

/-- A trap of the bench of the turn with these values (R178): the registers that it saves, and where the context goes. -/
def State.trapped (s t : State) (code : Byte) (src : BitVec 3) (deferred : Bool) (w : W32) (epc tval : W64) : Prop :=
  t.here.c.cause = causeWord code src deferred w ∧ t.here.c.epc = epc ∧ t.here.c.tval = tval ∧
  t.here.c.handler = some s.cur.ctx ∧ t.myCtx.pc = s.here.c.trap

/-- The bench of the turn can take a trap: it has a handler and is not in it (R177). -/
def State.canTrap (s : State) : Prop := s.here.c.handler = none ∧ s.here.c.trap ≠ 0

/-- The deferred fault `d` of a branch as a killing fault reports it, with the cause of the trap that a handler was serving (R180, R403). -/
def State.deferredCause (s : State) (d : Deferred) (prior : W64) : KillCause :=
  ⟨d.code, BitVec.ofNat 3 s.cur.ctx.val, BitVec.ofNat 10 (identOf s.cur.bench), d.word, prior⟩

/-- A branch in `s` takes the trap of the deferred fault `d`, in `u`, in which it has read what it branches on: the handler runs, with
both levels cleared, or the hitch is killed, in handler state or without a handler (R121, R178, R180). -/
def State.deferredTrap (s u : State) (i : Instr) (d : Deferred) : Prop :=
  (s.canTrap → ∃ t, exec i s = .next t ∧ s.trapped t d.code (BitVec.ofNat 3 s.cur.ctx.val) true d.word d.pc d.va ∧
    t.myCtx.sh1 = .empty ∧ t.myCtx.sh2 = .empty ∧ t.myCtx.rq = s.myCtx.rq ∧ t.here.flagq = u.here.flagq ∧
    t.here.c.file = s.here.c.file ∧ t.here.c.globals = s.here.c.globals ∧ t.here.c.fflags = s.here.c.fflags ∧ t.mem = s.mem) ∧
  (s.here.c.handler.isSome = true → exec i s = .next (u.kill s.here.seqNo (s.deferredCause d s.here.c.cause))) ∧
  (s.here.c.handler = none → s.here.c.trap = 0 → exec i s = .next (u.kill s.here.seqNo (s.deferredCause d 0)))

/-- The target of an indirect jump or call is one (R124). -/
def goodTarget (a : W64) : Prop := a.toNat % 4 = 0 ∧ a.toNat < 2 ^ 57

end Sys2Proof.Machine

section CBranches
open Sys2Proof Sys2Proof.Machine

/-- R118, R120, R122: a conditional branch goes to PC + 4·OFF when its condition holds and to the next word when not; an
outcome that is the assumed one commits the shadows, the other clears them; BRF pops one flag queue entry. The case of a
faulting level 1 is `DeferredTrapEntry`. -/
def Sys2Proof.Claims.BranchResults : Prop :=
  (∀ p ∈ brTable, ∀ (o : CBr) (s : State) (x y : W64), s.gives 0 o.a x → s.gives 0 o.b y →
    let taken := p.2 x y
    (taken = o.h → s.here.shadowPending s.cur.ctx = false ∧ s.myCtx.sh1.faults = []) →
    exec (p.1 o) s = .next (s.branchTo (taken == o.h) (if taken then s.cur.pc + 4 * o.off.signExtend 64 else s.nextPc))) ∧
  ∀ (o : CBrf) (s : State) (e : W64) (rest : List W64), s.cur.ctx = 0 → s.here.flagq = e :: rest →
    let taken := brfTable o.cond e
    (taken = o.h → s.here.shadowPending s.cur.ctx = false ∧ s.myCtx.sh1.faults = []) →
    exec (.brf o) s = .next ((s.modHere fun x => { x with flagq := rest }).branchTo (taken == o.h)
      (if taken then s.cur.pc + 4 * o.off.signExtend 64 else s.nextPc))

/-- R120 and R87: what committing the shadows does. A register that level 1 holds takes its value, every other register of
the context keeps its own; level 2 becomes level 1, level 2 is empty, and the pending flags are ORed into s.fflags. -/
def Obligations.ShadowsCommit : Prop :=
  ∀ (x : Bench) (c : Fin 4), x.shadowPending c = false →
    let y := x.commitShadows c
    (∀ k : BitVec 4, k ≠ 0 → ((x.ctx c).sh1.regs[k.toFin]).valid = true →
      y.readReg c 0 k = .val ((x.ctx c).sh1.regs[k.toFin]).val) ∧
    (∀ k : BitVec 4, ((x.ctx c).sh1.regs[k.toFin]).valid = false → y.readReg c 0 k = x.readReg c 0 k) ∧
    y.readReg c 0 0 = .val 0 ∧
    (y.ctx c).sh1 = (x.ctx c).sh2 ∧ (y.ctx c).sh2 = .empty ∧
    y.c.fflags = x.c.fflags ||| (x.ctx c).sh1.flags

/-- R121, R178, R180: a branch whose outcome is the assumed one and whose level 1 holds deferred faults takes the trap of the
oldest of them instead of going on; s.epc is the address of the boosted instruction, bit 11 of s.cause is 1, and both levels are
cleared. In a handler it kills the hitch, with both causes, and on a bench without a handler too. BRF does the same, and has popped
its flag queue entry, which is the model's reading (log entry 37). -/
def Obligations.DeferredTrapEntry : Prop :=
  (∀ (o : CBrf) (s : State) (e : W64) (rest : List W64) (d : Deferred), s.cur.ctx = 0 → s.here.flagq = e :: rest →
    brfTable o.cond e = o.h → s.here.shadowPending s.cur.ctx = false → s.oldestFault d →
    s.deferredTrap (s.modHere fun x => { x with flagq := rest }) (.brf o) d) ∧
  ∀ p ∈ brTable, ∀ (o : CBr) (s : State) (x y : W64) (d : Deferred), s.gives 0 o.a x → s.gives 0 o.b y →
    p.2 x y = o.h → s.here.shadowPending s.cur.ctx = false → s.oldestFault d →
    (d ∈ s.myCtx.sh1.faults ∧ ∀ e ∈ s.myCtx.sh1.faults, d.age ≤ e.age) ∧ s.deferredTrap s (p.1 o) d

/-- R123, R124: JMP and JMPI go to their target; JMPI to a target that is not a multiple of 4 traps with ALIGN, and to
one beyond 57 bits with XLAT, at the jump itself. That a target that is neither a multiple of 4 nor below 2^57 raises ALIGN is
the model's choice: R124 gives its two faults no order (log entry 51). -/
def Sys2Proof.Claims.JumpResults : Prop :=
  (∀ (off : BitVec 26) (s : State), exec (.jmp off) s = .next (s.goC (s.cur.pc + 4 * off.signExtend 64))) ∧
  ∀ (a : BitVec 5) (s : State) (x : W64), s.gives 0 a x →
    (goodTarget x → exec (.jmpi a) s = .next (s.goC x)) ∧
    (x.toNat % 4 ≠ 0 → exec (.jmpi a) s = .next (s.raiseC 0x02 x) ∧ exec (.calli a) s = .next (s.raiseC 0x02 x)) ∧
    (x.toNat % 4 = 0 → 2 ^ 57 ≤ x.toNat →
      exec (.jmpi a) s = .next (s.raiseC 0x03 x) ∧ exec (.calli a) s = .next (s.raiseC 0x03 x))

/-- R125: a call whose next group is free takes that group, keeps the return address in the link word of the group that
becomes the callee's own, slides the window by one group and goes to its target; the shadows are cleared, and no register of
the file, no other link word and no other context has changed. -/
def Obligations.CallResults : Prop :=
  ∀ (s : State) (i : Instr) (target : W64),
    (∃ off, i = .call off ∧ target = s.cur.pc + 4 * off.signExtend 64) ∨
      (∃ a, i = .calli a ∧ s.gives 0 a target ∧ goodTarget target) →
    s.here.c.groups[groupAt (s.myCtx.w.toNat + 2)] = .free →
    ∃ t, exec i s = .next t ∧ s.onlyMyC t ∧
      t.myCtx = { s.myCtx with
        w := s.myCtx.w + 1, depth := s.myCtx.depth + 1, pc := target, wait := none, phase := .idle,
        sh1 := .empty, sh2 := .empty } ∧
      (∀ c : Fin 4, c ≠ s.cur.ctx → t.here.ctx c = s.here.ctx c) ∧
      t.here.c.file = s.here.c.file ∧ t.here.c.globals = s.here.c.globals ∧
      t.here.c.groups = s.here.c.groups.set (groupAt (s.myCtx.w.toNat + 2)) (.held s.cur.ctx) ∧
      t.here.c.link = s.here.c.link.set (groupAt (s.myCtx.w.toNat + 1)) s.nextPc

/-- R126: RET in a frame below the first goes to the link word of its window's group, slides the window back and frees the
group that the callee used; RET in the first frame of the main context raises ILL. -/
def Sys2Proof.Claims.ReturnResults : Prop :=
  (∀ s : State, s.myCtx.depth ≠ 0 → s.myCtx.spilled = 0 →
    ∃ t, exec .ret s = .next t ∧ s.onlyMyC t ∧
      t.myCtx = { s.myCtx with
        w := s.myCtx.w - 1, depth := s.myCtx.depth - 1, pc := s.here.c.link[groupAt s.myCtx.w.toNat], wait := none,
        phase := .idle, sh1 := .empty, sh2 := .empty } ∧
      t.here.c.file = s.here.c.file ∧ t.here.c.globals = s.here.c.globals ∧
      t.here.c.groups = s.here.c.groups.set (groupAt (s.myCtx.w.toNat + 1)) .free) ∧
  (∀ s : State, s.myCtx.depth = 0 → s.cur.ctx = 0 → exec .ret s = .next (s.raiseC 0x01 0)) ∧
  ∀ s : State, s.myCtx.depth = 0 → s.cur.ctx ≠ 0 → (s.here.c.loads.any fun l => l.ctx == s.cur.ctx) = false →
    exec .ret s = .next ((((s.modHere fun x =>
      (x.freeGroup (groupAt s.myCtx.w.toNat)).freeGroup (groupAt (s.myCtx.w.toNat + 1))).dropWatch s.cur.bench
        s.cur.ctx).modMy fun _ => Ctx.start).tryRetire s.cur.bench)

/-- R125 and R126 together: a call and the return of the callee leave the caller at the word after the call, with the
window, the depth, the globals and the whole register file that it had. -/
def Sys2Proof.Claims.CallThenReturn : Prop :=
  ∀ (s : State) (off : BitVec 26), s.here.c.groups[groupAt (s.myCtx.w.toNat + 2)] = .free → s.myCtx.spilled = 0 →
    ∃ t u, exec (.call off) s = .next t ∧ exec .ret t = .next u ∧
      u.myCtx.pc = s.nextPc ∧ u.myCtx.w = s.myCtx.w ∧ u.myCtx.depth = s.myCtx.depth ∧
      u.here.c.globals = s.here.c.globals ∧ u.here.c.file = s.here.c.file ∧
      u.here.c.groups[groupAt (s.myCtx.w.toNat + 2)] = .free

/-- R127: RELS in a frame of the main context, with a free tail context and two free groups, continues the frame as a tail
at the next word, and returns the main context to its caller, whose k12 to k15 are the frame's k8 to k11. It waits until every older load of its
context has bound (R73). A RELS that has waited for groups continues the frame on the tail that it chose first. -/
def Obligations.RelsResults : Prop :=
  (∀ (s : State) (c : Fin 4), c ≠ 0 → s.cur.ctx = 0 → s.myCtx.depth ≠ 0 →
    (s.myCtx.phase = .rels c ∨ (∀ t, s.myCtx.phase ≠ .rels t) ∧ s.here.freeTail = some c) → s.myCtx.spilled = 0 →
    (∀ l ∈ s.here.c.loads, l.ctx ≠ s.cur.ctx) →
    s.here.c.groups[groupAt (s.myCtx.w.toNat + 2)] = .free → s.here.c.groups[groupAt (s.myCtx.w.toNat + 3)] = .free →
    ∃ t, exec .rels s = .next t ∧ s.onlyHere t ∧ t.here = { (s.here.joinDuty 0 c.val) with c := t.here.c } ∧
      t.myCtx = { s.myCtx with
        w := s.myCtx.w - 1, depth := s.myCtx.depth - 1, pc := s.here.c.link[groupAt s.myCtx.w.toNat], wait := none,
        phase := .idle, sh1 := .empty, sh2 := .empty } ∧
      (t.here.ctx c).live = true ∧ (t.here.ctx c).pc = s.nextPc ∧ (t.here.ctx c).w = s.myCtx.w + 2 ∧
      (t.here.ctx c).depth = 0 ∧ (t.here.ctx c).rq = s.myCtx.rq ∧
      (∀ k : BitVec 4, 8 ≤ k.toNat → t.here.c.at_ (regDst (s.myCtx.w + 2) k) = s.here.c.at_ (regDst s.myCtx.w k)) ∧
      (∀ k : BitVec 4, 12 ≤ k.toNat → t.here.c.at_ (regDst (s.myCtx.w - 1) k) = s.here.c.at_ (regDst s.myCtx.w (k - 4)))) ∧
  (∀ s : State, s.cur.ctx ≠ 0 ∨ s.myCtx.depth = 0 → exec .rels s = .next (s.raiseC 0x01 0)) ∧
  ∀ s : State, s.cur.ctx = 0 → s.myCtx.depth ≠ 0 → (∀ t, s.myCtx.phase ≠ .rels t) → s.here.freeTail = none →
    exec .rels s = .next (s.raiseC 0x0D 0)

end CBranches

/-! ### C: memory -/

namespace Sys2Proof.Machine

/-- The loads of R132: bytes, and whether the value is extended with its sign. -/
def ldTable : List ((CLd → Instr) × Nat × Bool) :=
  [(.ld, 8, false), (.ldI32, 4, true), (.ldN32, 4, false), (.ldI16, 2, true), (.ldN16, 2, false), (.ldI8, 1, true),
    (.ldN8, 1, false)]

/-- The stores of R136 with their bytes. -/
def stTable : List ((CSt → Instr) × Nat) := [(.st, 8), (.stI32, 4), (.stI16, 2), (.stI8, 1)]

/-- The value that `n` little-endian bytes are, extended to 64 bits (R11, R132). -/
def extended (n : Nat) (sext : Bool) (bs : List Byte) : W64 :=
  let v : BitVec (8 * n) := BitVec.ofNat (8 * n) (leNat bs)
  if sext then v.signExtend 64 else v.setWidth 64

/-- A load at virtual address `va` has passed the checks of R131 in state `s1`, waits for no older access, and has the
bytes `bs` in state `t`. -/
def State.loads (s : State) (k : LoadKind) (va : W64) (s1 : State) (q : Passed) (t : State) (bs : List Byte) : Prop :=
  s.check s.cur.bench va.toNat k.size .read false (k.scope == .io) = (s1, .ok q) ∧
  (k.boost = 0 ∨ s1.goesDirect q k.scope = false) ∧
  s1.here.loadInFlight s1.cur.ctx q.pa k.size = false ∧
  (s1.goesDirect q k.scope = false ∨ s1.here.deviceInFlight s1.cur.ctx = false) ∧
  s1.behind s1.cur.bench s1.here.seq q = false ∧
  (if k.const then s1.loadConst s1.cur.bench q
    else s1.load s1.cur.bench q k.size k.scope k.pri k.last (forwardByte s1.here.c.sb s1.cur.ctx s1.here.seq)) = .ok t bs

/-- The context of the turn awaits no response. -/
def State.notRemote (s : State) : Prop := ∀ tag pa leaf va m, s.myCtx.phase ≠ .remote tag pa leaf va m

/-- Nothing is under way in the bench of the turn: no load, no store in C's buffer, no store of S on its way home, no store on its way
to another module, and no store of a team that has left. -/
def State.quiet (s : State) : Prop :=
  s.here.c.loads = [] ∧ s.here.c.sb = [] ∧ s.here.fab = [] ∧ s.here.orphans = [] ∧ (∀ e ∈ s.here.sq, s.here.gone .s e = false) ∧
    ∀ i : Fin 8, s.here.left[i] ≤ s.here.seq

/-- Nothing holds a copy of the line of an address, and no release of an extent covers it. -/
def State.unshared (s : State) (pa : Nat) : Prop := s.sharers (pa / 128) = [] ∧ s.closingRange pa = false

/-- The atomics of R138 on `8n`-bit values, written from its table. -/
def atomTable (n : Nat) : List (AtomOp × (BitVec (8 * n) → BitVec (8 * n) → BitVec (8 * n))) :=
  [(.add, fun a b => a + b), (.and, fun a b => a &&& b), (.or, fun a b => a ||| b), (.xor, fun a b => a ^^^ b),
    (.min, fun a b => if a.toInt ≤ b.toInt then a else b), (.max, fun a b => if a.toInt < b.toInt then b else a),
    (.minn, fun a b => if a.toNat ≤ b.toNat then a else b), (.maxn, fun a b => if a.toNat < b.toNat then b else a),
    (.swap, fun _ b => b)]

/-- What an atomic instruction of C answers: its destination, its bytes, its scope, its order. -/
def atomForm : Instr → Option (BitVec 4 × Nat × Scope × Bool)
  | .atom o => some (o.d, if o.wide then 8 else 4, o.scope, o.acq)
  | .cas o => some (o.d, if o.wide then 8 else 4, o.scope, o.acq)
  | .cas128 o => some (o.d, 16, o.scope, o.acq)
  | _ => none

end Sys2Proof.Machine

section CMemory
open Sys2Proof Sys2Proof.Machine

/-- R132 and R135: a load whose checks pass puts the bytes of its size, extended as its mnemonic says, into DST; an acquire
takes effect after it. A turn may leave a relaxed load in flight instead (`late`, the model's, log entry 9). -/
def Obligations.LoadResults : Prop :=
  (∀ p ∈ ldTable, ∀ (o : CLd) (s : State) (base : W64) (s1 : State) (q : Passed) (t : State) (bs : List Byte),
    s.notRemote → s.gives o.boost o.a base → (s1.cur.late = false ∨ o.acq = true) →
    s.loads (ldKind p.2.1 p.2.2 o) (base + o.off.signExtend 64 * BitVec.ofNat 64 p.2.1) s1 q t bs →
    exec (p.1 o) s = .next (((if o.acq then t.acquireC o.scope else t).put o.d o.boost
      (extended p.2.1 p.2.2 bs)).doneC)) ∧
  ∀ (o : CLdc) (s : State) (base : W64) (s1 : State) (q : Passed) (t : State) (bs : List Byte),
    s.notRemote → s.gives o.boost o.a base →
    s.loads ⟨8, false, true, o.d, o.boost, .sp, false, 1, false⟩ (base + o.off.signExtend 64 * 8) s1 q t bs →
    exec (.ldc o) s = .next ((t.put o.d o.boost (extended 8 false bs)).doneC)

/-- R69 and R11: a load that finds no copy of its line and no invalidation of it under way reads the bytes that memory
holds at its address, and changes no byte of memory unless it is a last-use load. -/
def Sys2Proof.Claims.LoadReadsMemory : Prop :=
  ∀ (s : State) (b : BenchId) (q : Passed) (n : Nat) (sc : Scope) (pri : BitVec 2) (d : Fin 8),
    s.region q.pa = .mem d → s.closingRange q.pa = false → (s.bench b).l1 = [] → (s.die (dieOf b)).rdc = [] →
    s.trackers = [] → s.poison = [] → q.pa % 128 + n ≤ 128 →
    ∃ t bs, s.load b q n sc pri false (fun _ => none) = .ok t bs ∧ t.mem = s.mem ∧ bs = Mem.read s.mem q.pa n

/-- R65: a byte that an older store of the same context still has in the store buffer is read from there. -/
def Sys2Proof.Claims.LoadForwards : Prop :=
  ∀ (sb : List StEntry) (e : StEntry) (c : Fin 4) (mark a : Nat) (v : Byte),
    e.ctx = c → e.seq < mark → e.kind = .store → e.pa ≤ a → e.bytes[a - e.pa]? = some (some v) →
    forwardByte (sb ++ [e]) c mark a = some v

/-- R131: the checks in their order. An address beyond 57 bits raises XLAT, a misaligned one ALIGN, one without a
translation XLAT; then an absent address XLAT, a page without the permission or of another tenant PROT, and an atomic on an
uncached page, on a device or at .io PROT. -/
def Sys2Proof.Claims.AccessChecks : Prop :=
  ∀ (s : State) (b : BenchId) (va n : Nat) (need : Need) (atomic io : Bool),
    (2 ^ 57 ≤ va → s.check b va n need atomic io = (s, .fault 0x03)) ∧
    (va < 2 ^ 57 → va % n ≠ 0 → s.check b va n need atomic io = (s, .fault 0x02)) ∧
    (va < 2 ^ 57 → va % n = 0 → ∀ s1, s.translate b (s.bench b).tenant va = (s1, .none_) →
      s.check b va n need atomic io = (s1, .fault 0x03)) ∧
    (va < 2 ^ 57 → va % n = 0 → ∀ s1 l d, s.translate b (s.bench b).tenant va = (s1, .leaf l) →
      s1.region (l.phys va) = .mem d →
      (l.allows need = false ∨ l.tenant ≠ (s1.bench b).tenant → s.check b va n need atomic io = (s1, .fault 0x04)) ∧
      (l.allows need = true → l.tenant = (s1.bench b).tenant →
        (atomic = true → io = true ∨ l.cache ≠ 0 → s.check b va n need atomic io = (s1, .fault 0x04)) ∧
        ((atomic = false ∨ io = false ∧ l.cache = 0) →
          s.check b va n need atomic io = (s1, .ok ⟨l, l.phys va⟩))))

/-- R131, R89, R134: a load whose check fails takes the precise fault with s.tval the address, or, when it is boosted,
records the fault in its shadow and goes on; a store whose check fails takes the precise fault. -/
def Sys2Proof.Claims.AccessFaults : Prop :=
  (∀ p ∈ ldTable, ∀ (o : CLd) (s : State) (base : W64) (s1 : State) (code : Byte), s.notRemote →
    s.gives o.boost o.a base →
    let va := base + o.off.signExtend 64 * BitVec.ofNat 64 p.2.1
    s.check s.cur.bench va.toNat p.2.1 .read false (o.scope == .io) = (s1, .fault code) →
    (o.boost = 0 → exec (p.1 o) s = .next (s1.raiseC code va)) ∧
    (o.boost ≠ 0 → exec (p.1 o) s = .next (s1.deferNew o.boost o.d code va).doneC)) ∧
  ∀ p ∈ stTable, ∀ (o : CSt) (s : State) (base v : W64) (s1 : State) (code : Byte),
    s.gives 0 o.a base → s.gives 0 o.b v →
    let va := base + o.off.signExtend 64 * BitVec.ofNat 64 p.2
    s.check s.cur.bench va.toNat p.2 .write false (o.scope == .io) = (s1, .fault code) →
    exec (p.1 o) s = .next (s1.raiseC code va)

/-- R136, R63, R66, R293: a store to conventional memory whose checks pass and before which nothing is under way performs; the
bytes of its size at the physical address of its virtual address hold the low bytes of the value, little-endian, and every
other byte of memory is as it was. On a write-combining page, but for one at .io, it stays in the store buffer, where others may
merge with it until something ends that, and memory is as it was: how long it stays is read from R293 (log entry 60). -/
def Sys2Proof.Claims.StoreWritesMemory : Prop :=
  ∀ p ∈ stTable, ∀ (o : CSt) (s : State) (base v : W64) (s1 : State) (q : Passed) (d : Fin 8),
    s.gives 0 o.a base → s.gives 0 o.b v → Mem.wf s.mem = true →
    s.check s.cur.bench (base + o.off.signExtend 64 * BitVec.ofNat 64 p.2).toNat p.2 .write false (o.scope == .io) =
      (s1, .ok q) →
    s1.region q.pa = .mem d → s1.quiet → s1.unshared q.pa → o.rel = false → s1.cur.late = false →
    (q.leaf.cache ≠ 1 ∨ o.scope = .io → ∃ t, exec (p.1 o) s = .next t ∧
      (∀ k : Nat, k < p.2 → Mem.get t.mem (q.pa + k) = v.extractLsb' (8 * k) 8) ∧
      ∀ a : Nat, a < q.pa ∨ q.pa + p.2 ≤ a → Mem.get t.mem a = Mem.get s.mem a) ∧
    (q.leaf.cache = 1 → o.scope ≠ .io → (s1.here.ctx 0).live = true → (∀ c, (s1.here.ctx c).live = true → (s1.here.ctx c).wait = none) →
      s1.here.team ≠ none → s1.here.stopping = none →
      ∃ t e, exec (p.1 o) s = .next t ∧ t.here.c.sb = [e] ∧ e.pa = q.pa ∧ e.bytes = ((leBytes p.2 v.toNat).map some) ∧
        t.mem = s.mem)

/-- R83 and the frame of a store: it changes no register, no flag and no result queue; what it stores enters the store
buffer behind every older entry; it performs in an event of its own (`late`, the model's, log entry 9). -/
def Sys2Proof.Claims.StoreFrame : Prop :=
  ∀ p ∈ stTable, ∀ (o : CSt) (s : State) (base v : W64) (s1 : State) (q : Passed),
    s.gives 0 o.a base → s.gives 0 o.b v →
    s.check s.cur.bench (base + o.off.signExtend 64 * BitVec.ofNat 64 p.2).toNat p.2 .write false (o.scope == .io) =
      (s1, .ok q) → s1.cur.late = true →
    ∃ t e, exec (p.1 o) s = .next t ∧ t.here.c.sb = s.here.c.sb ++ [e] ∧ e.pa = q.pa ∧ e.size = p.2 ∧
      e.ctx = s.cur.ctx ∧ e.bytes = ((leBytes p.2 v.toNat).map some) ∧
      t.mem = s.mem ∧ t.here.c.file = s.here.c.file ∧ t.here.c.globals = s.here.c.globals ∧
      t.here.c.fflags = s.here.c.fflags ∧ t.myCtx.rq = s.myCtx.rq ∧ t.myCtx.pc = s.nextPc

/-- R138: the function of every atomic but fadd, on 4 and on 8 bytes, for every pair of values. -/
def Obligations.AtomicFunctions : Prop :=
  (∀ p ∈ atomTable 4, ∀ a b : BitVec 32, atomF p.1 32 a.toNat b.toNat 0 = (p.2 a b).toNat) ∧
  ∀ p ∈ atomTable 8, ∀ a b : BitVec 64, atomF p.1 64 a.toNat b.toNat 0 = (p.2 a b).toNat

/-- R138 and R140: an atomic that performs in conventional memory writes f(old, b) over the old value and answers the old
value; a comparison that fails writes nothing. No other byte of memory changes, and the bench's L1 loses the line (R139). A comparison
that fails counts as a load: at .mo, and at .ho or wider, it waits while invalidations of its line are under way (R71, R140). -/
def Sys2Proof.Claims.AtomicPerforms : Prop :=
  ∀ (s : State) (b : BenchId) (e : StEntry) (op : AtomOp) (v ex : W128) (d : Fin 8), Mem.wf s.mem = true →
    s.region e.pa = .mem d → s.unshared e.pa → s.poison = [] →
    let old := Mem.nat s.mem e.pa e.size
    let fails := op = .cas ∧ old ≠ ex.toNat
    let sc := scopeWiden e.scope e.leaf.scope
    let waits := fails ∧ (sc = .mo ∧ s.pendingMo (e.pa / 128) = true ∨ 5 ≤ scopeRank sc ∧ s.pending (e.pa / 128) = true)
    (waits → s.performAtomic b .c e op v ex = none) ∧
    ((s.bench b).halves e.tag = [] → ¬waits →
      ∃ t r, s.performAtomic b .c e op v ex = some t ∧ r ∈ t.responses ∧ r.tag = e.tag ∧ r.code = 0 ∧
      r.val = BitVec.ofNat 1024 old ∧
      (∀ l ∈ (t.bench b).l1, l.line ≠ e.pa / 128) ∧
      (∀ a : Nat, a < e.pa ∨ e.pa + e.size ≤ a → Mem.get t.mem a = Mem.get s.mem a) ∧
      (fails → t.mem = s.mem) ∧
      (¬ fails → Mem.nat t.mem e.pa e.size = atomF op (8 * e.size) old v.toNat ex.toNat % 2 ^ (8 * e.size)))

/-- R138, R140, R141: an atomic instruction whose response has arrived puts the old value, zero-extended; CAS128 puts its
halves into DST and the register after it; an acquire takes effect once the value has bound. The atomic performs in an event
of its own (`late`, the model's, log entry 9). -/
def Sys2Proof.Claims.AtomicResults : Prop :=
  ∀ (i : Instr) (s : State) (d : BitVec 4) (n : Nat) (sc : Scope) (acq : Bool) (va : W64) (tag pa : Nat) (leaf : Leaf)
    (r : Response), atomForm i = some (d, n, sc, acq) → s.cur.late = true → s.myCtx.phase = .atomic tag pa leaf va → s.response tag = some r → r.code = 0 →
    exec i s = .next ((fun u : State => if acq then u.acquireC sc else u)
      (((s.takeResponse tag).modMy fun x => { x with phase := .idle }).putOld d n r.val.toNat)).doneC

end CMemory

/-! ### C: synchronisation -/

namespace Sys2Proof.Machine

/-- The release of the context of the turn at a scope has taken effect in the state `t`, which its store buffer leaves. -/
def State.releasesTo (s : State) (sc : Scope) (t : State) : Prop :=
  let u := s.settleBuffer
  u.releaseReady u.cur.bench .c u.cur.ctx sc u.here.seq = .yes ∧
    t = (u.publish u.cur.bench u.cur.ctx.val sc).leaves u.cur.bench u.cur.ctx.val sc u.here.seq

/-- What R147 refuses of a membership word: a reserved bit, a SCOPE or a COUNT that is none, a member whose generation has an
arrival, a leave by a bench that is no member, and a join of an instance with another COUNT, or with COUNT members, or at another
of the scopes .sp and .di than the hitch's members there (log entry 35). -/
def State.bsetRefused (s : State) (bar : Byte) (w : W64) : Prop :=
  let count := (w.extractLsb' 0 10).toNat
  w.extractLsb' 16 48 ≠ 0 ∨ w.extractLsb' 10 2 ≠ 0 ∨ (∃ x, s.membership bar = some x ∧ x.arrivals ≠ 0) ∨
  (count = 0 ∧ s.membership bar = none) ∨
  ∀ (sc : Scope) (limit : Nat), (w.extractLsb' 12 4, sc, limit) ∈ [(2#4, Scope.sp, 8), (3#4, Scope.di, 96), (4#4, Scope.mo, 768)] →
    limit < count ∨ count ≠ 0 ∧ (s.scopeClash sc bar = true ∨ ∃ y, s.instanceAt sc bar = some y ∧
      (y.count ≠ count ∨ y.count ≤ y.members.length ∧ s.membership bar ≠ some y))
/-- A context may give to, or take from, the streams of a mask (R153). -/
def State.mayName (s : State) (mask : BitVec 4) : Prop := s.cur.ctx = 0 ∨ mask = 0b1000

/-- The bench and the hitch of the bench of the turn, as a killing fault reports them, with the cause of the trap that the handler
was serving (R180, R403). -/
def State.killCause (s : State) (code : Byte) (prior : W64) : KillCause :=
  ⟨code, BitVec.ofNat 3 s.cur.ctx.val, BitVec.ofNat 10 (identOf s.cur.bench), s.cword, prior⟩

/-- A tail context that TJOIN names (R155). -/
def joins (n : BitVec 2) (c : Fin 4) : Bool := c != 0 && (n == 0 || c.val == n.toNat)

/-- The special registers with what they read as, written from the table of R92. -/
def State.sregTable (s : State) : List (Byte × W64) :=
  [(0x00, BitVec.ofNat 64 (identOf s.cur.bench)), (0x01, BitVec.ofNat 64 s.team.idx), (0x02, s.team.period.setWidth 64),
    (0x03, s.team.prio.setWidth 64), (0x04, s.here.tenant.setWidth 64), (0x05, s.here.c.spill),
    (0x06, BitVec.ofNat 64 (s.myCtx.w.toNat + 16 * s.myCtx.spilled)),
    (0x07, BitVec.ofNat 64 (16 * s.cur.ctx.val + (if (s.here.ctx 1).live then 2 else 0) +
      (if (s.here.ctx 2).live then 4 else 0) + (if (s.here.ctx 3).live then 8 else 0))),
    (0x08, s.here.c.mode.setWidth 64), (0x09, s.here.c.fflags.setWidth 64), (0x11, s.here.c.cause), (0x13, s.here.c.tval)]

/-- The registers of the trap handler (R92). -/
def State.hregTable (s : State) : List (Byte × W64) := [(0x10, s.here.c.trap), (0x12, s.here.c.epc), (0x14, s.here.c.hscr)]

end Sys2Proof.Machine

section CSync
open Sys2Proof Sys2Proof.Machine

/-- R142: a fence releases at its scope and then acquires at it. -/
def Sys2Proof.Claims.FenceResults : Prop :=
  ∀ (sc : Scope) (s t : State), s.releasesTo sc t →
    exec (.fence sc) s = .next (t.acquireC sc).doneC

/-- R147 to R149: BSET raises BARGEN in the cases that R147 lists and changes the team's membership as its word asks in all
others: COUNT 0 leaves, a bench outside any membership joins the instance of its scope or begins one with its COUNT; ARRV releases
and arrives in the instance of which the team is a member, and raises BARGEN without one; BWAIT goes on, and acquires, once a
generation later than the team's last arrival has begun, waits until then, and then goes on even if the instance has been broken
since. That .sp and .di meet in one membership, that an only member may not change its COUNT, and that a broken instance takes a
member are the model's choices (log entries 35 and 52). -/
def Sys2Proof.Claims.BarrierResults : Prop :=
  (∀ (a : BitVec 5) (bar : Byte) (s : State) (w : W64), s.gives 0 a w →
    let me : BarMember := ⟨s.team.seq, s.team.idx, none⟩
    (s.bsetRefused bar w → exec (.bset a bar) s = .next (s.raiseC 0x0C 0)) ∧
    (¬s.bsetRefused bar w → ∃ t, s.setMembership bar w = some t ∧ exec (.bset a bar) s = .next t.doneC ∧
      (∀ x, (w.extractLsb' 0 10).toNat = 0 → s.membership bar = some x → t = s.leaveBarrier x) ∧
      ∀ (sc : Scope) (limit : Nat), barrierScope w = some (sc, limit) → (w.extractLsb' 0 10).toNat ≠ 0 →
        (∀ x, s.instanceAt sc bar = some x → s.membership bar = some x → t = s) ∧
        (s.membership bar = none →
          (∀ y, s.instanceAt sc bar = some y → t = s.putBarrier y { y with members := y.members ++ [me] }) ∧
          (s.instanceAt sc bar = none → t = { s with barriers :=
            ⟨if sc = .mo then 0 else s.team.seq, s.team.tenant, bar, sc, instOf sc s.cur.bench, (w.extractLsb' 0 10).toNat, [me], 0, 0,
              false⟩ :: s.barriers })))) ∧
  (∀ (sc : Scope) (bar : Byte) (s t : State) (x y : Barrier), s.membership bar = some x → x.scope = sc →
    x.broken = false → x.lastGen s.team ≠ some x.gen → s.releasesTo sc t → t.membership bar = some y →
    exec (.arrv sc bar) s = .next ((t.putBarrier y (y.arrive t.team)).doneC)) ∧
  (∀ (sc : Scope) (bar : Byte) (s : State) (x : Barrier) (g : Nat), s.membership bar = some x → x.scope = sc →
    x.lastGen s.team = some g →
    let t : State := (s.modMy fun k => { k with phase := .bwait g }).waitC .other 0
    ((∀ k, s.myCtx.phase ≠ .bwait k) → x.broken = false →
      (g < x.gen → exec (.bwait sc bar) s = .next (s.acquireC sc).doneC) ∧
      (x.gen ≤ g → exec (.bwait sc bar) s = .next t)) ∧
    (s.myCtx.phase = .bwait g →
      (g < x.gen → exec (.bwait sc bar) s = .next (s.acquireC sc).doneC) ∧
      (x.gen ≤ g → x.broken = false → exec (.bwait sc bar) s = .next t) ∧
      (x.gen ≤ g → x.broken = true → exec (.bwait sc bar) s = .next (s.raiseC 0x0C 0)))) ∧
  ∀ (sc : Scope) (bar : Byte) (s : State), s.membership bar = none →
    exec (.arrv sc bar) s = .next (s.raiseC 0x0C 0) ∧
    ((∀ k, s.myCtx.phase ≠ .bwait k) → exec (.bwait sc bar) s = .next (s.raiseC 0x0C 0))

/-- R146, R148: an instance whose teams arrive one after another, each once, begins its next generation, with no arrivals,
after COUNT arrivals and not before; every team that arrived sees its own arrival in the generation that has ended. -/
def Obligations.BarrierGenerations : Prop :=
  ∀ (x : Barrier) (ts : List Team), x.arrivals = 0 → (∀ t ∈ ts, x.hasMember t = true) → 0 < ts.length →
    ts.length ≤ x.count →
    (ts.Pairwise fun t u => ¬(t.seq = u.seq ∧ t.idx = u.idx)) →
    let y := ts.foldl Barrier.arrive x
    (ts.length < x.count → y.gen = x.gen ∧ y.arrivals = ts.length) ∧
    (ts.length = x.count → y.gen = x.gen + 1 ∧ y.arrivals = 0) ∧
    ∀ t ∈ ts, y.lastGen t = some x.gen

/-- R143, R145: WATCH on a local line records the context's watch at home and arms it; WAIT goes on, and clears the
wake-pending flag, when that is set or no watch is armed, and waits otherwise. -/
def Sys2Proof.Claims.WatchResults : Prop :=
  (∀ (a : BitVec 5) (s : State) (va : W64) (s1 : State) (q : Passed) (d : Fin 8), s.gives 0 a va →
    s.check s.cur.bench va.toNat 1 .read true false = (s1, .ok q) → s.notRemote → s1.region q.pa = .mem d →
    exec (.watch a) s = .next (((s1.addWatch
      ⟨q.pa / 128, d.val, (sliceOf q.leaf (q.pa / 128)).1, s1.cur.bench, s1.cur.ctx, none⟩).armWatch (q.pa / 128) none).doneC)) ∧
  ∀ s : State,
    (s.myCtx.wake = true ∨ s.myCtx.watch = none → exec .wait s = .next ((s.modMy fun k => { k with wake := false }).doneC)) ∧
    (s.myCtx.wake = false → s.myCtx.watch ≠ none → exec .wait s = .next (s.waitC .other 0))

/-- R144: a store that performs at home on a watched line wakes every context that watches it: its watch is disarmed and
its wake-pending flag is set, and the registration is gone. -/
def Sys2Proof.Claims.StoreWakes : Prop :=
  ∀ (s : State) (die : Option (Fin 8)) (pa : Nat) (bs : List (Option Byte)) (w : Watch), w ∈ s.watches →
    w.remote = none → w.line = pa / 128 →
    let t := s.writeHome die pa bs
    ((t.bench w.bench).ctx w.ctx).watch = none ∧ ((t.bench w.bench).ctx w.ctx).wake = true ∧
    ∀ v ∈ t.watches, v.line ≠ pa / 128

/-- R37, R151, R152: SEND puts its source at the end of a value queue that has room; RECV takes the oldest flag queue entry
into DST. A tail raises ILL. -/
def Obligations.QueueResults : Prop :=
  (∀ (a : BitVec 5) (q : BitVec 2) (s : State) (v : W64), s.cur.ctx = 0 → s.gives 0 a v →
    (s.here.queued q.toNat).length < 16 →
    ∃ t, exec (.send a q) s = .next t.doneC ∧ s.onlyHere t ∧
      t.here = { s.here with queues := t.here.queues } ∧
      ∀ k : BitVec 2, t.here.queued k.toNat = if k = q then s.here.queued k.toNat ++ [v] else s.here.queued k.toNat) ∧
  (∀ (d : BitVec 4) (s : State) (e : W64) (rest : List W64), s.cur.ctx = 0 → s.here.flagq = e :: rest →
    exec (.recv d) s = .next (((s.modHere fun x => { x with flagq := rest }).put d 0 e).doneC)) ∧
  (∀ (a : BitVec 5) (q : BitVec 2) (d : BitVec 4) (s : State), s.cur.ctx ≠ 0 →
    exec (.send a q) s = .next (s.raiseC 0x01 0) ∧ exec (.recv d) s = .next (s.raiseC 0x01 0)) ∧
  (∀ (d : BitVec 4) (s : State), s.cur.ctx = 0 → s.here.flagq = [] → exec (.recv d) s = .next (s.waitC .queue 4)) ∧
  decodeWord (Stream.word .c 0xC140_E000) = .ok (.recv 5)

/-- R29, R33, R73, R153: GIVE pushes one token into the FIFO from C to each stream that its mask names, once its release at .en
has taken effect; TAKE pops one token from each FIFO to C that its mask names, when each holds one. In a tail
a mask that names another stream than S raises ILL. -/
def Sys2Proof.Claims.TokenResults : Prop :=
  (∀ (mask : BitVec 4) (s t : State), s.mayName mask → s.releasesTo .en t →
    (∀ g ∈ maskStreams .c mask, vget t.here.tokens (fifo .c g) 0 < 8) →
    exec (.give mask) s = .next ((t.modHere fun x => x.giveTokens .c (maskStreams .c mask) .en).doneC)) ∧
  (∀ (mask : BitVec 4) (s : State), s.mayName mask →
    (∀ g ∈ maskStreams .c mask, 0 < vget s.here.tokens (fifo g .c) 0) →
    exec (.take mask) s = .next (s.takeFrom s.cur.bench .c s.cur.ctx (maskStreams .c mask)).doneC) ∧
  ∀ (mask : BitVec 4) (s : State), ¬s.mayName mask →
    exec (.give mask) s = .next (s.raiseC 0x01 0) ∧ exec (.take mask) s = .next (s.raiseC 0x01 0)

/-- R29: of the twenty FIFOs, a give adds one token to exactly those from the giver to the streams that its mask names, and a
take removes one from exactly those to the taker from the streams that its mask names. -/
def Sys2Proof.Claims.TokenFifos : Prop :=
  ∀ (x : Bench) (me from_ to_ : Stream) (c : Fin 4) (mask : BitVec 4) (acq : Scope), from_ ≠ to_ →
    let n := fifo from_ to_
    vget (x.giveTokens me (maskStreams me mask) acq).tokens n 0 =
      vget x.tokens n 0 + (if from_ = me ∧ to_ ∈ maskStreams me mask then 1 else 0) ∧
    vget (x.takeTokens me c (maskStreams me mask)).tokens n 0 =
      vget x.tokens n 0 - (if to_ = me ∧ from_ ∈ maskStreams me mask then 1 else 0)

/-- R155: TJOIN goes on once no tail that it names is live and no store of one is left in the buffer; the releases of the main
context cover from then on what those of the tails must cover. -/
def Sys2Proof.Claims.TailJoin : Prop :=
  ∀ (n : BitVec 2) (s t : State), s.cur.ctx = 0 → s.settleBuffer = t →
    (∀ c : Fin 4, joins n c = true → (t.here.ctx c).live = false ∧ ∀ e ∈ t.here.c.sb, e.ctx ≠ c) →
    exec (.tjoin n) s = .next (t.modHere fun x =>
      (List.finRange 4).foldl (fun x c => if joins n c then x.joinDuty c.val 0 else x) x).doneC

end CSync

section CSystem
open Sys2Proof Sys2Proof.Machine

/-- R92, R93: what MFS reads from every special register, a handler register only in handler state; an unlisted number
raises ILL, and a handler register outside handler state PROT. -/
def Sys2Proof.Claims.SpecialReads : Prop :=
  ∀ (d : BitVec 4) (s : State),
    (∀ p ∈ s.sregTable, exec (.mfs d p.1) s = .next (s.put d 0 p.2).doneC) ∧
    (∀ p ∈ s.hregTable,
      (s.here.c.handler ≠ none → exec (.mfs d p.1) s = .next (s.put d 0 p.2).doneC) ∧
      (s.here.c.handler = none → exec (.mfs d p.1) s = .next (s.raiseC 0x04 0))) ∧
    ∀ n : Byte, (∀ p ∈ s.sregTable, p.1 ≠ n) → (∀ p ∈ s.hregTable, p.1 ≠ n) →
      exec (.mfs d n) s = .next (s.raiseC 0x01 0)

/-- R92, R93, R173: what MTS writes, in the order of its checks. To s.spill it waits for the spill engine, raises ILL while groups
are spilled and else keeps bits [56:7]; s.mode takes 0 to 4; s.fflags five bits; s.trap bits [56:2]. A read-only or unlisted
register raises ILL. -/
def Sys2Proof.Claims.SpecialWrites : Prop :=
  ∀ (a : BitVec 5) (s : State) (v : W64), s.gives 0 a v →
    let h := s.here.c.handler ≠ none
    (s.engineBusy s.cur.bench = true → exec (.mts a 0x05) s = .next (s.waitC .other 0)) ∧
    (s.engineBusy s.cur.bench = false →
      (s.here.anySpilled = true → exec (.mts a 0x05) s = .next (s.raiseC 0x01 0)) ∧
      (s.here.anySpilled = false →
        exec (.mts a 0x05) s = .next (s.modMyC fun u => { u with spill := v &&& 0x01FFFFFFFFFFFF80#64 }).doneC)) ∧
    (v.toNat % 8 < 5 → exec (.mts a 0x08) s = .next (s.modMyC fun u => { u with mode := v.setWidth 3 }).doneC) ∧
    (5 ≤ v.toNat % 8 → exec (.mts a 0x08) s = .next (s.raiseC 0x01 0)) ∧
    exec (.mts a 0x09) s = .next (s.modMyC fun u => { u with fflags := v.setWidth 5 }).doneC ∧
    (h → exec (.mts a 0x10) s = .next (s.modMyC fun u => { u with trap := v &&& 0x01FFFFFFFFFFFFFC#64 }).doneC ∧
      exec (.mts a 0x12) s = .next (s.modMyC fun u => { u with epc := v }).doneC ∧
      exec (.mts a 0x14) s = .next (s.modMyC fun u => { u with hscr := v }).doneC) ∧
    (¬h → ∀ n ∈ [(0x10 : Byte), 0x12, 0x14], exec (.mts a n) s = .next (s.raiseC 0x04 0)) ∧
    ∀ n : Byte, n ∉ [(0x05 : Byte), 0x08, 0x09, 0x10, 0x12, 0x14] → exec (.mts a n) s = .next (s.raiseC 0x01 0)

/-- R92, R93, R160, R164: where MFS, MTS and TLBI complete. MFS of a listed register, of a handler register in handler state; MTS
of a writable one under the same condition, of s.mode with a mode, of s.spill while nothing is spilled and the spill engine is
idle; TLBI in handler state of a kind below 6 once no access translated by what it names is under way. Each goes on at the next
word. -/
def Obligations.SpecialComplete : Prop :=
  (∀ (d : BitVec 4) (n : Byte) (s : State),
    n.toNat < 0x0A ∨ n = 0x11 ∨ n = 0x13 ∨ (s.here.c.handler.isSome = true ∧ (n = 0x10 ∨ n = 0x12 ∨ n = 0x14)) →
    ∃ t, exec (.mfs d n) s = .next t ∧ t.myCtx.pc = s.nextPc ∧ s.onlyMyC t) ∧
  (∀ (a : BitVec 5) (n : Byte) (s : State) (v : W64), s.gives 0 a v →
    n = 0x09 ∨ (n = 0x08 ∧ v.toNat % 8 < 5) ∨ (n = 0x05 ∧ s.engineBusy s.cur.bench = false ∧ s.here.anySpilled = false) ∨
      (s.here.c.handler.isSome = true ∧ (n = 0x10 ∨ n = 0x12 ∨ n = 0x14)) →
    ∃ t, exec (.mts a n) s = .next t ∧ t.myCtx.pc = s.nextPc ∧ s.onlyMyC t ∧ t.myCtx.rq = s.myCtx.rq ∧
      t.here.c.file = s.here.c.file ∧ t.here.c.globals = s.here.c.globals) ∧
  ∀ (a : BitVec 5) (kind : Byte) (s : State) (va : W64), s.gives 0 a va → s.here.c.handler.isSome = true → kind.toNat < 6 →
    s.here.c.sb = [] → (∀ b, (s.bench b).usesLeaf (tlbiHits kind.toNat s.here.tenant va.toNat) = false) →
    ∃ t, exec (.tlbi a kind) s = .next t ∧ t.myCtx.pc = s.nextPc ∧ t.mem = s.mem ∧ t.here.c.file = s.here.c.file ∧
      t.here.c.globals = s.here.c.globals ∧ ∀ l ∈ t.here.tlb, tlbiHits kind.toNat s.here.tenant va.toNat l = false

/-- R161, R178, R91: TRAP n enters the handler of the bench with s.epc the next word, s.tval n and s.cause 0x20, and clears
the shadows of its context; the registers stay. -/
def Sys2Proof.Claims.TrapEntry : Prop :=
  ∀ (n : Byte) (s : State), s.canTrap → ∃ t, exec (.trap n) s = .next t ∧
    s.trapped t 0x20 (BitVec.ofNat 3 s.cur.ctx.val) false s.cword s.nextPc (n.setWidth 64) ∧
    t.myCtx.sh1 = .empty ∧ t.myCtx.sh2 = .empty ∧ t.myCtx.rq = s.myCtx.rq ∧ t.myCtx.w = s.myCtx.w ∧
    t.here.c.file = s.here.c.file ∧ t.here.c.globals = s.here.c.globals ∧ t.here.c.fflags = s.here.c.fflags ∧
    t.here.c.mode = s.here.c.mode ∧ t.mem = s.mem

/-- R163: ERET in the context that runs the handler leaves handler state and goes on at s.epc; anywhere else it raises ILL. -/
def Sys2Proof.Claims.TrapReturn : Prop :=
  ∀ s : State,
    (s.here.c.handler = some s.cur.ctx → ∃ t, exec .eret s = .next t ∧ t.here.c.handler = none ∧
      t.myCtx.pc = s.here.c.epc ∧ t.myCtx.sh1 = .empty ∧ t.myCtx.sh2 = .empty ∧ t.myCtx.rq = s.myCtx.rq ∧
      t.here.c.file = s.here.c.file ∧ t.here.c.globals = s.here.c.globals ∧ t.mem = s.mem) ∧
    (s.here.c.handler ≠ some s.cur.ctx → exec .eret s = .next (s.raiseC 0x01 0)) ∧
    decodeWord (Stream.word .c 0xF000_0400) = .ok .eret

/-- R161 and R163 together: a handler that does nothing returns to the word after TRAP, and every register is as it was. -/
def Sys2Proof.Claims.TrapThenReturn : Prop :=
  ∀ (n : Byte) (s : State), s.canTrap → ∃ t u, exec (.trap n) s = .next t ∧ exec .eret t = .next u ∧
    u.myCtx.pc = s.nextPc ∧ u.here.c.handler = none ∧ u.myCtx.rq = s.myCtx.rq ∧ u.myCtx.w = s.myCtx.w ∧
    u.here.c.file = s.here.c.file ∧ u.here.c.globals = s.here.c.globals ∧ u.here.c.fflags = s.here.c.fflags

/-- R177, R178, R180, R403, R131: a precise fault of a context enters the handler with its code, its word, its address and s.tval,
and clears the shadows of its context, but changes no register, no result queue, no flag and no memory; in
the context that runs the handler it kills the hitch instead, with that fault and the cause that the handler was serving, which the
report keeps beside it (log entry 26, the model's); and so
it does without a handler. It waits for an older access of the context that may still fault, and an access that another context
completes while the handler runs issues again (log entry 9). -/
def Sys2Proof.Claims.PreciseFaults : Prop :=
  ∀ (s : State) (code : Byte) (va : W64),
    (s.here.unsure s.cur.ctx = true → s.raiseC code va = s.waitC .other 0) ∧
    (s.here.unsure s.cur.ctx = false → s.canTrap →
      let t := s.raiseC code va
      s.trapped t code (BitVec.ofNat 3 s.cur.ctx.val) false s.cword s.cur.pc va ∧
      t.myCtx.sh1 = .empty ∧ t.myCtx.sh2 = .empty ∧ t.myCtx.rq = s.myCtx.rq ∧ t.myCtx.w = s.myCtx.w ∧
      t.here.c.file = s.here.c.file ∧ t.here.c.globals = s.here.c.globals ∧ t.here.c.fflags = s.here.c.fflags ∧
      t.here.c.mode = s.here.c.mode ∧ t.here.c.link = s.here.c.link ∧ t.here.flagq = s.here.flagq ∧ t.mem = s.mem) ∧
    (s.here.unsure s.cur.ctx = false → s.here.c.handler = some s.cur.ctx →
      s.raiseC code va = s.kill s.here.seqNo (s.killCause code s.here.c.cause)) ∧
    (∀ h, s.here.unsure s.cur.ctx = false → s.here.c.handler = some h → h ≠ s.cur.ctx →
      s.raiseC code va = s.modMy fun k => { k with wait := none, phase := .idle }) ∧
    (s.here.unsure s.cur.ctx = false → s.here.c.handler = none → s.here.c.trap = 0 → s.raiseC code va = s.kill s.here.seqNo (s.killCause code 0)) ∧
    ∀ n : Byte, s.here.c.handler ≠ none → exec (.trap n) s = .next (s.kill s.here.seqNo (s.killCause 0x20 s.here.c.cause))

/-- R162: SYSC n is a fence at .mo and a request; once firmware has answered in k8 to k11 it fences again and goes on. -/
def Sys2Proof.Claims.SystemCalls : Prop :=
  ∀ (n : Byte) (s t : State), s.releasesTo .mo t →
    (s.myCtx.phase = .idle → exec (.sysc n) s =
      .next ((t.acquireC .mo).modMy fun k => { k with phase := .sysc n false, wait := none })) ∧
    (s.myCtx.phase = .sysc n true → exec (.sysc n) s = .next ((t.acquireC .mo).doneC))

/-- R164, R289: TLBI in handler state drops the translations that its kind names once nothing uses them: those of the bench and of
its feeds for kinds 0 and 3, those of every bench of the die and the die's own for kinds 1 and 4, and those of every bench and
every die of the module for kinds 2 and 5; outside handler state it raises PROT, and a kind above 5 ILL. -/
def Obligations.TlbInvalidate : Prop :=
  ∀ (a : BitVec 5) (kind : Byte) (s : State) (va : W64), s.gives 0 a va →
    (s.here.c.handler = none → exec (.tlbi a kind) s = .next (s.raiseC 0x04 0)) ∧
    (s.here.c.handler ≠ none → 6 ≤ kind.toNat → exec (.tlbi a kind) s = .next (s.raiseC 0x01 0)) ∧
    (s.here.c.handler ≠ none → kind.toNat < 6 →
      (∀ b, (s.settleBuffer.bench b).usesLeaf (tlbiHits kind.toNat s.here.tenant va.toNat) = false) →
      let hit := tlbiHits kind.toNat s.here.tenant va.toNat
      let named (b : BenchId) : Prop := b = s.cur.bench ∨ (kind.toNat % 3 = 1 ∧ dieOf b = dieOf s.cur.bench) ∨ kind.toNat % 3 = 2
      ∃ t : State, exec (.tlbi a kind) s = .next t.doneC ∧
        (∀ b, named b → (∀ l ∈ (t.bench b).tlb, hit l = false) ∧
          ∀ f ∈ (t.bench b).feeds.toList, ∀ l, f.trans = some l → hit l = false) ∧
        (kind.toNat % 3 = 1 → ∀ l ∈ (t.die (dieOf s.cur.bench)).tlb, hit l = false) ∧
        (kind.toNat % 3 = 2 → ∀ d, ∀ l ∈ (t.die d).tlb, hit l = false))

/-- R157, R158, R182: LAUNCH releases at .di, reads its record once and puts the answer of the dispatcher: the next sequence
number of the die, or 0; one whose acceptance had to wait goes on with the record that it has read. -/
def Sys2Proof.Claims.LaunchResults : Prop :=
  ∀ (d : BitVec 4) (a : BitVec 5) (s : State) (va : W64) (s1 t u z : State) (q : Passed) (v : Nat) (n : W64), s.gives 0 a va →
    (s.myCtx.phase ≠ .launch ∧ s.check s.cur.bench va.toNat 128 .read false false = (s1, .ok q) ∧ s1.releasesTo .di t ∧
        t.launchRecord (.of t.cur.bench .c t.cur.ctx) q = (u, .val v) ∨
      s.myCtx.phase = .launch ∧ s.readRecord (.of s.cur.bench .c s.cur.ctx) = some v ∧ t = s ∧ u = s) →
    t.cur = s.cur → u.cur = t.cur →
    let w : Asker := .of t.cur.bench .c t.cur.ctx
    let e := dieOf t.cur.bench
    let r := recordWords (leBytes 128 v)
    let ten := ctlTenant (recWord r 6)
    u.queueRoom e (runQueue (ctlPrio (recWord r 6)) ten) = true → ten = u.here.tenant → u.accept w e ten r = (z, some n) →
    exec (.launch d a) s = .next ((z.dropAsks w).put d 0 n).doneC ∧
    (recWord r 7 = 0 → n ≠ 0 → n = 0#13 ++ BitVec.ofNat 3 e.val ++ ((u.die e).launches + 1) ∧
      (z.die e).launches = (u.die e).launches + 1 ∧
      ∃ h ∈ z.hitches, h.seq = n ∧ h.state = .queued ∧ h.tenant = ten)

/-- R157, R187, R391: a record in conventional memory, of whose line no copy and no invalidation is about, is read as memory holds
it, once its checks have passed. -/
def Sys2Proof.Claims.LaunchReads : Prop :=
  ∀ (s : State) (w : Asker) (d e : Fin 8) (ten : BitVec 6) (q : Passed) (n : Nat),
    s.region q.pa = .mem e → s.closingRange q.pa = false → (s.die d).rdc = [] → s.trackers = [] → s.poison = [] →
    q.pa % 128 + n ≤ 128 →
    ∃ t v, s.dispRead w d ten q n = (t, .val v) ∧ leBytes n v = Mem.read s.mem q.pa n ∧ t.mem = s.mem

/-- R159: LWAIT goes on, and acquires at .mo, when the launch that it names has retired or it names none; for a number that
was never issued it raises PROT; for a launch that has not retired it waits. -/
def Sys2Proof.Claims.LaunchWaits : Prop :=
  ∀ (a : BitVec 5) (s : State) (q : W64), s.gives 0 a q →
    (q = 0 ∨ s.issued q = true ∧ s.hitch q = none →
      exec (.lwait a) s = .next (s.acquireC .mo).doneC) ∧
    (q ≠ 0 → s.issued q = false → exec (.lwait a) s = .next (s.raiseC 0x04 q)) ∧
    (q ≠ 0 → s.issued q = true → s.hitch q ≠ none → exec (.lwait a) s = .next (s.waitC .other 0))

/-- R129, R156, R154, R165: CLOCK reads the cycle count rounded down to the launch's period; ESTAT the word of the bench as
it stood before this cycle, and a reserved
selector raises ILL; ABANDON abandons each stream of its mask; RDV ends the main context and the team retires once all else
has; in a tail the last three raise ILL. -/
def Sys2Proof.Claims.ReadingAndEnding : Prop :=
  (∀ (d : BitVec 4) (s : State), exec (.clock d) s =
    .next (s.put d 0 (BitVec.ofNat 64 (s.clk - s.clk % 2 ^ s.team.period.toNat))).doneC) ∧
  (∀ (d : BitVec 4) (n : Byte) (s : State), s.cur.ctx = 0 →
    (∀ v, s.before[s.cur.bench].estat n.toNat = some v → exec (.estat d n) s = .next (s.put d 0 (BitVec.ofNat 64 v)).doneC) ∧
    (n.toNat = 7 ∨ 16 ≤ n.toNat → exec (.estat d n) s = .next (s.raiseC 0x01 0))) ∧
  (∀ (mask : BitVec 4) (s : State), s.cur.ctx = 0 → exec (.abandon mask) s =
    .next (((maskStreams .c mask).foldl (fun t st => t.abandon t.cur.bench st) s).doneC)) ∧
  (∀ s : State, s.cur.ctx = 0 → s.here.c.handler = none →
    exec .rdv s = .next ((s.settleBuffer.waitC .rdv 0).tryRetire s.cur.bench)) ∧
  ∀ (d : BitVec 4) (n : Byte) (mask : BitVec 4) (s : State), s.cur.ctx ≠ 0 →
    exec (.estat d n) s = .next (s.raiseC 0x01 0) ∧ exec (.abandon mask) s = .next (s.raiseC 0x01 0) ∧
    exec .rdv s = .next (s.raiseC 0x01 0)

end CSystem

/-! ### Engines: headers, retirement, loops, and L -/

namespace Sys2Proof.Machine

/-- The header of a word of L, V or S other than RDV, and whether it is a loop word. -/
def headed : Instr → Option (Hdr × Bool)
  | .fbind h _ => some (h, false) | .fload h _ => some (h, false) | .fgath h _ => some (h, false)
  | .movb h _ => some (h, false) | .fpref h _ => some (h, false) | .bfset h _ => some (h, false)
  | .lset h _ => some (h, false) | .lsetCvc h _ => some (h, false) | .lLoop h _ => some (h, true)
  | .lEndl h _ => some (h, true) | .vaddInt h _ => some (h, false) | .vsubInt h _ => some (h, false)
  | .vmulInt h _ => some (h, false) | .vmulh h _ => some (h, false) | .vmulhu h _ => some (h, false)
  | .vadds h _ => some (h, false) | .vsubs h _ => some (h, false) | .vaddsu h _ => some (h, false)
  | .vsubsu h _ => some (h, false) | .vand h _ => some (h, false) | .vor h _ => some (h, false)
  | .vxor h _ => some (h, false) | .vandn h _ => some (h, false) | .vshl h _ => some (h, false)
  | .vshr h _ => some (h, false) | .vsar h _ => some (h, false) | .vminInt h _ => some (h, false)
  | .vmaxInt h _ => some (h, false) | .vminu h _ => some (h, false) | .vmaxu h _ => some (h, false)
  | .vabsInt h _ => some (h, false) | .vnegInt h _ => some (h, false) | .vpopc h _ => some (h, false)
  | .vclz h _ => some (h, false) | .vaddFloat h _ => some (h, false) | .vsubFloat h _ => some (h, false)
  | .vmulFloat h _ => some (h, false) | .vdiv h _ => some (h, false) | .vsqrt h _ => some (h, false)
  | .vminFloat h _ => some (h, false) | .vmaxFloat h _ => some (h, false) | .vabsFloat h _ => some (h, false)
  | .vnegFloat h _ => some (h, false) | .vrint h _ => some (h, false) | .vfma h _ => some (h, false)
  | .vfms h _ => some (h, false) | .vfnma h _ => some (h, false) | .vmad h _ => some (h, false)
  | .vdot h _ => some (h, false) | .vcmpeq h _ => some (h, false) | .vcmpne h _ => some (h, false)
  | .vcmplt h _ => some (h, false) | .vcmple h _ => some (h, false) | .vcmpltu h _ => some (h, false)
  | .vcmpleu h _ => some (h, false) | .vcmpun h _ => some (h, false) | .vsel h _ => some (h, false)
  | .vbsel h _ => some (h, false) | .vcvt h _ => some (h, false) | .vcvtu h _ => some (h, false)
  | .vexp2 h _ => some (h, false) | .vlog2 h _ => some (h, false) | .vrcp h _ => some (h, false)
  | .vrsq h _ => some (h, false) | .vmov h _ => some (h, false) | .vbcst h _ => some (h, false)
  | .vperm h _ => some (h, false) | .vrot h _ => some (h, false) | .vxch h _ => some (h, false)
  | .vidx h _ => some (h, false) | .vli h _ => some (h, false) | .rsum h _ => some (h, false)
  | .rmax h _ => some (h, false) | .rmin h _ => some (h, false) | .rndcV h _ => some (h, false)
  | .mand h _ => some (h, false) | .mor h _ => some (h, false) | .mxor h _ => some (h, false)
  | .mandn h _ => some (h, false) | .mnot h _ => some (h, false) | .mset h _ => some (h, false)
  | .mclr h _ => some (h, false) | .vmode h _ => some (h, false) | .vld h _ => some (h, false)
  | .vst h _ => some (h, false) | .vgath h _ => some (h, false) | .vscat h _ => some (h, false)
  | .part h _ => some (h, false) | .vatom h _ => some (h, false) | .redm h _ => some (h, false)
  | .redt h _ => some (h, false) | .vLoop h _ => some (h, true) | .vEndl h _ => some (h, true)
  | .vlset h _ => some (h, false) | .fstore h _ => some (h, false) | .qstore h _ => some (h, false)
  | .req h _ => some (h, false) | .grain h _ => some (h, false) | .smode h _ => some (h, false)
  | .sscat h _ => some (h, false) | .srel h _ => some (h, false) | .sLoop h _ => some (h, true)
  | .sEndl h _ => some (h, true) | .slset h _ => some (h, false) | .slsetCvc h _ => some (h, false)
  | _ => none

/-- The header of a word of P other than RDV, whether the word ends a segment, and whether it is a loop word. -/
def planeHead : Instr → Option (Hdr × Bool × Bool)
  | .ptile h _ => some (h, false, false) | .pcommit h => some (h, true, false) | .psheet h _ => some (h, false, false)
  | .pwgt h _ => some (h, false, false) | .pcorr h _ => some (h, false, false) | .pmm h _ => some (h, false, false)
  | .pshift h _ _ => some (h, false, false) | .pshiftRel h _ _ => some (h, false, false) | .pzero h _ => some (h, false, false)
  | .phsend h => some (h, false, false) | .phrecv h => some (h, false, false) | .pdrain h _ => some (h, false, false)
  | .pchk h _ => some (h, false, false) | .pfwd h _ => some (h, false, false) | .pfwdRx h _ => some (h, false, false)
  | .pmode h _ => some (h, false, false) | .pseg h _ _ => some (h, true, false) | .ploop h _ => some (h, true, true)
  | .pendl h _ => some (h, true, true)
  | _ => none

/-- FIRST and LAST name an active level, and stand on no loop word (R30, R44). -/
def headFits (h : Hdr) (e : Eng) (loopWord : Bool) : Prop :=
  h.first = true ∨ h.last = true → loopWord = false ∧ (e.loop h.lvl.toNat).active = true

/-- FIRST selects the first iteration of the level, LAST the last (R44). -/
def headSelects (h : Hdr) (e : Eng) : Prop :=
  (h.first = true → (e.loop h.lvl.toNat).i = 0) ∧
  (h.last = true → (e.loop h.lvl.toNat).i.toNat + 1 = (e.loop h.lvl.toNat).n.toNat)

/-- The LOOP words, with their streams' forms. -/
def loopOf : Instr → Option (Hdr × LoopOp)
  | .lLoop h o => some (h, o) | .vLoop h o => some (h, o) | .sLoop h o => some (h, o) | _ => none
/-- The ENDL words. -/
def endlOf : Instr → Option (Hdr × BitVec 3)
  | .lEndl h n => some (h, n) | .vEndl h n => some (h, n) | .sEndl h n => some (h, n) | _ => none
/-- The stride setters. -/
def strideOf : Instr → Option (Hdr × StrideSet)
  | .lset h o => some (h, o) | .vlset h o => some (h, o) | .slset h o => some (h, o) | _ => none
/-- The RDV words of L, V and S. -/
def rdvOf : Instr → Option Hdr
  | .lRdv h => some h | .vRdv h => some h | .sRdv h => some h | _ => none

/-- A bank operand of the engine of the turn names a run of `n` elements of its bank, and the engine has captured no other. -/
def State.opRun (s : State) (o : Bop) (n : Nat) (r : Run) : Prop :=
  s.myEng.cap = none ∧ s.here.run o.bank.toNat (bopOffset s.myEng.loops o) n = .ok r

/-- The tokens that a header takes are there, and four entries of the stream's value queue, which is more than a word of L or V
pops (R30, R38). -/
def State.supplied (s : State) (h : Hdr) : Prop :=
  (∀ g ∈ maskStreams s.cur.stream h.take, 0 < vget s.here.tokens (fifo g s.cur.stream) 0) ∧
  4 ≤ (s.here.queued (queueOf s.cur.stream)).length

/-- FIRST and LAST keep a word from issuing: they name an active level, and an iteration of it that this is not (R44). -/
def headSkips (h : Hdr) (e : Eng) : Prop := (e.loop h.lvl.toNat).active = true ∧ ¬headSelects h e

/-- What the turn of an engine word comes to when its header keeps it from issuing: it is illegal, it is skipped, or it waits for a
token. `u` is the state in which it would issue, `v` that in which it is skipped, and `f` what follows the turn. -/
def State.headCases (s : State) (i : Instr) (h : Hdr) (lw : Bool) (u v : State) (f : State → State) : Prop :=
  (¬headFits h s.myEng lw → ¬headSkips h s.myEng → s.supplied h → exec i s = .next (f (u.hold 0x01 0 false))) ∧
  (headSkips h s.myEng → exec i s = .next (f (v.modMyEng fun e => { e with pc := s.nextPc, wait := none }))) ∧
  (¬headSkips h s.myEng → s.myEng.taken = false →
    (∃ g ∈ maskStreams s.cur.stream h.take, vget s.here.tokens (fifo g s.cur.stream) 0 = 0) →
    exec i s = .next (f (u.waitEng .take h.take.toNat 1)))

/-- The segment ends (R261). -/
def State.endSeg (s : State) : State := s.modRegs fun r => { r with seg := none }

/-- The open segment, if there is one, has the words and the signature that PSEG named (R261). -/
def State.segOk (s : State) : Prop := ∀ q, s.plane.regs.seg = some q → q.ok = true

/-- What a word of P that would end a segment comes to when the segment has not the steps and the signature that PSEG named: SEGSIG, which
in a tile begins its replay, or is held after one (R261, R267). -/
def State.badSeg (s : State) : State := if s.plane.tile then s.tileEvent 0x08 0 else s.hold 0x08 0 false

end Sys2Proof.Machine

section Engines
open Sys2Proof Sys2Proof.Machine

/-- R30, R32, R44: an engine instruction whose FIRST or LAST does not fit its loops raises ILL, which is held, when its tokens
and entries are there (log entry 43, the model's); one that they do not select goes on to the next word and takes nothing, a loop
word that carries one of them too, as it does not issue; one that waits for
a token takes nothing. So for every word of L, P, V and S, RDV and the loop words with them; a skipped word of P is reached all the
same, and enters the signature of an open segment; a word that ends a segment checks it first (R261). -/
def Sys2Proof.Claims.EngineHeaders : Prop :=
  (∀ (i : Instr) (h : Hdr) (lw : Bool) (s : State), headed i = some (h, lw) → s.myEng.issued = false →
    s.headCases i h lw s s id) ∧
  (∀ (i : Instr) (h : Hdr) (s : State), rdvOf i = some h → s.myEng.issued = false →
    s.headCases i h false s s fun t => t.tryRetire s.cur.bench) ∧
  (∀ (i : Instr) (h : Hdr) (ends lw : Bool) (s : State), planeHead i = some (h, ends, lw) → s.cur.stream = .p →
    s.myEng.issued = false →
    let u := if ends then s.endSeg else s
    (ends = false ∨ s.segOk → s.headCases i h lw u u.skipWord id) ∧
    (ends = true → ¬s.segOk → exec i s = .next s.badSeg)) ∧
  ∀ (h : Hdr) (s : State), s.cur.stream = .p → s.myEng.issued = false →
    (s.segOk → s.headCases (.pRdv h) h false s.endSeg s.endSeg.skipWord fun t => t.tryRetire s.cur.bench) ∧
    (¬s.segOk → exec (.pRdv h) s = .next (s.badSeg.tryRetire s.cur.bench))

/-- R33, R34: an engine instruction that retires goes on at the next word, or where it says; its gives are pushed when every
FIFO that they name has room and nothing of the stream waits before them, and otherwise they wait in the stream. A turn marked late
leaves its give waiting in any case: when an instruction retires that has issued is the turn's to say (log entry 9, the model's). -/
def Sys2Proof.Claims.EngineRetires : Prop :=
  ∀ (s : State) (give : BitVec 4) (pc : Option W64), s.cur.stream = .l ∨ s.cur.stream = .v → s.myEng.gives = [] →
    s.myEng.flags = [] → s.here.vfly = [] →
    let t := s.retire give [] pc
    let room := s.here.canGive s.cur.stream (maskStreams s.cur.stream give)
    t.myEng.pc = pc.getD s.nextPc ∧ t.myEng.taken = false ∧ t.myEng.popped = [] ∧ t.myEng.issued = false ∧ t.myEng.loops = s.myEng.loops ∧
    (s.cur.late = false → room = true → t.myEng.gives = [] ∧
      ∀ r : Stream, r ≠ s.cur.stream → vget t.here.tokens (fifo s.cur.stream r) 0 =
        vget s.here.tokens (fifo s.cur.stream r) 0 + (if r ∈ maskStreams s.cur.stream give then 1 else 0)) ∧
    (s.cur.late = true ∨ room = false → t.here.tokens = s.here.tokens ∧
      (give ≠ 0 → t.myEng.gives.map Give.mask = [give]))

/-- R41 to R43, R45: LOOP n opens level n with its count when all levels below are active and none from n on; ENDL n begins the
next iteration after its LOOP, or closes level n after the last one; a stride setter sets one stride of one level. -/
def Obligations.LoopResults : Prop :=
  (∀ (i : Instr) (h : Hdr) (o : LoopOp) (s : State), loopOf i = some (h, o) →
    let nq := if o.csrc then 1 else 0
    let s1 := s.atIssue h nq
    let count : W32 := if o.csrc then entryCount ((s.entriesAt nq).getD 0 0) else o.count
    s.issues h true nq → s1.myEng.mayOpen o.lvl.toNat = true → count ≠ 0 →
    exec i s = .next ((s1.modLoop o.lvl.toNat fun l =>
      { l with active := true, n := count, i := 0, body := s1.nextPc }).retire h.give [] none)) ∧
  (∀ (i : Instr) (h : Hdr) (n : BitVec 3) (s : State), endlOf i = some (h, n) →
    let s1 := s.atIssue h 0
    let l := s1.myEng.loop n.toNat
    s.issues h true 0 → s1.myEng.isTop n.toNat = true →
    exec i s = .next (if l.i.toNat + 1 < l.n.toNat
      then (s1.modLoop n.toNat fun l => { l with i := l.i + 1 }).retire h.give [] (some l.body)
      else (s1.modLoop n.toNat fun l => { l with active := false, i := l.i + 1 }).retire h.give [] none)) ∧
  (∀ (i : Instr) (h : Hdr) (o : StrideSet) (s : State), strideOf i = some (h, o) → s.issues h false 0 →
    exec i s = .next (((s.atIssue h 0).modLoop o.lvl.toNat fun l =>
      { l with s := vset l.s o.sel.toNat o.value }).retire h.give [] none)) ∧
  ∀ (i : Instr) (h : Hdr) (s : State), rdvOf i = some h → s.issues h false 0 →
    exec i s = .next ((((s.atIssue h 0).modMyEng fun e => { e with rdv := true }).retire h.give [] none).tryRetire
      s.cur.bench)

/-- R45, R54: writing bytes into a bank puts exactly them there; every other byte of the bank and every other bank are as they
were, and a sector that they cover whole loses its poison. -/
def Obligations.BankWrites : Prop :=
  ∀ (x : Bench) (bank off : Nat) (bs : List Byte), bank < 16 → Mem.wf (x.bank bank) = true →
    let y := x.writeBank bank off bs
    (∀ k : Nat, k < bs.length → Mem.get (y.bank bank) (off + k) = bs.getD k 0) ∧
    (∀ a : Nat, a < off ∨ off + bs.length ≤ a → Mem.get (y.bank bank) a = Mem.get (x.bank bank) a) ∧
    (∀ b : Nat, b ≠ bank → y.bank b = x.bank b) ∧
    (∀ sec : Nat, off ≤ 32 * sec → 32 * sec + 32 ≤ off + bs.length → (bank, sec) ∉ y.bankPoison) ∧
    ∀ p ∈ x.bankPoison, p.1 ≠ bank → p ∈ y.bankPoison

/-- R308, R310, R312: FBIND binds a feed to the descriptor that it has read, with the count that it pops where WILD asks for one;
FLOAD pops one block of its feed into a bank run;
FGATH gathers the rows that an index list names. -/
def Obligations.FeedResults : Prop :=
  (∀ (h : Hdr) (o : LBind) (s t : State) (bs : List Byte) (tr : Option Leaf) (ls : List (Nat × Nat)) (v : W64) (rest : List W64),
    let nq := if o.dsrc then 2 else 1
    let s1 := s.atIssue h nq
    let ents := s.entriesAt nq
    let base := ents.getD (nq - 1) 0
    let ws := words8 bs
    let ctl := ws.getD 0 0
    let wild := fdWild ctl
    let dims := fdDimList ws (fdDims ctl)
    let last := fdDims ctl - 1
    let dims := if wild then dims.set last (entryCount v, (dims.getD last (0, 0)).2) else dims
    let u := if wild then (t.bound ls).modHere fun x => x.popQueue 0 1 else t.bound ls
    s.issues h false nq → ents.length = nq →
    s1.fetchPieces s1.cur.bench ⟨.sp, 1, false, some .l⟩ [(descAddr o s1.cur.pc ents, 64)] none = .ok t bs tr ls →
    (wild = true → (t.bound ls).here.queued 0 = v :: rest) → bindFault ws dims base = none →
    s.noOverlap [feedAcc o.feed.toNat] →
    exec (.fbind h o) s = .next ((u.modHere fun x =>
      (x.modFeed o.feed.toNat fun _ => boundFeed ctl dims base (x.frame (fdFrame ctl))).dropEngineAsks).retire h.give
        [feedAcc o.feed.toNat] none)) ∧
  (∀ (h : Hdr) (o : LLoad) (s t : State) (r : Run) (f : Feed) (k : FBlock),
    let s1 := s.atIssue h 0
    s.issues h false 0 → s1.opRun o.bop 1 r → s1.popBlock s1.cur.bench o.feed.toNat = .ok t f k →
    inBank r.off (r.bytes k.n) = true → s.noOverlap [r.acc k.n true, feedAcc o.feed.toNat] →
    exec (.fload h o) s = .next ((t.modHere fun x =>
      if fdFmt f.ctl = r.fmt then x.writeBank r.bank r.off k.bytes else x.writeVals r o.rm (f.values k)).retire h.give
        [r.acc k.n true, feedAcc o.feed.toNat] none)) ∧
  ∀ (h : Hdr) (o : IdxMove) (s t : State) (r : Run) (bs : List Byte) (tr : Option Leaf) (ls : List (Nat × Nat)),
    let s1 := s.atIssue h 0
    let x := s1.here
    let f := x.feed o.feed.toNat
    let ib := o.ibank.toNat
    let io := 512 * o.ioff.toNat
    let l := x.indexList ib io
    let rl := f.rowLen * perIndex (fdFmt f.ctl)
    let acc : List Acc := [⟨ib, io, io + 4 + 4 * l.1, false⟩, r.acc (rl * l.2.length) true]
    s.issues h false 0 → bfFmt (x.bf ib) = 0 → bfDith (x.bf ib) = false → s1.opRun o.bop 0 r → f.gathers = true → f.dir ≠ .wr →
    x.indexFault ib io (f.dims.getD 1 (0, 0)).1.toNat = none →
    (fmtIsD r.fmt = false ∨ rl % 32 = 0 ∨ l.1 ≤ 1) → inBank r.off (r.bytes (rl * l.1)) = true →
    s1.fetchPieces s1.cur.bench (f.reading (some .l)) (l.2.flatMap f.rowPieces) none = .ok t bs tr ls → s.noOverlap acc →
    exec (.fgath h o) s = .next (((t.bound ls).modHere fun x =>
      ((x.rowsIn r x.lcvc.rm f l.2 bs).modFeed o.feed.toNat fun f => { f with dir := .rd }).dropEngineAsks).retire
        h.give acc none)

/-- R313 to R316, R49, R50: MOVB converts elements from one bank run into another; FPREF only fetches ahead; BFSET writes a
bank's format word, which R50 must accept; LSET cvc sets the conversion control. -/
def Obligations.LoadEngineResults : Prop :=
  (∀ (h : Hdr) (o : LMovb) (s : State) (rs rd : Run),
    let s1 := s.atIssue h 0
    let x := s1.here
    let n := x.lcvc.nm1.toNat + 1
    let term := loopTerm x.l.loops o.bop.sl
    s.issues h false 0 → x.run o.sbank.toNat ((32 * o.soff.toNat : Nat) + term) n = .ok rs →
    x.run o.bop.bank.toNat ((o.bop.off.toNat : Int) + term) n = .ok rd →
    x.bankPoisoned rs.bank rs.off (rs.bytes n) = false → s.noOverlap [rs.acc n false, rd.acc n true] →
    exec (.movb h o) s = .next ((s1.modHere fun y => y.writeVals rd y.lcvc.rm (y.runVals rs n)).retire h.give
      [rs.acc n false, rd.acc n true] none)) ∧
  (∀ (h : Hdr) (o : LPref) (s t : State), s.issues h false 0 → (s.atIssue h 0).prefetch o = .ok t →
    exec (.fpref h o) s = .next (t.retire h.give [] none) ∧ t.mem = s.mem ∧ t.here.feeds = s.here.feeds ∧
      t.here.banks = s.here.banks) ∧
  (∀ (h : Hdr) (o : LBfset) (s : State),
    let s1 := s.atIssue h 0
    let n := o.bank.toNat
    let new : W32 := 0#22 ++ BitVec.ofBool o.vlock ++ BitVec.ofBool o.dith ++ 0#1 ++ o.frame ++ o.fmt
    s.issues h false 0 →
    (bfsetRefused (s1.here.bf n) new = false → s.noOverlap [⟨n, 0, 0x20000, true⟩] →
      exec (.bfset h o) s = .next ((s1.modHere fun x => { x with bfmt := vset x.bfmt n new }).retire h.give
        [⟨n, 0, 0x20000, true⟩] none)) ∧
    (fmtReserved o.fmt = true ∨ (o.dith = true ∧ fmtDithers o.fmt = false) → s.cur.stream = .l →
      s.noOverlap [⟨n, 0, 0x20000, true⟩] →
      ∃ t : State, exec (.bfset h o) s = .next t ∧ t.here.bfmt = s.here.bfmt ∧
        t.myEng.held = some ⟨0x06, 0, s.cur.word, s.cur.pc, false, false, none, 0⟩)) ∧
  ∀ (h : Hdr) (o : Cvc) (s : State), s.issues h false 0 →
    exec (.lsetCvc h o) s = .next (((s.atIssue h 0).modHere fun x => { x with lcvc := ⟨false, o.rm, o.nm1⟩ }).retire
      h.give [] none)

end Engines

/-! ### P -/

namespace Sys2Proof.Machine

/-- A word of P issues where it stands, or has issued and goes on (R30, R32, R44, R241, R242, R267): the parts of the plane's state
that it reads hold no error, and the window of an open tile has room. -/
def State.pIssues (s : State) (h : Hdr) (i : Instr) (inside loopWord : Bool) (nq : Nat) : Prop :=
  s.plane.tile = inside ∧ (inside = true → s.plane.window.length < 64) ∧ s.plane.error &&& s.plane.readsOf i = 0 ∧
  (s.issues h loopWord nq ∨ s.myEng.issued = true ∧ s.myEng.taken = true)

/-- No recorded range conflicts with the ranges of a word that issues (R56). -/
def State.pFree (s : State) (acc : List Acc) : Prop := s.myEng.issued = false → s.noOverlap acc


/-- A word of P that has come to `t` from `s1`, in which it has issued, retires: it joins the window of the tile that is
open then (R242, R245). -/
def State.pRetire (s1 t : State) (h : Hdr) (i : Instr) (acc : List Acc) (pc : Option W64) : State :=
  (t.pDone i s1.cap s1.plane.regs.seg.isSome acc).retire h.give acc pc

/-- The bank operand of a plane word, as captured, is a run that the format accepts (R222, R243). -/
def State.pRun (s1 : State) (o : Bop) (fmt : BitVec 4) (n : Nat) (r : Run) : Prop :=
  fmtReserved fmt = false ∧ bankFmtOk s1.cap o fmt = true ∧ s1.cap.run o n = .ok r

/-- No byte of the parts of a bank is poisoned (R54). -/
def State.clean (s1 : State) (bank : Nat) (parts : List (Nat × Nat)) : Prop :=
  ∀ p ∈ parts, s1.here.bankPoisoned bank p.1 p.2 = false

/-- The steps that the duty of the die still allows P in this window of 16 clk (R458). -/
def State.stepsLeft (s : State) : Nat :=
  (s.die (dieOf s.cur.bench)).duty.toNat - (if s.plane.stepWin = s.clk / 16 then s.plane.stepUsed else 0)

/-- The state with the steps counted that an instruction of `n` steps has still to take (R458). -/
def State.stepped (s : State) (n : Nat) : State :=
  s.modPlane fun p =>
    { p with
      stepWin := s.clk / 16
      stepUsed := (if p.stepWin = s.clk / 16 then p.stepUsed else 0) + (n - s.myEng.step) }

/-- The side of a tile has its reservation in the neighbour's receive buffer (R255). -/
def State.reserved (s : State) (hi : Bool) : Bool := if hi then s.plane.resvHi else s.plane.resvLo

end Sys2Proof.Machine

section PlaneControl
open Sys2Proof Sys2Proof.Machine

/-- R246, R247, R253, R254, R258, R260, R261: opening and committing a tile, the base shift, zeroing and checking layers,
the mode and a segment. -/
def Sys2Proof.Claims.PlaneControl : Prop :=
  ∀ (h : Hdr) (s : State),
    let s1 := s.atIssue h 0
    (∀ o : PTileOp, s.pIssues h (.ptile h o) false false 0 → s.plane.replay = none →
      geoOk (o.geo.setWidth 32) (posOf s.cur.bench) = true →
      exec (.ptile h o) s = .next (s1.pRetire (s1.openTile (o.geo.setWidth 32) o.chk) h (.ptile h o) [] none)) ∧
    (let s2 := s.endSeg.atIssue h 0;
      s.endSeg.pIssues h (.pcommit h) true false 0 → s.segOk → s2.plane.checked 0xFF = true →
      exec (.pcommit h) s = .next (s2.pRetire s2.commitTile h (.pcommit h) [] none)) ∧
    (∀ sx sy : BitVec 4, s.pIssues h (.pshift h sx sy) true false 0 →
      (-7 ≤ sx.toInt → -7 ≤ sy.toInt →
        exec (.pshift h sx sy) s = .next (s1.pRetire (s1.modRegs fun r => { r with by_ := sy.toInt, bx := sx.toInt }) h
          (.pshift h sx sy) [] none)) ∧
      (sx.toInt = -8 ∨ sy.toInt = -8 → exec (.pshift h sx sy) s = .next (s.hold 0x01 0 false)) ∧
      (let by_ := s1.plane.regs.by_ + sy.toInt;
        let bx := s1.plane.regs.bx + sx.toInt;
        s.pIssues h (.pshiftRel h sx sy) true false 0 → -7 ≤ by_ → by_ ≤ 7 → -7 ≤ bx → bx ≤ 7 →
        exec (.pshiftRel h sx sy) s = .next (s1.pRetire (s1.modRegs fun r => { r with by_ := by_, bx := bx }) h
          (.pshiftRel h sx sy) [] none))) ∧
    (∀ m : Byte, m ≠ 0 →
      (s.pIssues h (.pzero h m) true false 0 →
        exec (.pzero h m) s = .next (s1.pRetire (s1.zeroLayers m) h (.pzero h m) [] none)) ∧
      (s.pIssues h (.pchk h m) true false 0 → s1.plane.checked m = true → exec (.pchk h m) s = .next (s1.pRetire s1 h (.pchk h m) [] none))) ∧
    (∀ m : BitVec 3, s.pIssues h (.pmode h m) false false 0 →
      (m.toNat < 6 → exec (.pmode h m) s = .next (s1.pRetire (s1.modPlane fun p => { p with mode := m }) h (.pmode h m)
        [] none)) ∧
      (6 ≤ m.toNat → exec (.pmode h m) s = .next (s.hold 0x01 0 false))) ∧
    ∀ (steps : BitVec 24) (sig : W32) (inside : Bool),
      let s2 := s.endSeg.atIssue h 0
      s.endSeg.pIssues h (.pseg h steps sig) inside false 0 → s.segOk →
      exec (.pseg h steps sig) s = .next (s2.pRetire (s2.modRegs fun r =>
        { r with seg := some ⟨steps, sig, 0, 0xFFFFFFFF⟩ }) h (.pseg h steps sig) [] none)

/-- R262, R263: PLOOP, PENDL and RDV of P end an open segment, and are a LOOP with its four strides, an ENDL and an RDV. -/
def Sys2Proof.Claims.PlaneLoops : Prop :=
  (∀ (h : Hdr) (o : PLoopOp) (s : State),
    let nq := if o.csrc then 1 else 0
    let s1 := s.endSeg.atIssue h nq
    let count : W32 := if o.csrc then entryCount ((s.endSeg.entriesAt nq).getD 0 0) else o.count.setWidth 32
    let strides : Vector W32 4 := #v[o.sa.signExtend 32, o.sb.signExtend 32, o.sc.signExtend 32, o.sd.signExtend 32]
    s.endSeg.pIssues h (.ploop h o) false true nq → s.segOk → s1.myEng.mayOpen o.lvl.toNat = true → count ≠ 0 → s.cur.stream = .p →
    o.lvl.toNat < 6 →
    ∃ t, exec (.ploop h o) s = .next (s1.pRetire t h (.ploop h o) [] none) ∧
      t.myEng.loop o.lvl.toNat = ⟨true, count, 0, strides, s1.nextPc⟩ ∧
      ∀ k : Nat, k < 6 → k ≠ o.lvl.toNat → t.myEng.loop k = s1.myEng.loop k) ∧
  (∀ (h : Hdr) (n : BitVec 3) (s : State),
    let s1 := s.endSeg.atIssue h 0
    let l := s1.myEng.loop n.toNat
    s.endSeg.pIssues h (.pendl h n) false true 0 → s.segOk → s1.myEng.isTop n.toNat = true →
    exec (.pendl h n) s = .next (if l.i.toNat + 1 < l.n.toNat
      then s1.pRetire (s1.modLoop n.toNat fun l => { l with i := l.i + 1 }) h (.pendl h n) [] (some l.body)
      else s1.pRetire (s1.modLoop n.toNat fun l => { l with active := false, i := l.i + 1 }) h (.pendl h n) [] none)) ∧
  ∀ (h : Hdr) (s : State),
    let s1 := s.endSeg.atIssue h 0
    s.endSeg.pIssues h (.pRdv h) false false 0 → s.segOk →
    exec (.pRdv h) s = .next ((s1.pRetire (s1.modMyEng fun e => { e with rdv := true }) h (.pRdv h) [] none).tryRetire
      s.cur.bench)

end PlaneControl

section PlaneData
open Sys2Proof Sys2Proof.Machine

/-- R248 to R252, R227, R228, R458: loading a sheet register and the weights, and the steps of PCORR and PMM, which take their
effect with the last step that the duty allows. The ranges that PSHEET and PMM hold are those of the rows that they read (log
entry 55). -/
def Obligations.PlaneSteps : Prop :=
  ∀ (h : Hdr) (s : State),
    let s1 := s.atIssue h 0
    let g := s1.plane.pgeo
    (∀ (o : PSheetOp) (r : Run), s.pIssues h (.psheet h o) true false 0 →
      let D := fmtD o.fmt
      let w := geoEW g * D
      let rp := if o.rp = 0 then w else o.rp.toNat
      let n := (geoEH g - 1) * rp + w
      let vs := s1.here.runVals r n
      let fill (sh : Vector PCell 256) := fillSheet g sh (!fmtIsInt o.fmt) D fun y x d => vs.getD (y * rp + x * D + d) .zero
      let parts := (upTo (geoEH g)).map fun y => r.part (y * rp) (y * rp + w)
      s1.pRun o.bop o.fmt n r → s1.clean r.bank parts → s.pFree (readAccs r.bank parts) →
      exec (.psheet h o) s = .next (s1.pRetire (s1.modRegs fun q =>
        if o.sh then { q with sh1 := fill q.sh1 } else { q with sh0 := fill q.sh0 }) h (.psheet h o) (readAccs r.bank parts) none)) ∧
    (∀ (o : PWgtOp) (r : Run), s.pIssues h (.pwgt h o) true false 0 →
      let D := fmtD o.fmt
      s1.pRun o.bop o.fmt (8 * D) r → s1.clean r.bank [r.part 0 (8 * D)] → s.pFree [r.acc (8 * D) false] →
      exec (.pwgt h o) s = .next (s1.pRetire (s1.modRegs fun q =>
        { q with w := weightBlock (!fmtIsInt o.fmt) D 0 (s1.here.runVals r (8 * D)) }) h (.pwgt h o)
        [r.acc (8 * D) false] none)) ∧
    (∀ (o : PCorrOp) (r : Run), s.pIssues h (.pcorr h o) true false 0 →
      let D := fmtD o.fmt
      let float := !fmtIsInt o.fmt
      let taps := pcorrTaps o s1.plane.regs.by_ s1.plane.regs.bx
      let n := taps.length * 8 * D
      let vs := s1.here.runVals r n
      let go (blk : Nat → Vector PCell 8 → Vector PCell 8) : State :=
        { ((s1.stepped taps.length).modPlane fun p =>
            { p with
              regs := runTaps p.pgeo ⟨float, D, s1.cap.free⟩ (if o.sh then p.regs.sh1 else p.regs.sh0) o.prof
                (rmodeOf s1.cap.mode) blk taps 0 p.regs
              prof := o.prof }) with
          free := s1.free + 4096 }
      (∀ t ∈ taps, -7 ≤ t.1 ∧ t.1 ≤ 7 ∧ -7 ≤ t.2 ∧ t.2 ≤ 7) → profOk o.prof o.fmt = true →
      taps.length - s1.myEng.step ≤ s1.stepsLeft →
      (o.wsrc = true → fmtReserved o.fmt = false →
        exec (.pcorr h o) s = .next (s1.pRetire (go fun _ w => w) h (.pcorr h o) [] none)) ∧
      (o.wsrc = false → s1.pRun o.bop o.fmt n r → s1.clean r.bank [r.part 0 n] → s.pFree [r.acc n false] →
        exec (.pcorr h o) s = .next (s1.pRetire (go fun t _ => weightBlock float D t vs) h (.pcorr h o)
          [r.acc n false] none))) ∧
    ∀ (o : PMmOp) (rs rw : Run), s.pIssues h (.pmm h o) true false 0 →
      let D := fmtD o.fmt
      let K := o.km1.toNat + 1
      let n := (K + D - 1) / D
      let cells := geoEH g * geoEW g
      let rp := o.rp.toNat
      let ns := pmmElem rp cells D ((K - 1) / D) (cells - 1) ((K - 1) % D) + 1
      let parts := if rp = 0 then [rs.part 0 ns] else (upTo cells).map fun c => rs.part (c * rp) (c * rp + K)
      let acc := readAccs rs.bank parts ++ [rw.acc (n * 8 * D) false]
      profOk o.prof o.fmt = true → s1.pRun o.sop o.fmt ns rs → s1.pRun o.wop o.fmt (n * 8 * D) rw →
      s1.clean rs.bank parts →
      n - s1.myEng.step ≤ s1.stepsLeft →
      s1.clean rw.bank [rw.part 0 (n * 8 * D)] → s.pFree acc →
      exec (.pmm h o) s = .next (s1.pRetire ((s1.stepped n).modPlane fun p =>
        { p with
          regs := runSlices g ⟨!fmtIsInt o.fmt, D, s1.cap.free⟩ rp K o.prof (rmodeOf s1.cap.mode) (s1.here.runVals rs ns)
            (s1.here.runVals rw (n * 8 * D)) n 0 p.regs
          prof := o.prof }) h (.pmm h o) acc none)

/-- R255 to R257: draining layers into a bank; capturing the bands that leave, once every neighbour's buffer is reserved; and
adding the bands that have come. No rule names what says whether they add as integers or in F32: that they add as integers exactly
when the profile register holds 3 is the model's choice (log entry 56). -/
def Obligations.PlaneTransfers : Prop :=
  ∀ (h : Hdr) (s : State),
    let s1 := s.atIssue h 0
    let g := s1.plane.pgeo
    (∀ (o : PDrainOp) (r : Run), s.pIssues h (.pdrain h o) true false 0 →
      let vs := drainVals g s1.plane.regs.a o
      let t := s1.modHere fun x => x.writeVals r s1.cap.mode vs
      o.zlo.toNat ≤ o.zhi.toNat → o.prof.toNat < 6 →
      fmtReserved (bfFmt (vget s1.cap.bfmt o.bop.bank.toNat 0)) = false → s1.cap.run o.bop vs.length = .ok r →
      s.pFree [r.acc vs.length true] →
      exec (.pdrain h o) s = .next (s1.pRetire (if o.clr then t.zeroLayers (drainMask o) else t) h (.pdrain h o)
        [r.acc vs.length true] none)) ∧
    (let mates : Bool := (geoSides g).all fun hi => (s1.mate s1.cur.bench (if hi then 1 else -1)).isSome;
      let s2 := (geoSides g).foldl (fun s hi =>
        match s1.mate s1.cur.bench (if hi then 1 else -1) with | some n => s.reserve n hi | none => s) s1;
      s.pIssues h (.phsend h) true false 0 → mates = true → (s1.plane.sent = false ∨ geoSides g = []) → (∀ hi ∈ geoSides g, s2.reserved hi = true) →
      exec (.phsend h) s = .next (s1.pRetire (s2.modPlane fun p =>
        { p with
          sendLo := if geoHas g false then some (sentBand g p.regs.a false) else p.sendLo
          sendHi := if geoHas g true then some (sentBand g p.regs.a true) else p.sendHi
          sent := true }) h (.phsend h) [] none)) ∧
    (let band (hi : Bool) : Option Band := if hi then s1.plane.rxHi else s1.plane.rxLo;
      let md := if s1.cap.prof = 4 then rmodeOf s1.cap.mode else .rne;
      let add (r : PRegs) (hi : Bool) : PRegs :=
        match band hi with | some b => r.merge g (s1.cap.prof != 3) md hi b | none => r;
      s.pIssues h (.phrecv h) true false 0 → s1.plane.replay = none → s1.plane.sent = false → s1.plane.rxUsed = false → (∀ hi ∈ geoSides g, (band hi).isSome = true) →
      exec (.phrecv h) s = .next (s1.pRetire (s1.modPlane fun p =>
        { p with regs := (geoSides g).foldl add p.regs, rxUsed := p.rxUsed || !(geoSides g).isEmpty }) h (.phrecv h) [] none)) ∧
    (s.pIssues h (.phrecv h) true false 0 → s1.plane.replay = none → s1.plane.sent = true → exec (.phrecv h) s = .next (s.hold 0x01 0 false))

/-- R235, R240, R259, R275: a sending PFWD reads its region when it issues, and waits; it retires when every receiver has
acknowledged the region. A receiving one writes the region that has arrived and acknowledges it. A turn that is marked late leaves
the region, or its acknowledgement, on the span link (stages 0 and 2), and another has it delivered at once (1 and 3): how long
either takes is the turn's to say (log entry 9, the model's). -/
def Sys2Proof.Claims.PlaneForwards : Prop :=
  ∀ (h : Hdr) (o : PFwdOp) (s : State) (off : Nat),
    let s1 := s.atIssue h 0
    let b := s1.cur.bench
    let n := o.n.toNat
    let bank := o.bop.bank.toNat
    let len := o.lenm1.toNat + 1
    fwdRegion s1.cap o = .ok off →
    (s.pIssues h (.pfwd h o) false false 0 → 0 < n → posOf b + n ≤ 7 →
      (s.myEng.issued = false → (∀ k : Nat, 1 ≤ k → k ≤ n → (s1.mate b k).isSome = true) → s1.clean bank [(off, len)] →
        s.noOverlap [⟨bank, off, off + len, false⟩] →
        ∃ t : State, exec (.pfwd h o) s = .next t ∧ t.myEng.issued = true ∧ t.myEng.taken = true ∧
          t.here.banks = s.here.banks ∧
          t.forwards = s1.forwards ++ [⟨b, o.bop.bank, off, len, Mem.read (s1.here.bank bank) off len,
            (span 1 n).filterMap fun k => (s1.mate b (k : Nat)).map fun m => (m, if s1.cur.late then 0 else 1)⟩]) ∧
      (s.myEng.issued = true → (∀ f ∈ s1.forwards, f.src = b → ∀ r ∈ f.rx, r.2 = 3) →
        exec (.pfwd h o) s = .next (s1.pRetire { s1 with forwards := s1.forwards.filter fun f => f.src != b } h (.pfwd h o)
          [⟨bank, off, off + len, false⟩] none))) ∧
    ∀ (src : BenchId) (f : Forward), s.pIssues h (.pfwdRx h o) false false 0 → 0 < n → n ≤ posOf b →
      neighbour b (-(n : Int)) = some src →
      firstWhere (fun f => f.src == src && f.rx.any fun r => r.1 == b && decide (r.2 < 2)) s1.forwards = some f →
      (∀ r ∈ f.rx, r.1 = b → r.2 ≠ 0) → f.bank = o.bop.bank → f.off = off → f.len = len →
      s.pFree [⟨bank, off, off + len, true⟩] →
      exec (.pfwdRx h o) s = .next (s1.pRetire ((s1.stage src b (if s1.cur.late then 2 else 3)).modHere fun x =>
        x.writeBank bank off f.bytes) h (.pfwdRx h o) [⟨bank, off, off + len, true⟩] none)

end PlaneData

/-! ### V -/

namespace Sys2Proof.Machine

/-- The ranges of the feeds among the sources of a V word (R309). -/
def vAcc (srcs : List (BitVec 6 × BitVec 3)) : List Acc := (feedOps srcs).map fun p => feedAcc p.1

/-- A V word with its sources issues, reads no register that an atomic in flight has still to write, among them those that it reads
beside its sources, and its sources, all popped in the state `t`, are `vs` (R327, R331, R357). -/
def State.vReads (s : State) (h : Hdr) (more : List Nat) (srcs : List (BitVec 6 × BitVec 3)) (t : State) (vs : List VReg) : Prop :=
  let nq := srcs.countP fun a => a.1 == 48
  let s1 := s.atIssue h nq
  let regs := (srcs.filter fun a => decide (a.1.toNat < 32)).map fun a => a.1.toNat
  s.issues h false nq ∧ s1.here.vBlocked (regs ++ more) = false ∧ s.noOverlap (vAcc srcs) ∧
  ∃ ks, s1.popAll (feedOps srcs) = .ok t ks none ∧ vs = operands t.here srcs (s.entriesAt nq) ks

/-- The compute instruction puts `new` into the active lanes of its register and retires (R326, R328, R329, R332). -/
def State.vWrite (t : State) (h : Hdr) (o : VOp) (srcs : List (BitVec 6 × BitVec 3)) (new : VReg) : State :=
  (t.writeVr o.vd.toNat (t.here.active o.me o.mi) o.fo new).retire h.give (vAcc srcs) none

/-- Element `e` of a register, of width `w` (R325). -/
def velem (w : Nat) (v : VReg) (e : Nat) : BitVec w := v.extractLsb' (w * e) w

/-- The two-source integer functions of R333 on elements of width `w`, written from its table. -/
def vIntTable (w : Nat) : List ((Hdr → VOp → Instr) × (BitVec w → BitVec w → BitVec w)) :=
  [(.vaddInt, fun a b => a + b), (.vsubInt, fun a b => a - b), (.vmulInt, fun a b => a * b),
    (.vmulh, fun a b => BitVec.ofInt w (a.toInt * b.toInt / 2 ^ w)),
    (.vmulhu, fun a b => BitVec.ofNat w (a.toNat * b.toNat / 2 ^ w)),
    (.vadds, fun a b => BitVec.ofInt w (max (-2 ^ (w - 1)) (min (2 ^ (w - 1) - 1) (a.toInt + b.toInt)))),
    (.vsubs, fun a b => BitVec.ofInt w (max (-2 ^ (w - 1)) (min (2 ^ (w - 1) - 1) (a.toInt - b.toInt)))),
    (.vaddsu, fun a b => BitVec.ofNat w (min (2 ^ w - 1) (a.toNat + b.toNat))),
    (.vsubsu, fun a b => BitVec.ofNat w (a.toNat - b.toNat)),
    (.vand, fun a b => a &&& b), (.vor, fun a b => a ||| b), (.vxor, fun a b => a ^^^ b), (.vandn, fun a b => a &&& ~~~b),
    (.vshl, fun a b => a <<< (b.toNat % w)), (.vshr, fun a b => a >>> (b.toNat % w)),
    (.vsar, fun a b => a.sshiftRight (b.toNat % w)), (.vminInt, fun a b => if b.toInt < a.toInt then b else a),
    (.vmaxInt, fun a b => if a.toInt < b.toInt then b else a), (.vminu, fun a b => if b.toNat < a.toNat then b else a),
    (.vmaxu, fun a b => if a.toNat < b.toNat then b else a)]

/-- The one-source integer functions of R333. -/
def vIntTable1 (w : Nat) : List ((Hdr → VOp → Instr) × (BitVec w → BitVec w)) :=
  [(.vabsInt, fun a => if a.toInt < 0 then -a else a), (.vnegInt, fun a => -a),
    (.vpopc, fun a => BitVec.ofNat w ((List.range w).countP fun i => a.getLsbD i)),
    (.vclz, fun a => BitVec.ofNat w (if a = 0 then w else w - 1 - Nat.log2 a.toNat))]

/-- The rounding float functions of two sources (R334). -/
def vFltTable2 : List ((Hdr → VOp → Instr) × (RMode → Val → Val → Val)) :=
  [(.vaddFloat, fun md a b => sumVals md [a, b]), (.vsubFloat, fun md a b => sumVals md [a, b.neg]),
    (.vmulFloat, fun _ a b => a.mul b), (.vdiv, fun _ a b => a.div b)]
/-- The rounding float functions of one source (R334). -/
def vFltTable1 : List ((Hdr → VOp → Instr) × (RMode → Val → Val)) := [(.vsqrt, fun _ a => a.sqrt), (.vrint, fun md a => a.rint md)]
/-- The functions of one source that round under RNE alone (R339). -/
def vExactTable : List ((Hdr → VOp → Instr) × (Val → Val)) :=
  [(.vexp2, Val.exp2), (.vlog2, Val.log2), (.vrcp, Val.rcp), (.vrsq, Val.rsq)]
/-- The fused products (R335). -/
def vFmaTable : List ((Hdr → VOp → Instr) × (Val → Val → Val × Val)) :=
  [(.vfma, fun p c => (p, c)), (.vfms, fun p c => (p, c.neg)), (.vfnma, fun p c => (p.neg, c))]

/-- The reductions: node and identity in F32, node and identity in I32 (R342). -/
def vRedTable : List ((Hdr → VOp → Instr) × ((W32 → W32 → W32) × W32) × (W32 → W32 → W32) × W32) :=
  [(.rsum, (fun x y => roundF32 .rne (sumVals .rne [valF32 x, valF32 y]), 0), fun x y => x + y, 0),
    (.rmax, (fun x y => (fminmax32 true x y).1, 0xFF800000), fun x y => if x.toInt < y.toInt then y else x, 0x80000000),
    (.rmin, (fun x y => (fminmax32 false x y).1, 0x7F800000), fun x y => if y.toInt < x.toInt then y else x, 0x7FFFFFFF)]

/-- The compares of R336 on elements of a type. -/
def vCmpTable (t : BitVec 3) : List ((Hdr → VCmp → Instr) × (Nat → Nat → Bool)) :=
  [(.vcmpeq, fun a b => tyEq t a b), (.vcmpne, fun a b => !tyEq t a b), (.vcmplt, fun a b => tyLt t a b),
    (.vcmple, fun a b => tyLt t a b || tyEq t a b), (.vcmpltu, fun a b => decide (a < b)),
    (.vcmpleu, fun a b => decide (a ≤ b)), (.vcmpun, fun a b => (fval t a).isNan || (fval t b).isNan)]

/-- The mask operations of R344. -/
def vMaskTable : List ((Hdr → MOp → Instr) × (Mask → Mask → Mask)) :=
  [(.mand, fun a b => a &&& b), (.mor, fun a b => a ||| b), (.mxor, fun a b => a ^^^ b), (.mandn, fun a b => a &&& ~~~b),
    (.mnot, fun a _ => ~~~a), (.mset, fun _ _ => BitVec.allOnes 128), (.mclr, fun _ _ => 0)]

/-- The shuffles of R340: the lane of a that lane `i` takes. -/
def vShuffleTable : List ((Hdr → VOp → Instr) × (VReg → Nat → Nat)) :=
  [(.vperm, fun b i => (lane b i).toNat % 128), (.vrot, fun b i => (i + (lane b 0).toNat % 128) % 128),
    (.vxch, fun b i => i ^^^ ((lane b 0).toNat % 128))]

end Sys2Proof.Machine

section Vectors
open Sys2Proof Sys2Proof.Machine

/-- R333, R335: the integer instructions of V but for the compares, and VMAD, element by element, for every width, every pair of
elements and every kind of source. -/
def Obligations.VectorIntegers : Prop :=
  (∀ (h : Hdr) (o : VOp) (s t : State) (a b : VReg), ∀ p ∈ vIntTable (tyW o.ty),
    let srcs := [(o.sa, o.ty), (o.sb, o.ty)]
    s.vReads h [] srcs t [a, b] →
    exec (p.1 h o) s = .next (t.vWrite h o srcs (ofTy o.ty fun e =>
      (p.2 (velem (tyW o.ty) a e) (velem (tyW o.ty) b e)).toNat))) ∧
  (∀ (h : Hdr) (o : VOp) (s t : State) (a : VReg), ∀ p ∈ vIntTable1 (tyW o.ty), s.vReads h [] [(o.sa, o.ty)] t [a] →
    exec (p.1 h o) s = .next (t.vWrite h o [(o.sa, o.ty)] (ofTy o.ty fun e => (p.2 (velem (tyW o.ty) a e)).toNat))) ∧
  ∀ (h : Hdr) (o : VOp) (s t : State) (a b c : VReg),
    let srcs := [(o.sa, o.ty), (o.sb, o.ty), (o.sc, o.ty)]
    s.vReads h [] srcs t [a, b, c] →
    exec (.vmad h o) s = .next (t.vWrite h o srcs (ofTy o.ty fun e =>
      (velem (tyW o.ty) a e * velem (tyW o.ty) b e + velem (tyW o.ty) c e).toNat))

/-- R334, R335, R338, R339, R342: the float instructions of V round each element once under their mode; minimum and
maximum, sign changes, dot products, conversions, the correctly rounded functions, and the reductions by a fixed tree. What VCVTU
makes of an integer that it narrows is the model's choice (log entry 29). -/
def Obligations.VectorFloats : Prop :=
  (∀ p ∈ vFltTable2, ∀ (h : Hdr) (o : VOp) (s t : State) (a b : VReg),
    let srcs := [(o.sa, o.ty), (o.sb, o.ty)]
    let md := t.vmd o.rm
    s.vReads h [] srcs t [a, b] →
    exec (p.1 h o) s = .next (t.vWrite h o srcs (ofTy o.ty fun e =>
      fround o.ty md (p.2 md (fval o.ty (elem (tyW o.ty) a e)) (fval o.ty (elem (tyW o.ty) b e)))))) ∧
  (∀ (h : Hdr) (o : VOp) (s t : State) (a : VReg),
    let srcs := [(o.sa, o.ty)]
    let md := t.vmd o.rm
    s.vReads h [] srcs t [a] →
    let x (e : Nat) : Nat := elem (tyW o.ty) a e
    (∀ p ∈ vFltTable1, exec (p.1 h o) s = .next (t.vWrite h o srcs (ofTy o.ty fun e => fround o.ty md (p.2 md (fval o.ty (x e)))))) ∧
    (∀ p ∈ vExactTable, exec (p.1 h o) s = .next (t.vWrite h o srcs (ofTy o.ty fun e => fround o.ty .rne (p.2 (fval o.ty (x e)))))) ∧
    exec (.vabsFloat h o) s = .next (t.vWrite h o srcs (ofTy o.ty fun e =>
      if (fval o.ty (x e)).isNan then x e else x e % (tyFF o.ty).signBit)) ∧
    exec (.vnegFloat h o) s = .next (t.vWrite h o srcs (ofTy o.ty fun e =>
      if (fval o.ty (x e)).isNan then x e else x e ^^^ (tyFF o.ty).signBit)) ∧
    ∀ p ∈ vRedTable,
      let act := t.here.active o.me o.mi
      let n := if tyIsF o.ty then p.2.1 else p.2.2
      let v := tree n.1 n.2 9 ((upTo (128 * tyK o.ty)).map fun e =>
        if act.getLsbD (e / tyK o.ty) then redLeaf o.ty (x e) else n.2)
      exec (p.1 h o) s = .next ((t.modHere fun y =>
        let z := { y with vreg := vset y.vreg o.vd.toNat (ofElems 32 128 fun _ => v.toNat) }.overV o.vd.toNat (BitVec.allOnes 128)
        if o.fo then z.flagOut ⟨none, [flagEntry (if v = 0 then 0 else act) act], t.cur.word, t.cur.pc,
          [(o.vd.toNat, BitVec.allOnes 128, t.here.vr o.vd.toNat)], []⟩ else z).retire h.give (vAcc srcs) none)) ∧
  (∀ (h : Hdr) (o : VOp) (s t : State) (a b : VReg),
    let srcs := [(o.sa, o.ty), (o.sb, o.ty)]
    s.vReads h [] srcs t [a, b] →
    ∀ p ∈ [(Instr.vminFloat, false), (Instr.vmaxFloat, true)],
      exec (p.1 h o) s = .next (t.vWrite h o srcs (ofTy o.ty fun e =>
        tyMinMax o.ty p.2 (elem (tyW o.ty) a e) (elem (tyW o.ty) b e)))) ∧
  (∀ p ∈ vFmaTable, ∀ (h : Hdr) (o : VOp) (s t : State) (a b c : VReg),
    let srcs := [(o.sa, o.ty), (o.sb, o.ty), (o.sc, o.ty)]
    let md := t.vmd o.rm
    s.vReads h [] srcs t [a, b, c] →
    let x (v : VReg) (e : Nat) : Val := fval o.ty (elem (tyW o.ty) v e)
    exec (p.1 h o) s = .next (t.vWrite h o srcs (ofTy o.ty fun e =>
      let q := p.2 ((x a e).mul (x b e)) (x c e)
      fround o.ty md (sumVals md [q.1, q.2])))) ∧
  (∀ (h : Hdr) (o : VOp) (s t : State) (a b c : VReg),
    let srcs := [(o.sa, o.ty), (o.sb, o.ty), (o.sc, if tyIsF o.ty then tF32 else tI32)]
    s.vReads h [] srcs t [a, b, c] →
    exec (.vdot h o) s = .next (t.vWrite h o srcs (ofElems 32 128 fun i => dotLane o (t.vmd o.rm) a b c i))) ∧
  ∀ (h : Hdr) (o : VCvt) (s t : State) (a : VReg),
    let srcs := [(o.o.sa, o.sty)]
    s.vReads h [o.o.vd.toNat] srcs t [a] →
    let old := t.here.vr o.o.vd.toNat
    exec (.vcvt h o) s = .next (t.vWrite h o.o srcs (cvtReg false (t.vmd o.o.rm) o a old)) ∧
    exec (.vcvtu h o) s = .next (t.vWrite h o.o srcs (cvtReg true (t.vmd o.o.rm) o a old))

/-- R336, R337, R340, R341, R343 to R345: compares into a mask or a register, selects, moves and shuffles, the grain hash,
immediates, mask operations, and V's mode. -/
def Sys2Proof.Claims.VectorSelects : Prop :=
  (∀ (h : Hdr) (c : VCmp) (s t : State) (a b : VReg), ∀ p ∈ vCmpTable c.o.ty,
    let o := c.o
    let srcs := [(o.sa, o.ty), (o.sb, o.ty)]
    s.vReads h [] srcs t [a, b] →
    let act := t.here.active o.me o.mi
    let holds (e : Nat) : Bool := p.2 (elem (tyW o.ty) a e) (elem (tyW o.ty) b e)
    (c.kind = 2 → exec (p.1 h c) s =
      .next (t.vWrite h o srcs (ofTy o.ty fun e => if holds e then 2 ^ tyW o.ty - 1 else 0))) ∧
    (c.kind = 0 → exec (p.1 h c) s = .next ((t.writeMask (o.vd.toNat % 8) act o.fo (bitsFrom 128 fun i =>
      (upTo (tyK o.ty)).all fun j => holds (tyK o.ty * i + j))).retire h.give (vAcc srcs) none)) ∧
    (c.kind = 1 → exec (p.1 h c) s = .next ((t.writeMask (o.vd.toNat % 8) act o.fo (bitsFrom 128 fun i =>
      (upTo (tyK o.ty)).any fun j => holds (tyK o.ty * i + j))).retire h.give (vAcc srcs) none))) ∧
  (∀ (h : Hdr) (o : VOp) (s t : State) (a b : VReg),
    let srcs := [(o.sa, o.ty), (o.sb, o.ty)]
    s.vReads h [] srcs t [a, b] →
    exec (.vsel h o) s = .next (t.vWrite h o srcs (blend (t.here.mask (o.sc.toNat % 8)) b a))) ∧
  (∀ (h : Hdr) (o : VOp) (s t : State) (a b c : VReg),
    let srcs := [(o.sa, o.ty), (o.sb, o.ty), (o.sc, o.ty)]
    s.vReads h [] srcs t [a, b, c] →
    exec (.vbsel h o) s = .next (t.vWrite h o srcs ((a &&& c) ||| (b &&& ~~~c)))) ∧
  (∀ (h : Hdr) (o : VOp) (s t : State) (a : VReg),
    let srcs := [(o.sa, o.ty)]
    s.vReads h [] srcs t [a] →
    exec (.vmov h o) s = .next (t.vWrite h o srcs a) ∧
    exec (.vbcst h o) s = .next (t.vWrite h o srcs (ofTy o.ty fun _ => elem (tyW o.ty) a 0))) ∧
  (∀ p ∈ vShuffleTable, ∀ (h : Hdr) (o : VOp) (s t : State) (a b : VReg),
    let srcs := [(o.sa, o.ty), (o.sb, o.ty)]
    s.vReads h [] srcs t [a, b] →
    exec (p.1 h o) s = .next (t.vWrite h o srcs (ofElems 32 128 fun i => (lane a (p.2 b i)).toNat))) ∧
  (∀ (h : Hdr) (o : VOp) (s t : State) (a b c : VReg),
    let srcs := [(o.sa, tI32), (o.sb, tI32), (o.sc, tI32)]
    s.vReads h [o.vd.toNat] srcs t [a, b, c] →
    exec (.rndcV h o) s = .next (t.vWrite h o srcs (ofElems 32 128 fun i =>
      (grainHash (lane a i) (lane b i) (lane c i) (lane (t.here.vr o.vd.toNat) i)).toNat))) ∧
  (∀ (h : Hdr) (o : VOp) (s t : State), s.vReads h [] [] t [] → exec (.vidx h o) s = .next (t.vWrite h o [] (ofTy o.ty fun e => e))) ∧
  ∀ (h : Hdr) (s : State), s.issues h false 0 →
    let s1 := s.atIssue h 0
    (∀ o : VLiOp, exec (.vli h o) s =
      .next ((s1.writeVr o.vd.toNat (BitVec.allOnes 128) false (ofTy o.ty fun _ => o.imm.toNat)).retire h.give [] none)) ∧
    (∀ p ∈ vMaskTable, ∀ o : MOp,
      exec (p.1 h o) s = .next ((s1.writeMask o.md.toNat (BitVec.allOnes 128) o.fo
      (p.2 (s1.here.mask o.ma.toNat) (s1.here.mask o.mb.toNat))).retire h.give [] none)) ∧
    ∀ m : BitVec 3,
      (m.toNat < 5 → exec (.vmode h m) s = .next ((s1.modHere fun x => { x with vmode := m }).retire h.give [] none)) ∧
      (5 ≤ m.toNat → exec (.vmode h m) s = .next (s.hold 0x01 0 false))

/-- R325, R328, R329: a register write changes exactly the active lanes of its register; lane i of the result is lane i of the
new value where lane i is active and of the old one where it is not, and every other register and every mask stays. With FO
one flag entry whose count is the number of active lanes that hold a nonzero value waits to be pushed, behind those of the instructions
before it. -/
def Sys2Proof.Claims.VectorPredication : Prop :=
  ∀ (s : State) (vd : Nat) (act : Mask) (fo : Bool) (new : VReg), vd < 32 →
    let t := s.writeVr vd act fo new
    (∀ i : Nat, i < 128 → lane (t.here.vr vd) i = if act.getLsbD i then lane new i else lane (s.here.vr vd) i) ∧
    (∀ n : Nat, n ≠ vd → t.here.vr n = s.here.vr n) ∧ t.here.vmask = s.here.vmask ∧ t.here.banks = s.here.banks ∧
    t.here.flagq = s.here.flagq ∧ t.mem = s.mem ∧
    (fo = false → t.here.v.flags.map FlagOut.es = s.here.v.flags.map FlagOut.es) ∧
    (fo = true → ∃ e, t.here.v.flags.map FlagOut.es = s.here.v.flags.map FlagOut.es ++ [[e]] ∧
      e.toNat / 8 = ((List.range 128).countP fun i => act.getLsbD i && decide (lane new i ≠ 0)) ∧
      (e.getLsbD 0 = true ↔ ∃ i, i < 128 ∧ act.getLsbD i = true ∧ lane new i ≠ 0) ∧
      (e.getLsbD 1 = true ↔ ∀ i, i < 128 → act.getLsbD i = true → lane new i ≠ 0) ∧
      e.getLsbD 2 = !e.getLsbD 0)

end Vectors

/-! ### V: memory; S -/

namespace Sys2Proof.Machine

/-- A V word reaches words of a bank from an effective offset on: the format, the alignment and the bounds of R350. -/
def State.vBankAt (s : State) (o : Bop) (fmtOk : BitVec 4 → Bool) (len eff : Nat) : Prop :=
  let w := s.here.bf o.bank.toNat
  bfDith w = false ∧ fmtOk (bfFmt w) = true ∧ bopOffset s.here.v.loops o = eff ∧ eff % 4 = 0 ∧ eff + len ≤ 0x20000

/-- A V word reaches the words of a bank that an index register names: the checks of R353. -/
def State.vIndexAt (s : State) (o : VIdx) (eff : Int) : Prop :=
  let w := s.here.bf o.bop.bank.toNat
  let vi := s.here.vr o.vi.toNat
  bfDith w = false ∧ bfFmt w = 0 ∧ bopOffset s.here.v.loops o.bop = eff ∧ eff % 4 = 0 ∧
  ∀ i ∈ liveLanes (s.here.active o.me o.mi) vi, 0 ≤ eff + 4 * (lane vi i).toNat ∧ eff + 4 * (lane vi i).toNat + 4 ≤ 0x20000

/-- What V's atomic that issues in `s` has come to in `t`, with what the checks of its lanes came to: the lanes leave together,
each that passes enters V's queue, the first of them with the release, blocks fetched ahead that read their bytes are given up
(R65), the atomic is in flight until every lane has its record, and the flag entry of a VATOM that pushes one is not known before
(R357, R358). Whether the lanes go to their homes at once or stay in flight is the turn's mark `late` (log entry 9). -/
def State.vSends (s t : State) (cs : List (Nat × W64 × Except Byte Passed)) (n : Nat) (kind : Nat → StKind) (sc : Scope) (rel : Bool)
    (lanes : List Nat) (active : Mask) (out : Option (BitVec 5 × BitVec 3 × Bool)) (va : W64) : State :=
  let k := t.here.seq
  let one (x : Bench) (c : Nat × W64 × Except Byte Passed) : Bench :=
    x.laneIssue s.cur.bench n (kind c.1) sc (rel && x.vq.all fun e => decide (e.seq < k)) s.cur.word (k + c.1) c.2.1 c.2.2
  let passed := cs.filterMap fun c => match c.2.2 with | .ok p => some (c.1, p.pa, p.leaf) | .error _ => none
  let f : VFly := ⟨k, lanes, active, out, va, s.cur.word, s.cur.pc, 0, 0, passed.filter fun l => l.2.2.prep⟩
  let fo := match out with | some (_, _, fo) => fo | none => false
  let t := t.modHere fun x =>
    let y := { ((cs.foldl one x).orderFeeds k (passed.map fun l => (l.2.1, n))) with
      seq := k + 128, vscope := some sc, vfly := x.vfly ++ [f] }
    if fo then y.flagOut ⟨some k, [0], s.cur.word, s.cur.pc, [], []⟩ else y
  if s.cur.late then t else t.drainAll s.cur.bench .v false

end Sys2Proof.Machine

section VectorMemory
open Sys2Proof Sys2Proof.Machine

/-- R349 to R355: VLD, VGATH, VST, VSCAT and PART. A load puts the word of each active lane into that lane; a store writes
the active lanes' words, a later one over an earlier one; PART writes two dense lists and two flag entries. -/
def Obligations.VectorBanks : Prop :=
  ∀ (h : Hdr) (s : State) (eff : Nat), s.issues h false 0 →
    let s1 := s.atIssue h 0
    let x := s1.here
    (∀ o : VMem, s1.vBankAt o.bop (vldFmtOk o.ty) (4 * 127 * (o.sm1.toNat + 1) + 4) eff →
      let bank := o.bop.bank.toNat
      let act := x.active o.me o.mi
      let at_ (i : Nat) : Nat := eff + 4 * i * (o.sm1.toNat + 1)
      let acc (w : Bool) : List Acc := (lanesOf act).map fun i => ⟨bank, at_ i, at_ i + 4, w⟩
      (x.wordsPoisoned bank ((lanesOf act).map at_) = false →
        s.noOverlap (acc false) →
        exec (.vld h o) s = .next ((s1.modHere fun y =>
          { y with vreg := vmod y.vreg o.vr.toNat fun v => withLanes v act fun i => y.rawWord bank (at_ i) }.overV
            o.vr.toNat act).retire h.give (acc false) none)) ∧
      (x.vBlocked [o.vr.toNat] = false → s.noOverlap (acc true) →
        exec (.vst h o) s = .next ((s1.modHere fun y => y.writeWords bank ((lanesOf act).map fun i =>
          (at_ i, lane (x.vr o.vr.toNat) i))).retire h.give (acc true) none))) ∧
    (∀ (o : VIdx) (eff : Int), s1.vIndexAt o eff →
      let bank := o.bop.bank.toNat
      let act := x.active o.me o.mi
      let vi := x.vr o.vi.toNat
      let live := liveLanes act vi
      let acc (w : Bool) : List Acc := live.map fun i => ⟨bank, idxAddr eff vi i, idxAddr eff vi i + 4, w⟩
      (x.vBlocked [o.vi.toNat] = false →
        x.wordsPoisoned bank (live.map fun i => idxAddr eff vi i) = false → s.noOverlap (acc false) →
        exec (.vgath h o) s = .next ((s1.modHere fun y =>
          { y with vreg := vmod y.vreg o.vr.toNat fun v => withLanes v act fun i =>
              if lane vi i = 0xFFFFFFFF then 0 else y.rawWord bank (idxAddr eff vi i) }.overV o.vr.toNat act).retire h.give
            (acc false) none)) ∧
      (x.vBlocked [o.vr.toNat, o.vi.toNat] = false → s.noOverlap (acc true) →
        exec (.vscat h o) s = .next ((s1.modHere fun y => y.writeWords bank (live.map fun i =>
          (idxAddr eff vi i, lane (x.vr o.vr.toNat) i))).retire h.give (acc true) none))) ∧
    ∀ o : VPart, s1.vBankAt o.bop (fun f => f == 0) 0x604 eff →
      let bank := o.bop.bank.toNat
      let act := x.active o.me o.mi
      let acc : List Acc := [⟨bank, eff, eff + 0x204, true⟩, ⟨bank, eff + 0x400, eff + 0x604, true⟩]
      let yes := act &&& x.mask o.ms.toNat
      let no := act &&& ~~~(x.mask o.ms.toNat)
      s.noOverlap acc →
      exec (.part h o) s = .next ((s1.modHere fun y =>
        ((y.writeBank bank eff (denseList (lanesOf yes))).writeBank bank (eff + 0x400) (denseList (lanesOf no))).flagOut
          ⟨none, [flagEntry yes act, flagEntry no act], s1.cur.word, s1.cur.pc, [], []⟩).retire h.give acc none)

/-- R356 to R360: an atomic of V issues all its lanes together and goes on; REDM sends one atomic with the combined value, and
REDT one message for its slot. Once every lane of a VATOM has its record, its register takes the old values in the active lanes
and its fault mask names those that failed; the lanes and the mask bits that younger instructions have written since keep what these
wrote (R332). Whether the lanes perform in the turn or are left in flight is the turn's mark `late`, the model's (log entry 9). -/
def Obligations.VectorAtomics : Prop :=
  (∀ (h : Hdr) (o : VAtm) (s t : State) (cs : List (Nat × W64 × Except Byte Passed)),
    let s1 := s.atIssue h 1
    let x := s1.here
    let act := x.active o.me o.mi
    let base := (s.entriesAt 1).getD 0 0
    let lanes := (lanesOf act).map fun i => (i, base + 4 * (lane (x.vr o.va.toNat) i).setWidth 64)
    s.issues h false 1 → x.vBlocked
      ((if o.op = .cas then [o.vd.toNat] else []) ++ [o.va.toNat, o.vb.toNat]) = false →
    s1.checkLanes 4 lanes = (t, some cs) →
    exec (.vatom h o) s = .next ((s1.vSends t cs 4 (fun i =>
      .atomic o.op ((lane (x.vr o.vb.toNat) i).setWidth 128) ((lane (x.vr o.vd.toNat) i).setWidth 128)) o.scope o.rel
      (lanesOf act) act (some (o.vd, o.mf, o.fo)) base).retire h.give [] none)) ∧
  (∀ (h : Hdr) (o : VRedm) (s t : State) (p : Passed),
    let s1 := s.atIssue h 1
    let x := s1.here
    let act := x.active o.me o.mi
    let va := (s.entriesAt 1).getD 0 0
    let v := tree (redmNode o.op) 0 7
      ((upTo 128).map fun i => if act.getLsbD i then lane (x.vr o.va.toNat) i else redmIdentity o.op)
    s.issues h false 1 → x.vBlocked [o.va.toNat] = false →
    s1.checkLanes 4 [(0, va)] = (t, some [(0, va, .ok p)]) →
    exec (.redm h o) s = .next ((s1.vSends t [(0, va, .ok p)] 4 (fun _ => .atomic o.op (v.setWidth 128) 0) o.scope o.rel
      [0] 1 none va).retire h.give [] none)) ∧
  (∀ (h : Hdr) (o : VRedt) (s t : State) (p : Passed),
    let s1 := s.atIssue h 2
    let x := s1.here
    let act := x.active o.me o.mi
    let va := (s.entriesAt 2).getD 0 0
    let lo := (s.entriesAt 2).getD 1 0
    let v := tree (fun x y => roundF32 .rne (sumVals .rne [valF32 x, valF32 y])) 0 7
      ((upTo (2 ^ o.lg.toNat)).map fun i => if act.getLsbD i then lane (x.vr o.va.toNat) i else 0)
    s.issues h false 2 → x.vBlocked [o.va.toNat] = false →
    va.toNat % 64 = 0 → lo.toNat < 2 ^ 32 → lo.toNat % 2 ^ o.lg.toNat = 0 →
    s1.checkLanes 64 [(0, va)] = (t, some [(0, va, .ok p)]) →
    exec (.redt h o) s = .next ((s1.vSends t [(0, va, .ok p)] 64 (fun _ => .redt lo o.lg v) o.scope o.rel
      [0] 1 none va).retire h.give [] none)) ∧
  ∀ (s : State) (b : BenchId) (a : VFly) (rest : List VFly) (vd : BitVec 5) (mf : BitVec 3) (fo : Bool) (res : Nat → W32 × Bool),
    let t := s.landV b 1
    (s.bench b).vfly = a :: rest → a.out = some (vd, mf, fo) →
    (∀ i ∈ a.lanes, s.laneResult b a i = some (res i)) → (∀ i : Nat, a.active.getLsbD i = true → i ∈ a.lanes) →
    (t.bench b).vfly = rest ∧
    (∀ i : Nat, i < 128 → lane ((t.bench b).vr vd.toNat) i =
      if a.active.getLsbD i && !a.keepV.getLsbD i then (res i).1 else lane ((s.bench b).vr vd.toNat) i) ∧
    (∀ i : Nat, i < 128 → ((t.bench b).mask mf.toNat).getLsbD i =
      if a.keepM.getLsbD i then ((s.bench b).mask mf.toNat).getLsbD i else a.active.getLsbD i && (res i).2) ∧
    (∀ n : Nat, n ≠ vd.toNat → (t.bench b).vr n = (s.bench b).vr n) ∧
    ∀ n : Nat, n ≠ mf.toNat → (t.bench b).mask n = (s.bench b).mask n

end VectorMemory

section StoreEngine
open Sys2Proof Sys2Proof.Machine

/-- R369, R372, R373: FSTORE and SSCAT put the bytes of a block, or of the rows that a list names, into the S store queue in
order, and move their feed on. -/
def Obligations.StoreFeeds : Prop :=
  (∀ (h : Hdr) (o : SStore) (s t : State) (r : Run) (out : List OutByte) (tr : Option Leaf),
    let s1 := s.atIssue h 0
    let x := s1.here
    let n := o.feed.toNat
    let f := x.feed n
    let blk := blockAt f.ctl f.dims f.idx
    let els := blk.1 * perIndex (fdFmt f.ctl)
    s.issues h false 0 → f.writeFault = none → s1.opRun o.bop els r →
    s1.placePieces s1.cur.bench (f.scope == .io) (blockPieces f.ctl f.dims f.base f.idx blk.1)
      (f.encode r (smodeOf o.exm o.rm x.smode) f.seq (x.runBytes r els) (x.runVals r els)) f.trans = .ok t out tr →
    x.bankPoisoned r.bank r.off (r.bytes els) = false → s.noOverlap [r.acc els false, feedAcc n] →
    exec (.fstore h o) s = .next ((((t.queueStores f (lineStores out)).modHere fun y =>
      y.modFeed n fun f => { f with dir := .wr, idx := blk.2, seq := f.seq + els, trans := tr }).drainS).retire h.give
        [r.acc els false, feedAcc n] none)) ∧
  ∀ (h : Hdr) (o : IdxMove) (s t : State) (r : Run) (ls : List LineStore) (tr : Option Leaf),
    let s1 := s.atIssue h 0
    let x := s1.here
    let n := o.feed.toNat
    let f := x.feed n
    let ib := o.ibank.toNat
    let io := 512 * o.ioff.toNat
    let l := x.indexList ib io
    let rl := f.rowLen * perIndex (fdFmt f.ctl)
    let live := ((upTo l.2.length).zip l.2).filterMap fun p => if p.2 = 0xFFFFFFFF#32 then none else some p.1
    let parts := live.map fun j => r.part (j * rl) (j * rl + rl)
    let acc : List Acc := ⟨ib, io, io + 4 + 4 * l.1, false⟩ :: readAccs r.bank parts
    s.issues h false 0 → f.scatters = true → bfFmt (x.bf ib) = 0 → bfDith (x.bf ib) = false →
    s1.opRun o.bop 0 r →
    x.indexBad ib io (f.dims.getD 1 (0, 0)).1.toNat = false → x.indexPoison ib io = false →
    (fmtIsD r.fmt = true → ∀ j ∈ live, j * rl % 32 = 0) → (∀ j ∈ live, inBank r.off (r.bytes (rl * (j + 1))) = true) →
    s1.placeRows s1.cur.bench f r x.smode x (rl * l.1) l.2 0 = .ok t ls tr →
    s1.clean r.bank parts →
    s.noOverlap acc →
    exec (.sscat h o) s = .next ((((t.queueStores f ls).modHere fun y =>
      y.modFeed n fun f => { f with dir := .wr }).drainS).retire h.give acc none)

/-- R371, R374 to R380, R50, R51: quantising and requantising between banks, writing a grain frame, S's mode and conversion
control, and a release, which takes its place in the S store queue. -/
def Obligations.StoreEngineResults : Prop :=
  ∀ (h : Hdr) (s : State),
    (s.issues h false 0 →
      let s1 := s.atIssue h 0
      let x := s1.here
      let n := x.scvc.nm1.toNat + 1
      let md := smodeOf x.scvc.exm x.scvc.rm x.smode
      (∀ (o : SQst) (rs rd : Run),
        x.run o.sbank.toNat ((512 * o.soff.toNat : Nat) + loopTerm x.s.loops o.bop.sl) n = .ok rs →
        x.namedRun o.bop.bank.toNat o.frame.toNat (bopOffset x.s.loops o.bop) n = .ok rd →
        x.bankPoisoned rs.bank rs.off (rs.bytes n) = false → s.noOverlap [rs.acc n false, rd.acc n true] →
        exec (.qstore h o) s = .next ((s1.modHere fun y => y.writeVals rd md (x.runVals rs n)).retire h.give
          [rs.acc n false, rd.acc n true] none)) ∧
      (∀ (o : SReq) (rs rd : Run),
        x.namedRun o.sbank.toNat o.sframe.toNat ((frameBase (x.frame o.sframe.toNat) : Nat) + loopTerm x.s.loops o.bop.sl) n
          = .ok rs →
        x.namedRun o.bop.bank.toNat o.dframe.toNat (bopOffset x.s.loops o.bop) n = .ok rd →
        x.bankPoisoned rs.bank rs.off (rs.bytes n) = false → s.noOverlap [rs.acc n false, rd.acc n true] →
        exec (.req h o) s = .next ((s1.modHere fun y => y.writeVals rd md (x.runVals rs n)).retire h.give
          [rs.acc n false, rd.acc n true] none)) ∧
      (∀ m : BitVec 3,
        (m.toNat < 6 → exec (.smode h m) s = .next ((s1.modHere fun y => { y with smode := m }).retire h.give [] none)) ∧
        (6 ≤ m.toNat → exec (.smode h m) s = .next (s.hold 0x01 0 false))) ∧
      (∀ o : Cvc, exec (.slsetCvc h o) s =
        .next ((s1.modHere fun y => { y with scvc := ⟨o.exm, o.rm, o.nm1⟩ }).retire h.give [] none)) ∧
      ∀ sc : Scope, ∃ (t : State) (e : StEntry), exec (.srel h sc) s = .next (t.drainS.retire h.give [] none) ∧
        t.here.sq = x.sq ++ [e] ∧ e.kind = .release ∧ e.scope = sc ∧ e.seq = x.seq ∧ t.here.seq = x.seq + 1 ∧
        t.mem = s.mem ∧ t.here.banks = x.banks) ∧
    ∀ o : SGrain,
      let nq := (bitsOf o.wmask).length
      let s1 := s.atIssue h nq
      let x := s1.here
      let new := grainWords (x.frame o.frame.toNat) o.wmask (s.entriesAt nq)
      let locked := (upTo 16).any fun k => bfLock (x.bf k) && bfDith (x.bf k) && bfFrame (x.bf k) == o.frame.toNat
      s.issues h false nq →
      (o.wmask ≠ 0 → frameOk new = true → (locked = false ∨ grainLocked (x.frame o.frame.toNat) new = false) →
        exec (.grain h o) s = .next ((s1.modHere fun y => { y with frames := vset y.frames o.frame.toNat new }).retire h.give
          [] none)) ∧
      (o.wmask = 0 → exec (.grain h o) s = .next (s.hold 0x01 0 false))

end StoreEngine

/-! ### Events of a bench -/

namespace Sys2Proof.Machine

/-- The turn of an event acts for an engine of a bench, whose word lies at `pc`. -/
def State.asEngine (s : State) (b : BenchId) (st : Stream) (pc : W64) : State :=
  { s with cur := { s.cur with bench := b, stream := st, word := 0, pc := pc } }

/-- The bench takes a trap with these values (R178): what its registers hold, and where the context `c` goes. -/
def Bench.entered (x y : Bench) (c : Fin 4) (cause epc tval : W64) : Prop :=
  y.c.cause = cause ∧ y.c.epc = epc ∧ y.c.tval = tval ∧ y.c.handler = some c ∧ (y.ctx c).pc = x.c.trap ∧
  y.c.file = x.c.file ∧ y.c.globals = x.c.globals

/-- The P engine of a bench has issued nothing that waits. -/
def Bench.noFwd (x : Bench) : Prop := x.p.issued = false

end Sys2Proof.Machine

section CoreEvents
open Sys2Proof Sys2Proof.Machine

/-- R27, R63, R64, R71, R85, R407, R411, R33: what is in flight completes. A load binds when its value arrives, one of another module when
the response has come; a store of a retired team performs before those of the team that came after it; the oldest entry of a buffer
performs in the event of its kind, but for stores of a write-combining page that may still merge with others (R293, log entry 60), and
one waits for an older store of the bench that is on its way to the same home (R64; that such stores stand in an order of their own is
log entry 61); a give is pushed when its stores can leave the bench, though they have still to perform (R77, log entry 61), and every
FIFO has room. -/
def Sys2Proof.Claims.CompletionEvents : Prop :=
  ∀ s : State,
    let b := s.cur.bring.bench
    let st := s.cur.bring.stream
    let x := s.bench b
    (∀ (l : PendLoad) (t : State) (bs : List Byte),
      firstWhere (fun l => l.tag == s.cur.bring.tag) x.c.loads = some l → l.atom = none →
      l.away = false → s.behind b l.seq ⟨l.leaf, l.pa⟩ = false →
      s.load b ⟨l.leaf, l.pa⟩ l.size l.scope l.pri l.last (forwardByte x.c.sb l.ctx l.seq) = .ok t bs →
      exec .resultArrival s = .next (t.modBench b fun y => y.arriveVal l (extended l.size l.sext bs))) ∧
    (∀ (l : PendLoad) (r : Response),
      firstWhere (fun l => l.tag == s.cur.bring.tag) x.c.loads = some l → l.atom = none →
      l.away = true → s.response l.tag = some r → r.code = 0 →
      exec .resultArrival s = .next ((s.takeResponse l.tag).modBench b fun y =>
        y.arriveVal l (extended l.size l.sext (leBytes l.size r.val.toNat)))) ∧
    (∀ (e : StEntry) (rest : List StEntry) (t : State), x.queue s.cur.bring.buf = e :: rest →
      (∀ h, s.hitch x.seqNo = some h → h.state ≠ .dying) → s.performHead b s.cur.bring.buf false = some t →
      (e.kind = .store ∨ e.kind = .release → x.orphansOf s.cur.bring.buf = [] → s.openRun b s.cur.bring.buf = false →
        exec .storePerform s = .next (t.tryRetire b).tryReset) ∧
      (x.orphansOf s.cur.bring.buf = [] → s.openRun b s.cur.bring.buf = true → s.tlbiWaits = false →
        exec .storePerform s = .next s) ∧
      ((∃ op v ex, e.kind = .atomic op v ex) → exec .atomicPerform s = .next (t.tryRetire b).tryReset) ∧
      ((∃ lo lg v, e.kind = .redt lo lg v) → exec .redtCombine s = .next (t.tryRetire b).tryReset)) ∧
    (∀ (e : StEntry) (rest : List StEntry) (d : Fin 8), x.orphansOf s.cur.bring.buf = e :: rest → s.region e.pa = .mem d →
      s.behind b e.seq ⟨e.leaf, e.pa⟩ = false → s.awayFrom x.orphans s.cur.bring.buf e = false →
      ∀ t, (s.modBench b fun y => { y with orphans := y.orphans.erase (s.cur.bring.buf, e) }).performStore b e (coversSector e.pa e.bytes) =
        some t → exec .storePerform s = .next t.tryReset) ∧
    (∀ (e : StEntry) (rest : List StEntry), x.orphansOf s.cur.bring.buf = [] → x.queue s.cur.bring.buf = e :: rest →
      s.behind b e.seq ⟨e.leaf, e.pa⟩ = true → exec .storePerform s = .next s) ∧
    ∀ g : Give, st ≠ .c → (x.eng st).flags = [] → g.flags = 0 → (x.eng st).gives = [g] → (st = .v → x.vfly = []) →
      (st = .s → ∀ e ∈ x.sq, g.mark ≤ e.seq ∨ e.plain = true) →
      (∀ r ∈ maskStreams st g.mask, vget x.tokens (fifo st r) 0 < 8) →
      ∃ u : State, exec .givePush s = .next (u.tryRetire b) ∧ ((u.bench b).eng st).gives = [] ∧ u.mem = s.mem ∧
        (st = .s → ∀ e ∈ x.sq, e.seq < g.mark → e ∈ (u.bench b).leftStores) ∧
        ∀ r : Stream, r ≠ st → vget (u.bench b).tokens (fifo st r) 0 =
          vget x.tokens (fifo st r) 0 + (if r ∈ maskStreams st g.mask then 1 else 0)

/-- R60, R168, R171: a wait of 2^30 clk ends in a fault, unless it ends then. A context that waits for a token, a give or a queue
raises QDEAD, one that waits for a claim or a fill SPILL; an engine is held with QDEAD, with the word that waits and what it
waits on. -/
def Sys2Proof.Claims.WatchdogEvents : Prop :=
  ∀ (s : State) (w : Wait), w.since + 2 ^ 30 ≤ s.clk →
    let b := s.cur.bring.bench
    let c := s.cur.bring.ctx
    let st := s.cur.bring.stream
    let x := s.bench b
    let k := x.ctx c
    (w.counts = true →
      (st = .c → k.wait = some w → x.stopping = none → exec .qdead s =
        .next (if x.overC w = true then s else (s.asContext b c w.word).raiseC 0x0B 0)) ∧
      (let u := s.pushGives b st;
        st ≠ .c → ((u.bench b).eng st).wait = some w → (u.bench b).stopping = none →
        (u.overE b st w = true → exec .qdead s = .next u) ∧
        (u.overE b st w = false → ∃ (t : State) (pc : W64), exec .qdead s = .next t ∧
          ((t.bench b).eng st).held = some ⟨0x0B, 0, w.word, pc, false, false, none, w.what⟩ ∧
          ((t.bench b).eng st).issued = false ∧ t.mem = u.mem))) ∧
    (w.kind = .claim → k.wait = some w → exec .claimStallTimeout s = .next ((s.asContext b c w.word).raiseC 0x0E 0)) ∧
    (w.kind = .fill → k.wait = some w → exec .fillStallTimeout s =
      .next ((s.asContext b c w.word).raiseC 0x0E (x.c.spill + BitVec.ofNat 64 (c.val * 0x4000 + (k.spilled - 1) * 0x40))))

/-- R170, R171, R169: the spill engine saves the oldest group in the file of the fullest context while fewer than 4 groups
are free, and fills back the group that a context spilled last while 5 or more are. Which context is the fullest, where counts are
equal or pinned groups count, is the model's choice (log entry 46). -/
def Sys2Proof.Claims.SpillEngine : Prop :=
  ∀ (s : State) (t : State),
    let b := s.cur.bring.bench
    let c := s.cur.bring.ctx
    let x := s.bench b
    (∀ d : Fin 4, x.team ≠ none → x.fullest = some d → x.freeGroups < 4 → s.spillOldest b d = .ok t →
      exec .backgroundSpill s = .next t ∧
      ((t.bench b).ctx d).spilled = (x.ctx d).spilled + 1 ∧
      (t.bench b).c.groups[(x.ctx d).group (firstSpillable d + (x.ctx d).spilled)] = .free ∧
      (t.bench b).c.file = x.c.file ∧ (t.bench b).c.globals = x.c.globals) ∧
    (x.team ≠ none → (x.ctx c).live = true → 0 < (x.ctx c).spilled → 5 ≤ x.freeGroups →
      x.c.groups[(x.ctx c).group (firstSpillable c + (x.ctx c).spilled - 1)] = .free → s.fillLatest b c = .ok t →
      exec .groupFill s = .next t ∧
      ((t.bench b).ctx c).spilled = (x.ctx c).spilled - 1 ∧
      (t.bench b).c.groups[(x.ctx c).group (firstSpillable c + (x.ctx c).spilled - 1)] = .held c ∧
      (t.bench b).c.globals = x.c.globals)

/-- R177 to R179, R181, R435: the pending event of the lowest source enters the handler. For an engine's held fault s.cause
names the engine, s.epc is where the main context stands, s.tval the fault's address; the fault stays held. A lost release
enters in its own context. -/
def Sys2Proof.Claims.HandlerEvents : Prop :=
  ∀ s : State,
    let b := s.cur.bring.bench
    let x := s.bench b
    x.c.trap ≠ 0 →
    (∀ (st : Stream) (h : Held), x.takes = some (.engine st h) → ∃ t, exec .trapEntry s = .next t ∧
      x.entered (t.bench b) 0 (causeWord h.code (BitVec.ofNat 3 (3 + streamIdx st)) false 0) (x.ctx 0).pc h.va ∧
      ((t.bench b).eng st).held = some { h with reported := true }) ∧
    ∀ (c : Fin 4) (code : Byte) (va : W64) (w : W32), x.c.handler = none → x.takes = some (.lost c code va w) → ∃ t, exec .trapEntry s = .next t ∧
      x.entered (t.bench b) c (causeWord code (BitVec.ofNat 3 c.val) false w) (x.ctx c).pc va

/-- R144, R162: WATCH_WAKE disarms an armed watch and sets its wake-pending flag; SYSC_COMPLETE puts firmware's four values
into k8 to k11 of the context that asked. -/
def Sys2Proof.Claims.ContextEvents : Prop :=
  ∀ s : State,
    let b := s.cur.bring.bench
    let c := s.cur.bring.ctx
    let k := (s.bench b).ctx c
    (k.watch ≠ none → ∃ t, exec .watchWake s = .next t ∧
      ((t.bench b).ctx c) = { k with watch := none, wtag := none, wake := true } ∧
      ∀ w ∈ t.watches, ¬(w.bench = b ∧ w.ctx = c ∧ w.remote = none)) ∧
    ∀ n : Byte, k.phase = .sysc n false → ∃ t, exec .syscComplete s = .next t ∧
      ((t.bench b).ctx c) = { k with phase := .sysc n true } ∧
      (t.bench b).c.globals = (s.bench b).c.globals ∧ t.mem = s.mem ∧
      ∀ p ∈ [((8 : BitVec 4), s.cur.bring.val), (9, s.cur.bring.val2), (10, s.cur.bring.val3), (11, s.cur.bring.val4)],
        (t.bench b).readReg c 0 p.1 = .val p.2

/-- R46, R102, R119, R463: an abandoned engine with nothing in flight lands on the next landing point from its PC on, or is held
with ILL when its section ends first; a word that is no instruction raises ILL when it would issue, in a full tile too (R20, R241), and
not where FIRST or LAST keep it from issuing (R44), and a fetch that fails its own
fault, precisely in C and held in an engine. Four points are the model's: that a fetch fault of C leaves s.cause[63:32]
zero (log entry 47), that a fetch which ends in FABRIC is a fetch fault too, held in an engine and not cleared by ERET (log entry 19),
that the search reads each word as a fetch does and ends at a word of zeros (log entry 36), and that these
events are turns of their stream (log entry 25). -/
def Sys2Proof.Claims.StreamEvents : Prop :=
  (∀ (s v : State),
    let b := s.cur.bring.bench
    let st := s.cur.bring.stream
    let x := s.bench b
    let e := x.eng st
    let u := s.asEngine b st e.pc
    e.abandon = true → e.held = none → x.quiet st = true →
    (∀ pc, u.search b st (fun w => w.testBit 13) searchFuel e.pc = (v, .at_ pc) →
      exec .abandonLand s = .next (v.modMyEng fun e => { e with abandon := false, pc := pc })) ∧
    (u.search b st (fun w => w.testBit 13) searchFuel e.pc = (v, .terminator) →
      exec .abandonLand s = .next ((v.modMyEng fun e => { e with abandon := false }).hold 0x01 0 false))) ∧
  ∀ (s t : State),
    (∀ (w : Nat) (er : DecodeError), s.fetchHere = (t, .ok w) → decodeWord (t.cur.stream.word w) = .error er →
      let u := t.withWord w
      (t.cur.stream = .c → exec .reservedOpcodeWord s = .next (u.raiseC 0x01 0)) ∧
      (t.cur.stream ≠ .c → u.issues (hdrOf (BitVec.ofNat 16 w)) false 0 → exec .reservedOpcodeWord s = .next (u.hold 0x01 0 false)) ∧
      (t.cur.stream ≠ .c → t.cur.stream ≠ .p → u.myEng.issued = false → hdrSkips (hdrOf (BitVec.ofNat 16 w)) u.myEng = true →
        exec .reservedOpcodeWord s = .next (u.modMyEng fun e => { e with pc := u.nextPc, wait := none }))) ∧
    ∀ code : Byte, s.fetchHere = (t, .fault code) →
      let u := t.dropWords t.cur.bench t.cur.stream t.fetchNo
      exec .instructionFetchFault s = .next (if t.cur.stream = .c then
        State.raiseC { u with cur := { u.cur with word := 0 } } code t.cur.pc
        else u.hold code t.cur.pc (code == 0x03 || code == 0x04))

/-- R288, R290, R232, R233: a feed's next block arrives behind the blocks fetched ahead, with its fault if it has one; the
oldest halo band on a link lands in the receive buffer of its side. -/
def Sys2Proof.Claims.ArrivalEvents : Prop :=
  ∀ s : State,
    let b := s.cur.bring.bench
    let n := s.cur.bring.n
    let f := (s.bench b).feed n
    ((s.bench b).team ≠ none → f.mayFetch = true → ∀ (t : State) (k : FBlock) (tr : Option Leaf),
      s.fetchBlock b f none = .ok t k tr →
      exec .feedBlockArrival s = .next (t.modBench b fun x => x.modFeed n fun g =>
        { g with ahead := g.ahead ++ [k], trans := tr }) ∧
      k.seq0 = f.nextBlock.seq0 ∧ k.n = f.nextBlock.n ∧ k.nextIdx = f.nextBlock.nextIdx) ∧
    ∀ (band : Band) (front rest : List (BenchId × Bool × Band)),
      s.bands = front ++ (b, s.cur.bring.hi, band) :: rest → (∀ r ∈ front, ¬(r.1 = b ∧ r.2.1 = s.cur.bring.hi)) →
      ∃ t, exec .haloBandArrival s = .next t ∧ t.bands = front ++ rest ∧
        (if s.cur.bring.hi then (t.bench b).plane.rxHi else (t.bench b).plane.rxLo) = some band ∧
        (t.bench b).plane.regs = (s.bench b).plane.regs

/-- R235, R259, R267, R277: the steps of a forward, whose receiver or sender goes on if its PFWD has issued; a receipt that
fails begins again for that receiver alone; an error in the plane's state waits to be found; an open tile that has had its
time is saved for its replay. -/
def Sys2Proof.Claims.PlaneEvents : Prop :=
  ∀ s : State,
    let b := s.cur.bring.bench
    (∀ f : Forward, firstWhere (fun f => f.rx.any fun r => r.1 == b && r.2 == 0) s.forwards = some f →
      let t := s.stage f.src b 1
      ((s.bench b).noFwd → exec .forwardRegionComplete s = .next t) ∧
      ∀ (w : W128) (k : PCap) (h : Hdr) (o : PFwdOp), (s.bench b).p.issued = true → (s.bench b).p.cap = some (w, k) →
        decodeWord (.p w) = .ok (.pfwdRx h o) →
        exec .forwardRegionComplete s = exec (.pfwdRx h o)
          { t with cur := { t.cur with bench := b, stream := .p, word := w, pc := (s.bench b).p.pc } }) ∧
    (∀ f : Forward, firstWhere (fun f => f.rx.any fun r => r.1 == b && r.2 == 2) s.forwards = some f →
      let t := s.stage f.src b 3
      ((s.bench f.src).noFwd → exec .forwardAck s = .next t) ∧
      ∀ (w : W128) (k : PCap) (h : Hdr) (o : PFwdOp), (s.bench f.src).p.issued = true → (s.bench f.src).p.cap = some (w, k) →
        decodeWord (.p w) = .ok (.pfwd h o) →
        exec .forwardAck s = exec (.pfwd h o)
          { t with cur := { t.cur with bench := f.src, stream := .p, word := w, pc := (s.bench f.src).p.pc } }) ∧
    (∀ (f : Forward) (rest : List Forward), s.forwards = f :: rest → (b, 1) ∈ f.rx →
      exec .forwardReceiptError s = .next { s with forwards :=
        { f with rx := f.rx.map fun r => if r = (b, 1) then (b, 0) else r } :: rest }) ∧
    ((s.bench b).team ≠ none → exec .planeStateStorageError s =
      .next (s.modBench b fun x => x.modPlane fun p =>
        { p with error := p.error ||| BitVec.ofNat 6 (2 ^ (s.cur.bring.n % 6)) })) ∧
    ∀ since : Nat, (s.bench b).plane.tile = true → (s.bench b).stopping = some since → since + 2048 ≤ s.clk →
      let t := s.saveTile b
      exec .tilePreemptTimeout s = .next (t.trySave (s.bench b).seqNo) ∧
      (∀ r, (s.bench b).plane.point = some r → (t.bench b).plane.regs = r) ∧ (t.bench b).plane.replay = some 0 ∧
      (t.bench b).p.issued = false

end CoreEvents

/-! ### Events of the dispatcher and of the home side -/

namespace Sys2Proof.Machine

/-- The starting bench of a team (R20, R394): its identity, its PCs, k1 and k2, nothing in its queues, its register file
zero. -/
def Bench.startsAs (y : Bench) (h : Hitch) (idx : Nat) (trap : W64) : Prop :=
  y.team = some ⟨h.seq, idx, h.tenant, h.prio, ctlPeriod h.record.ctl, ctlChecked h.record.ctl, ctlSave h.record.ctl⟩ ∧
  (y.ctx 0).live = true ∧ (y.ctx 0).pc = h.record.bases[0] ∧ y.l.pc = h.record.bases[1] ∧ y.p.pc = h.record.bases[2] ∧
  y.v.pc = h.record.bases[3] ∧ y.s.pc = h.record.bases[4] ∧ y.c.globals[1] = h.record.args ∧
  y.c.globals[2] = BitVec.ofNat 64 idx ∧ y.c.trap = trap ∧ y.c.handler = none ∧ y.flagq = [] ∧
  (∀ q < 4, y.queued q = []) ∧ (∀ n < 20, vget y.tokens n 0 = 0) ∧ ∀ k : Fin 4, k ≠ 0 → (y.ctx k).live = false

/-- What a save keeps and a resume gives back (R183, R184). -/
def Bench.sameTeam (x y : Bench) : Prop :=
  y.c.file = x.c.file ∧ y.c.globals = x.c.globals ∧ y.c.link = x.c.link ∧ y.c.groups = x.c.groups ∧
  y.c.fflags = x.c.fflags ∧ y.c.mode = x.c.mode ∧ y.c.trap = x.c.trap ∧ y.c.spill = x.c.spill ∧
  y.c.handler = x.c.handler ∧ y.tokens = x.tokens ∧ y.queues = x.queues ∧ y.flagq = x.flagq ∧ y.bfmt = x.bfmt ∧
  y.frames = x.frames ∧ y.vreg = x.vreg ∧ y.vmask = x.vmask ∧ y.lcvc = x.lcvc ∧ y.scvc = x.scvc ∧
  y.plane = { x.plane with stepWin := y.plane.stepWin, stepUsed := y.plane.stepUsed } ∧
  (∀ k : Fin 4, (y.ctx k).pc = (x.ctx k).pc ∧ (y.ctx k).rq = (x.ctx k).rq ∧ (y.ctx k).w = (x.ctx k).w)

/-- An agent of the turn and its line. -/
def State.evLine (s : State) : Nat := s.cur.bring.pa / 128

/-- A line is present in L2 or in the MSC. -/
def State.isCached (s : State) (ln : Nat) : Bool := s.l2.any (fun x => x.line == ln) || s.msc.any fun x => x.line == ln

/-- The bytes at an address, one by one. -/
def Mem.holdsAt (m : Mem) (pa : Nat) (bs : List Byte) : Prop := ∀ k, ∀ h : k < bs.length, Mem.get m (pa + k) = bs[k]

end Sys2Proof.Machine

section DispatcherEvents
open Sys2Proof Sys2Proof.Machine

/-- R387, R392 to R394, R397: the launch that a die chooses and that fits is placed; RESUME places a saved launch alike. A launch
that is placed leaves its queue and the die's waiting list and runs, with a bench for each of its teams: a new team starts, with
its image's addresses, its arguments in k1 and its index in k2, and a saved team goes on with what it was saved with. One that
does not fit waits, and room is made for it by pre-empting running launches of its die of lower priority. A placement waits while the
extent closes that holds what it reads (R423). That a launch which waits is tried again before others, and that a saved launch goes on at
the head, is log entry 22; the slots of a saved launch stand in its field `area`, and one whose slot lies in a released range is killed
(log entry 21). -/
def Sys2Proof.Claims.DispatchEvents : Prop :=
  (∀ s : State,
    let d := s.cur.bring.die
    let u := (s.cancelDoomed s.hitches.length).continueSaves d
    (∀ (q : Nat) (h : Hitch) (place : List (Option BenchId)) (shape : List BenchId), u.candidate d = some (q, h) →
      h.fit (u.freeBenches d []) = some (place, shape) →
      exec .dispatchDecision s = .next (u.placeHitch q h place shape)) ∧
    (∀ (q : Nat) (h : Hitch), u.candidate d = some (q, h) → h.fit (u.freeBenches d []) = none →
      exec .dispatchDecision s = .next (u.await d h)) ∧
    ∀ (q : Nat) (h : Hitch) (place : List (Option BenchId)) (shape : List BenchId), s.candidate d = some (q, h) →
      h.state = .saved → h.fit (s.freeBenches d []) = some (place, shape) →
      exec .resume s = .next (s.placeHitch q h place shape)) ∧
  (∀ (s : State) (d : Fin 8) (q : Nat) (h : Hitch) (place : List (Option BenchId)) (shape : List BenchId),
    s.candidate d = some (q, h) →
    let t := s.placeHitch q h place shape
    (s.placeWaits h = true → t = s) ∧
    (s.placeWaits h = false → s.slotPoison h = true → t = s.kill h.seq ⟨0x05, 0, 0, 0, 0⟩) ∧
    (s.placeWaits h = false → s.slotPoison h = false → (∃ g, t.hitch h.seq = some g ∧ g.state = .running ∧ g.place = place ∧ g.shape = shape ∧ g.saved = []) ∧
    (∀ (d' : Fin 8) (k : Fin 64), h.seq ∉ (t.die d').queues[k]) ∧ h.seq ∉ (t.die h.die).waiting ∧
    ∀ (i : Nat) (b : BenchId), place[i]? = some (some b) → (∀ j, j ≠ i → place[j]? ≠ some (some b)) →
      (h.state = .queued → (t.bench b).startsAs h i (match s.tenEntry h.die h.tenant with | some e => e.trape | none => 0)) ∧
      ∀ y, h.state = .saved → h.saved[i]? = some (some y) → y.sameTeam (t.bench b))) ∧
  (∀ (s : State) (d : Fin 8) (h : Hitch),
    ∃ u, s.await d h = u.makeRoom h ∧ h.seq ∈ (u.die d).waiting ∧ u.benches = s.benches ∧ u.hitches = s.hitches ∧
      (u.makeRoom h = u ∨ ∃ vs : List Hitch, u.makeRoom h = vs.foldl State.preempt u ∧
        ∀ v ∈ vs, v ∈ u.hitches ∧ v.die = h.die ∧ v.state = .running ∧ v.prio.toNat < h.prio.toNat)) ∧
  ∀ (x : Bench) (h : Hitch) (idx : Nat) (trap : W64) (decl : List Byte), (x.begin h idx trap decl).startsAs h idx trap

/-- R182 to R184, R395, R396: pre-emption stops every bench of a running launch whose slots suffice, gives it its slots, and sets
it at the head of its queue; its save then goes on. What a save keeps a resume gives back, with empty caches and TLB, and the
scratchpad if the team asked for it; if not, the bytes of the new bench's banks stay, which is the model's choice (log entry 10).
-/
def Sys2Proof.Claims.PreemptEvents : Prop :=
  (∀ (s : State) (h : Hitch), s.hitch (BitVec.ofNat 64 s.cur.bring.tag) = some h →
    (h.state = .running → s.slotsOk h [] = true →
      ∃ u : State, exec .preempt s = .next (u.trySave h.seq) ∧ u.mem = s.mem ∧
        (∀ b ∈ h.benches, (u.bench b).stopping = some s.clk) ∧ (∀ b, b ∉ h.benches → u.bench b = s.bench b) ∧
        (∃ g, u.hitch h.seq = some g ∧ g.state = .saving ∧ g.area = (s.slotsFree h).take h.benches.length) ∧
        ∃ rest, (u.die h.die).queues[runQueue h.prio h.tenant] = h.seq :: rest) ∧
    (h.state = .saving → exec .preempt s = .next (s.trySave (BitVec.ofNat 64 s.cur.bring.tag)))) ∧
  ∀ (x y : Bench) (prio : BitVec 2) (t0 t1 : Nat), let z := x.restore (y.toSave t0) prio t1
    y.sameTeam z ∧ z.l1 = [] ∧ z.cc = [] ∧ z.tlb = [] ∧
    (∀ t, y.team = some t → z.team = some (t.withPrio prio) ∧ (t.save = true → z.banks = (y.land fun _ _ => true).banks) ∧
      (t.save = false → z.banks = x.banks))

/-- R388, R403, R404: a launch that has waited 2^24 clk rises by one priority and enters that queue; HITCH_KILL ends a
launch, one that has no team at once: it is retired, and its sequence number is known as killed. -/
def Sys2Proof.Claims.LaunchEvents : Prop :=
  ∀ (s : State) (h : Hitch), s.hitch (BitVec.ofNat 64 s.cur.bring.tag) = some h →
    (h.state = .queued ∨ h.state = .saving ∨ h.state = .saved → h.prio ≠ 3 → h.since + 2 ^ 24 ≤ s.clk →
      ∃ t, exec .launchAgeing s = .next t ∧ t.mem = s.mem ∧
        (∃ g ∈ t.hitches, g.seq = h.seq ∧ g.prio = h.prio + 1 ∧ g.state = h.state) ∧
        h.seq ∈ (t.die h.die).queues[runQueue (h.prio + 1) h.tenant]) ∧
    (h.state ≠ .dying → ∃ t, exec .hitchKill s = .next t ∧
      (h.benches = [] → t.hitch h.seq = none ∧ h.seq ∈ t.gone))

end DispatcherEvents

section HomeEvents
open Sys2Proof Sys2Proof.Machine

/-- R414 to R418: a read of an agent is recorded in the directory, and an RDC takes its copy; an eviction notice and an
acknowledgement drop the agent's copy, its pointer, and close a tracker that has all its answers. -/
def Sys2Proof.Claims.AgentEvents : Prop :=
  ∀ s : State,
    let a := s.cur.bring.agent
    let ln := s.evLine
    (∀ hd : Fin 8, s.homeDie (128 * ln) = some hd → s.pending ln = false → s.closingRange (128 * ln) = false → s.hasAgent a = true →
      a.toNat ≠ hd.val → (8 ≤ a.toNat → s.reachable = true) →
      ∃ t, exec .rdcFillRead s = .next t ∧ t.dirOf ln = some (dirAdd (s.dirOf ln) a) ∧ t.mem = s.mem ∧
        (a.toNat < 8 → ∃ c ∈ (t.die (dieAt a.toNat)).rdc, c.line = ln ∧ c.data = lineOf (Mem.read s.mem (128 * ln) 128))) ∧
    (∀ hd : Fin 8, s.homeDie s.cur.bring.pa = some hd → s.reachable = true → 8 ≤ a.toNat → a ∈ s.agents →
      s.pending ln = false → s.closingRange s.cur.bring.pa = false →
      ∃ t, exec .hostMemRead s = .next t ∧ t.dirOf ln = some (dirAdd (s.dirOf ln) a) ∧ t.mem = s.mem) ∧
    (s.dstores = [] → ∃ t, exec .evictionNotice s = .next t ∧ t.mem = s.mem ∧
      (a.toNat < 8 → ∀ c ∈ (t.die (dieAt a.toNat)).rdc, c.line ≠ ln) ∧
      ∀ ps, t.dirOf ln = some (.limited ps) → a ∉ ps) ∧
    (s.dstores = [] → ∀ tr ∈ s.trackers, tr.line = ln → a ∈ tr.sent → ∃ t, exec .invalidationAck s = .next t ∧ t.mem = s.mem ∧
      (a.toNat < 8 → ∀ c ∈ (t.die (dieAt a.toNat)).rdc, c.line ≠ ln) ∧
      ∀ u ∈ t.trackers, u.line = ln → a ∈ u.sent → a ∈ u.done ∧ ∃ x ∈ u.sent, x ∉ u.done)

/-- R409, R418, R440: the owner's write performs at home: its bytes are in memory, and every other byte is as it was; a snoop
takes a host line from every cache of the module. That memory then holds the bytes that the event brings, which are the host's to write, is
the model's (log entry 11). -/
def Sys2Proof.Claims.HostAccessEvents : Prop :=
  ∀ s : State, Mem.wf s.mem = true →
    let pa := s.cur.bring.pa
    let bs := s.cur.bring.bytes.take (128 - pa % 128)
    (∀ hd : Fin 8, s.homeDie pa = some hd → s.reachable = true → s.owns s.cur.bring.host = true → bs ≠ [] →
      s.unshared pa → s.releasedRange pa = false →
      ∃ t, exec .hostMemWrite s = .next t ∧ Mem.holdsAt t.mem pa bs ∧
        ∀ p : Nat, p < pa ∨ pa + bs.length ≤ p → Mem.get t.mem p = Mem.get s.mem p) ∧
    (s.region (128 * s.evLine) = .host → ∃ t, exec .hostSnoop s = .next t ∧
      (∀ b, ∀ l ∈ (t.bench b).l1, l.line ≠ s.evLine) ∧ s.evLine ∉ t.hostHeld ∧
      (∀ d, ∀ c ∈ (t.die d).rdc, c.line ≠ s.evLine) ∧
      Mem.holdsAt t.mem (128 * s.evLine) (s.cur.bring.bytes.take 128) ∧
      ∀ p : Nat, p < 128 * s.evLine ∨ 128 * s.evLine + 128 ≤ p → Mem.get t.mem p = Mem.get s.mem p)

/-- R54, R419, R422: an uncorrectable error poisons a sector of a bank, a correctable one does not. One of memory poisons its sector
where it is found in what memory gives, in a dirty copy or in a store path; a clean copy, in L2, the MSC, an L1, a constant cache or an
RDC, is dropped. Each is logged. -/
def Sys2Proof.Claims.ErrorEvents : Prop :=
  ∀ s : State,
    let br := s.cur.bring
    let b := br.bench
    let ln := br.pa / 128
    let copied := (∃ l ∈ (s.bench b).l1, l.line = ln) ∨ (∃ l ∈ (s.bench b).cc, l.line = ln) ∨ ∃ c ∈ (s.die (dieOf b)).rdc, c.line = ln
    (∃ t, exec .sramUncorrectableError s = .next t ∧
      (br.hi = false → (br.n % 16, br.pa % 4096) ∈ (t.bench b).bankPoison) ∧
      (br.hi = true → (t.bench b).bankPoison = (s.bench b).bankPoison) ∧
      (t.die (dieOf b)).ecnt = (s.die (dieOf b)).ecnt + 1 ∧ (t.bench b).banks = (s.bench b).banks) ∧
    (br.n % 4 = 3 → (¬copied → exec .memoryUncorrectableError s = .next s) ∧
      (copied → ∃ t, exec .memoryUncorrectableError s = .next t ∧ t.mem = s.mem ∧ t.poison = s.poison ∧
        (∀ l ∈ (t.bench b).l1, l.line ≠ ln) ∧ (∀ l ∈ (t.bench b).cc, l.line ≠ ln) ∧ (∀ c ∈ (t.die (dieOf b)).rdc, c.line ≠ ln) ∧
        (t.die (dieOf b)).ecnt = (s.die (dieOf b)).ecnt + 1)) ∧
    ∀ d : Fin 8, s.homeDie br.pa = some d →
      (br.n % 4 = 0 ∧ s.isCached ln = false ∨ br.n % 4 = 1 ∧ s.isCached ln = true ∧ s.dirty ln = true ∨ br.n % 4 = 2 →
        ∃ t, exec .memoryUncorrectableError s = .next t ∧ t.mem = s.mem ∧ br.pa / 32 ∈ t.poison ∧
          (t.die d).ecnt = (s.die d).ecnt + 1) ∧
      (br.n % 4 = 1 → s.isCached ln = true → s.dirty ln = false →
        ∃ t, exec .memoryUncorrectableError s = .next t ∧ t.mem = s.mem ∧ t.poison = s.poison ∧ t.isCached ln = false ∧
          (t.die d).ecnt = (s.die d).ecnt + 1)

/-- R423, R301 to R303: an extent is added with clear sectors, and released once nothing shares its lines; a forced release drops
its dirty lines and changes no byte elsewhere. What an added extent holds is what memory held (the model's, log entry 32). A
channel rests after its idle time, counted from reset if nothing has used it (the model's, log entry 5); a row that a tenant has
activated 256 times within 2^16 clk is throttled for 2^16 clk; a bucket gains its rate in each clk up to its depth. -/
def Sys2Proof.Claims.MemoryEvents : Prop :=
  ∀ s : State,
    let br := s.cur.bring
    let base := br.pa / 128 * 128
    let len := br.len / 128 * 128
    (0x10000000000 ≤ base → base + len ≤ 0x400000000000 → 0 < len →
      (∀ x ∈ s.extents, x.released = false → ¬(base < x.base + x.len ∧ x.base < base + len)) →
      ∃ t, exec .dcExtentAdd s = .next t ∧ ⟨base, len, br.die.val, false, false⟩ ∈ t.extents ∧ t.mem = s.mem ∧
        ∀ sec ∈ t.poison, ¬(base < 32 * sec + 32 ∧ 32 * sec < base + len)) ∧
    (∀ x : Extent, firstWhere (fun x => x.base == br.pa && !x.released) s.extents = some x →
      (∀ e ∈ s.dir, x.holds e.1 = false) → (∀ e ∈ s.trackers, x.holds e.line = false) →
      ∃ t, exec .dcExtentRelease s = .next t ∧ (br.hi = false → t.mem = s.mem) ∧
        (br.hi = true → Mem.wf s.mem = true → ∀ p : Nat, x.holds (p / 128) = false → Mem.get t.mem p = Mem.get s.mem p) ∧
        (∀ l ∈ t.backing, x.holds l.line = false) ∧
        (∀ l ∈ t.l2, x.holds l.line = false) ∧
        (if br.hi then { x with closing := false, released := true } ∈ t.extents else ∀ y ∈ t.extents, y.base ≠ x.base)) ∧
    (let c := s.chan br.die (br.n % 128)
     (c.state = 0 → c.last + 64 ≤ s.clk → ∃ t, exec .channelPowerDown s = .next t ∧
       t.chan br.die (br.n % 128) = { c with state := 1 }) ∧
     (c.state.toNat < 2 → c.last + 2 ^ 18 ≤ s.clk → ∃ t, exec .channelSelfRefresh s = .next t ∧
       t.chan br.die (br.n % 128) = { c with state := 2 })) ∧
    (s.hot br.die (br.n % 128) br.pa br.tenant = true → ∃ t, exec .hotRowThrottle s = .next t ∧
      ⟨br.die.val, br.n % 128, br.pa, br.tenant, s.clk + 2 ^ 16⟩ ∈ t.hotRows) ∧
    (∃ t, exec .hotRowThrottleEnd s = .next t ∧ ∀ r, r ∈ t.hotRows ↔ r ∈ s.hotRows ∧ s.clk < r.till) ∧
    ∀ (x : Bucket) (e : TenEntry), s.buckets = [x] → x.die = br.die.val → x.slice = br.n % 384 → x.waiting = 0 →
      s.entOf br.die x.tenant = some e → x.tokens ≤ 1024 * e.depth → ∃ t, exec .tokenBucketGain s = .next t ∧
        t.buckets = [{ x with tokens := min (x.tokens + (s.clk - x.till) * e.rate) (1024 * e.depth), till := s.clk }]

end HomeEvents

/-! ### Events of registers, of the fabric and of hosts -/

namespace Sys2Proof.Machine

/-- A retention register of a die. -/
def State.retnAt (s : State) (d : Fin 8) (n : Nat) : Retn := vget (s.die d).retn n ⟨0, 0, 0, false, false, 0, 0, 0⟩

/-- A packet may be accepted: it is for this module, its kind and channel fit what it carries, and a request names module
memory (R428, R429, R432). -/
def State.fits (s : State) (p : Packet) : Prop :=
  p.resv = false ∧ p.dmod = s.fabid ∧ bodyKindOk p.body p.kind p.ch = true ∧ bodyInMemory p.body = true

/-- A packet whose KIND and fields are not reserved (R429). -/
def properPacket (p : Packet) : Prop := p.resv = false ∧ 1 ≤ p.kind.toNat ∧ p.kind.toNat ≤ 7 ∧ p.ch ≠ 3

/-- A proper packet that a router passes on: of the current version, and not too old (R433). -/
def State.passes (s : State) (p : Packet) (older : Nat) : Prop := p.ver = s.fver.setWidth 4 ∧ p.age.toNat + older < 4096

/-- The owner writes, and boot has not failed (R440, R460). -/
def State.ownerWrites (s : State) : Prop := s.reachable = true ∧ s.mailbox.owner = some s.cur.bring.host

end Sys2Proof.Machine

section RegisterEvents
open Sys2Proof Sys2Proof.Machine

/-- R296, R298, R402, R426, R427, R439, R457: what a 64-bit write leaves in a register. EN pins a checked range or sets ERR, a
clear EN unpins and keeps WAYS; a window keeps V and MODULE, and loses LOST; DCAP is clamped; TTBASE keeps bits [47:12]. A write
of the owner that is not of 64 bits changes nothing, and each write of a host that is not the owner is discarded and logged. That
a refused enable stores WAYS and TENANT is the model's choice (log entry 49), and so is it that a wider write changes nothing (log
entry 33). -/
def Sys2Proof.Claims.RegisterEvents : Prop :=
  ∀ s : State,
    let br := s.cur.bring
    let n := br.n % 4
    let r := s.retnAt br.die n
    let ways : W16 := br.val.extractLsb' 16 16
    (s.reachable = true → br.val.getLsbD 0 = true → r.en = false → s.retnWaits br.die n br.val br.tenant = false →
      ∃ t, exec .retnEnable s = .next t ∧ t.mem = s.mem ∧
      (∀ f k, (s.retnCheck br.die n br.val br.tenant).2 = .at_ f k →
        t.retnAt br.die n = ⟨r.base, r.len, ways, true, false, br.tenant, f, k⟩) ∧
      ((s.retnCheck br.die n br.val br.tenant).2 = .refused →
        t.retnAt br.die n = { r with ways := ways, err := true, tenant := br.tenant })) ∧
    (s.reachable = true → br.val.getLsbD 0 = false → ∃ t, exec .retnDisable s = .next t ∧ t.mem = s.mem ∧
      t.retnAt br.die n = if r.en then { r with en := false } else { r with ways := ways }) ∧
    (s.ownerWrites → ∃ t, exec .fwinWrite s = .next t ∧ vget t.fwin (br.n % 128) 0 = br.val &&& 0x8000000000003FFF#64 ∧
      ∀ w, w ≠ br.n % 128 → vget t.fwin w 0 = vget s.fwin w 0) ∧
    (s.ownerWrites → ∃ t, exec .dcapWrite s = .next t ∧
      (t.die br.die).dcap.toNat = min 560 (max 100 (br.val.toNat % 1024))) ∧
    (s.ownerWrites → br.len ≠ 8 → exec .registerWrite s = .next s) ∧
    (s.ownerWrites → br.len = 8 → br.pa = 0xFF00000040 + 65536 * br.die.val → ∃ t, exec .registerWrite s = .next t ∧
      (t.die br.die).ttbase = br.val &&& 0x0000FFFFFFFFF000#64) ∧
    (s.ownerWrites → br.len = 8 → br.pa = 0xFF00100180 → br.val.getLsbD 63 = false → ∃ t, exec .registerWrite s = .next t ∧
      t.mailbox.ten = br.val.extractLsb' 4 6 ∧ t.mailbox.die = br.val.extractLsb' 0 3 ∧ t.mailbox.record = s.mailbox.record ∧
      t.mailbox.go = s.mailbox.go) ∧
    (s.reachable = true → s.mailbox.owner ≠ some br.host →
      (br.pa = 0xFF00100180 → exec .registerWrite s = .next (s.logErr 0 br.pa 8 br.host.toNat)) ∧
      exec .fwinWrite s = .next (s.logErr 0 (0xFF00000A00 + 8 * (br.n % 128)) 8 br.host.toNat))

/-- R456 to R458: every 16 clk the controller sets LIM and moves DUTY down while the power is above the least of DCAP, LIM
and 560 W, and up while it is below, before any plane of the die has stepped in the window that begins then. Telemetry is refreshed
once at every boundary of 2^16 clk, the shared input in every die, and no clk passes a boundary without it. That the boundaries are the
multiples of 2^16 of T, that a refresh elsewhere does nothing, and that a boundary which passes without the event refreshes, is the
model's choice (log entry 53). -/
def Sys2Proof.Claims.PowerEvents : Prop :=
  ∀ s : State,
    let br := s.cur.bring
    let x := s.die br.die
    (s.clk % 16 = 0 → s.hasStepped br.die = false → ∃ t, exec .powerCapControl s = .next t ∧
      let y := t.die br.die
      let cap := min (min x.dcap.toNat (br.val.toNat % 1024)) 560
      y.lim.toNat = br.val.toNat % 1024 ∧ y.dcap = x.dcap ∧ y.pwr = x.pwr ∧
      (cap < x.pwr.toNat → y.duty.toNat < x.duty.toNat ∨ y.duty = 1) ∧
      (x.pwr.toNat < cap → x.duty.toNat < y.duty.toNat ∨ y.duty = 16) ∧
      (x.pwr.toNat = cap → y.duty = x.duty)) ∧
    (s.clk % 16 ≠ 0 ∨ s.hasStepped br.die = true → exec .powerCapControl s = .next s) ∧
    (s.clk % 2 ^ 16 ≠ 0 ∨ s.clk ≤ x.telemAt → exec .telemetryRefresh s = .next s) ∧
    (s.clk % 2 ^ 16 = 0 → (∀ d : Fin 8, (s.die d).telemAt < s.clk) →
      ∃ t, exec .telemetryRefresh s = .next t ∧ (t.die br.die).pwr = br.val.setWidth 10 ∧
        (∀ k : Fin 4, (t.die br.die).telem[k] = br.stages.getD k.val ⟨0, 0, 0⟩) ∧
        (t.die br.die).telemAt = s.clk ∧ ∀ d : Fin 8, (t.die d).telem[(0 : Fin 4)] = br.stages.getD 0 ⟨0, 0, 0⟩) ∧
    ∀ dt : Nat, 0 < dt → (s.advance dt).clk = s.clk + dt ∧
      ∀ (k : Nat) (d : Fin 8), s.clk ≤ 2 ^ 16 * k → 2 ^ 16 * k < s.clk + dt → 2 ^ 16 * k ≤ ((s.advance dt).die d).telemAt

end RegisterEvents

section FabricEvents
open Sys2Proof Sys2Proof.Machine

/-- R428 to R432: the next packet of its flow performs and is acknowledged, a duplicate is acknowledged only, one that is too
early changes nothing; an acknowledgement frees what it covers; a router passes a good packet on, older, discards one that is too
old or of another version, and discards and logs one with a reserved KIND or field, among which channel 3 counts (the model's, log
entry 31). A module whose boot has failed accepts nothing. -/
def Sys2Proof.Claims.PacketEvents : Prop :=
  ∀ s : State,
    let p := s.cur.bring.packet
    let f := s.inFlow p.smod p.ch
    (s.reachable = false → exec .fabricPacketAccept s = .next s) ∧
    (s.reachable = true → s.fits p →
      (∀ t : State, p.seq = f.expect → s.perform p = some t →
        let g : InFlow := { t.inFlow p.smod p.ch with expect := p.seq + 1 }
        exec .fabricPacketAccept s = .next ((t.setInFlow g).sendAck g)) ∧
      (p.seq ≠ f.expect → (f.expect - p.seq).toNat < 2 ^ 31 → exec .fabricPacketAccept s = .next (s.sendAck f)) ∧
      (p.seq ≠ f.expect → 2 ^ 31 ≤ (f.expect - p.seq).toNat → exec .fabricPacketAccept s = .next s)) ∧
    (∀ (ch : BitVec 2) (acc perf : W32), p.body = .ack ch acc perf → p.kind = 6 → p.ch = 1 → p.dmod = s.fabid →
      p.resv = false → s.wakesOut = [] → s.resetting = none → ∃ t, exec .fabricAckReceive s = .next t ∧ t.mem = s.mem ∧
        (∀ g ∈ t.outFlows, g.dmod = p.smod → g.ch = ch → ∀ r ∈ g.retry, 2 ^ 31 ≤ (acc - r.1.seq).toNat) ∧
        ∀ g ∈ s.outFlows, ¬(g.dmod = p.smod ∧ g.ch = ch) → g ∈ t.outFlows) ∧
    (properPacket p → s.passes p s.cur.bring.n → exec .routerPacket s = .next { s with
      egress := s.egress ++ [{ p with age := BitVec.ofNat 12 (p.age.toNat + s.cur.bring.n) }] }) ∧
    (properPacket p → ¬s.passes p s.cur.bring.n → exec .routerPacket s = .next s) ∧
    (¬properPacket p → exec .routerPacket s = .next { s with routerLog := s.routerLog ++ [p] })

/-- R427, R433 to R435, R437, R441, R459: a route version is installed at most every 2^23 clk, and replays every packet that is
not acknowledged; so does a flow that has waited 2^20 clk. A lost module marks its windows and answers what awaits it with FABRIC,
and the contexts that watch a line of it wake. A link reports its margin, and its state rises, is logged when it does, fails, and
retrains; the identity is assigned once, after boot, which in the model is at boot stage 2 (log entry 33). -/
def Sys2Proof.Claims.RouteEvents : Prop :=
  ∀ s : State,
    let br := s.cur.bring
    ((∀ t0, s.verAt = some t0 → t0 + 2 ^ 23 ≤ s.clk) → ∃ t, exec .routeVersionInstall s = .next t ∧
      t.fver = s.fver + 1 ∧ t.verAt = some s.clk ∧ t.mem = s.mem ∧
      ∀ f ∈ t.outFlows, ∀ r ∈ f.retry, r.1.ver = (s.fver + 1).setWidth 4 ∧ r.2 = s.clk) ∧
    ((∃ t0, s.verAt = some t0 ∧ s.clk < t0 + 2 ^ 23) → exec .routeVersionInstall s = .next s) ∧
    (∀ (f : OutFlow) (rest : List OutFlow) (r : Packet × Nat) (rs : List (Packet × Nat)), s.outFlows = f :: rest →
      f.dmod = br.module → f.ch = br.flow → f.retry = r :: rs → r.2 + 2 ^ 20 ≤ s.clk →
      exec .replayTimeout s = .next { s with outFlows := f.replay (s.fver.setWidth 4) s.clk :: rest }) ∧
    (s.resetting = none → ∃ t, exec .moduleLost s = .next t ∧ t.mem = s.mem ∧ br.module ∈ t.noRoute ∧
      (∀ w : Fin 128, s.fwin[w].setWidth 14 = br.module → t.fwin[w] = s.fwin[w] ||| 0x4000000000000000#64) ∧
      (∀ w : Fin 128, s.fwin[w].setWidth 14 ≠ br.module → t.fwin[w] = s.fwin[w]) ∧
      (∀ r ∈ t.awaited, r.2 ≠ br.module) ∧
      (∀ (b : BenchId) (c : Fin 4) (tag : Nat), ((s.bench b).ctx c).wtag = some (br.module, tag) → ((t.bench b).ctx c).wake = true) ∧
      ∀ r ∈ s.awaited, r.2 = br.module → ⟨r.1, 0, 0x10, 0⟩ ∈ t.responses) ∧
    (∀ l : Fin 48, br.n = l.val →
      (s.links[l].state.toNat < br.val.toNat % 4 → ∃ t, exec .linkStateRise s = .next t ∧
        t.links[l] = ⟨BitVec.ofNat 8 br.len, br.val.setWidth 2⟩ ∧ (t.die 0).ecnt = (s.die 0).ecnt + 1) ∧
      (br.val.toNat % 4 ≤ s.links[l].state.toNat → ∃ t, exec .linkStateRise s = .next t ∧
        t.links[l] = ⟨BitVec.ofNat 8 br.len, s.links[l].state⟩ ∧ (t.die 0).ecnt = (s.die 0).ecnt) ∧
      (∃ t, exec .linkDeath s = .next t ∧ t.links[l].state = 3 ∧ l.val ∈ t.linksDead) ∧
      (∃ t, exec .linkRetrain s = .next t ∧ t.links[l] = ⟨BitVec.ofNat 8 br.len, 0⟩ ∧ l.val ∉ t.linksDead)) ∧
    (s.fabidSet = false → s.reachable = true → s.bootStage = 2 →
      exec .fabidAssign s = .next { s with fabid := br.module, fabidSet := true }) ∧
    (s.fabidSet = true → exec .fabidAssign s = .next s)

end FabricEvents

section HostEvents
open Sys2Proof Sys2Proof.Machine

/-- R440, R422, R461: the mailbox has one owner, which claims it when there is none, and hands it over or gives it up, as
the failure of its link does; a write of another host is discarded and logged. An attestation request is ignored while a
report is being written; that the report begins with the nonce is the model's (log entry 33). -/
def Sys2Proof.Claims.OwnerEvents : Prop :=
  ∀ s : State,
    let br := s.cur.bring
    let m := s.mailbox
    (s.reachable = true → m.owner = none → exec .claim s = .next { s with mailbox := { m with owner := some br.host } }) ∧
    (m.owner ≠ none → exec .claim s = .next s) ∧
    (m.owner = some br.host →
      (s.reachable = true →
        exec .ownerHandover s = .next { s with mailbox := { m with owner := some br.dest } } ∧
        exec .ownerRelease s = .next { s with mailbox := { m with owner := none } }) ∧
      exec .ownerLinkDown s = .next { s with mailbox := { m with owner := none } }) ∧
    (m.owner ≠ some br.host →
      (s.reachable = true → exec .ownerHandover s = .next (s.logErr 0 0xFF00100010 8 br.host.toNat) ∧
        exec .ownerRelease s = .next (s.logErr 0 0xFF00100010 8 br.host.toNat)) ∧
      exec .ownerLinkDown s = .next s) ∧
    (s.reachable = true → m.owner ≠ some br.host → ∀ d, s.region br.pa = .mem d →
      exec .nonOwnerWriteDiscard s = .next (s.logErr 0 br.pa 8 br.host.toNat)) ∧
    (s.reachable = true → m.attest = false →
      exec .attestationRequest s = .next { s with mailbox := { m with nonce := br.nonce, attest := true } }) ∧
    (m.attest = true → exec .attestationRequest s = .next s ∧
      ∃ t, exec .attestationReportDone s = .next t ∧ t.mailbox.attest = false ∧ t.mailbox.nonce = m.nonce ∧
        t.mailbox.report.take 32 = leBytes 32 m.nonce.toNat ∧ t.mem = s.mem)

/-- R386, R391, R440, R460: the owner's GO submits the record of the mailbox under its tenant: it is accepted or rejected, RES
holds the answer and GO reads 0; GO stays set while the run queue is full (the model's, log entry 33), or the bytes of another
module are awaited. -/
def Sys2Proof.Claims.SubmitEvents : Prop :=
  ∀ (s t : State), s.ownerWrites →
    let m := s.mailbox
    let d := dieAt m.die.toNat
    let r := recordWords (lineBytes m.record)
    let room := s.queueRoom d (runQueue (ctlPrio (recWord r 6)) m.ten)
    let u : State := { s with mailbox := { m with go := true } }
    (room = false → exec .go s = .next u) ∧
    (∀ q : W64, room = true → u.accept .mail d m.ten r = (t, some q) → ∃ v, exec .go s = .next v ∧
      v.mailbox.go = false ∧ v.mailbox.res = q ∧ v.mailbox.asks = [] ∧ v.hitches = t.hitches ∧ v.mem = t.mem) ∧
    (room = true → u.accept .mail d m.ten r = (t, none) → exec .go s = .next t)

/-- R460, R462: a boot stage is verified, or boot stops with its error, after which no reset that the owner asks for reaches the
module. A cold reset, at power-on, or asked for by the owner, gives every state of the module that R462 names its reset value, and
leaves the bytes of hosts and of extents. A warm reset, the owner's request, ends every launch and keeps memory, poison and the
error logs. A reset that the owner asks for kills every launch and comes to its end once their stores have performed (R404), a cold one
once other modules have accepted theirs too; until then it stays pending, which is the model's reading, as is what a warm reset leaves
of the mailbox and of boot (log entry 23), and that a failed boot clears FABID[63] (log entry 33). -/
def Sys2Proof.Claims.ResetEvents : Prop :=
  ∀ s : State,
    let br := s.cur.bring
    let asks : Prop := s.reachable = true ∧ s.owns br.host = true
    let drained : Prop := (∀ h ∈ s.hitches, ∀ b ∈ h.benches, (s.bench b).drained = true) ∧ ∀ b q, (s.bench b).orphansOf q = []
    let accepted : Prop := ∀ f ∈ s.outFlows, f.ch = 0 → f.retry = []
    (s.bootErr = 0 → s.bootStage.toNat < 2 →
      (br.err = 0 → ∃ t, exec .bootStageVerify s = .next t ∧ t.bootStage = s.bootStage + 1 ∧ t.bootErr = 0 ∧ t.mem = s.mem) ∧
      (br.err ≠ 0 → br.err.toNat ≤ 3 → exec .bootStageVerify s = .next { s with bootErr := br.err, fabidSet := false })) ∧
    (br.hi = true ∨ asks ∧ drained ∧ accepted → ∃ t, exec .coldReset s = .next t ∧
      (∀ p : Nat, p < 0xC000000000 → Mem.get t.mem p = Mem.get [] p) ∧
      (br.hi = true ∨ s.hitches = [] → Mem.wf s.mem = true → s.backing = [] → ∀ p : Nat, 0xC000000000 ≤ p → Mem.get t.mem p = Mem.get s.mem p) ∧
      (∀ sec ∈ t.poison, 0xC000000000 ≤ 32 * sec) ∧
      t.benches = State.reset.benches ∧ t.dies = State.reset.dies ∧ t.hitches = [] ∧ t.l2 = [] ∧ t.trackers = [] ∧
      t.fwin = Vector.replicate 128 0 ∧ t.fabidSet = false ∧ t.mailbox = State.reset.mailbox ∧ t.bootStage = 0 ∧ t.bootErr = 0 ∧
      t.resetting = none) ∧
    (br.hi = false → asks → ∃ t, exec .coldReset s = .next t ∧
      (t.hitches = [] ∨ t.resetting = some true ∧ ∀ h ∈ t.hitches, h.state = .dying)) ∧
    (asks → ∃ t, exec .warmReset s = .next t ∧
      (t.hitches = [] ∨ t.resetting.isSome = true ∧ ∀ h ∈ t.hitches, h.state = .dying) ∧
      (s.resetting ≠ some true → drained →
        t.resetting = none ∧ t.hitches = [] ∧ t.l2 = [] ∧ t.dir = [] ∧ t.trackers = [] ∧ t.fabid = s.fabid ∧ t.fabidSet = s.fabidSet ∧
        t.mailbox = State.reset.mailbox ∧ t.bootErr = 0 ∧ t.bootStage = (if s.bootStage = 0 then 0 else 1) ∧
        (∀ b, (t.bench b).team = none) ∧ (∀ d, (t.die d).launches = (s.die d).launches) ∧ (∀ h ∈ s.hitches, h.seq ∈ t.gone) ∧
        (s.hitches = [] → s.watches = [] → s.dstores = [] →
          t.mem = s.mem ∧ t.poison = s.poison ∧ ∀ d, (t.die d).elog = (s.die d).elog))) ∧
    (br.hi = false → s.reachable = false ∨ s.owns br.host = false → exec .coldReset s = .next s) ∧
    (s.reachable = false ∨ s.owns br.host = false → exec .warmReset s = .next s)

end HostEvents

/-! ### Statements with several parts -/

/-- R107 to R109, R116, R117: the immediate instructions and the three-source ones that do not round. -/
def Obligations.ImmediateResults : Prop :=
  Sys2Proof.Claims.ImmediateResults ∧ Sys2Proof.Claims.ThreeSourceResults

/-- R110 to R116: the F32 group and the fused products, and what they answer for NaNs (FABS and FNEG leave them by log
entry 24, the model's). -/
def Obligations.FloatResults : Prop :=
  Sys2Proof.Claims.FloatResults ∧ Sys2Proof.Claims.NanResults

/-- R118 to R124: branches and jumps. Which fault a target raises that is both misaligned and beyond 57 bits is log entry
51, the model's. -/
def Obligations.BranchResults : Prop :=
  Sys2Proof.Claims.BranchResults ∧ Sys2Proof.Claims.JumpResults

/-- R126, and R125 with R126: a return, and a call that returns. -/
def Obligations.ReturnResults : Prop :=
  Sys2Proof.Claims.ReturnResults ∧ Sys2Proof.Claims.CallThenReturn

/-- R65 and R69: a load reads memory, or an older store of its own context. -/
def Obligations.LoadReadsMemory : Prop :=
  Sys2Proof.Claims.LoadReadsMemory ∧ Sys2Proof.Claims.LoadForwards

/-- R131: the checks of an access, and the faults of loads and stores that fail them. -/
def Obligations.AccessChecks : Prop :=
  Sys2Proof.Claims.AccessChecks ∧ Sys2Proof.Claims.AccessFaults

/-- R136, R63, R66: what a store writes, and its frame. -/
def Obligations.StoreWritesMemory : Prop :=
  Sys2Proof.Claims.StoreWritesMemory ∧ Sys2Proof.Claims.StoreFrame

/-- R138 to R141: an atomic performs at home, and its instruction completes with the old value. -/
def Obligations.AtomicPerforms : Prop :=
  Sys2Proof.Claims.AtomicPerforms ∧ Sys2Proof.Claims.AtomicResults

/-- R142, R147 to R149: fences and barriers. -/
def Obligations.BarrierResults : Prop :=
  Sys2Proof.Claims.FenceResults ∧ Sys2Proof.Claims.BarrierResults

/-- R143 to R145: watches. -/
def Obligations.WatchResults : Prop :=
  Sys2Proof.Claims.WatchResults ∧ Sys2Proof.Claims.StoreWakes

/-- R29, R31 to R33, R153, R155: tokens and joins. -/
def Obligations.TokenResults : Prop :=
  Sys2Proof.Claims.TokenResults ∧ Sys2Proof.Claims.TokenFifos ∧ Sys2Proof.Claims.TailJoin

/-- R92, R93, R160, R173: the special registers. -/
def Obligations.SpecialRegisters : Prop :=
  Sys2Proof.Claims.SpecialReads ∧ Sys2Proof.Claims.SpecialWrites

/-- R161, R177, R178, R180: trap entry. -/
def Obligations.TrapEntry : Prop :=
  Sys2Proof.Claims.TrapEntry ∧ Sys2Proof.Claims.PreciseFaults

/-- R163, and R161 with R163: the return from the handler. -/
def Obligations.TrapReturn : Prop :=
  Sys2Proof.Claims.TrapReturn ∧ Sys2Proof.Claims.TrapThenReturn

/-- R129, R154, R156, R162, R165: the system instructions that read and end. -/
def Obligations.SystemCalls : Prop :=
  Sys2Proof.Claims.SystemCalls ∧ Sys2Proof.Claims.ReadingAndEnding

/-- R157 to R159: launches. -/
def Obligations.LaunchResults : Prop :=
  Sys2Proof.Claims.LaunchResults ∧ Sys2Proof.Claims.LaunchReads ∧ Sys2Proof.Claims.LaunchWaits

/-- R30, R32 to R34, R44: headers, takes and gives. -/
def Obligations.EngineIssue : Prop :=
  Sys2Proof.Claims.EngineHeaders ∧ Sys2Proof.Claims.EngineRetires

/-- R246 to R263: P's control instructions. -/
def Obligations.PlaneControl : Prop :=
  Sys2Proof.Claims.PlaneControl ∧ Sys2Proof.Claims.PlaneLoops

/-- R235, R240, R259, R267, R275, R277: forwards, and the plane's events. -/
def Obligations.PlaneForwards : Prop :=
  Sys2Proof.Claims.PlaneForwards ∧ Sys2Proof.Claims.PlaneEvents

/-- R328, R329, R343, R344: moves, masks and predication. -/
def Obligations.VectorSelects : Prop :=
  Sys2Proof.Claims.VectorSelects ∧ Sys2Proof.Claims.VectorPredication

/-- R33, R60, R66, R85, R168 to R171, R232, R288: the events of a bench that complete, time out, spill and fill. -/
def Obligations.CompletionEvents : Prop :=
  Sys2Proof.Claims.CompletionEvents ∧
  Sys2Proof.Claims.ArrivalEvents ∧
  Sys2Proof.Claims.WatchdogEvents ∧
  Sys2Proof.Claims.SpillEngine

/-- R46, R144, R162, R177 to R179, R463: the events of contexts and streams. -/
def Obligations.HandlerEvents : Prop :=
  Sys2Proof.Claims.HandlerEvents ∧ Sys2Proof.Claims.ContextEvents ∧ Sys2Proof.Claims.StreamEvents

/-- R182 to R184, R387 to R397, R403, R404: the dispatcher. -/
def Obligations.DispatchEvents : Prop :=
  Sys2Proof.Claims.DispatchEvents ∧ Sys2Proof.Claims.PreemptEvents ∧ Sys2Proof.Claims.LaunchEvents

/-- R409, R413 to R418: agents and hosts at home. -/
def Obligations.HomeEvents : Prop :=
  Sys2Proof.Claims.AgentEvents ∧ Sys2Proof.Claims.HostAccessEvents

/-- R54, R301 to R303, R419, R423: errors, extents, channels and buckets. -/
def Obligations.MemoryEvents : Prop :=
  Sys2Proof.Claims.ErrorEvents ∧ Sys2Proof.Claims.MemoryEvents

/-- R296, R426, R427, R439, R456 to R458: registers and power. -/
def Obligations.RegisterEvents : Prop :=
  Sys2Proof.Claims.RegisterEvents ∧ Sys2Proof.Claims.PowerEvents

/-- R428 to R437, R441, R459: the fabric. -/
def Obligations.FabricEvents : Prop :=
  Sys2Proof.Claims.PacketEvents ∧ Sys2Proof.Claims.RouteEvents

/-- R440, R460 to R462: hosts and bring-up. -/
def Obligations.HostEvents : Prop :=
  Sys2Proof.Claims.OwnerEvents ∧ Sys2Proof.Claims.SubmitEvents ∧ Sys2Proof.Claims.ResetEvents
end

