-- ==== Sys2Proof/Laws/Mem.lean ====
section
/-! SUPPORT. Byte memories: a write keeps the canonical form, a read after a write gives what was written, and every other
byte reads as before. -/

namespace Sys2Proof.Machine

/-- The first entry of a canonical memory is not the default, and every other entry lies above it. -/
theorem Mem.wf_cons (c : Host.Cell) (m : Mem) :
    Mem.wf (c :: m) = true ↔ c.2 ≠ 0 ∧ (∀ d ∈ m.head?, c.1 < d.1) ∧ Mem.wf m = true := by
  cases m <;> simp [Mem.wf, and_assoc]

theorem Mem.wf_nil : Mem.wf [] = true := rfl

/-- The head of a memory after a write of one byte is the old head, or the byte written. -/
theorem Mem.head_set (m : Mem) (a : Nat) (v : Byte) (k : Nat) (hk : k < a) (h : ∀ d ∈ m.head?, k < d.1)
    (hw : Mem.wf m = true) : ∀ d ∈ (Mem.set m a v).head?, k < d.1 := by
  cases m with
  | nil => intro d; simp only [Mem.set]; split <;> simp; rintro rfl; exact hk
  | cons c m =>
    have hc : k < c.1 := h c (by simp)
    simp only [Mem.set]
    split
    · split
      · have := ((Mem.wf_cons c m).1 hw).2.1
        intro d hd; exact hc.trans (this d hd)
      · simp; omega
    · split
      · split <;> simp [hc, hk]
      · simpa using hc

/-- A write of one byte keeps the canonical form. -/
theorem Mem.wf_set (m : Mem) (a : Nat) (v : Byte) (h : Mem.wf m = true) : Mem.wf (Mem.set m a v) = true := by
  induction m with
  | nil =>
    simp only [Mem.set]
    split
    · rfl
    · rename_i hv
      exact (Mem.wf_cons _ _).2 ⟨hv, by simp, rfl⟩
  | cons c m ih =>
    obtain ⟨h1, h2, h3⟩ := (Mem.wf_cons c m).1 h
    simp only [Mem.set]
    split
    · split
      · exact h3
      · rename_i hc hv
        exact (Mem.wf_cons _ _).2 ⟨hv, by simpa [← hc] using h2, h3⟩
    · split
      · split
        · exact h
        · rename_i hv
          exact (Mem.wf_cons _ _).2 ⟨hv, by simpa using ‹a < c.1›, h⟩
      · exact (Mem.wf_cons _ _).2 ⟨h1, Mem.head_set m a v c.1 (by omega) h2 h3, ih h3⟩

/-- A write of bytes keeps the canonical form. -/
@[simp] theorem Mem.wf_write (bs : List (Option Byte)) (m : Mem) (a : Nat) (h : Mem.wf m = true) :
    Mem.wf (Mem.write m a bs) = true := by
  induction bs generalizing m a with
  | nil => exact h
  | cons b bs ih =>
    cases b with
    | none => exact ih m (a + 1) h
    | some b => exact ih _ (a + 1) (Mem.wf_set m a b h)

@[simp] theorem Mem.wf_writeAll (m : Mem) (a : Nat) (bs : List Byte) (h : Mem.wf m = true) :
    Mem.wf (Mem.writeAll m a bs) = true := Mem.wf_write _ _ _ h

/-- Below its first entry a memory reads as the default. -/
theorem Mem.get_below (m : Mem) (a : Nat) (h : ∀ d ∈ m.head?, a < d.1) : Mem.get m a = 0 := by
  cases m with
  | nil => rfl
  | cons c m =>
    have : a < c.1 := h c (by simp)
    simp [Mem.get, this, Nat.ne_of_gt this]

/-- Reading after a write of one byte, in a canonical memory. -/
theorem Mem.get_set (m : Mem) (a b : Nat) (v : Byte) (h : Mem.wf m = true) :
    Mem.get (Mem.set m a v) b = if b = a then v else Mem.get m b := by
  induction m with
  | nil =>
    simp only [Mem.set, Mem.get]
    split
    · rename_i hv; simp [Mem.get, hv]
    · simp only [Mem.get]; split
      · rename_i hab; simp [hab]
      · rename_i hab; simp [Ne.symm hab]
  | cons c m ih =>
    obtain ⟨h1, h2, h3⟩ := (Mem.wf_cons c m).1 h
    have low (x : Nat) (hx : x ≤ c.1) : Mem.get m x = 0 := Mem.get_below m x fun d hd => lt_of_le_of_lt hx (h2 d hd)
    simp only [Mem.set]
    split
    · rename_i hc
      split
      · rename_i hv
        by_cases hb : b = a
        · subst hb; simp [hv, low _ hc.ge]
        · have : ¬ c.1 = b := by omega
          simp only [hb, if_false, Mem.get, this]
          by_cases hlt : b < c.1
          · simp [hlt, low b hlt.le]
          · simp [hlt]
      · simp only [Mem.get, hc]
        by_cases hb : a = b
        · simp [hb]
        · simp [hb, Ne.symm hb]
    · rename_i hc
      split
      · rename_i hlt
        split
        · rename_i hv
          by_cases hb : b = a
          · subst hb; simp [Mem.get, hc, hlt, hv]
          · simp [hb]
        · by_cases hb : b = a
          · subst hb; simp [Mem.get]
          · simp only [Mem.get, hb, Ne.symm hb, if_false]
            by_cases h4 : b < a
            · have : ¬ c.1 = b := by omega
              simp [h4, this, h4.trans hlt]
            · simp [h4]
      · rename_i hlt
        simp only [Mem.get]
        by_cases h5 : c.1 = b
        · simp only [h5, if_true]
          have : ¬ b = a := by omega
          simp [this]
        · simp only [h5, if_false]
          by_cases h6 : b < c.1
          · have : ¬ b = a := by omega
            simp [h6, this]
          · simp [h6, ih h3]

/-- Reading after a write of bytes, some of them masked: an address that the write reaches with a byte reads as that
byte, and every other address reads as before. -/
theorem Mem.get_write (bs : List (Option Byte)) (m : Mem) (a b : Nat) (h : Mem.wf m = true) :
    Mem.get (Mem.write m a bs) b = if a ≤ b then (bs[b - a]?.join).getD (Mem.get m b) else Mem.get m b := by
  induction bs generalizing m a with
  | nil => simp [Mem.write]
  | cons x bs ih =>
    have shift (hb : a < b) : b - a = b - (a + 1) + 1 := by omega
    cases x with
    | none =>
      rw [Mem.write, ih m (a + 1) h]
      rcases Nat.lt_trichotomy a b with hb | hb | hb
      · simp [hb.le, Nat.succ_le_of_lt hb, shift hb]
      · subst hb; simp
      · have h1 : ¬ a ≤ b := by omega
        have h2 : ¬ a + 1 ≤ b := by omega
        simp [h1, h2]
    | some v =>
      rw [Mem.write, ih _ (a + 1) (Mem.wf_set m a v h), Mem.get_set m a b v h]
      rcases Nat.lt_trichotomy a b with hb | hb | hb
      · have : ¬ b = a := by omega
        simp [hb.le, Nat.succ_le_of_lt hb, shift hb, this]
      · subst hb; simp
      · have h1 : ¬ a ≤ b := by omega
        have h2 : ¬ a + 1 ≤ b := by omega
        have h3 : ¬ b = a := by omega
        simp [h1, h2, h3]

/-- A byte outside a write reads as before. -/
theorem Mem.get_write_outside (bs : List (Option Byte)) (m : Mem) (a b : Nat) (h : Mem.wf m = true)
    (hb : b < a ∨ a + bs.length ≤ b) : Mem.get (Mem.write m a bs) b = Mem.get m b := by
  rw [Mem.get_write bs m a b h]
  split
  · have : bs[b - a]? = none := by rw [List.getElem?_eq_none_iff]; omega
    simp [this]
  · rfl

/-- The bytes that a read gives, one by one. -/
theorem Mem.read_getElem? (m : Mem) (n : Nat) : ∀ (a k : Nat), k < n → (Mem.read m a n)[k]? = some (Mem.get m (a + k)) := by
  induction n with
  | zero => intro a k h; omega
  | succ n ih =>
    intro a k h
    cases k with
    | zero => simp [Mem.read]
    | succ k => simp only [Mem.read, List.getElem?_cons_succ]; rw [ih (a + 1) k (by omega)]; congr 2; omega

@[simp] theorem Mem.read_length (m : Mem) (a n : Nat) : (Mem.read m a n).length = n := by
  induction n generalizing a with
  | zero => rfl
  | succ n ih => simp [Mem.read, ih]

/-- A read of bytes that have just been written gives them. -/
theorem Mem.read_writeAll (m : Mem) (a : Nat) (bs : List Byte) (h : Mem.wf m = true) :
    Mem.read (Mem.writeAll m a bs) a bs.length = bs := by
  apply List.ext_getElem?
  intro k
  by_cases hk : k < bs.length
  · rw [Mem.read_getElem? _ _ _ _ hk, Mem.writeAll, Mem.get_write _ _ _ _ h]
    simp [hk]
  · rw [List.getElem?_eq_none (by simp; omega), List.getElem?_eq_none (by omega)]

end Sys2Proof.Machine
end

