-- ==== Sys2Proof/Laws/State.lean ====
section
/-! SUPPORT. What the named updates of the state leave as it was, one lemma for each field, and what they change. -/

namespace Sys2Proof.Machine

/-! ### State.setBench -/

@[simp] theorem State.setBench_turns (s : State) (b : BenchId) (x : Bench) : (s.setBench b x).turns = s.turns := rfl
@[simp] theorem State.setBench_free (s : State) (b : BenchId) (x : Bench) : (s.setBench b x).free = s.free := rfl
@[simp] theorem State.setBench_cur (s : State) (b : BenchId) (x : Bench) : (s.setBench b x).cur = s.cur := rfl
@[simp] theorem State.setBench_clk (s : State) (b : BenchId) (x : Bench) : (s.setBench b x).clk = s.clk := rfl
@[simp] theorem State.setBench_before (s : State) (b : BenchId) (x : Bench) : (s.setBench b x).before = s.before := rfl
@[simp] theorem State.setBench_ended (s : State) (b : BenchId) (x : Bench) : (s.setBench b x).ended = s.ended := rfl
@[simp] theorem State.setBench_dies (s : State) (b : BenchId) (x : Bench) : (s.setBench b x).dies = s.dies := rfl
@[simp] theorem State.setBench_mem (s : State) (b : BenchId) (x : Bench) : (s.setBench b x).mem = s.mem := rfl
@[simp] theorem State.setBench_poison (s : State) (b : BenchId) (x : Bench) : (s.setBench b x).poison = s.poison := rfl
@[simp] theorem State.setBench_backing (s : State) (b : BenchId) (x : Bench) : (s.setBench b x).backing = s.backing := rfl
@[simp] theorem State.setBench_l2 (s : State) (b : BenchId) (x : Bench) : (s.setBench b x).l2 = s.l2 := rfl
@[simp] theorem State.setBench_msc (s : State) (b : BenchId) (x : Bench) : (s.setBench b x).msc = s.msc := rfl
@[simp] theorem State.setBench_dir (s : State) (b : BenchId) (x : Bench) : (s.setBench b x).dir = s.dir := rfl
@[simp] theorem State.setBench_trackers (s : State) (b : BenchId) (x : Bench) : (s.setBench b x).trackers = s.trackers := rfl
@[simp] theorem State.setBench_watches (s : State) (b : BenchId) (x : Bench) : (s.setBench b x).watches = s.watches := rfl
@[simp] theorem State.setBench_nodes (s : State) (b : BenchId) (x : Bench) : (s.setBench b x).nodes = s.nodes := rfl
@[simp] theorem State.setBench_covered (s : State) (b : BenchId) (x : Bench) : (s.setBench b x).covered = s.covered := rfl
@[simp] theorem State.setBench_extents (s : State) (b : BenchId) (x : Bench) : (s.setBench b x).extents = s.extents := rfl
@[simp] theorem State.setBench_hostRanges (s : State) (b : BenchId) (x : Bench) : (s.setBench b x).hostRanges = s.hostRanges := rfl
@[simp] theorem State.setBench_hostHeld (s : State) (b : BenchId) (x : Bench) : (s.setBench b x).hostHeld = s.hostHeld := rfl
@[simp] theorem State.setBench_chans (s : State) (b : BenchId) (x : Bench) : (s.setBench b x).chans = s.chans := rfl
@[simp] theorem State.setBench_buckets (s : State) (b : BenchId) (x : Bench) : (s.setBench b x).buckets = s.buckets := rfl
@[simp] theorem State.setBench_rowActs (s : State) (b : BenchId) (x : Bench) : (s.setBench b x).rowActs = s.rowActs := rfl
@[simp] theorem State.setBench_hotRows (s : State) (b : BenchId) (x : Bench) : (s.setBench b x).hotRows = s.hotRows := rfl
@[simp] theorem State.setBench_forwards (s : State) (b : BenchId) (x : Bench) : (s.setBench b x).forwards = s.forwards := rfl
@[simp] theorem State.setBench_bands (s : State) (b : BenchId) (x : Bench) : (s.setBench b x).bands = s.bands := rfl
@[simp] theorem State.setBench_barriers (s : State) (b : BenchId) (x : Bench) : (s.setBench b x).barriers = s.barriers := rfl
@[simp] theorem State.setBench_hitches (s : State) (b : BenchId) (x : Bench) : (s.setBench b x).hitches = s.hitches := rfl
@[simp] theorem State.setBench_dstores (s : State) (b : BenchId) (x : Bench) : (s.setBench b x).dstores = s.dstores := rfl
@[simp] theorem State.setBench_gone (s : State) (b : BenchId) (x : Bench) : (s.setBench b x).gone = s.gone := rfl
@[simp] theorem State.setBench_spread (s : State) (b : BenchId) (x : Bench) : (s.setBench b x).spread = s.spread := rfl
@[simp] theorem State.setBench_fabid (s : State) (b : BenchId) (x : Bench) : (s.setBench b x).fabid = s.fabid := rfl
@[simp] theorem State.setBench_fabidSet (s : State) (b : BenchId) (x : Bench) : (s.setBench b x).fabidSet = s.fabidSet := rfl
@[simp] theorem State.setBench_fver (s : State) (b : BenchId) (x : Bench) : (s.setBench b x).fver = s.fver := rfl
@[simp] theorem State.setBench_verAt (s : State) (b : BenchId) (x : Bench) : (s.setBench b x).verAt = s.verAt := rfl
@[simp] theorem State.setBench_fwin (s : State) (b : BenchId) (x : Bench) : (s.setBench b x).fwin = s.fwin := rfl
@[simp] theorem State.setBench_links (s : State) (b : BenchId) (x : Bench) : (s.setBench b x).links = s.links := rfl
@[simp] theorem State.setBench_linksDead (s : State) (b : BenchId) (x : Bench) : (s.setBench b x).linksDead = s.linksDead := rfl
@[simp] theorem State.setBench_outFlows (s : State) (b : BenchId) (x : Bench) : (s.setBench b x).outFlows = s.outFlows := rfl
@[simp] theorem State.setBench_inFlows (s : State) (b : BenchId) (x : Bench) : (s.setBench b x).inFlows = s.inFlows := rfl
@[simp] theorem State.setBench_awaited (s : State) (b : BenchId) (x : Bench) : (s.setBench b x).awaited = s.awaited := rfl
@[simp] theorem State.setBench_responses (s : State) (b : BenchId) (x : Bench) : (s.setBench b x).responses = s.responses := rfl
@[simp] theorem State.setBench_wakesOut (s : State) (b : BenchId) (x : Bench) : (s.setBench b x).wakesOut = s.wakesOut := rfl
@[simp] theorem State.setBench_egress (s : State) (b : BenchId) (x : Bench) : (s.setBench b x).egress = s.egress := rfl
@[simp] theorem State.setBench_routerLog (s : State) (b : BenchId) (x : Bench) : (s.setBench b x).routerLog = s.routerLog := rfl
@[simp] theorem State.setBench_noRoute (s : State) (b : BenchId) (x : Bench) : (s.setBench b x).noRoute = s.noRoute := rfl
@[simp] theorem State.setBench_mailbox (s : State) (b : BenchId) (x : Bench) : (s.setBench b x).mailbox = s.mailbox := rfl
@[simp] theorem State.setBench_agents (s : State) (b : BenchId) (x : Bench) : (s.setBench b x).agents = s.agents := rfl
@[simp] theorem State.setBench_bootErr (s : State) (b : BenchId) (x : Bench) : (s.setBench b x).bootErr = s.bootErr := rfl
@[simp] theorem State.setBench_bootStage (s : State) (b : BenchId) (x : Bench) : (s.setBench b x).bootStage = s.bootStage := rfl
@[simp] theorem State.setBench_resetting (s : State) (b : BenchId) (x : Bench) : (s.setBench b x).resetting = s.resetting := rfl

/-! ### State.modBench -/

@[simp] theorem State.modBench_turns (s : State) (b : BenchId) (f : Bench → Bench) : (s.modBench b f).turns = s.turns := rfl
@[simp] theorem State.modBench_free (s : State) (b : BenchId) (f : Bench → Bench) : (s.modBench b f).free = s.free := rfl
@[simp] theorem State.modBench_cur (s : State) (b : BenchId) (f : Bench → Bench) : (s.modBench b f).cur = s.cur := rfl
@[simp] theorem State.modBench_clk (s : State) (b : BenchId) (f : Bench → Bench) : (s.modBench b f).clk = s.clk := rfl
@[simp] theorem State.modBench_before (s : State) (b : BenchId) (f : Bench → Bench) : (s.modBench b f).before = s.before := rfl
@[simp] theorem State.modBench_ended (s : State) (b : BenchId) (f : Bench → Bench) : (s.modBench b f).ended = s.ended := rfl
@[simp] theorem State.modBench_dies (s : State) (b : BenchId) (f : Bench → Bench) : (s.modBench b f).dies = s.dies := rfl
@[simp] theorem State.modBench_mem (s : State) (b : BenchId) (f : Bench → Bench) : (s.modBench b f).mem = s.mem := rfl
@[simp] theorem State.modBench_poison (s : State) (b : BenchId) (f : Bench → Bench) : (s.modBench b f).poison = s.poison := rfl
@[simp] theorem State.modBench_backing (s : State) (b : BenchId) (f : Bench → Bench) : (s.modBench b f).backing = s.backing := rfl
@[simp] theorem State.modBench_l2 (s : State) (b : BenchId) (f : Bench → Bench) : (s.modBench b f).l2 = s.l2 := rfl
@[simp] theorem State.modBench_msc (s : State) (b : BenchId) (f : Bench → Bench) : (s.modBench b f).msc = s.msc := rfl
@[simp] theorem State.modBench_dir (s : State) (b : BenchId) (f : Bench → Bench) : (s.modBench b f).dir = s.dir := rfl
@[simp] theorem State.modBench_trackers (s : State) (b : BenchId) (f : Bench → Bench) : (s.modBench b f).trackers = s.trackers := rfl
@[simp] theorem State.modBench_watches (s : State) (b : BenchId) (f : Bench → Bench) : (s.modBench b f).watches = s.watches := rfl
@[simp] theorem State.modBench_nodes (s : State) (b : BenchId) (f : Bench → Bench) : (s.modBench b f).nodes = s.nodes := rfl
@[simp] theorem State.modBench_covered (s : State) (b : BenchId) (f : Bench → Bench) : (s.modBench b f).covered = s.covered := rfl
@[simp] theorem State.modBench_extents (s : State) (b : BenchId) (f : Bench → Bench) : (s.modBench b f).extents = s.extents := rfl
@[simp] theorem State.modBench_hostRanges (s : State) (b : BenchId) (f : Bench → Bench) : (s.modBench b f).hostRanges = s.hostRanges := rfl
@[simp] theorem State.modBench_hostHeld (s : State) (b : BenchId) (f : Bench → Bench) : (s.modBench b f).hostHeld = s.hostHeld := rfl
@[simp] theorem State.modBench_chans (s : State) (b : BenchId) (f : Bench → Bench) : (s.modBench b f).chans = s.chans := rfl
@[simp] theorem State.modBench_buckets (s : State) (b : BenchId) (f : Bench → Bench) : (s.modBench b f).buckets = s.buckets := rfl
@[simp] theorem State.modBench_rowActs (s : State) (b : BenchId) (f : Bench → Bench) : (s.modBench b f).rowActs = s.rowActs := rfl
@[simp] theorem State.modBench_hotRows (s : State) (b : BenchId) (f : Bench → Bench) : (s.modBench b f).hotRows = s.hotRows := rfl
@[simp] theorem State.modBench_forwards (s : State) (b : BenchId) (f : Bench → Bench) : (s.modBench b f).forwards = s.forwards := rfl
@[simp] theorem State.modBench_bands (s : State) (b : BenchId) (f : Bench → Bench) : (s.modBench b f).bands = s.bands := rfl
@[simp] theorem State.modBench_barriers (s : State) (b : BenchId) (f : Bench → Bench) : (s.modBench b f).barriers = s.barriers := rfl
@[simp] theorem State.modBench_hitches (s : State) (b : BenchId) (f : Bench → Bench) : (s.modBench b f).hitches = s.hitches := rfl
@[simp] theorem State.modBench_dstores (s : State) (b : BenchId) (f : Bench → Bench) : (s.modBench b f).dstores = s.dstores := rfl
@[simp] theorem State.modBench_gone (s : State) (b : BenchId) (f : Bench → Bench) : (s.modBench b f).gone = s.gone := rfl
@[simp] theorem State.modBench_spread (s : State) (b : BenchId) (f : Bench → Bench) : (s.modBench b f).spread = s.spread := rfl
@[simp] theorem State.modBench_fabid (s : State) (b : BenchId) (f : Bench → Bench) : (s.modBench b f).fabid = s.fabid := rfl
@[simp] theorem State.modBench_fabidSet (s : State) (b : BenchId) (f : Bench → Bench) : (s.modBench b f).fabidSet = s.fabidSet := rfl
@[simp] theorem State.modBench_fver (s : State) (b : BenchId) (f : Bench → Bench) : (s.modBench b f).fver = s.fver := rfl
@[simp] theorem State.modBench_verAt (s : State) (b : BenchId) (f : Bench → Bench) : (s.modBench b f).verAt = s.verAt := rfl
@[simp] theorem State.modBench_fwin (s : State) (b : BenchId) (f : Bench → Bench) : (s.modBench b f).fwin = s.fwin := rfl
@[simp] theorem State.modBench_links (s : State) (b : BenchId) (f : Bench → Bench) : (s.modBench b f).links = s.links := rfl
@[simp] theorem State.modBench_linksDead (s : State) (b : BenchId) (f : Bench → Bench) : (s.modBench b f).linksDead = s.linksDead := rfl
@[simp] theorem State.modBench_outFlows (s : State) (b : BenchId) (f : Bench → Bench) : (s.modBench b f).outFlows = s.outFlows := rfl
@[simp] theorem State.modBench_inFlows (s : State) (b : BenchId) (f : Bench → Bench) : (s.modBench b f).inFlows = s.inFlows := rfl
@[simp] theorem State.modBench_awaited (s : State) (b : BenchId) (f : Bench → Bench) : (s.modBench b f).awaited = s.awaited := rfl
@[simp] theorem State.modBench_responses (s : State) (b : BenchId) (f : Bench → Bench) : (s.modBench b f).responses = s.responses := rfl
@[simp] theorem State.modBench_wakesOut (s : State) (b : BenchId) (f : Bench → Bench) : (s.modBench b f).wakesOut = s.wakesOut := rfl
@[simp] theorem State.modBench_egress (s : State) (b : BenchId) (f : Bench → Bench) : (s.modBench b f).egress = s.egress := rfl
@[simp] theorem State.modBench_routerLog (s : State) (b : BenchId) (f : Bench → Bench) : (s.modBench b f).routerLog = s.routerLog := rfl
@[simp] theorem State.modBench_noRoute (s : State) (b : BenchId) (f : Bench → Bench) : (s.modBench b f).noRoute = s.noRoute := rfl
@[simp] theorem State.modBench_mailbox (s : State) (b : BenchId) (f : Bench → Bench) : (s.modBench b f).mailbox = s.mailbox := rfl
@[simp] theorem State.modBench_agents (s : State) (b : BenchId) (f : Bench → Bench) : (s.modBench b f).agents = s.agents := rfl
@[simp] theorem State.modBench_bootErr (s : State) (b : BenchId) (f : Bench → Bench) : (s.modBench b f).bootErr = s.bootErr := rfl
@[simp] theorem State.modBench_bootStage (s : State) (b : BenchId) (f : Bench → Bench) : (s.modBench b f).bootStage = s.bootStage := rfl
@[simp] theorem State.modBench_resetting (s : State) (b : BenchId) (f : Bench → Bench) : (s.modBench b f).resetting = s.resetting := rfl

/-! ### State.modHere -/

@[simp] theorem State.modHere_turns (s : State) (f : Bench → Bench) : (s.modHere f).turns = s.turns := rfl
@[simp] theorem State.modHere_free (s : State) (f : Bench → Bench) : (s.modHere f).free = s.free := rfl
@[simp] theorem State.modHere_cur (s : State) (f : Bench → Bench) : (s.modHere f).cur = s.cur := rfl
@[simp] theorem State.modHere_clk (s : State) (f : Bench → Bench) : (s.modHere f).clk = s.clk := rfl
@[simp] theorem State.modHere_before (s : State) (f : Bench → Bench) : (s.modHere f).before = s.before := rfl
@[simp] theorem State.modHere_ended (s : State) (f : Bench → Bench) : (s.modHere f).ended = s.ended := rfl
@[simp] theorem State.modHere_dies (s : State) (f : Bench → Bench) : (s.modHere f).dies = s.dies := rfl
@[simp] theorem State.modHere_mem (s : State) (f : Bench → Bench) : (s.modHere f).mem = s.mem := rfl
@[simp] theorem State.modHere_poison (s : State) (f : Bench → Bench) : (s.modHere f).poison = s.poison := rfl
@[simp] theorem State.modHere_backing (s : State) (f : Bench → Bench) : (s.modHere f).backing = s.backing := rfl
@[simp] theorem State.modHere_l2 (s : State) (f : Bench → Bench) : (s.modHere f).l2 = s.l2 := rfl
@[simp] theorem State.modHere_msc (s : State) (f : Bench → Bench) : (s.modHere f).msc = s.msc := rfl
@[simp] theorem State.modHere_dir (s : State) (f : Bench → Bench) : (s.modHere f).dir = s.dir := rfl
@[simp] theorem State.modHere_trackers (s : State) (f : Bench → Bench) : (s.modHere f).trackers = s.trackers := rfl
@[simp] theorem State.modHere_watches (s : State) (f : Bench → Bench) : (s.modHere f).watches = s.watches := rfl
@[simp] theorem State.modHere_nodes (s : State) (f : Bench → Bench) : (s.modHere f).nodes = s.nodes := rfl
@[simp] theorem State.modHere_covered (s : State) (f : Bench → Bench) : (s.modHere f).covered = s.covered := rfl
@[simp] theorem State.modHere_extents (s : State) (f : Bench → Bench) : (s.modHere f).extents = s.extents := rfl
@[simp] theorem State.modHere_hostRanges (s : State) (f : Bench → Bench) : (s.modHere f).hostRanges = s.hostRanges := rfl
@[simp] theorem State.modHere_hostHeld (s : State) (f : Bench → Bench) : (s.modHere f).hostHeld = s.hostHeld := rfl
@[simp] theorem State.modHere_chans (s : State) (f : Bench → Bench) : (s.modHere f).chans = s.chans := rfl
@[simp] theorem State.modHere_buckets (s : State) (f : Bench → Bench) : (s.modHere f).buckets = s.buckets := rfl
@[simp] theorem State.modHere_rowActs (s : State) (f : Bench → Bench) : (s.modHere f).rowActs = s.rowActs := rfl
@[simp] theorem State.modHere_hotRows (s : State) (f : Bench → Bench) : (s.modHere f).hotRows = s.hotRows := rfl
@[simp] theorem State.modHere_forwards (s : State) (f : Bench → Bench) : (s.modHere f).forwards = s.forwards := rfl
@[simp] theorem State.modHere_bands (s : State) (f : Bench → Bench) : (s.modHere f).bands = s.bands := rfl
@[simp] theorem State.modHere_barriers (s : State) (f : Bench → Bench) : (s.modHere f).barriers = s.barriers := rfl
@[simp] theorem State.modHere_hitches (s : State) (f : Bench → Bench) : (s.modHere f).hitches = s.hitches := rfl
@[simp] theorem State.modHere_dstores (s : State) (f : Bench → Bench) : (s.modHere f).dstores = s.dstores := rfl
@[simp] theorem State.modHere_gone (s : State) (f : Bench → Bench) : (s.modHere f).gone = s.gone := rfl
@[simp] theorem State.modHere_spread (s : State) (f : Bench → Bench) : (s.modHere f).spread = s.spread := rfl
@[simp] theorem State.modHere_fabid (s : State) (f : Bench → Bench) : (s.modHere f).fabid = s.fabid := rfl
@[simp] theorem State.modHere_fabidSet (s : State) (f : Bench → Bench) : (s.modHere f).fabidSet = s.fabidSet := rfl
@[simp] theorem State.modHere_fver (s : State) (f : Bench → Bench) : (s.modHere f).fver = s.fver := rfl
@[simp] theorem State.modHere_verAt (s : State) (f : Bench → Bench) : (s.modHere f).verAt = s.verAt := rfl
@[simp] theorem State.modHere_fwin (s : State) (f : Bench → Bench) : (s.modHere f).fwin = s.fwin := rfl
@[simp] theorem State.modHere_links (s : State) (f : Bench → Bench) : (s.modHere f).links = s.links := rfl
@[simp] theorem State.modHere_linksDead (s : State) (f : Bench → Bench) : (s.modHere f).linksDead = s.linksDead := rfl
@[simp] theorem State.modHere_outFlows (s : State) (f : Bench → Bench) : (s.modHere f).outFlows = s.outFlows := rfl
@[simp] theorem State.modHere_inFlows (s : State) (f : Bench → Bench) : (s.modHere f).inFlows = s.inFlows := rfl
@[simp] theorem State.modHere_awaited (s : State) (f : Bench → Bench) : (s.modHere f).awaited = s.awaited := rfl
@[simp] theorem State.modHere_responses (s : State) (f : Bench → Bench) : (s.modHere f).responses = s.responses := rfl
@[simp] theorem State.modHere_wakesOut (s : State) (f : Bench → Bench) : (s.modHere f).wakesOut = s.wakesOut := rfl
@[simp] theorem State.modHere_egress (s : State) (f : Bench → Bench) : (s.modHere f).egress = s.egress := rfl
@[simp] theorem State.modHere_routerLog (s : State) (f : Bench → Bench) : (s.modHere f).routerLog = s.routerLog := rfl
@[simp] theorem State.modHere_noRoute (s : State) (f : Bench → Bench) : (s.modHere f).noRoute = s.noRoute := rfl
@[simp] theorem State.modHere_mailbox (s : State) (f : Bench → Bench) : (s.modHere f).mailbox = s.mailbox := rfl
@[simp] theorem State.modHere_agents (s : State) (f : Bench → Bench) : (s.modHere f).agents = s.agents := rfl
@[simp] theorem State.modHere_bootErr (s : State) (f : Bench → Bench) : (s.modHere f).bootErr = s.bootErr := rfl
@[simp] theorem State.modHere_bootStage (s : State) (f : Bench → Bench) : (s.modHere f).bootStage = s.bootStage := rfl
@[simp] theorem State.modHere_resetting (s : State) (f : Bench → Bench) : (s.modHere f).resetting = s.resetting := rfl

/-! ### State.modMy -/

@[simp] theorem State.modMy_turns (s : State) (f : Ctx → Ctx) : (s.modMy f).turns = s.turns := rfl
@[simp] theorem State.modMy_free (s : State) (f : Ctx → Ctx) : (s.modMy f).free = s.free := rfl
@[simp] theorem State.modMy_cur (s : State) (f : Ctx → Ctx) : (s.modMy f).cur = s.cur := rfl
@[simp] theorem State.modMy_clk (s : State) (f : Ctx → Ctx) : (s.modMy f).clk = s.clk := rfl
@[simp] theorem State.modMy_before (s : State) (f : Ctx → Ctx) : (s.modMy f).before = s.before := rfl
@[simp] theorem State.modMy_ended (s : State) (f : Ctx → Ctx) : (s.modMy f).ended = s.ended := rfl
@[simp] theorem State.modMy_dies (s : State) (f : Ctx → Ctx) : (s.modMy f).dies = s.dies := rfl
@[simp] theorem State.modMy_mem (s : State) (f : Ctx → Ctx) : (s.modMy f).mem = s.mem := rfl
@[simp] theorem State.modMy_poison (s : State) (f : Ctx → Ctx) : (s.modMy f).poison = s.poison := rfl
@[simp] theorem State.modMy_backing (s : State) (f : Ctx → Ctx) : (s.modMy f).backing = s.backing := rfl
@[simp] theorem State.modMy_l2 (s : State) (f : Ctx → Ctx) : (s.modMy f).l2 = s.l2 := rfl
@[simp] theorem State.modMy_msc (s : State) (f : Ctx → Ctx) : (s.modMy f).msc = s.msc := rfl
@[simp] theorem State.modMy_dir (s : State) (f : Ctx → Ctx) : (s.modMy f).dir = s.dir := rfl
@[simp] theorem State.modMy_trackers (s : State) (f : Ctx → Ctx) : (s.modMy f).trackers = s.trackers := rfl
@[simp] theorem State.modMy_watches (s : State) (f : Ctx → Ctx) : (s.modMy f).watches = s.watches := rfl
@[simp] theorem State.modMy_nodes (s : State) (f : Ctx → Ctx) : (s.modMy f).nodes = s.nodes := rfl
@[simp] theorem State.modMy_covered (s : State) (f : Ctx → Ctx) : (s.modMy f).covered = s.covered := rfl
@[simp] theorem State.modMy_extents (s : State) (f : Ctx → Ctx) : (s.modMy f).extents = s.extents := rfl
@[simp] theorem State.modMy_hostRanges (s : State) (f : Ctx → Ctx) : (s.modMy f).hostRanges = s.hostRanges := rfl
@[simp] theorem State.modMy_hostHeld (s : State) (f : Ctx → Ctx) : (s.modMy f).hostHeld = s.hostHeld := rfl
@[simp] theorem State.modMy_chans (s : State) (f : Ctx → Ctx) : (s.modMy f).chans = s.chans := rfl
@[simp] theorem State.modMy_buckets (s : State) (f : Ctx → Ctx) : (s.modMy f).buckets = s.buckets := rfl
@[simp] theorem State.modMy_rowActs (s : State) (f : Ctx → Ctx) : (s.modMy f).rowActs = s.rowActs := rfl
@[simp] theorem State.modMy_hotRows (s : State) (f : Ctx → Ctx) : (s.modMy f).hotRows = s.hotRows := rfl
@[simp] theorem State.modMy_forwards (s : State) (f : Ctx → Ctx) : (s.modMy f).forwards = s.forwards := rfl
@[simp] theorem State.modMy_bands (s : State) (f : Ctx → Ctx) : (s.modMy f).bands = s.bands := rfl
@[simp] theorem State.modMy_barriers (s : State) (f : Ctx → Ctx) : (s.modMy f).barriers = s.barriers := rfl
@[simp] theorem State.modMy_hitches (s : State) (f : Ctx → Ctx) : (s.modMy f).hitches = s.hitches := rfl
@[simp] theorem State.modMy_dstores (s : State) (f : Ctx → Ctx) : (s.modMy f).dstores = s.dstores := rfl
@[simp] theorem State.modMy_gone (s : State) (f : Ctx → Ctx) : (s.modMy f).gone = s.gone := rfl
@[simp] theorem State.modMy_spread (s : State) (f : Ctx → Ctx) : (s.modMy f).spread = s.spread := rfl
@[simp] theorem State.modMy_fabid (s : State) (f : Ctx → Ctx) : (s.modMy f).fabid = s.fabid := rfl
@[simp] theorem State.modMy_fabidSet (s : State) (f : Ctx → Ctx) : (s.modMy f).fabidSet = s.fabidSet := rfl
@[simp] theorem State.modMy_fver (s : State) (f : Ctx → Ctx) : (s.modMy f).fver = s.fver := rfl
@[simp] theorem State.modMy_verAt (s : State) (f : Ctx → Ctx) : (s.modMy f).verAt = s.verAt := rfl
@[simp] theorem State.modMy_fwin (s : State) (f : Ctx → Ctx) : (s.modMy f).fwin = s.fwin := rfl
@[simp] theorem State.modMy_links (s : State) (f : Ctx → Ctx) : (s.modMy f).links = s.links := rfl
@[simp] theorem State.modMy_linksDead (s : State) (f : Ctx → Ctx) : (s.modMy f).linksDead = s.linksDead := rfl
@[simp] theorem State.modMy_outFlows (s : State) (f : Ctx → Ctx) : (s.modMy f).outFlows = s.outFlows := rfl
@[simp] theorem State.modMy_inFlows (s : State) (f : Ctx → Ctx) : (s.modMy f).inFlows = s.inFlows := rfl
@[simp] theorem State.modMy_awaited (s : State) (f : Ctx → Ctx) : (s.modMy f).awaited = s.awaited := rfl
@[simp] theorem State.modMy_responses (s : State) (f : Ctx → Ctx) : (s.modMy f).responses = s.responses := rfl
@[simp] theorem State.modMy_wakesOut (s : State) (f : Ctx → Ctx) : (s.modMy f).wakesOut = s.wakesOut := rfl
@[simp] theorem State.modMy_egress (s : State) (f : Ctx → Ctx) : (s.modMy f).egress = s.egress := rfl
@[simp] theorem State.modMy_routerLog (s : State) (f : Ctx → Ctx) : (s.modMy f).routerLog = s.routerLog := rfl
@[simp] theorem State.modMy_noRoute (s : State) (f : Ctx → Ctx) : (s.modMy f).noRoute = s.noRoute := rfl
@[simp] theorem State.modMy_mailbox (s : State) (f : Ctx → Ctx) : (s.modMy f).mailbox = s.mailbox := rfl
@[simp] theorem State.modMy_agents (s : State) (f : Ctx → Ctx) : (s.modMy f).agents = s.agents := rfl
@[simp] theorem State.modMy_bootErr (s : State) (f : Ctx → Ctx) : (s.modMy f).bootErr = s.bootErr := rfl
@[simp] theorem State.modMy_bootStage (s : State) (f : Ctx → Ctx) : (s.modMy f).bootStage = s.bootStage := rfl
@[simp] theorem State.modMy_resetting (s : State) (f : Ctx → Ctx) : (s.modMy f).resetting = s.resetting := rfl

/-! ### State.modMyC -/

@[simp] theorem State.modMyC_turns (s : State) (f : CUnit → CUnit) : (s.modMyC f).turns = s.turns := rfl
@[simp] theorem State.modMyC_free (s : State) (f : CUnit → CUnit) : (s.modMyC f).free = s.free := rfl
@[simp] theorem State.modMyC_cur (s : State) (f : CUnit → CUnit) : (s.modMyC f).cur = s.cur := rfl
@[simp] theorem State.modMyC_clk (s : State) (f : CUnit → CUnit) : (s.modMyC f).clk = s.clk := rfl
@[simp] theorem State.modMyC_before (s : State) (f : CUnit → CUnit) : (s.modMyC f).before = s.before := rfl
@[simp] theorem State.modMyC_ended (s : State) (f : CUnit → CUnit) : (s.modMyC f).ended = s.ended := rfl
@[simp] theorem State.modMyC_dies (s : State) (f : CUnit → CUnit) : (s.modMyC f).dies = s.dies := rfl
@[simp] theorem State.modMyC_mem (s : State) (f : CUnit → CUnit) : (s.modMyC f).mem = s.mem := rfl
@[simp] theorem State.modMyC_poison (s : State) (f : CUnit → CUnit) : (s.modMyC f).poison = s.poison := rfl
@[simp] theorem State.modMyC_backing (s : State) (f : CUnit → CUnit) : (s.modMyC f).backing = s.backing := rfl
@[simp] theorem State.modMyC_l2 (s : State) (f : CUnit → CUnit) : (s.modMyC f).l2 = s.l2 := rfl
@[simp] theorem State.modMyC_msc (s : State) (f : CUnit → CUnit) : (s.modMyC f).msc = s.msc := rfl
@[simp] theorem State.modMyC_dir (s : State) (f : CUnit → CUnit) : (s.modMyC f).dir = s.dir := rfl
@[simp] theorem State.modMyC_trackers (s : State) (f : CUnit → CUnit) : (s.modMyC f).trackers = s.trackers := rfl
@[simp] theorem State.modMyC_watches (s : State) (f : CUnit → CUnit) : (s.modMyC f).watches = s.watches := rfl
@[simp] theorem State.modMyC_nodes (s : State) (f : CUnit → CUnit) : (s.modMyC f).nodes = s.nodes := rfl
@[simp] theorem State.modMyC_covered (s : State) (f : CUnit → CUnit) : (s.modMyC f).covered = s.covered := rfl
@[simp] theorem State.modMyC_extents (s : State) (f : CUnit → CUnit) : (s.modMyC f).extents = s.extents := rfl
@[simp] theorem State.modMyC_hostRanges (s : State) (f : CUnit → CUnit) : (s.modMyC f).hostRanges = s.hostRanges := rfl
@[simp] theorem State.modMyC_hostHeld (s : State) (f : CUnit → CUnit) : (s.modMyC f).hostHeld = s.hostHeld := rfl
@[simp] theorem State.modMyC_chans (s : State) (f : CUnit → CUnit) : (s.modMyC f).chans = s.chans := rfl
@[simp] theorem State.modMyC_buckets (s : State) (f : CUnit → CUnit) : (s.modMyC f).buckets = s.buckets := rfl
@[simp] theorem State.modMyC_rowActs (s : State) (f : CUnit → CUnit) : (s.modMyC f).rowActs = s.rowActs := rfl
@[simp] theorem State.modMyC_hotRows (s : State) (f : CUnit → CUnit) : (s.modMyC f).hotRows = s.hotRows := rfl
@[simp] theorem State.modMyC_forwards (s : State) (f : CUnit → CUnit) : (s.modMyC f).forwards = s.forwards := rfl
@[simp] theorem State.modMyC_bands (s : State) (f : CUnit → CUnit) : (s.modMyC f).bands = s.bands := rfl
@[simp] theorem State.modMyC_barriers (s : State) (f : CUnit → CUnit) : (s.modMyC f).barriers = s.barriers := rfl
@[simp] theorem State.modMyC_hitches (s : State) (f : CUnit → CUnit) : (s.modMyC f).hitches = s.hitches := rfl
@[simp] theorem State.modMyC_dstores (s : State) (f : CUnit → CUnit) : (s.modMyC f).dstores = s.dstores := rfl
@[simp] theorem State.modMyC_gone (s : State) (f : CUnit → CUnit) : (s.modMyC f).gone = s.gone := rfl
@[simp] theorem State.modMyC_spread (s : State) (f : CUnit → CUnit) : (s.modMyC f).spread = s.spread := rfl
@[simp] theorem State.modMyC_fabid (s : State) (f : CUnit → CUnit) : (s.modMyC f).fabid = s.fabid := rfl
@[simp] theorem State.modMyC_fabidSet (s : State) (f : CUnit → CUnit) : (s.modMyC f).fabidSet = s.fabidSet := rfl
@[simp] theorem State.modMyC_fver (s : State) (f : CUnit → CUnit) : (s.modMyC f).fver = s.fver := rfl
@[simp] theorem State.modMyC_verAt (s : State) (f : CUnit → CUnit) : (s.modMyC f).verAt = s.verAt := rfl
@[simp] theorem State.modMyC_fwin (s : State) (f : CUnit → CUnit) : (s.modMyC f).fwin = s.fwin := rfl
@[simp] theorem State.modMyC_links (s : State) (f : CUnit → CUnit) : (s.modMyC f).links = s.links := rfl
@[simp] theorem State.modMyC_linksDead (s : State) (f : CUnit → CUnit) : (s.modMyC f).linksDead = s.linksDead := rfl
@[simp] theorem State.modMyC_outFlows (s : State) (f : CUnit → CUnit) : (s.modMyC f).outFlows = s.outFlows := rfl
@[simp] theorem State.modMyC_inFlows (s : State) (f : CUnit → CUnit) : (s.modMyC f).inFlows = s.inFlows := rfl
@[simp] theorem State.modMyC_awaited (s : State) (f : CUnit → CUnit) : (s.modMyC f).awaited = s.awaited := rfl
@[simp] theorem State.modMyC_responses (s : State) (f : CUnit → CUnit) : (s.modMyC f).responses = s.responses := rfl
@[simp] theorem State.modMyC_wakesOut (s : State) (f : CUnit → CUnit) : (s.modMyC f).wakesOut = s.wakesOut := rfl
@[simp] theorem State.modMyC_egress (s : State) (f : CUnit → CUnit) : (s.modMyC f).egress = s.egress := rfl
@[simp] theorem State.modMyC_routerLog (s : State) (f : CUnit → CUnit) : (s.modMyC f).routerLog = s.routerLog := rfl
@[simp] theorem State.modMyC_noRoute (s : State) (f : CUnit → CUnit) : (s.modMyC f).noRoute = s.noRoute := rfl
@[simp] theorem State.modMyC_mailbox (s : State) (f : CUnit → CUnit) : (s.modMyC f).mailbox = s.mailbox := rfl
@[simp] theorem State.modMyC_agents (s : State) (f : CUnit → CUnit) : (s.modMyC f).agents = s.agents := rfl
@[simp] theorem State.modMyC_bootErr (s : State) (f : CUnit → CUnit) : (s.modMyC f).bootErr = s.bootErr := rfl
@[simp] theorem State.modMyC_bootStage (s : State) (f : CUnit → CUnit) : (s.modMyC f).bootStage = s.bootStage := rfl
@[simp] theorem State.modMyC_resetting (s : State) (f : CUnit → CUnit) : (s.modMyC f).resetting = s.resetting := rfl

/-! ### State.modMyEng -/

@[simp] theorem State.modMyEng_turns (s : State) (f : Eng → Eng) : (s.modMyEng f).turns = s.turns := rfl
@[simp] theorem State.modMyEng_free (s : State) (f : Eng → Eng) : (s.modMyEng f).free = s.free := rfl
@[simp] theorem State.modMyEng_cur (s : State) (f : Eng → Eng) : (s.modMyEng f).cur = s.cur := rfl
@[simp] theorem State.modMyEng_clk (s : State) (f : Eng → Eng) : (s.modMyEng f).clk = s.clk := rfl
@[simp] theorem State.modMyEng_before (s : State) (f : Eng → Eng) : (s.modMyEng f).before = s.before := rfl
@[simp] theorem State.modMyEng_ended (s : State) (f : Eng → Eng) : (s.modMyEng f).ended = s.ended := rfl
@[simp] theorem State.modMyEng_dies (s : State) (f : Eng → Eng) : (s.modMyEng f).dies = s.dies := rfl
@[simp] theorem State.modMyEng_mem (s : State) (f : Eng → Eng) : (s.modMyEng f).mem = s.mem := rfl
@[simp] theorem State.modMyEng_poison (s : State) (f : Eng → Eng) : (s.modMyEng f).poison = s.poison := rfl
@[simp] theorem State.modMyEng_backing (s : State) (f : Eng → Eng) : (s.modMyEng f).backing = s.backing := rfl
@[simp] theorem State.modMyEng_l2 (s : State) (f : Eng → Eng) : (s.modMyEng f).l2 = s.l2 := rfl
@[simp] theorem State.modMyEng_msc (s : State) (f : Eng → Eng) : (s.modMyEng f).msc = s.msc := rfl
@[simp] theorem State.modMyEng_dir (s : State) (f : Eng → Eng) : (s.modMyEng f).dir = s.dir := rfl
@[simp] theorem State.modMyEng_trackers (s : State) (f : Eng → Eng) : (s.modMyEng f).trackers = s.trackers := rfl
@[simp] theorem State.modMyEng_watches (s : State) (f : Eng → Eng) : (s.modMyEng f).watches = s.watches := rfl
@[simp] theorem State.modMyEng_nodes (s : State) (f : Eng → Eng) : (s.modMyEng f).nodes = s.nodes := rfl
@[simp] theorem State.modMyEng_covered (s : State) (f : Eng → Eng) : (s.modMyEng f).covered = s.covered := rfl
@[simp] theorem State.modMyEng_extents (s : State) (f : Eng → Eng) : (s.modMyEng f).extents = s.extents := rfl
@[simp] theorem State.modMyEng_hostRanges (s : State) (f : Eng → Eng) : (s.modMyEng f).hostRanges = s.hostRanges := rfl
@[simp] theorem State.modMyEng_hostHeld (s : State) (f : Eng → Eng) : (s.modMyEng f).hostHeld = s.hostHeld := rfl
@[simp] theorem State.modMyEng_chans (s : State) (f : Eng → Eng) : (s.modMyEng f).chans = s.chans := rfl
@[simp] theorem State.modMyEng_buckets (s : State) (f : Eng → Eng) : (s.modMyEng f).buckets = s.buckets := rfl
@[simp] theorem State.modMyEng_rowActs (s : State) (f : Eng → Eng) : (s.modMyEng f).rowActs = s.rowActs := rfl
@[simp] theorem State.modMyEng_hotRows (s : State) (f : Eng → Eng) : (s.modMyEng f).hotRows = s.hotRows := rfl
@[simp] theorem State.modMyEng_forwards (s : State) (f : Eng → Eng) : (s.modMyEng f).forwards = s.forwards := rfl
@[simp] theorem State.modMyEng_bands (s : State) (f : Eng → Eng) : (s.modMyEng f).bands = s.bands := rfl
@[simp] theorem State.modMyEng_barriers (s : State) (f : Eng → Eng) : (s.modMyEng f).barriers = s.barriers := rfl
@[simp] theorem State.modMyEng_hitches (s : State) (f : Eng → Eng) : (s.modMyEng f).hitches = s.hitches := rfl
@[simp] theorem State.modMyEng_dstores (s : State) (f : Eng → Eng) : (s.modMyEng f).dstores = s.dstores := rfl
@[simp] theorem State.modMyEng_gone (s : State) (f : Eng → Eng) : (s.modMyEng f).gone = s.gone := rfl
@[simp] theorem State.modMyEng_spread (s : State) (f : Eng → Eng) : (s.modMyEng f).spread = s.spread := rfl
@[simp] theorem State.modMyEng_fabid (s : State) (f : Eng → Eng) : (s.modMyEng f).fabid = s.fabid := rfl
@[simp] theorem State.modMyEng_fabidSet (s : State) (f : Eng → Eng) : (s.modMyEng f).fabidSet = s.fabidSet := rfl
@[simp] theorem State.modMyEng_fver (s : State) (f : Eng → Eng) : (s.modMyEng f).fver = s.fver := rfl
@[simp] theorem State.modMyEng_verAt (s : State) (f : Eng → Eng) : (s.modMyEng f).verAt = s.verAt := rfl
@[simp] theorem State.modMyEng_fwin (s : State) (f : Eng → Eng) : (s.modMyEng f).fwin = s.fwin := rfl
@[simp] theorem State.modMyEng_links (s : State) (f : Eng → Eng) : (s.modMyEng f).links = s.links := rfl
@[simp] theorem State.modMyEng_linksDead (s : State) (f : Eng → Eng) : (s.modMyEng f).linksDead = s.linksDead := rfl
@[simp] theorem State.modMyEng_outFlows (s : State) (f : Eng → Eng) : (s.modMyEng f).outFlows = s.outFlows := rfl
@[simp] theorem State.modMyEng_inFlows (s : State) (f : Eng → Eng) : (s.modMyEng f).inFlows = s.inFlows := rfl
@[simp] theorem State.modMyEng_awaited (s : State) (f : Eng → Eng) : (s.modMyEng f).awaited = s.awaited := rfl
@[simp] theorem State.modMyEng_responses (s : State) (f : Eng → Eng) : (s.modMyEng f).responses = s.responses := rfl
@[simp] theorem State.modMyEng_wakesOut (s : State) (f : Eng → Eng) : (s.modMyEng f).wakesOut = s.wakesOut := rfl
@[simp] theorem State.modMyEng_egress (s : State) (f : Eng → Eng) : (s.modMyEng f).egress = s.egress := rfl
@[simp] theorem State.modMyEng_routerLog (s : State) (f : Eng → Eng) : (s.modMyEng f).routerLog = s.routerLog := rfl
@[simp] theorem State.modMyEng_noRoute (s : State) (f : Eng → Eng) : (s.modMyEng f).noRoute = s.noRoute := rfl
@[simp] theorem State.modMyEng_mailbox (s : State) (f : Eng → Eng) : (s.modMyEng f).mailbox = s.mailbox := rfl
@[simp] theorem State.modMyEng_agents (s : State) (f : Eng → Eng) : (s.modMyEng f).agents = s.agents := rfl
@[simp] theorem State.modMyEng_bootErr (s : State) (f : Eng → Eng) : (s.modMyEng f).bootErr = s.bootErr := rfl
@[simp] theorem State.modMyEng_bootStage (s : State) (f : Eng → Eng) : (s.modMyEng f).bootStage = s.bootStage := rfl
@[simp] theorem State.modMyEng_resetting (s : State) (f : Eng → Eng) : (s.modMyEng f).resetting = s.resetting := rfl

/-! ### State.modDie -/

@[simp] theorem State.modDie_turns (s : State) (d : Fin 8) (f : Die → Die) : (s.modDie d f).turns = s.turns := rfl
@[simp] theorem State.modDie_free (s : State) (d : Fin 8) (f : Die → Die) : (s.modDie d f).free = s.free := rfl
@[simp] theorem State.modDie_cur (s : State) (d : Fin 8) (f : Die → Die) : (s.modDie d f).cur = s.cur := rfl
@[simp] theorem State.modDie_clk (s : State) (d : Fin 8) (f : Die → Die) : (s.modDie d f).clk = s.clk := rfl
@[simp] theorem State.modDie_benches (s : State) (d : Fin 8) (f : Die → Die) : (s.modDie d f).benches = s.benches := rfl
@[simp] theorem State.modDie_before (s : State) (d : Fin 8) (f : Die → Die) : (s.modDie d f).before = s.before := rfl
@[simp] theorem State.modDie_ended (s : State) (d : Fin 8) (f : Die → Die) : (s.modDie d f).ended = s.ended := rfl
@[simp] theorem State.modDie_mem (s : State) (d : Fin 8) (f : Die → Die) : (s.modDie d f).mem = s.mem := rfl
@[simp] theorem State.modDie_poison (s : State) (d : Fin 8) (f : Die → Die) : (s.modDie d f).poison = s.poison := rfl
@[simp] theorem State.modDie_backing (s : State) (d : Fin 8) (f : Die → Die) : (s.modDie d f).backing = s.backing := rfl
@[simp] theorem State.modDie_l2 (s : State) (d : Fin 8) (f : Die → Die) : (s.modDie d f).l2 = s.l2 := rfl
@[simp] theorem State.modDie_msc (s : State) (d : Fin 8) (f : Die → Die) : (s.modDie d f).msc = s.msc := rfl
@[simp] theorem State.modDie_dir (s : State) (d : Fin 8) (f : Die → Die) : (s.modDie d f).dir = s.dir := rfl
@[simp] theorem State.modDie_trackers (s : State) (d : Fin 8) (f : Die → Die) : (s.modDie d f).trackers = s.trackers := rfl
@[simp] theorem State.modDie_watches (s : State) (d : Fin 8) (f : Die → Die) : (s.modDie d f).watches = s.watches := rfl
@[simp] theorem State.modDie_nodes (s : State) (d : Fin 8) (f : Die → Die) : (s.modDie d f).nodes = s.nodes := rfl
@[simp] theorem State.modDie_covered (s : State) (d : Fin 8) (f : Die → Die) : (s.modDie d f).covered = s.covered := rfl
@[simp] theorem State.modDie_extents (s : State) (d : Fin 8) (f : Die → Die) : (s.modDie d f).extents = s.extents := rfl
@[simp] theorem State.modDie_hostRanges (s : State) (d : Fin 8) (f : Die → Die) : (s.modDie d f).hostRanges = s.hostRanges := rfl
@[simp] theorem State.modDie_hostHeld (s : State) (d : Fin 8) (f : Die → Die) : (s.modDie d f).hostHeld = s.hostHeld := rfl
@[simp] theorem State.modDie_chans (s : State) (d : Fin 8) (f : Die → Die) : (s.modDie d f).chans = s.chans := rfl
@[simp] theorem State.modDie_buckets (s : State) (d : Fin 8) (f : Die → Die) : (s.modDie d f).buckets = s.buckets := rfl
@[simp] theorem State.modDie_rowActs (s : State) (d : Fin 8) (f : Die → Die) : (s.modDie d f).rowActs = s.rowActs := rfl
@[simp] theorem State.modDie_hotRows (s : State) (d : Fin 8) (f : Die → Die) : (s.modDie d f).hotRows = s.hotRows := rfl
@[simp] theorem State.modDie_forwards (s : State) (d : Fin 8) (f : Die → Die) : (s.modDie d f).forwards = s.forwards := rfl
@[simp] theorem State.modDie_bands (s : State) (d : Fin 8) (f : Die → Die) : (s.modDie d f).bands = s.bands := rfl
@[simp] theorem State.modDie_barriers (s : State) (d : Fin 8) (f : Die → Die) : (s.modDie d f).barriers = s.barriers := rfl
@[simp] theorem State.modDie_hitches (s : State) (d : Fin 8) (f : Die → Die) : (s.modDie d f).hitches = s.hitches := rfl
@[simp] theorem State.modDie_dstores (s : State) (d : Fin 8) (f : Die → Die) : (s.modDie d f).dstores = s.dstores := rfl
@[simp] theorem State.modDie_gone (s : State) (d : Fin 8) (f : Die → Die) : (s.modDie d f).gone = s.gone := rfl
@[simp] theorem State.modDie_spread (s : State) (d : Fin 8) (f : Die → Die) : (s.modDie d f).spread = s.spread := rfl
@[simp] theorem State.modDie_fabid (s : State) (d : Fin 8) (f : Die → Die) : (s.modDie d f).fabid = s.fabid := rfl
@[simp] theorem State.modDie_fabidSet (s : State) (d : Fin 8) (f : Die → Die) : (s.modDie d f).fabidSet = s.fabidSet := rfl
@[simp] theorem State.modDie_fver (s : State) (d : Fin 8) (f : Die → Die) : (s.modDie d f).fver = s.fver := rfl
@[simp] theorem State.modDie_verAt (s : State) (d : Fin 8) (f : Die → Die) : (s.modDie d f).verAt = s.verAt := rfl
@[simp] theorem State.modDie_fwin (s : State) (d : Fin 8) (f : Die → Die) : (s.modDie d f).fwin = s.fwin := rfl
@[simp] theorem State.modDie_links (s : State) (d : Fin 8) (f : Die → Die) : (s.modDie d f).links = s.links := rfl
@[simp] theorem State.modDie_linksDead (s : State) (d : Fin 8) (f : Die → Die) : (s.modDie d f).linksDead = s.linksDead := rfl
@[simp] theorem State.modDie_outFlows (s : State) (d : Fin 8) (f : Die → Die) : (s.modDie d f).outFlows = s.outFlows := rfl
@[simp] theorem State.modDie_inFlows (s : State) (d : Fin 8) (f : Die → Die) : (s.modDie d f).inFlows = s.inFlows := rfl
@[simp] theorem State.modDie_awaited (s : State) (d : Fin 8) (f : Die → Die) : (s.modDie d f).awaited = s.awaited := rfl
@[simp] theorem State.modDie_responses (s : State) (d : Fin 8) (f : Die → Die) : (s.modDie d f).responses = s.responses := rfl
@[simp] theorem State.modDie_wakesOut (s : State) (d : Fin 8) (f : Die → Die) : (s.modDie d f).wakesOut = s.wakesOut := rfl
@[simp] theorem State.modDie_egress (s : State) (d : Fin 8) (f : Die → Die) : (s.modDie d f).egress = s.egress := rfl
@[simp] theorem State.modDie_routerLog (s : State) (d : Fin 8) (f : Die → Die) : (s.modDie d f).routerLog = s.routerLog := rfl
@[simp] theorem State.modDie_noRoute (s : State) (d : Fin 8) (f : Die → Die) : (s.modDie d f).noRoute = s.noRoute := rfl
@[simp] theorem State.modDie_mailbox (s : State) (d : Fin 8) (f : Die → Die) : (s.modDie d f).mailbox = s.mailbox := rfl
@[simp] theorem State.modDie_agents (s : State) (d : Fin 8) (f : Die → Die) : (s.modDie d f).agents = s.agents := rfl
@[simp] theorem State.modDie_bootErr (s : State) (d : Fin 8) (f : Die → Die) : (s.modDie d f).bootErr = s.bootErr := rfl
@[simp] theorem State.modDie_bootStage (s : State) (d : Fin 8) (f : Die → Die) : (s.modDie d f).bootStage = s.bootStage := rfl
@[simp] theorem State.modDie_resetting (s : State) (d : Fin 8) (f : Die → Die) : (s.modDie d f).resetting = s.resetting := rfl

/-! ### Bench.modC -/

@[simp] theorem Bench.modC_team (x : Bench) (f : CUnit → CUnit) : (x.modC f).team = x.team := rfl
@[simp] theorem Bench.modC_stopping (x : Bench) (f : CUnit → CUnit) : (x.modC f).stopping = x.stopping := rfl
@[simp] theorem Bench.modC_l (x : Bench) (f : CUnit → CUnit) : (x.modC f).l = x.l := rfl
@[simp] theorem Bench.modC_p (x : Bench) (f : CUnit → CUnit) : (x.modC f).p = x.p := rfl
@[simp] theorem Bench.modC_v (x : Bench) (f : CUnit → CUnit) : (x.modC f).v = x.v := rfl
@[simp] theorem Bench.modC_s (x : Bench) (f : CUnit → CUnit) : (x.modC f).s = x.s := rfl
@[simp] theorem Bench.modC_tokens (x : Bench) (f : CUnit → CUnit) : (x.modC f).tokens = x.tokens := rfl
@[simp] theorem Bench.modC_queues (x : Bench) (f : CUnit → CUnit) : (x.modC f).queues = x.queues := rfl
@[simp] theorem Bench.modC_flagq (x : Bench) (f : CUnit → CUnit) : (x.modC f).flagq = x.flagq := rfl
@[simp] theorem Bench.modC_bfmt (x : Bench) (f : CUnit → CUnit) : (x.modC f).bfmt = x.bfmt := rfl
@[simp] theorem Bench.modC_frames (x : Bench) (f : CUnit → CUnit) : (x.modC f).frames = x.frames := rfl
@[simp] theorem Bench.modC_feeds (x : Bench) (f : CUnit → CUnit) : (x.modC f).feeds = x.feeds := rfl
@[simp] theorem Bench.modC_banks (x : Bench) (f : CUnit → CUnit) : (x.modC f).banks = x.banks := rfl
@[simp] theorem Bench.modC_bankPoison (x : Bench) (f : CUnit → CUnit) : (x.modC f).bankPoison = x.bankPoison := rfl
@[simp] theorem Bench.modC_landing (x : Bench) (f : CUnit → CUnit) : (x.modC f).landing = x.landing := rfl
@[simp] theorem Bench.modC_ranges (x : Bench) (f : CUnit → CUnit) : (x.modC f).ranges = x.ranges := rfl
@[simp] theorem Bench.modC_lcvc (x : Bench) (f : CUnit → CUnit) : (x.modC f).lcvc = x.lcvc := rfl
@[simp] theorem Bench.modC_scvc (x : Bench) (f : CUnit → CUnit) : (x.modC f).scvc = x.scvc := rfl
@[simp] theorem Bench.modC_smode (x : Bench) (f : CUnit → CUnit) : (x.modC f).smode = x.smode := rfl
@[simp] theorem Bench.modC_vmode (x : Bench) (f : CUnit → CUnit) : (x.modC f).vmode = x.vmode := rfl
@[simp] theorem Bench.modC_vreg (x : Bench) (f : CUnit → CUnit) : (x.modC f).vreg = x.vreg := rfl
@[simp] theorem Bench.modC_vmask (x : Bench) (f : CUnit → CUnit) : (x.modC f).vmask = x.vmask := rfl
@[simp] theorem Bench.modC_sq (x : Bench) (f : CUnit → CUnit) : (x.modC f).sq = x.sq := rfl
@[simp] theorem Bench.modC_vq (x : Bench) (f : CUnit → CUnit) : (x.modC f).vq = x.vq := rfl
@[simp] theorem Bench.modC_vres (x : Bench) (f : CUnit → CUnit) : (x.modC f).vres = x.vres := rfl
@[simp] theorem Bench.modC_vfly (x : Bench) (f : CUnit → CUnit) : (x.modC f).vfly = x.vfly := rfl
@[simp] theorem Bench.modC_vscope (x : Bench) (f : CUnit → CUnit) : (x.modC f).vscope = x.vscope := rfl
@[simp] theorem Bench.modC_vtok (x : Bench) (f : CUnit → CUnit) : (x.modC f).vtok = x.vtok := rfl
@[simp] theorem Bench.modC_fab (x : Bench) (f : CUnit → CUnit) : (x.modC f).fab = x.fab := rfl
@[simp] theorem Bench.modC_orphans (x : Bench) (f : CUnit → CUnit) : (x.modC f).orphans = x.orphans := rfl
@[simp] theorem Bench.modC_fabLost (x : Bench) (f : CUnit → CUnit) : (x.modC f).fabLost = x.fabLost := rfl
@[simp] theorem Bench.modC_duty (x : Bench) (f : CUnit → CUnit) : (x.modC f).duty = x.duty := rfl
@[simp] theorem Bench.modC_left (x : Bench) (f : CUnit → CUnit) : (x.modC f).left = x.left := rfl
@[simp] theorem Bench.modC_plane (x : Bench) (f : CUnit → CUnit) : (x.modC f).plane = x.plane := rfl
@[simp] theorem Bench.modC_l1 (x : Bench) (f : CUnit → CUnit) : (x.modC f).l1 = x.l1 := rfl
@[simp] theorem Bench.modC_ctr (x : Bench) (f : CUnit → CUnit) : (x.modC f).ctr = x.ctr := rfl
@[simp] theorem Bench.modC_cc (x : Bench) (f : CUnit → CUnit) : (x.modC f).cc = x.cc := rfl
@[simp] theorem Bench.modC_tlb (x : Bench) (f : CUnit → CUnit) : (x.modC f).tlb = x.tlb := rfl
@[simp] theorem Bench.modC_asks (x : Bench) (f : CUnit → CUnit) : (x.modC f).asks = x.asks := rfl
@[simp] theorem Bench.modC_seq (x : Bench) (f : CUnit → CUnit) : (x.modC f).seq = x.seq := rfl

/-! ### Bench.modCtx -/

@[simp] theorem Bench.modCtx_team (x : Bench) (i : Fin 4) (f : Ctx → Ctx) : (x.modCtx i f).team = x.team := rfl
@[simp] theorem Bench.modCtx_stopping (x : Bench) (i : Fin 4) (f : Ctx → Ctx) : (x.modCtx i f).stopping = x.stopping := rfl
@[simp] theorem Bench.modCtx_l (x : Bench) (i : Fin 4) (f : Ctx → Ctx) : (x.modCtx i f).l = x.l := rfl
@[simp] theorem Bench.modCtx_p (x : Bench) (i : Fin 4) (f : Ctx → Ctx) : (x.modCtx i f).p = x.p := rfl
@[simp] theorem Bench.modCtx_v (x : Bench) (i : Fin 4) (f : Ctx → Ctx) : (x.modCtx i f).v = x.v := rfl
@[simp] theorem Bench.modCtx_s (x : Bench) (i : Fin 4) (f : Ctx → Ctx) : (x.modCtx i f).s = x.s := rfl
@[simp] theorem Bench.modCtx_tokens (x : Bench) (i : Fin 4) (f : Ctx → Ctx) : (x.modCtx i f).tokens = x.tokens := rfl
@[simp] theorem Bench.modCtx_queues (x : Bench) (i : Fin 4) (f : Ctx → Ctx) : (x.modCtx i f).queues = x.queues := rfl
@[simp] theorem Bench.modCtx_flagq (x : Bench) (i : Fin 4) (f : Ctx → Ctx) : (x.modCtx i f).flagq = x.flagq := rfl
@[simp] theorem Bench.modCtx_bfmt (x : Bench) (i : Fin 4) (f : Ctx → Ctx) : (x.modCtx i f).bfmt = x.bfmt := rfl
@[simp] theorem Bench.modCtx_frames (x : Bench) (i : Fin 4) (f : Ctx → Ctx) : (x.modCtx i f).frames = x.frames := rfl
@[simp] theorem Bench.modCtx_feeds (x : Bench) (i : Fin 4) (f : Ctx → Ctx) : (x.modCtx i f).feeds = x.feeds := rfl
@[simp] theorem Bench.modCtx_banks (x : Bench) (i : Fin 4) (f : Ctx → Ctx) : (x.modCtx i f).banks = x.banks := rfl
@[simp] theorem Bench.modCtx_bankPoison (x : Bench) (i : Fin 4) (f : Ctx → Ctx) : (x.modCtx i f).bankPoison = x.bankPoison := rfl
@[simp] theorem Bench.modCtx_landing (x : Bench) (i : Fin 4) (f : Ctx → Ctx) : (x.modCtx i f).landing = x.landing := rfl
@[simp] theorem Bench.modCtx_ranges (x : Bench) (i : Fin 4) (f : Ctx → Ctx) : (x.modCtx i f).ranges = x.ranges := rfl
@[simp] theorem Bench.modCtx_lcvc (x : Bench) (i : Fin 4) (f : Ctx → Ctx) : (x.modCtx i f).lcvc = x.lcvc := rfl
@[simp] theorem Bench.modCtx_scvc (x : Bench) (i : Fin 4) (f : Ctx → Ctx) : (x.modCtx i f).scvc = x.scvc := rfl
@[simp] theorem Bench.modCtx_smode (x : Bench) (i : Fin 4) (f : Ctx → Ctx) : (x.modCtx i f).smode = x.smode := rfl
@[simp] theorem Bench.modCtx_vmode (x : Bench) (i : Fin 4) (f : Ctx → Ctx) : (x.modCtx i f).vmode = x.vmode := rfl
@[simp] theorem Bench.modCtx_vreg (x : Bench) (i : Fin 4) (f : Ctx → Ctx) : (x.modCtx i f).vreg = x.vreg := rfl
@[simp] theorem Bench.modCtx_vmask (x : Bench) (i : Fin 4) (f : Ctx → Ctx) : (x.modCtx i f).vmask = x.vmask := rfl
@[simp] theorem Bench.modCtx_sq (x : Bench) (i : Fin 4) (f : Ctx → Ctx) : (x.modCtx i f).sq = x.sq := rfl
@[simp] theorem Bench.modCtx_vq (x : Bench) (i : Fin 4) (f : Ctx → Ctx) : (x.modCtx i f).vq = x.vq := rfl
@[simp] theorem Bench.modCtx_vres (x : Bench) (i : Fin 4) (f : Ctx → Ctx) : (x.modCtx i f).vres = x.vres := rfl
@[simp] theorem Bench.modCtx_vfly (x : Bench) (i : Fin 4) (f : Ctx → Ctx) : (x.modCtx i f).vfly = x.vfly := rfl
@[simp] theorem Bench.modCtx_vscope (x : Bench) (i : Fin 4) (f : Ctx → Ctx) : (x.modCtx i f).vscope = x.vscope := rfl
@[simp] theorem Bench.modCtx_vtok (x : Bench) (i : Fin 4) (f : Ctx → Ctx) : (x.modCtx i f).vtok = x.vtok := rfl
@[simp] theorem Bench.modCtx_fab (x : Bench) (i : Fin 4) (f : Ctx → Ctx) : (x.modCtx i f).fab = x.fab := rfl
@[simp] theorem Bench.modCtx_orphans (x : Bench) (i : Fin 4) (f : Ctx → Ctx) : (x.modCtx i f).orphans = x.orphans := rfl
@[simp] theorem Bench.modCtx_fabLost (x : Bench) (i : Fin 4) (f : Ctx → Ctx) : (x.modCtx i f).fabLost = x.fabLost := rfl
@[simp] theorem Bench.modCtx_duty (x : Bench) (i : Fin 4) (f : Ctx → Ctx) : (x.modCtx i f).duty = x.duty := rfl
@[simp] theorem Bench.modCtx_left (x : Bench) (i : Fin 4) (f : Ctx → Ctx) : (x.modCtx i f).left = x.left := rfl
@[simp] theorem Bench.modCtx_plane (x : Bench) (i : Fin 4) (f : Ctx → Ctx) : (x.modCtx i f).plane = x.plane := rfl
@[simp] theorem Bench.modCtx_l1 (x : Bench) (i : Fin 4) (f : Ctx → Ctx) : (x.modCtx i f).l1 = x.l1 := rfl
@[simp] theorem Bench.modCtx_ctr (x : Bench) (i : Fin 4) (f : Ctx → Ctx) : (x.modCtx i f).ctr = x.ctr := rfl
@[simp] theorem Bench.modCtx_cc (x : Bench) (i : Fin 4) (f : Ctx → Ctx) : (x.modCtx i f).cc = x.cc := rfl
@[simp] theorem Bench.modCtx_tlb (x : Bench) (i : Fin 4) (f : Ctx → Ctx) : (x.modCtx i f).tlb = x.tlb := rfl
@[simp] theorem Bench.modCtx_asks (x : Bench) (i : Fin 4) (f : Ctx → Ctx) : (x.modCtx i f).asks = x.asks := rfl
@[simp] theorem Bench.modCtx_seq (x : Bench) (i : Fin 4) (f : Ctx → Ctx) : (x.modCtx i f).seq = x.seq := rfl

/-! ### Bench.modPlane -/

@[simp] theorem Bench.modPlane_team (x : Bench) (f : Plane → Plane) : (x.modPlane f).team = x.team := rfl
@[simp] theorem Bench.modPlane_stopping (x : Bench) (f : Plane → Plane) : (x.modPlane f).stopping = x.stopping := rfl
@[simp] theorem Bench.modPlane_c (x : Bench) (f : Plane → Plane) : (x.modPlane f).c = x.c := rfl
@[simp] theorem Bench.modPlane_l (x : Bench) (f : Plane → Plane) : (x.modPlane f).l = x.l := rfl
@[simp] theorem Bench.modPlane_p (x : Bench) (f : Plane → Plane) : (x.modPlane f).p = x.p := rfl
@[simp] theorem Bench.modPlane_v (x : Bench) (f : Plane → Plane) : (x.modPlane f).v = x.v := rfl
@[simp] theorem Bench.modPlane_s (x : Bench) (f : Plane → Plane) : (x.modPlane f).s = x.s := rfl
@[simp] theorem Bench.modPlane_tokens (x : Bench) (f : Plane → Plane) : (x.modPlane f).tokens = x.tokens := rfl
@[simp] theorem Bench.modPlane_queues (x : Bench) (f : Plane → Plane) : (x.modPlane f).queues = x.queues := rfl
@[simp] theorem Bench.modPlane_flagq (x : Bench) (f : Plane → Plane) : (x.modPlane f).flagq = x.flagq := rfl
@[simp] theorem Bench.modPlane_bfmt (x : Bench) (f : Plane → Plane) : (x.modPlane f).bfmt = x.bfmt := rfl
@[simp] theorem Bench.modPlane_frames (x : Bench) (f : Plane → Plane) : (x.modPlane f).frames = x.frames := rfl
@[simp] theorem Bench.modPlane_feeds (x : Bench) (f : Plane → Plane) : (x.modPlane f).feeds = x.feeds := rfl
@[simp] theorem Bench.modPlane_banks (x : Bench) (f : Plane → Plane) : (x.modPlane f).banks = x.banks := rfl
@[simp] theorem Bench.modPlane_bankPoison (x : Bench) (f : Plane → Plane) : (x.modPlane f).bankPoison = x.bankPoison := rfl
@[simp] theorem Bench.modPlane_landing (x : Bench) (f : Plane → Plane) : (x.modPlane f).landing = x.landing := rfl
@[simp] theorem Bench.modPlane_ranges (x : Bench) (f : Plane → Plane) : (x.modPlane f).ranges = x.ranges := rfl
@[simp] theorem Bench.modPlane_lcvc (x : Bench) (f : Plane → Plane) : (x.modPlane f).lcvc = x.lcvc := rfl
@[simp] theorem Bench.modPlane_scvc (x : Bench) (f : Plane → Plane) : (x.modPlane f).scvc = x.scvc := rfl
@[simp] theorem Bench.modPlane_smode (x : Bench) (f : Plane → Plane) : (x.modPlane f).smode = x.smode := rfl
@[simp] theorem Bench.modPlane_vmode (x : Bench) (f : Plane → Plane) : (x.modPlane f).vmode = x.vmode := rfl
@[simp] theorem Bench.modPlane_vreg (x : Bench) (f : Plane → Plane) : (x.modPlane f).vreg = x.vreg := rfl
@[simp] theorem Bench.modPlane_vmask (x : Bench) (f : Plane → Plane) : (x.modPlane f).vmask = x.vmask := rfl
@[simp] theorem Bench.modPlane_sq (x : Bench) (f : Plane → Plane) : (x.modPlane f).sq = x.sq := rfl
@[simp] theorem Bench.modPlane_vq (x : Bench) (f : Plane → Plane) : (x.modPlane f).vq = x.vq := rfl
@[simp] theorem Bench.modPlane_vres (x : Bench) (f : Plane → Plane) : (x.modPlane f).vres = x.vres := rfl
@[simp] theorem Bench.modPlane_vfly (x : Bench) (f : Plane → Plane) : (x.modPlane f).vfly = x.vfly := rfl
@[simp] theorem Bench.modPlane_vscope (x : Bench) (f : Plane → Plane) : (x.modPlane f).vscope = x.vscope := rfl
@[simp] theorem Bench.modPlane_vtok (x : Bench) (f : Plane → Plane) : (x.modPlane f).vtok = x.vtok := rfl
@[simp] theorem Bench.modPlane_fab (x : Bench) (f : Plane → Plane) : (x.modPlane f).fab = x.fab := rfl
@[simp] theorem Bench.modPlane_orphans (x : Bench) (f : Plane → Plane) : (x.modPlane f).orphans = x.orphans := rfl
@[simp] theorem Bench.modPlane_fabLost (x : Bench) (f : Plane → Plane) : (x.modPlane f).fabLost = x.fabLost := rfl
@[simp] theorem Bench.modPlane_duty (x : Bench) (f : Plane → Plane) : (x.modPlane f).duty = x.duty := rfl
@[simp] theorem Bench.modPlane_left (x : Bench) (f : Plane → Plane) : (x.modPlane f).left = x.left := rfl
@[simp] theorem Bench.modPlane_l1 (x : Bench) (f : Plane → Plane) : (x.modPlane f).l1 = x.l1 := rfl
@[simp] theorem Bench.modPlane_ctr (x : Bench) (f : Plane → Plane) : (x.modPlane f).ctr = x.ctr := rfl
@[simp] theorem Bench.modPlane_cc (x : Bench) (f : Plane → Plane) : (x.modPlane f).cc = x.cc := rfl
@[simp] theorem Bench.modPlane_tlb (x : Bench) (f : Plane → Plane) : (x.modPlane f).tlb = x.tlb := rfl
@[simp] theorem Bench.modPlane_asks (x : Bench) (f : Plane → Plane) : (x.modPlane f).asks = x.asks := rfl
@[simp] theorem Bench.modPlane_seq (x : Bench) (f : Plane → Plane) : (x.modPlane f).seq = x.seq := rfl

/-! ### Bench.modEng -/

@[simp] theorem Bench.modEng_team (x : Bench) (st : Stream) (f : Eng → Eng) : (x.modEng st f).team = x.team := by
  cases st <;> rfl
@[simp] theorem Bench.modEng_stopping (x : Bench) (st : Stream) (f : Eng → Eng) : (x.modEng st f).stopping = x.stopping := by
  cases st <;> rfl
@[simp] theorem Bench.modEng_c (x : Bench) (st : Stream) (f : Eng → Eng) : (x.modEng st f).c = x.c := by
  cases st <;> rfl
@[simp] theorem Bench.modEng_tokens (x : Bench) (st : Stream) (f : Eng → Eng) : (x.modEng st f).tokens = x.tokens := by
  cases st <;> rfl
@[simp] theorem Bench.modEng_queues (x : Bench) (st : Stream) (f : Eng → Eng) : (x.modEng st f).queues = x.queues := by
  cases st <;> rfl
@[simp] theorem Bench.modEng_flagq (x : Bench) (st : Stream) (f : Eng → Eng) : (x.modEng st f).flagq = x.flagq := by
  cases st <;> rfl
@[simp] theorem Bench.modEng_bfmt (x : Bench) (st : Stream) (f : Eng → Eng) : (x.modEng st f).bfmt = x.bfmt := by
  cases st <;> rfl
@[simp] theorem Bench.modEng_frames (x : Bench) (st : Stream) (f : Eng → Eng) : (x.modEng st f).frames = x.frames := by
  cases st <;> rfl
@[simp] theorem Bench.modEng_feeds (x : Bench) (st : Stream) (f : Eng → Eng) : (x.modEng st f).feeds = x.feeds := by
  cases st <;> rfl
@[simp] theorem Bench.modEng_banks (x : Bench) (st : Stream) (f : Eng → Eng) : (x.modEng st f).banks = x.banks := by
  cases st <;> rfl
@[simp] theorem Bench.modEng_bankPoison (x : Bench) (st : Stream) (f : Eng → Eng) : (x.modEng st f).bankPoison = x.bankPoison := by
  cases st <;> rfl
@[simp] theorem Bench.modEng_landing (x : Bench) (st : Stream) (f : Eng → Eng) : (x.modEng st f).landing = x.landing := by
  cases st <;> rfl
@[simp] theorem Bench.modEng_ranges (x : Bench) (st : Stream) (f : Eng → Eng) : (x.modEng st f).ranges = x.ranges := by
  cases st <;> rfl
@[simp] theorem Bench.modEng_lcvc (x : Bench) (st : Stream) (f : Eng → Eng) : (x.modEng st f).lcvc = x.lcvc := by
  cases st <;> rfl
@[simp] theorem Bench.modEng_scvc (x : Bench) (st : Stream) (f : Eng → Eng) : (x.modEng st f).scvc = x.scvc := by
  cases st <;> rfl
@[simp] theorem Bench.modEng_smode (x : Bench) (st : Stream) (f : Eng → Eng) : (x.modEng st f).smode = x.smode := by
  cases st <;> rfl
@[simp] theorem Bench.modEng_vmode (x : Bench) (st : Stream) (f : Eng → Eng) : (x.modEng st f).vmode = x.vmode := by
  cases st <;> rfl
@[simp] theorem Bench.modEng_vreg (x : Bench) (st : Stream) (f : Eng → Eng) : (x.modEng st f).vreg = x.vreg := by
  cases st <;> rfl
@[simp] theorem Bench.modEng_vmask (x : Bench) (st : Stream) (f : Eng → Eng) : (x.modEng st f).vmask = x.vmask := by
  cases st <;> rfl
@[simp] theorem Bench.modEng_sq (x : Bench) (st : Stream) (f : Eng → Eng) : (x.modEng st f).sq = x.sq := by
  cases st <;> rfl
@[simp] theorem Bench.modEng_vq (x : Bench) (st : Stream) (f : Eng → Eng) : (x.modEng st f).vq = x.vq := by
  cases st <;> rfl
@[simp] theorem Bench.modEng_vres (x : Bench) (st : Stream) (f : Eng → Eng) : (x.modEng st f).vres = x.vres := by
  cases st <;> rfl
@[simp] theorem Bench.modEng_vfly (x : Bench) (st : Stream) (f : Eng → Eng) : (x.modEng st f).vfly = x.vfly := by
  cases st <;> rfl
@[simp] theorem Bench.modEng_vscope (x : Bench) (st : Stream) (f : Eng → Eng) : (x.modEng st f).vscope = x.vscope := by
  cases st <;> rfl
@[simp] theorem Bench.modEng_vtok (x : Bench) (st : Stream) (f : Eng → Eng) : (x.modEng st f).vtok = x.vtok := by
  cases st <;> rfl
@[simp] theorem Bench.modEng_fab (x : Bench) (st : Stream) (f : Eng → Eng) : (x.modEng st f).fab = x.fab := by
  cases st <;> rfl
@[simp] theorem Bench.modEng_orphans (x : Bench) (st : Stream) (f : Eng → Eng) : (x.modEng st f).orphans = x.orphans := by
  cases st <;> rfl
@[simp] theorem Bench.modEng_fabLost (x : Bench) (st : Stream) (f : Eng → Eng) : (x.modEng st f).fabLost = x.fabLost := by
  cases st <;> rfl
@[simp] theorem Bench.modEng_duty (x : Bench) (st : Stream) (f : Eng → Eng) : (x.modEng st f).duty = x.duty := by
  cases st <;> rfl
@[simp] theorem Bench.modEng_left (x : Bench) (st : Stream) (f : Eng → Eng) : (x.modEng st f).left = x.left := by
  cases st <;> rfl
@[simp] theorem Bench.modEng_plane (x : Bench) (st : Stream) (f : Eng → Eng) : (x.modEng st f).plane = x.plane := by
  cases st <;> rfl
@[simp] theorem Bench.modEng_l1 (x : Bench) (st : Stream) (f : Eng → Eng) : (x.modEng st f).l1 = x.l1 := by
  cases st <;> rfl
@[simp] theorem Bench.modEng_ctr (x : Bench) (st : Stream) (f : Eng → Eng) : (x.modEng st f).ctr = x.ctr := by
  cases st <;> rfl
@[simp] theorem Bench.modEng_cc (x : Bench) (st : Stream) (f : Eng → Eng) : (x.modEng st f).cc = x.cc := by
  cases st <;> rfl
@[simp] theorem Bench.modEng_tlb (x : Bench) (st : Stream) (f : Eng → Eng) : (x.modEng st f).tlb = x.tlb := by
  cases st <;> rfl
@[simp] theorem Bench.modEng_asks (x : Bench) (st : Stream) (f : Eng → Eng) : (x.modEng st f).asks = x.asks := by
  cases st <;> rfl
@[simp] theorem Bench.modEng_seq (x : Bench) (st : Stream) (f : Eng → Eng) : (x.modEng st f).seq = x.seq := by
  cases st <;> rfl

/-! ### What the updates change -/

@[simp] theorem State.bench_setBench (s : State) (b c : BenchId) (x : Bench) :
    (s.setBench b x).bench c = if c = b then x else s.bench c := by
  by_cases h : c = b
  · subst h; simp [State.bench, State.setBench]
  · have : (b : Nat) ≠ c := fun e => h (Fin.ext e.symm)
    simp [State.bench, State.setBench, h, Vector.getElem_set_ne, this]

@[simp] theorem State.bench_modBench (s : State) (b c : BenchId) (f : Bench → Bench) :
    (s.modBench b f).bench c = if c = b then f (s.bench b) else s.bench c := by
  simp [State.modBench]

@[simp] theorem State.bench_modDie (s : State) (d : Fin 8) (f : Die → Die) (b : BenchId) :
    (s.modDie d f).bench b = s.bench b := rfl

@[simp] theorem State.bench_modHere (s : State) (c : BenchId) (f : Bench → Bench) :
    (s.modHere f).bench c = if c = s.cur.bench then f s.here else s.bench c := by
  simp [State.modHere, State.here]

@[simp] theorem State.here_modHere (s : State) (f : Bench → Bench) : (s.modHere f).here = f s.here := by
  simp [State.here, State.modHere]

@[simp] theorem State.here_modMy (s : State) (f : Ctx → Ctx) : (s.modMy f).here = s.here.modCtx s.cur.ctx f := by
  simp [State.modMy]

@[simp] theorem State.here_modMyC (s : State) (f : CUnit → CUnit) : (s.modMyC f).here = s.here.modC f := by
  simp [State.modMyC]

@[simp] theorem State.here_modMyEng (s : State) (f : Eng → Eng) : (s.modMyEng f).here = s.here.modEng s.cur.stream f := by
  simp [State.modMyEng]

@[simp] theorem State.bench_modMy (s : State) (c : BenchId) (f : Ctx → Ctx) :
    (s.modMy f).bench c = if c = s.cur.bench then s.here.modCtx s.cur.ctx f else s.bench c := by
  simp [State.modMy]

@[simp] theorem State.bench_modMyC (s : State) (c : BenchId) (f : CUnit → CUnit) :
    (s.modMyC f).bench c = if c = s.cur.bench then s.here.modC f else s.bench c := by
  simp [State.modMyC]

@[simp] theorem State.bench_modMyEng (s : State) (c : BenchId) (f : Eng → Eng) :
    (s.modMyEng f).bench c = if c = s.cur.bench then s.here.modEng s.cur.stream f else s.bench c := by
  simp [State.modMyEng]

@[simp] theorem State.die_setBench (s : State) (b : BenchId) (x : Bench) (d : Fin 8) : (s.setBench b x).die d = s.die d := rfl

@[simp] theorem State.die_modDie (s : State) (d e : Fin 8) (f : Die → Die) :
    (s.modDie d f).die e = if e = d then f (s.die d) else s.die e := by
  by_cases h : e = d
  · subst h; simp [State.die, State.modDie]
  · have : (d : Nat) ≠ e := fun k => h (Fin.ext k.symm)
    simp [State.die, State.modDie, h, Vector.getElem_set_ne, this]

@[simp] theorem Bench.modC_c (x : Bench) (f : CUnit → CUnit) : (x.modC f).c = f x.c := rfl
@[simp] theorem Bench.modPlane_plane (x : Bench) (f : Plane → Plane) : (x.modPlane f).plane = f x.plane := rfl
@[simp] theorem Bench.ctx_modC_loads (x : Bench) (i : Fin 4) (l : List PendLoad) :
    (x.modC fun u => { u with loads := l }).ctx i = x.ctx i := rfl

@[simp] theorem Bench.ctx_modCtx (x : Bench) (i j : Fin 4) (f : Ctx → Ctx) :
    (x.modCtx i f).ctx j = if j = i then f (x.ctx i) else x.ctx j := by
  by_cases h : j = i
  · subst h; simp [Bench.ctx, Bench.modCtx, Bench.modC]
  · have : (i : Nat) ≠ j := fun k => h (Fin.ext k.symm)
    simp [Bench.ctx, Bench.modCtx, Bench.modC, h, Vector.getElem_set_ne, this]

@[simp] theorem State.myCtx_modMy (s : State) (f : Ctx → Ctx) : (s.modMy f).myCtx = f s.myCtx := by
  simp [State.myCtx]

/-- The engine of a stream after a change of it. -/
theorem Bench.eng_modEng (x : Bench) (st : Stream) (f : Eng → Eng) (h : st ≠ .c) : (x.modEng st f).eng st = f (x.eng st) := by
  cases st <;> first | rfl | exact absurd rfl h

/-- The other engines stay. -/
theorem Bench.eng_modEng_ne (x : Bench) (st u : Stream) (f : Eng → Eng) (hu : u ≠ .c) (h : u ≠ st) :
    (x.modEng st f).eng u = x.eng u := by
  cases st <;> cases u <;> first | rfl | exact absurd rfl h | exact absurd rfl hu

end Sys2Proof.Machine
end

