-- ==== Sys2Proof/Laws/Ops.lean ====
section
/-! SUPPORT. What the shared operations of the streams come to: sources, results, shadows, branches, calls, and the issue
of an engine instruction. One lemma for each case of each operation. -/

namespace Sys2Proof.Machine

/-! ### Sources and results of C (R88, R103, R110) -/

theorem State.withSrc_val {s : State} {lvl : BitVec 2} {a : BitVec 5} {v : W64} (h : s.gives lvl a v) (d : BitVec 4)
    (f : W64 → Out) : s.withSrc lvl d a f = f v := by
  simp only [State.gives] at h; simp only [State.withSrc, h]

theorem State.withSrc_wait {s : State} {lvl : BitVec 2} {a : BitVec 5} (h : s.here.readSrc s.cur.ctx lvl a = .wait)
    (d : BitVec 4) (f : W64 → Out) : s.withSrc lvl d a f = .next (s.waitC .other 0) := by
  simp only [State.withSrc, h]

theorem State.withSrc_deferred {s : State} {lvl : BitVec 2} {a : BitVec 5} {r : Deferred}
    (h : s.here.readSrc s.cur.ctx lvl a = .deferred r) (d : BitVec 4) (f : W64 → Out) :
    s.withSrc lvl d a f = .next (s.defer lvl d r).doneC := by
  simp only [State.withSrc, h]

theorem State.op1_val {s : State} {lvl : BitVec 2} {a : BitVec 5} {v : W64} (h : s.gives lvl a v) (d : BitVec 4)
    (f : W64 → W64) : s.op1 d lvl a f = .next (s.put d lvl (f v)).doneC := State.withSrc_val h d _

theorem State.op2_val {s : State} {lvl : BitVec 2} {a b : BitVec 5} {v w : W64} (ha : s.gives lvl a v)
    (hb : s.gives lvl b w) (d : BitVec 4) (f : W64 → W64 → W64) :
    s.op2 d lvl a b f = .next (s.put d lvl (f v w)).doneC := by
  rw [State.op2, State.withSrc_val ha, State.withSrc_val hb]

theorem State.op3_val {s : State} {lvl : BitVec 2} {a b c : BitVec 5} {v w z : W64} (ha : s.gives lvl a v)
    (hb : s.gives lvl b w) (hc : s.gives lvl c z) (d : BitVec 4) (f : W64 → W64 → W64 → W64) :
    s.op3 d lvl a b c f = .next (s.put d lvl (f v w z)).doneC := by
  rw [State.op3, State.withSrc_val ha, State.withSrc_val hb, State.withSrc_val hc]

theorem State.fop1_val {s : State} {o : CFlt} {v : W64} (h : s.gives o.boost o.a v) (f : RMode → W32 → W64 × FFlags) :
    s.fop1 o f = .next ((s.orFlags o.boost (f (s.cmode o.rm) (v.setWidth 32)).2).put o.d o.boost
      (f (s.cmode o.rm) (v.setWidth 32)).1).doneC := by
  rw [State.fop1, State.withSrc_val h]

theorem State.fop2_val {s : State} {o : CFlt} {v w : W64} (ha : s.gives o.boost o.a v) (hb : s.gives o.boost o.b w)
    (f : RMode → W32 → W32 → W64 × FFlags) :
    s.fop2 o f = .next ((s.orFlags o.boost (f (s.cmode o.rm) (v.setWidth 32) (w.setWidth 32)).2).put o.d o.boost
      (f (s.cmode o.rm) (v.setWidth 32) (w.setWidth 32)).1).doneC := by
  rw [State.fop2, State.withSrc_val ha, State.withSrc_val hb]

theorem State.fop3_val {s : State} {o : CTri} {v w z : W64} (ha : s.gives o.boost o.a v) (hb : s.gives o.boost o.b w)
    (hc : s.gives o.boost o.c z) (f : RMode → W32 → W32 → W32 → W32 × FFlags) :
    s.fop3 o f = .next ((s.orFlags o.boost (f (s.cmode 0) (v.setWidth 32) (w.setWidth 32) (z.setWidth 32)).2).put o.d
      o.boost ((f (s.cmode 0) (v.setWidth 32) (w.setWidth 32) (z.setWidth 32)).1.setWidth 64)).doneC := by
  rw [State.fop3, State.withSrc_val ha, State.withSrc_val hb, State.withSrc_val hc]

theorem State.mainOnly_main {s : State} (h : s.cur.ctx = 0) (r : Out) : s.mainOnly r = r := by
  simp [State.mainOnly, h]

theorem State.mainOnly_tail {s : State} (h : s.cur.ctx ≠ 0) (r : Out) : s.mainOnly r = .next (s.raiseC cILL 0) := by
  simp [State.mainOnly, h]

/-! ### Branches (R118, R120, R121) -/

theorem State.settle_other (s : State) (pc : W64) :
    s.settle false pc = .next ((s.modHere fun x => x.clearShadows s.cur.ctx).goC pc) := rfl

theorem State.settle_commit {s : State} (h1 : s.here.shadowPending s.cur.ctx = false) (h2 : s.myCtx.sh1.faults = [])
    (pc : W64) : s.settle true pc = .next ((s.modHere fun x => x.commitShadows s.cur.ctx).goC pc) := by
  simp [State.settle, h1, h2, oldest]

theorem State.settle_trap {s : State} (h1 : s.here.shadowPending s.cur.ctx = false) {d : Deferred}
    (h2 : oldest s.myCtx.sh1.faults = some d) (h3 : s.here.c.handler = none) (pc : W64) :
    s.settle true pc = .next (s.enterTrap s.cur.bench s.cur.ctx d.code (BitVec.ofNat 3 s.cur.ctx.val) true d.word d.pc d.va) := by
  simp [State.settle, h1, h2, h3]

theorem State.settle_kill {s : State} (h1 : s.here.shadowPending s.cur.ctx = false) {d : Deferred}
    (h2 : oldest s.myCtx.sh1.faults = some d) (h3 : s.here.c.handler.isSome = true) (pc : W64) :
    s.settle true pc = .next (s.doubleFault s.cur.bench s.cur.ctx d.code d.word) := by
  simp [State.settle, h1, h2, h3]

theorem State.branch_val {s : State} {o : CBr} {v w : W64} (ha : s.gives 0 o.a v) (hb : s.gives 0 o.b w)
    (f : W64 → W64 → Bool) :
    s.branch o f = s.settle (f v w == o.h) (if f v w then s.relative o.off else s.nextPc) := by
  rw [State.branch, State.withSrc_val ha, State.withSrc_val hb]

/-- The oldest of a list of records is one of them, and no other is older. -/
theorem oldest_spec (l : List Deferred) (d : Deferred) (h : oldest l = some d) : d ∈ l ∧ ∀ e ∈ l, d.age ≤ e.age := by
  induction l generalizing d with
  | nil => simp [oldest] at h
  | cons x xs ih =>
    simp only [oldest] at h
    split at h
    · next h0 =>
      cases xs with
      | nil => simp_all
      | cons y ys => simp only [oldest] at h0; split at h0 <;> [skip; split at h0] <;> simp at h0
    · next e he =>
      obtain ⟨h1, h2⟩ := ih e he
      split at h <;> next hle =>
        cases h
        refine ⟨by simp_all, fun z hz => ?_⟩
        rcases List.mem_cons.1 hz with rfl | hz
        · omega
        · have := h2 z hz; omega

/-! ### Window groups (R84, R87, R168) -/

/-- Two different registers of a window lie at different places. -/
theorem regDst_inj {w k j : BitVec 4} (h : regDst w k = regDst w j) : k = j := by
  revert w k j; decide +revert

/-- k0 alone lies nowhere. -/
theorem regDst_none {w k : BitVec 4} : regDst w k = none ↔ k = 0 := by
  revert w k; decide +revert

theorem State.claim_free {s : State} {b : BenchId} {g : Fin 16} (h : (s.bench b).c.groups[g] = .free) (c : GState) :
    s.claim b g c = .ok (s.modBench b fun x => x.setGroup g c) := by
  simp only [State.claim, h]

theorem State.needBelow_zero {s : State} {b : BenchId} {c : Fin 4} (h : ((s.bench b).ctx c).spilled = 0) :
    s.needBelow b c = .ok s := by
  simp [State.needBelow, h]

/-! ### The issue of an engine instruction (R30, R32, R38, R44) -/

/-- An instruction that issues comes to what its body comes to. -/
theorem State.issue_body {s : State} {h : Hdr} {lw : Bool} {nq : Nat} (hi : s.issues h lw nq)
    (body : State → List W64 → Eff) :
    s.issue h lw nq body = s.conclude h nq true (s.entriesAt nq) (body (s.atIssue h nq) (s.entriesAt nq)) := by
  obtain ⟨h0, h1, h2, h3⟩ := hi
  have h4 : ¬ ((!s.myEng.taken && !s.here.canTake s.cur.stream (maskStreams s.cur.stream h.take)) = true) := by
    rcases h3 with h | ⟨h, _⟩ <;> simp [h]
  have h5 : ¬ ((!s.myEng.taken && decide ((s.here.queued (queueOf s.cur.stream)).length < nq)) = true) := by
    rcases h3 with h | ⟨_, h⟩ <;> simp [h]
  have h6 : ¬ (hdrSkips h s.myEng = true) := by simp [hdrSkips, h2]
  simp only [State.issue, h0, h1, h4, h5, h6, Bool.not_true, Bool.false_eq_true, if_false]
  rfl

/-- An instruction that has issued goes on with its body, and with what it took. -/
theorem State.issue_issued {s : State} (h0 : s.myEng.issued = true) (h : Hdr) (lw : Bool) (nq : Nat)
    (body : State → List W64 → Eff) :
    s.issue h lw nq body = s.conclude h nq false s.myEng.popped (body s s.myEng.popped) := by
  simp [State.issue, h0]

/-- A body that is done, in a state without a conflicting access, retires the instruction. -/
theorem State.conclude_done {s : State} {acc : List Acc} (ho : s.noOverlap acc) (h : Hdr) (nq : Nat) (first : Bool)
    (ents : List W64) (t : State) (pc : Option W64) :
    s.conclude h nq first ents (.done t acc pc) = .next (t.retire h.give acc pc) := by
  simp only [State.noOverlap] at ho
  cases first <;> simp [State.conclude, ho]

/-- An instruction that issues and is done, in a state without a conflicting access, retires. -/
theorem State.issue_done {s : State} {h : Hdr} {lw : Bool} {nq : Nat} (hi : s.issues h lw nq)
    {body : State → List W64 → Eff} {t : State} {acc : List Acc} {pc : Option W64}
    (hb : body (s.atIssue h nq) (s.entriesAt nq) = .done t acc pc) (ho : s.noOverlap acc) :
    s.issue h lw nq body = .next (t.retire h.give acc pc) := by
  rw [State.issue_body hi, hb, State.conclude_done ho]

/-- A header whose level is not active keeps nothing from issuing: it is refused there (R30, R44). -/
theorem hdrSkips_of_not_ok {h : Hdr} {e : Eng} (h1 : hdrOk h e false = false) : hdrSkips h e = false := by simp [hdrSkips, h1]

/-- An instruction that FIRST or LAST leaves out goes on to the next word and takes nothing (R44). -/
theorem State.issue_skipped {s : State} {h : Hdr} (h0 : s.myEng.issued = false) (h1 : hdrSkips h s.myEng = true) (lw : Bool)
    (nq : Nat) (body : State → List W64 → Eff) :
    s.issue h lw nq body = .next (s.modMyEng fun e => { e with pc := s.nextPc, wait := none }) := by
  simp [State.issue, h0, h1]

/-- A header that the loops do not allow raises ILL when the instruction would issue (R30, R44). -/
theorem State.issue_ill {s : State} {h : Hdr} {lw : Bool} (h0 : s.myEng.issued = false)
    (h1 : hdrOk h s.myEng lw = false) (hs : hdrSkips h s.myEng = false)
    (h2 : s.here.canTake s.cur.stream (maskStreams s.cur.stream h.take) = true) {nq : Nat} (h3 : nq ≤ (s.here.queued (queueOf s.cur.stream)).length) (body : State → List W64 → Eff) :
    s.issue h lw nq body = .next (s.hold cILL 0 false) := by
  simp [State.issue, h0, h1, hs, h2, Nat.not_lt.2 h3]

/-! ### What arrives late (R85, R131, R428, R435) -/

theorem Bench.loadAnswer_ok {r : Response} (h : r.code = 0) (x : Bench) (l : PendLoad) :
    x.loadAnswer l r = x.arriveVal l (extend l.size l.sext (leBytes l.size r.val.toNat)) := by
  simp [Bench.loadAnswer, h]

theorem Bench.loadAnswer_fault {r : Response} (h : r.code ≠ 0) {l : PendLoad} {c : Fin 4} {lvl : BitVec 2} {k : Fin 16}
    (hd : l.dst = some (.shadow c lvl k)) (x : Bench) :
    x.loadAnswer l r = (x.arriveVal l 0).modCtx c fun q => q.modShadow lvl fun h =>
      { h with regs := h.regs.set k ⟨true, 0, some ⟨r.code, l.va, l.origin.pc, l.origin.word, l.seq⟩⟩ } := by
  simp only [Bench.loadAnswer, if_neg h, hd]

theorem Bench.landHalves_cons (x : Bench) (l : PendLoad) (ls : List PendLoad) (v : Nat) :
    x.landHalves (l :: ls) v = (x.arriveVal l (halfOf l v)).landHalves ls v := rfl

theorem State.arriveAway_none {s : State} {l : PendLoad} (ha : l.atom = none) (h : s.response l.tag = none) (b : BenchId) :
    s.arriveAway b l = s := by
  simp [State.arriveAway, ha, h]

theorem State.arriveAway_ok {s : State} {l : PendLoad} {r : Response} (ha : l.atom = none) (h : s.response l.tag = some r)
    (hc : r.code = 0) (b : BenchId) :
    s.arriveAway b l = (s.takeResponse l.tag).modBench b fun x => x.loadAnswer l r := by
  simp [State.arriveAway, ha, h, hc, cPOISON]

/-- The context returns to a load of another module that fails, unless the load is boosted (R131). -/
theorem State.arriveAway_fault {s : State} {l : PendLoad} {r : Response} (ha : l.atom = none) (h : s.response l.tag = some r)
    (hc : r.code ≠ 0) (hb : l.origin.boosted = false) (b : BenchId) :
    s.arriveAway b l = (s.takeResponse l.tag).squash b l := by
  simp only [State.arriveAway, ha, h, hb]
  rw [if_pos (by simpa using hc)]

/-- A context without an access that may still fault is not held back (R131). -/
theorem Bench.unsure_of_no_loads {x : Bench} (h : x.c.loads = []) (c : Fin 4) : x.unsure c = false := by
  simp [Bench.unsure, h]

/-! ### Write-combining (R81, R293) -/

/-- A store that may not merge with others performs alone. -/
theorem State.merging_of_not_combines {s : State} {e : StEntry} (h : s.combines e = false) (b : BenchId) (q : Buf)
    (l : List StEntry) : s.merging b q e l = [] := by
  simp [State.merging, h]

theorem State.runNow_of_not_combines {s : State} {e : StEntry} (h : s.combines e = false) (b : BenchId) (q : Buf)
    (rest : List StEntry) : s.runNow b q e rest = [] := by
  have h0 : ∀ l : List StEntry, l.takeWhile (fun _ => false) = [] := fun l => by cases l <;> simp
  simp [State.runNow, State.merging_of_not_combines h, h0]

/-- A queue that holds no store of a write-combining page holds no run that may still grow. -/
theorem State.openRun_of_not_combines {s : State} {b : BenchId} {q : Buf} {e : StEntry} {rest : List StEntry}
    (hq : (s.bench b).queue q = e :: rest) (h : s.combines e = false) : s.openRun b q = false := by
  simp [State.openRun, hq, h]

/-! ### What an acquire takes over (R73) -/

/-- A stream that has lost no store passes on no loss. -/
theorem State.publish_of_not_lost {s : State} {b : BenchId} {i : Nat} (h : (s.bench b).fabLost.contains i = false)
    (sc : Scope) : s.publish b i sc = s := by
  have h' : i ∉ (s.bench b).fabLost := by simpa using h
  simp [State.publish, h']

/-! ### Stores that leave the bench (R64, R72) -/

@[simp] theorem Bench.leave_c (x : Bench) (i mark : Nat) : (x.leave i mark).c = x.c := rfl
@[simp] theorem Bench.leave_sq (x : Bench) (i mark : Nat) : (x.leave i mark).sq = x.sq := rfl
@[simp] theorem Bench.leave_vq (x : Bench) (i mark : Nat) : (x.leave i mark).vq = x.vq := rfl
@[simp] theorem Bench.leave_tokens (x : Bench) (i mark : Nat) : (x.leave i mark).tokens = x.tokens := rfl
@[simp] theorem Bench.leave_left (x : Bench) (i mark : Nat) : (x.leave i mark).left = vmod x.left i (max mark) := rfl

/-- A release whose point lies beyond the bench leaves nothing behind it. -/
theorem State.leaves_far {sc : Scope} (h : scopeRank sc ≠ 1) (s : State) (b : BenchId) (i mark : Nat) :
    s.leaves b i sc mark = s := by simp [State.leaves, h]

/-- An entry goes only when no older store of the bench is on its way to its home. -/
theorem State.headReady_behind {s : State} {b : BenchId} {e : StEntry} (h : s.behind b e.seq ⟨e.leaf, e.pa⟩ = true) (q : Buf)
    (force : Bool) : s.headReady b q e force = .no := by simp [State.headReady, h]

end Sys2Proof.Machine
end

