-- ==== Sys2Proof/Laws/PerInstr.lean ====
section
/-! SUPPORT. The family Encodable: every word of a stream has an encoding, and an event of another agent has none. One lemma
for each constructor. -/

namespace Sys2Proof.Laws.Encodable

/-- Whether an instruction is an event of another agent. -/
def isEvent : Instr → Bool
  | .abandonLand | .syscComplete | .resultArrival | .storePerform | .givePush | .qdead | .backgroundSpill
  | .groupFill | .claimStallTimeout | .fillStallTimeout | .watchWake | .trapEntry | .feedBlockArrival
  | .haloBandArrival | .forwardRegionComplete | .forwardAck | .tilePreemptTimeout | .dispatchDecision
  | .launchAgeing | .preempt | .resume | .hitchKill | .atomicPerform | .redtCombine | .rdcFillRead
  | .evictionNotice | .invalidationAck | .hostMemRead | .hostMemWrite | .hostSnoop | .sramUncorrectableError
  | .memoryUncorrectableError | .dcExtentAdd | .dcExtentRelease | .channelPowerDown | .channelSelfRefresh
  | .hotRowThrottle | .hotRowThrottleEnd | .retnEnable | .retnDisable | .fwinWrite | .dcapWrite | .registerWrite
  | .powerCapControl | .telemetryRefresh | .fabricPacketAccept | .fabricAckReceive | .routerPacket
  | .routeVersionInstall | .replayTimeout | .moduleLost | .linkDeath | .linkStateRise | .linkRetrain | .fabidAssign
  | .claim | .ownerHandover | .ownerRelease | .ownerLinkDown | .go | .nonOwnerWriteDiscard | .attestationRequest
  | .attestationReportDone | .bootStageVerify | .coldReset | .warmReset | .reservedOpcodeWord
  | .instructionFetchFault | .planeStateStorageError | .forwardReceiptError | .tokenBucketGain => true
  | _ => false

/-- A word of a stream has an encoding; an event has none. -/
def Statement (i : Instr) : Prop := (encode i).isSome = !isEvent i

theorem add (o : COp) : Statement (.add o) := rfl
theorem sub (o : COp) : Statement (.sub o) := rfl
theorem mul (o : COp) : Statement (.mul o) := rfl
theorem mulh (o : COp) : Statement (.mulh o) := rfl
theorem mulhu (o : COp) : Statement (.mulhu o) := rfl
theorem div (o : COp) : Statement (.div o) := rfl
theorem divu (o : COp) : Statement (.divu o) := rfl
theorem rem (o : COp) : Statement (.rem o) := rfl
theorem remu (o : COp) : Statement (.remu o) := rfl
theorem and (o : COp) : Statement (.and o) := rfl
theorem or (o : COp) : Statement (.or o) := rfl
theorem xor (o : COp) : Statement (.xor o) := rfl
theorem andn (o : COp) : Statement (.andn o) := rfl
theorem shl (o : COp) : Statement (.shl o) := rfl
theorem shr (o : COp) : Statement (.shr o) := rfl
theorem sar (o : COp) : Statement (.sar o) := rfl
theorem ror (o : COp) : Statement (.ror o) := rfl
theorem cmpeq (o : COp) : Statement (.cmpeq o) := rfl
theorem cmpne (o : COp) : Statement (.cmpne o) := rfl
theorem cmplt (o : COp) : Statement (.cmplt o) := rfl
theorem cmpltu (o : COp) : Statement (.cmpltu o) := rfl
theorem cmple (o : COp) : Statement (.cmple o) := rfl
theorem cmpleu (o : COp) : Statement (.cmpleu o) := rfl
theorem min (o : COp) : Statement (.min o) := rfl
theorem max (o : COp) : Statement (.max o) := rfl
theorem minu (o : COp) : Statement (.minu o) := rfl
theorem maxu (o : COp) : Statement (.maxu o) := rfl
theorem clz (o : COp) : Statement (.clz o) := rfl
theorem ctz (o : COp) : Statement (.ctz o) := rfl
theorem popc (o : COp) : Statement (.popc o) := rfl
theorem sext32 (o : COp) : Statement (.sext32 o) := rfl
theorem adds (o : COp) : Statement (.adds o) := rfl
theorem subs (o : COp) : Statement (.subs o) := rfl
theorem zext32 (o : COp) : Statement (.zext32 o) := rfl
theorem fadd (o : CFlt) : Statement (.fadd o) := rfl
theorem fsub (o : CFlt) : Statement (.fsub o) := rfl
theorem fmul (o : CFlt) : Statement (.fmul o) := rfl
theorem fdiv (o : CFlt) : Statement (.fdiv o) := rfl
theorem fsqrt (o : CFlt) : Statement (.fsqrt o) := rfl
theorem fmin (o : CFlt) : Statement (.fmin o) := rfl
theorem fmax (o : CFlt) : Statement (.fmax o) := rfl
theorem fabs (o : CFlt) : Statement (.fabs o) := rfl
theorem fneg (o : CFlt) : Statement (.fneg o) := rfl
theorem fcmpeq (o : CFlt) : Statement (.fcmpeq o) := rfl
theorem fcmplt (o : CFlt) : Statement (.fcmplt o) := rfl
theorem fcmple (o : CFlt) : Statement (.fcmple o) := rfl
theorem fcmpun (o : CFlt) : Statement (.fcmpun o) := rfl
theorem fcvtI32 (o : CFlt) : Statement (.fcvtI32 o) := rfl
theorem fcvtN32 (o : CFlt) : Statement (.fcvtN32 o) := rfl
theorem fcvtI64 (o : CFlt) : Statement (.fcvtI64 o) := rfl
theorem fcvtN64 (o : CFlt) : Statement (.fcvtN64 o) := rfl
theorem icvtF32 (o : CFlt) : Statement (.icvtF32 o) := rfl
theorem ncvtF32 (o : CFlt) : Statement (.ncvtF32 o) := rfl
theorem fclass (o : CFlt) : Statement (.fclass o) := rfl
theorem sel (o : CTri) : Statement (.sel o) := rfl
theorem fma (o : CTri) : Statement (.fma o) := rfl
theorem fms (o : CTri) : Statement (.fms o) := rfl
theorem fnma (o : CTri) : Statement (.fnma o) := rfl
theorem rndc (o : CTri) : Statement (.rndc o) := rfl
theorem imad (o : CTri) : Statement (.imad o) := rfl
theorem addi (o : CImm) : Statement (.addi o) := rfl
theorem andi (o : CImm) : Statement (.andi o) := rfl
theorem ori (o : CImm) : Statement (.ori o) := rfl
theorem xori (o : CImm) : Statement (.xori o) := rfl
theorem cmpeqi (o : CImm) : Statement (.cmpeqi o) := rfl
theorem cmplti (o : CImm) : Statement (.cmplti o) := rfl
theorem cmpltui (o : CImm) : Statement (.cmpltui o) := rfl
theorem shfi (o : CShf) : Statement (.shfi o) := rfl
theorem li (o : CWide) : Statement (.li o) := rfl
theorem beq (o : CBr) : Statement (.beq o) := rfl
theorem bne (o : CBr) : Statement (.bne o) := rfl
theorem blt (o : CBr) : Statement (.blt o) := rfl
theorem bge (o : CBr) : Statement (.bge o) := rfl
theorem bltu (o : CBr) : Statement (.bltu o) := rfl
theorem bgeu (o : CBr) : Statement (.bgeu o) := rfl
theorem brf (o : CBrf) : Statement (.brf o) := rfl
theorem call (off : BitVec 26) : Statement (.call off) := rfl
theorem jmp (off : BitVec 26) : Statement (.jmp off) := rfl
theorem calli (a : BitVec 5) : Statement (.calli a) := rfl
theorem jmpi (a : BitVec 5) : Statement (.jmpi a) := rfl
theorem ret : Statement (.ret) := rfl
theorem rels : Statement (.rels) := rfl
theorem ld (o : CLd) : Statement (.ld o) := rfl
theorem ldI32 (o : CLd) : Statement (.ldI32 o) := rfl
theorem ldN32 (o : CLd) : Statement (.ldN32 o) := rfl
theorem ldI16 (o : CLd) : Statement (.ldI16 o) := rfl
theorem ldN16 (o : CLd) : Statement (.ldN16 o) := rfl
theorem ldI8 (o : CLd) : Statement (.ldI8 o) := rfl
theorem ldN8 (o : CLd) : Statement (.ldN8 o) := rfl
theorem ldc (o : CLdc) : Statement (.ldc o) := rfl
theorem st (o : CSt) : Statement (.st o) := rfl
theorem stI32 (o : CSt) : Statement (.stI32 o) := rfl
theorem stI16 (o : CSt) : Statement (.stI16 o) := rfl
theorem stI8 (o : CSt) : Statement (.stI8 o) := rfl
theorem atom (o : CAtm) : Statement (.atom o) := rfl
theorem cas (o : CCas) : Statement (.cas o) := rfl
theorem cas128 (o : CCas) : Statement (.cas128 o) := rfl
theorem fence (scope : Scope) : Statement (.fence scope) := rfl
theorem arrv (scope : Scope) (bar : Byte) : Statement (.arrv scope bar) := rfl
theorem bwait (scope : Scope) (bar : Byte) : Statement (.bwait scope bar) := rfl
theorem bset (a : BitVec 5) (bar : Byte) : Statement (.bset a bar) := rfl
theorem watch (a : BitVec 5) : Statement (.watch a) := rfl
theorem wait : Statement (.wait) := rfl
theorem send (a : BitVec 5) (q : BitVec 2) : Statement (.send a q) := rfl
theorem recv (d : BitVec 4) : Statement (.recv d) := rfl
theorem give (mask : BitVec 4) : Statement (.give mask) := rfl
theorem take (mask : BitVec 4) : Statement (.take mask) := rfl
theorem abandon (mask : BitVec 4) : Statement (.abandon mask) := rfl
theorem abandonLand : Statement (.abandonLand) := rfl
theorem tjoin (t : BitVec 2) : Statement (.tjoin t) := rfl
theorem mfs (d : BitVec 4) (n : Byte) : Statement (.mfs d n) := rfl
theorem mts (a : BitVec 5) (n : Byte) : Statement (.mts a n) := rfl
theorem trap (n : Byte) : Statement (.trap n) := rfl
theorem sysc (n : Byte) : Statement (.sysc n) := rfl
theorem syscComplete : Statement (.syscComplete) := rfl
theorem eret : Statement (.eret) := rfl
theorem tlbi (a : BitVec 5) (kind : Byte) : Statement (.tlbi a kind) := rfl
theorem estat (d : BitVec 4) (n : Byte) : Statement (.estat d n) := rfl
theorem launch (d : BitVec 4) (a : BitVec 5) : Statement (.launch d a) := rfl
theorem lwait (a : BitVec 5) : Statement (.lwait a) := rfl
theorem clock (d : BitVec 4) : Statement (.clock d) := rfl
theorem rdv : Statement (.rdv) := rfl
theorem resultArrival : Statement (.resultArrival) := rfl
theorem storePerform : Statement (.storePerform) := rfl
theorem givePush : Statement (.givePush) := rfl
theorem qdead : Statement (.qdead) := rfl
theorem backgroundSpill : Statement (.backgroundSpill) := rfl
theorem groupFill : Statement (.groupFill) := rfl
theorem claimStallTimeout : Statement (.claimStallTimeout) := rfl
theorem fillStallTimeout : Statement (.fillStallTimeout) := rfl
theorem watchWake : Statement (.watchWake) := rfl
theorem trapEntry : Statement (.trapEntry) := rfl
theorem fbind (h : Hdr) (o : LBind) : Statement (.fbind h o) := rfl
theorem fload (h : Hdr) (o : LLoad) : Statement (.fload h o) := rfl
theorem fgath (h : Hdr) (o : IdxMove) : Statement (.fgath h o) := rfl
theorem movb (h : Hdr) (o : LMovb) : Statement (.movb h o) := rfl
theorem fpref (h : Hdr) (o : LPref) : Statement (.fpref h o) := rfl
theorem bfset (h : Hdr) (o : LBfset) : Statement (.bfset h o) := rfl
theorem lset (h : Hdr) (o : StrideSet) : Statement (.lset h o) := rfl
theorem lsetCvc (h : Hdr) (o : Cvc) : Statement (.lsetCvc h o) := rfl
theorem lLoop (h : Hdr) (o : LoopOp) : Statement (.lLoop h o) := rfl
theorem lEndl (h : Hdr) (lvl : BitVec 3) : Statement (.lEndl h lvl) := rfl
theorem lRdv (h : Hdr) : Statement (.lRdv h) := rfl
theorem feedBlockArrival : Statement (.feedBlockArrival) := rfl
theorem ptile (h : Hdr) (o : PTileOp) : Statement (.ptile h o) := rfl
theorem pcommit (h : Hdr) : Statement (.pcommit h) := rfl
theorem psheet (h : Hdr) (o : PSheetOp) : Statement (.psheet h o) := rfl
theorem pcorr (h : Hdr) (o : PCorrOp) : Statement (.pcorr h o) := rfl
theorem pmm (h : Hdr) (o : PMmOp) : Statement (.pmm h o) := rfl
theorem pwgt (h : Hdr) (o : PWgtOp) : Statement (.pwgt h o) := rfl
theorem pshift (h : Hdr) (sx sy : BitVec 4) : Statement (.pshift h sx sy) := rfl
theorem pshiftRel (h : Hdr) (sx sy : BitVec 4) : Statement (.pshiftRel h sx sy) := rfl
theorem pzero (h : Hdr) (zmask : Byte) : Statement (.pzero h zmask) := rfl
theorem phsend (h : Hdr) : Statement (.phsend h) := rfl
theorem phrecv (h : Hdr) : Statement (.phrecv h) := rfl
theorem haloBandArrival : Statement (.haloBandArrival) := rfl
theorem pdrain (h : Hdr) (o : PDrainOp) : Statement (.pdrain h o) := rfl
theorem pchk (h : Hdr) (zmask : Byte) : Statement (.pchk h zmask) := rfl
theorem pfwd (h : Hdr) (o : PFwdOp) : Statement (.pfwd h o) := rfl
theorem pfwdRx (h : Hdr) (o : PFwdOp) : Statement (.pfwdRx h o) := rfl
theorem forwardRegionComplete : Statement (.forwardRegionComplete) := rfl
theorem forwardAck : Statement (.forwardAck) := rfl
theorem pmode (h : Hdr) (mode : BitVec 3) : Statement (.pmode h mode) := rfl
theorem pseg (h : Hdr) (steps : BitVec 24) (sig : W32) : Statement (.pseg h steps sig) := rfl
theorem ploop (h : Hdr) (o : PLoopOp) : Statement (.ploop h o) := rfl
theorem pendl (h : Hdr) (lvl : BitVec 3) : Statement (.pendl h lvl) := rfl
theorem pRdv (h : Hdr) : Statement (.pRdv h) := rfl
theorem tilePreemptTimeout : Statement (.tilePreemptTimeout) := rfl
theorem vaddInt (h : Hdr) (o : VOp) : Statement (.vaddInt h o) := rfl
theorem vsubInt (h : Hdr) (o : VOp) : Statement (.vsubInt h o) := rfl
theorem vmulInt (h : Hdr) (o : VOp) : Statement (.vmulInt h o) := rfl
theorem vmulh (h : Hdr) (o : VOp) : Statement (.vmulh h o) := rfl
theorem vmulhu (h : Hdr) (o : VOp) : Statement (.vmulhu h o) := rfl
theorem vadds (h : Hdr) (o : VOp) : Statement (.vadds h o) := rfl
theorem vsubs (h : Hdr) (o : VOp) : Statement (.vsubs h o) := rfl
theorem vaddsu (h : Hdr) (o : VOp) : Statement (.vaddsu h o) := rfl
theorem vsubsu (h : Hdr) (o : VOp) : Statement (.vsubsu h o) := rfl
theorem vand (h : Hdr) (o : VOp) : Statement (.vand h o) := rfl
theorem vor (h : Hdr) (o : VOp) : Statement (.vor h o) := rfl
theorem vxor (h : Hdr) (o : VOp) : Statement (.vxor h o) := rfl
theorem vandn (h : Hdr) (o : VOp) : Statement (.vandn h o) := rfl
theorem vshl (h : Hdr) (o : VOp) : Statement (.vshl h o) := rfl
theorem vshr (h : Hdr) (o : VOp) : Statement (.vshr h o) := rfl
theorem vsar (h : Hdr) (o : VOp) : Statement (.vsar h o) := rfl
theorem vminInt (h : Hdr) (o : VOp) : Statement (.vminInt h o) := rfl
theorem vmaxInt (h : Hdr) (o : VOp) : Statement (.vmaxInt h o) := rfl
theorem vminu (h : Hdr) (o : VOp) : Statement (.vminu h o) := rfl
theorem vmaxu (h : Hdr) (o : VOp) : Statement (.vmaxu h o) := rfl
theorem vabsInt (h : Hdr) (o : VOp) : Statement (.vabsInt h o) := rfl
theorem vnegInt (h : Hdr) (o : VOp) : Statement (.vnegInt h o) := rfl
theorem vpopc (h : Hdr) (o : VOp) : Statement (.vpopc h o) := rfl
theorem vclz (h : Hdr) (o : VOp) : Statement (.vclz h o) := rfl
theorem vaddFloat (h : Hdr) (o : VOp) : Statement (.vaddFloat h o) := rfl
theorem vsubFloat (h : Hdr) (o : VOp) : Statement (.vsubFloat h o) := rfl
theorem vmulFloat (h : Hdr) (o : VOp) : Statement (.vmulFloat h o) := rfl
theorem vdiv (h : Hdr) (o : VOp) : Statement (.vdiv h o) := rfl
theorem vsqrt (h : Hdr) (o : VOp) : Statement (.vsqrt h o) := rfl
theorem vminFloat (h : Hdr) (o : VOp) : Statement (.vminFloat h o) := rfl
theorem vmaxFloat (h : Hdr) (o : VOp) : Statement (.vmaxFloat h o) := rfl
theorem vabsFloat (h : Hdr) (o : VOp) : Statement (.vabsFloat h o) := rfl
theorem vnegFloat (h : Hdr) (o : VOp) : Statement (.vnegFloat h o) := rfl
theorem vrint (h : Hdr) (o : VOp) : Statement (.vrint h o) := rfl
theorem vfma (h : Hdr) (o : VOp) : Statement (.vfma h o) := rfl
theorem vfms (h : Hdr) (o : VOp) : Statement (.vfms h o) := rfl
theorem vfnma (h : Hdr) (o : VOp) : Statement (.vfnma h o) := rfl
theorem vmad (h : Hdr) (o : VOp) : Statement (.vmad h o) := rfl
theorem vdot (h : Hdr) (o : VOp) : Statement (.vdot h o) := rfl
theorem vcmpeq (h : Hdr) (o : VCmp) : Statement (.vcmpeq h o) := rfl
theorem vcmpne (h : Hdr) (o : VCmp) : Statement (.vcmpne h o) := rfl
theorem vcmplt (h : Hdr) (o : VCmp) : Statement (.vcmplt h o) := rfl
theorem vcmple (h : Hdr) (o : VCmp) : Statement (.vcmple h o) := rfl
theorem vcmpltu (h : Hdr) (o : VCmp) : Statement (.vcmpltu h o) := rfl
theorem vcmpleu (h : Hdr) (o : VCmp) : Statement (.vcmpleu h o) := rfl
theorem vcmpun (h : Hdr) (o : VCmp) : Statement (.vcmpun h o) := rfl
theorem vsel (h : Hdr) (o : VOp) : Statement (.vsel h o) := rfl
theorem vbsel (h : Hdr) (o : VOp) : Statement (.vbsel h o) := rfl
theorem vcvt (h : Hdr) (o : VCvt) : Statement (.vcvt h o) := rfl
theorem vcvtu (h : Hdr) (o : VCvt) : Statement (.vcvtu h o) := rfl
theorem vexp2 (h : Hdr) (o : VOp) : Statement (.vexp2 h o) := rfl
theorem vlog2 (h : Hdr) (o : VOp) : Statement (.vlog2 h o) := rfl
theorem vrcp (h : Hdr) (o : VOp) : Statement (.vrcp h o) := rfl
theorem vrsq (h : Hdr) (o : VOp) : Statement (.vrsq h o) := rfl
theorem vmov (h : Hdr) (o : VOp) : Statement (.vmov h o) := rfl
theorem vbcst (h : Hdr) (o : VOp) : Statement (.vbcst h o) := rfl
theorem vperm (h : Hdr) (o : VOp) : Statement (.vperm h o) := rfl
theorem vrot (h : Hdr) (o : VOp) : Statement (.vrot h o) := rfl
theorem vxch (h : Hdr) (o : VOp) : Statement (.vxch h o) := rfl
theorem vidx (h : Hdr) (o : VOp) : Statement (.vidx h o) := rfl
theorem vli (h : Hdr) (o : VLiOp) : Statement (.vli h o) := rfl
theorem rsum (h : Hdr) (o : VOp) : Statement (.rsum h o) := rfl
theorem rmax (h : Hdr) (o : VOp) : Statement (.rmax h o) := rfl
theorem rmin (h : Hdr) (o : VOp) : Statement (.rmin h o) := rfl
theorem rndcV (h : Hdr) (o : VOp) : Statement (.rndcV h o) := rfl
theorem mand (h : Hdr) (o : MOp) : Statement (.mand h o) := rfl
theorem mor (h : Hdr) (o : MOp) : Statement (.mor h o) := rfl
theorem mxor (h : Hdr) (o : MOp) : Statement (.mxor h o) := rfl
theorem mandn (h : Hdr) (o : MOp) : Statement (.mandn h o) := rfl
theorem mnot (h : Hdr) (o : MOp) : Statement (.mnot h o) := rfl
theorem mset (h : Hdr) (o : MOp) : Statement (.mset h o) := rfl
theorem mclr (h : Hdr) (o : MOp) : Statement (.mclr h o) := rfl
theorem vmode (h : Hdr) (mode : BitVec 3) : Statement (.vmode h mode) := rfl
theorem vRdv (h : Hdr) : Statement (.vRdv h) := rfl
theorem vld (h : Hdr) (o : VMem) : Statement (.vld h o) := rfl
theorem vst (h : Hdr) (o : VMem) : Statement (.vst h o) := rfl
theorem vgath (h : Hdr) (o : VIdx) : Statement (.vgath h o) := rfl
theorem vscat (h : Hdr) (o : VIdx) : Statement (.vscat h o) := rfl
theorem part (h : Hdr) (o : VPart) : Statement (.part h o) := rfl
theorem vatom (h : Hdr) (o : VAtm) : Statement (.vatom h o) := rfl
theorem redm (h : Hdr) (o : VRedm) : Statement (.redm h o) := rfl
theorem redt (h : Hdr) (o : VRedt) : Statement (.redt h o) := rfl
theorem vLoop (h : Hdr) (o : LoopOp) : Statement (.vLoop h o) := rfl
theorem vEndl (h : Hdr) (lvl : BitVec 3) : Statement (.vEndl h lvl) := rfl
theorem vlset (h : Hdr) (o : StrideSet) : Statement (.vlset h o) := rfl
theorem fstore (h : Hdr) (o : SStore) : Statement (.fstore h o) := rfl
theorem qstore (h : Hdr) (o : SQst) : Statement (.qstore h o) := rfl
theorem req (h : Hdr) (o : SReq) : Statement (.req h o) := rfl
theorem grain (h : Hdr) (o : SGrain) : Statement (.grain h o) := rfl
theorem smode (h : Hdr) (mode : BitVec 3) : Statement (.smode h mode) := rfl
theorem sscat (h : Hdr) (o : IdxMove) : Statement (.sscat h o) := rfl
theorem srel (h : Hdr) (scope : Scope) : Statement (.srel h scope) := rfl
theorem sLoop (h : Hdr) (o : LoopOp) : Statement (.sLoop h o) := rfl
theorem sEndl (h : Hdr) (lvl : BitVec 3) : Statement (.sEndl h lvl) := rfl
theorem sRdv (h : Hdr) : Statement (.sRdv h) := rfl
theorem slset (h : Hdr) (o : StrideSet) : Statement (.slset h o) := rfl
theorem slsetCvc (h : Hdr) (o : Cvc) : Statement (.slsetCvc h o) := rfl
theorem dispatchDecision : Statement (.dispatchDecision) := rfl
theorem launchAgeing : Statement (.launchAgeing) := rfl
theorem preempt : Statement (.preempt) := rfl
theorem resume : Statement (.resume) := rfl
theorem hitchKill : Statement (.hitchKill) := rfl
theorem atomicPerform : Statement (.atomicPerform) := rfl
theorem redtCombine : Statement (.redtCombine) := rfl
theorem rdcFillRead : Statement (.rdcFillRead) := rfl
theorem evictionNotice : Statement (.evictionNotice) := rfl
theorem invalidationAck : Statement (.invalidationAck) := rfl
theorem hostMemRead : Statement (.hostMemRead) := rfl
theorem hostMemWrite : Statement (.hostMemWrite) := rfl
theorem hostSnoop : Statement (.hostSnoop) := rfl
theorem sramUncorrectableError : Statement (.sramUncorrectableError) := rfl
theorem memoryUncorrectableError : Statement (.memoryUncorrectableError) := rfl
theorem dcExtentAdd : Statement (.dcExtentAdd) := rfl
theorem dcExtentRelease : Statement (.dcExtentRelease) := rfl
theorem channelPowerDown : Statement (.channelPowerDown) := rfl
theorem channelSelfRefresh : Statement (.channelSelfRefresh) := rfl
theorem hotRowThrottle : Statement (.hotRowThrottle) := rfl
theorem hotRowThrottleEnd : Statement (.hotRowThrottleEnd) := rfl
theorem retnEnable : Statement (.retnEnable) := rfl
theorem retnDisable : Statement (.retnDisable) := rfl
theorem fwinWrite : Statement (.fwinWrite) := rfl
theorem dcapWrite : Statement (.dcapWrite) := rfl
theorem registerWrite : Statement (.registerWrite) := rfl
theorem powerCapControl : Statement (.powerCapControl) := rfl
theorem telemetryRefresh : Statement (.telemetryRefresh) := rfl
theorem fabricPacketAccept : Statement (.fabricPacketAccept) := rfl
theorem fabricAckReceive : Statement (.fabricAckReceive) := rfl
theorem routerPacket : Statement (.routerPacket) := rfl
theorem routeVersionInstall : Statement (.routeVersionInstall) := rfl
theorem replayTimeout : Statement (.replayTimeout) := rfl
theorem moduleLost : Statement (.moduleLost) := rfl
theorem linkDeath : Statement (.linkDeath) := rfl
theorem linkStateRise : Statement (.linkStateRise) := rfl
theorem linkRetrain : Statement (.linkRetrain) := rfl
theorem fabidAssign : Statement (.fabidAssign) := rfl
theorem claim : Statement (.claim) := rfl
theorem ownerHandover : Statement (.ownerHandover) := rfl
theorem ownerRelease : Statement (.ownerRelease) := rfl
theorem ownerLinkDown : Statement (.ownerLinkDown) := rfl
theorem go : Statement (.go) := rfl
theorem nonOwnerWriteDiscard : Statement (.nonOwnerWriteDiscard) := rfl
theorem attestationRequest : Statement (.attestationRequest) := rfl
theorem attestationReportDone : Statement (.attestationReportDone) := rfl
theorem bootStageVerify : Statement (.bootStageVerify) := rfl
theorem coldReset : Statement (.coldReset) := rfl
theorem warmReset : Statement (.warmReset) := rfl
theorem reservedOpcodeWord : Statement (.reservedOpcodeWord) := rfl
theorem instructionFetchFault : Statement (.instructionFetchFault) := rfl
theorem planeStateStorageError : Statement (.planeStateStorageError) := rfl
theorem forwardReceiptError : Statement (.forwardReceiptError) := rfl
theorem tokenBucketGain : Statement (.tokenBucketGain) := rfl

end Sys2Proof.Laws.Encodable
end

