-- ==== Sys2Proof/Tests/Slice0.lean ====
section
/-! SUPPORT. Tests: ill-formed instructions that WellFormed refuses, words of the spec's worked encodings, small checks of
single steps with results from the spec's worked examples, and for every statement with hypotheses a witness that meets
them. -/

namespace Sys2Proof.Tests

open Sys2Proof Sys2Proof.Machine

set_option Elab.async false

/-! ### WellFormed refuses -/

/-- A header without tokens, gives, levels or marks. -/
def h0 : Hdr := ⟨false, 0, false, false, 0, 0⟩
/-- A bank operand at offset 0 of bank 0. -/
def b0 : Bop := ⟨0, 0, 0⟩
/-- A compute form with every field 0. -/
def v0 : VOp := ⟨0, 0, 0, 0, false, 0, 3, 0, false⟩

theorem test_illformed_c : ∀ i ∈ ([.add ⟨1, 2, 3, 3⟩, .add ⟨0, 2, 3, 1⟩, .clz ⟨1, 2, 1, 0⟩, .fadd ⟨1, 2, 3, 0, 6⟩,
    .fsqrt ⟨1, 2, 3, 0, 0⟩, .fmin ⟨1, 2, 3, 0, 1⟩, .fabs ⟨1, 2, 0, 0, 1⟩, .fabs ⟨1, 2, 1, 0, 0⟩, .sel ⟨0, 1, 1, 1, 2⟩,
    .addi ⟨0, 1, 1, 0⟩, .shfi ⟨1, 1, 3, 0, 0⟩, .li ⟨1, 3, 0⟩, .brf ⟨4, false, 0⟩, .ld ⟨1, 1, 1, .sp, true, 1, false, 0⟩,
    .ldc ⟨0, 1, 1, 0⟩, .atom ⟨1, 1, 1, .cas, .di, false, false, true⟩, .atom ⟨1, 1, 1, .fadd, .di, false, false, true⟩,
    .cas128 ⟨15, 1, 1, 1, .di, false, false, false⟩, .cas128 ⟨1, 1, 15, 1, .di, false, false, false⟩,
    .cas128 ⟨1, 1, 1, 16, .di, false, false, false⟩, .cas128 ⟨1, 1, 1, 1, .di, false, false, true⟩, .give 0, .take 0,
    .abandon 0] : List Instr), i.wellFormed = false := by decide

theorem test_illformed_header : ∀ i ∈ ([.lRdv ⟨false, 6, true, false, 0, 0⟩, .lRdv ⟨false, 1, false, false, 0, 0⟩,
    .lLoop ⟨false, 0, true, false, 0, 0⟩ ⟨1, false, 0⟩, .lEndl ⟨false, 0, false, true, 0, 0⟩ 0,
    .pcommit ⟨false, 7, true, false, 0, 0⟩, .vRdv ⟨false, 6, false, true, 0, 0⟩, .sRdv ⟨false, 5, false, false, 0, 0⟩] :
    List Instr), i.wellFormed = false := by decide

theorem test_illformed_lps : ∀ i ∈ ([.fload h0 ⟨0, 0, ⟨5, 0, 0⟩⟩, .fload h0 ⟨6, 0, b0⟩, .fbind h0 ⟨1, true, 0⟩,
    .lLoop h0 ⟨1, true, 0⟩, .lLoop h0 ⟨1, false, 6⟩, .lEndl h0 6, .lset h0 ⟨0, 0, 6⟩, .lsetCvc h0 ⟨true, 1, 0⟩,
    .lsetCvc h0 ⟨false, 6, 0⟩, .fgath h0 ⟨0, 0, 0, ⟨7, 0, 0⟩⟩, .movb h0 ⟨0, 0, ⟨5, 0, 0⟩⟩, .psheet h0 ⟨0, false, 0, ⟨5, 0, 0⟩⟩,
    .pcorr h0 ⟨0, 0, 0, 0, 0, 9, 0, false, false, 0, b0⟩, .pcorr h0 ⟨0, 0, 0, 0, 0, 0, 9, false, false, 0, b0⟩,
    .pcorr h0 ⟨0, 0, 0, 0, 0, 0, 0, true, false, 0, ⟨0, 1, 0⟩⟩, .pzero h0 0, .pchk h0 0,
    .pdrain h0 ⟨0, false, false, 0, 1, b0⟩, .pfwd h0 ⟨0, 0, b0⟩, .pfwdRx h0 ⟨0, 0, b0⟩, .pmode h0 6,
    .ploop h0 ⟨0, 0, 0, 0, 1, true, 0⟩, .ploop h0 ⟨0, 0, 0, 0, 1, false, 6⟩, .pendl h0 6, .pwgt h0 ⟨0, ⟨6, 0, 0⟩⟩,
    .pmm h0 ⟨0, 0, 0, 0, b0, ⟨5, 0, 0⟩⟩, .fstore h0 ⟨false, 1, 0, b0⟩, .fstore h0 ⟨true, 6, 0, b0⟩, .grain h0 ⟨0, 0⟩,
    .smode h0 6, .slset h0 ⟨0, 0, 7⟩, .slsetCvc h0 ⟨false, 2, 0⟩, .qstore h0 ⟨0, 0, 0, ⟨5, 0, 0⟩⟩, .req h0 ⟨0, 0, 0, ⟨5, 0, 0⟩⟩,
    .sscat h0 ⟨0, 0, 0, ⟨5, 0, 0⟩⟩, .sLoop h0 ⟨1, true, 0⟩] : List Instr), i.wellFormed = false := by decide

theorem test_illformed_v : ∀ i ∈ ([.vaddInt h0 { v0 with ty := 2 }, .vaddFloat h0 { v0 with ty := 3 },
    .vaddInt h0 { v0 with rm := 1 }, .vaddFloat h0 { v0 with ty := 0, rm := 6 }, .vaddInt h0 { v0 with sa := 49 },
    .vaddInt h0 { v0 with sb := 63 }, .vaddInt h0 { v0 with sc := 1 }, .vaddInt h0 { v0 with mi := 1 },
    .vfma h0 { v0 with ty := 0, sc := 49 }, .vdot h0 { v0 with ty := 0 }, .vcmpeq h0 ⟨3, v0⟩, .vcmpeq h0 ⟨0, { v0 with vd := 8 }⟩,
    .vcmpltu h0 ⟨0, { v0 with ty := 0 }⟩, .vcmpun h0 ⟨0, v0⟩, .vsel h0 { v0 with sc := 8 }, .vsel h0 { v0 with ty := 4 },
    .vcvt h0 ⟨0, 3, v0⟩, .vcvt h0 ⟨1, 0, v0⟩, .vcvt h0 ⟨0, 6, v0⟩, .vexp2 h0 v0, .vmov h0 { v0 with ty := 6 },
    .vidx h0 { v0 with sa := 1 }, .vli h0 ⟨0, 5, 256⟩, .vli h0 ⟨0, 6, 0⟩, .rndcV h0 { v0 with ty := 0 },
    .mnot h0 ⟨0, 0, 1, false⟩, .mset h0 ⟨0, 1, 0, false⟩, .vmode h0 5, .vld h0 ⟨0, 6, 0, false, 0, b0⟩,
    .vld h0 ⟨0, 0, 0, false, 1, b0⟩, .vgath h0 ⟨0, 0, false, 0, ⟨5, 0, 0⟩⟩, .part h0 ⟨0, false, 1, b0⟩,
    .vatom h0 ⟨0, 0, 0, .io, .add, false, 0, 0, false, false⟩, .redm h0 ⟨0, .di, .swap, false, 0, false⟩,
    .redm h0 ⟨0, .di, .cas, false, 0, false⟩, .redt h0 ⟨0, .io, false, 0, false, 0⟩, .vlset h0 ⟨0, 0, 6⟩] : List Instr),
    i.wellFormed = false := by decide

/-! ### Words of the spec's worked encodings -/

/-- The word of a stream decodes to the instruction. -/
def reads (st : Stream) (w : Nat) (i : Instr) : Prop := decodeWord (st.word w) = .ok i

-- R109, R116, R118, R122 and the listing of the boosted load
theorem test_words_c_compute : reads .c 0x3141_3C6F (.li ⟨5, 0, 0x13C6F⟩) ∧ reads .c 0x2D4A_000F (.shfi ⟨5, 5, 0, 0, 15⟩) ∧
    reads .c 0x114A_79B1 (.addi ⟨5, 5, 0, 0x79B1⟩) ∧ reads .c 0x0D4C_0004 (.rndc ⟨5, 6, 0, 0, 0⟩) ∧
    reads .c 0x0692_4000 (.add ⟨10, 9, 4, 0⟩) ∧ reads .c 0x07DE_B002 (.mul ⟨15, 15, 11, 0⟩) ∧
    reads .c 0x0614_D014 (.cmpltu ⟨8, 10, 13, 0⟩) ∧ reads .c 0x0F1A_C700 (.sel ⟨12, 13, 12, 14, 0⟩) ∧
    reads .c 0x154A_7FFE (.andi ⟨5, 5, 0, 0x7FFE⟩) := by unfold reads; decide +kernel
theorem test_words_c_branch : reads .c 0x4600_8001 (.bne ⟨16, 0, true, 1⟩) ∧ reads .c 0x4580_FFFB (.bne ⟨12, 0, true, 0x7FFB⟩) ∧
    reads .c 0x4100_0002 (.beq ⟨8, 0, false, 2⟩) ∧ reads .c 0x5800_8003 (.brf ⟨0, true, 3⟩) ∧
    reads .c 0x6400_0001 (.jmp 1) ∧ reads .c 0x67FF_FFD2 (.jmp 0x3FFFFD2) ∧ reads .c 0x6000_000A (.call 10) ∧
    reads .c 0x6800_0200 .ret ∧ reads .c 0x6800_0300 .rels := by unfold reads; decide +kernel
-- R132, R136, R138, R140
theorem test_words_c_memory : reads .c 0x8002_1102 (.ld ⟨0, 1, 0, .sp, false, 1, false, 2⟩) ∧
    reads .c 0x9950_1283 (.ldN8 ⟨5, 8, 0, .sp, false, 2, true, 3⟩) ∧
    reads .c 0x8192_1D00 (.ld ⟨6, 9, 0, .di, true, 1, false, 0⟩) ∧ reads .c 0xA124_3A00 (.st ⟨9, 4, .di, true, 1, false, 0⟩) ∧
    reads .c 0xA125_A222 (.st ⟨9, 5, .io, false, 1, false, 34⟩) ∧
    reads .c 0xB3DC_F031 (.atom ⟨15, 14, 15, .add, .di, false, false, true⟩) ∧
    reads .c 0xB550_639B (.cas ⟨5, 8, 6, 7, .di, true, false, true⟩) := by unfold reads; decide +kernel
-- R142 to R165
theorem test_words_c_sync : reads .c 0xC000_0600 (.fence .di) ∧ reads .c 0xC000_1400 (.fence .io) ∧
    reads .c 0xC010_8000 (.watch 8) ∧ reads .c 0xC000_A000 .wait ∧ reads .c 0xC00A_6003 (.bset 5 3) ∧
    reads .c 0xC000_2403 (.arrv .sp 3) ∧ reads .c 0xC000_4403 (.bwait .sp 3) ∧ reads .c 0xC006_C000 (.send 3 0) ∧
    reads .c 0xC140_E000 (.recv 5) ∧ reads .c 0xC001_0002 (.give 1) ∧ reads .c 0xC001_2010 (.take 8) ∧
    reads .c 0xC001_4018 (.abandon 12) ∧ reads .c 0xC001_6000 (.tjoin 0) := by unfold reads; decide +kernel
theorem test_words_c_system : reads .c 0xF140_0000 (.mfs 5 0) ∧ reads .c 0xF00C_0105 (.mts 6 5) ∧ reads .c 0xF000_0207 (.trap 7) ∧
    reads .c 0xF000_0301 (.sysc 1) ∧ reads .c 0xF000_0400 .eret ∧ reads .c 0xF010_0501 (.tlbi 8 1) ∧
    reads .c 0xF180_0604 (.estat 6 4) ∧ reads .c 0xF150_0700 (.launch 5 8) ∧ reads .c 0xF00A_0800 (.lwait 5) ∧
    reads .c 0xF140_0900 (.clock 5) ∧ reads .c 0xF000_0A00 .rdv := by unfold reads; decide +kernel
-- the F32 group: op 2, DST 1, A 2, B 3, RM 1, OP 0 (R96, R110)
theorem test_words_c_float : reads .c 0b000010_0001_00010_00011_00_001_0000000 (.fadd ⟨1, 2, 3, 0, 1⟩) := by
  unfold reads; decide +kernel
-- R308 to R317
theorem test_words_l : reads .l 0x0000_0108_0001_0000 (.fbind h0 ⟨0x420, false, 0⟩) ∧
    reads .l 0x0000_0000_0002_0044 (.fload ⟨false, 0, false, false, 4, 4⟩ ⟨0, 0, b0⟩) ∧
    reads .l 0x0020_2000_0002_0000 (.fload h0 ⟨2, 0, ⟨1, 0, 0⟩⟩) ∧ reads .l 0x0000_0080_0007_0000 (.lset h0 ⟨512, 0, 0⟩) ∧
    reads .l 0x0000_0009_C406_0000 (.bfset h0 ⟨false, true, 1, 12, 4⟩) ∧ reads .l 0x0000_0000_0808_0000 (.lLoop h0 ⟨0, true, 0⟩) ∧
    reads .l 0x0000_0000_8008_0000 (.lLoop h0 ⟨8, false, 0⟩) ∧ reads .l 0x0000_0000_0009_0000 (.lEndl h0 0) ∧
    reads .l 0x0000_0000_000A_2000 (.lRdv ⟨true, 0, false, false, 0, 0⟩) ∧
    reads .l 0x0000_0007_E007_0000 (.lsetCvc h0 ⟨false, 0, 31⟩) ∧
    reads .l 0x0006_1000_0004_0080 (.movb ⟨false, 0, false, false, 8, 0⟩ ⟨0, 6, ⟨0, 8, 0⟩⟩) := by unfold reads; decide +kernel
-- R246 to R263, and the listing of the transposed convolution
theorem test_words_p : reads .p 0x0000_0000_0000_0000_0000_0020_0301_0000 (.ptile h0 ⟨false, 0x2003⟩) ∧
    reads .p 0x0000_0000_0000_0000_0000_0000_0002_0080 (.pcommit ⟨false, 0, false, false, 8, 0⟩) ∧
    reads .p 0x0000_0000_0000_0000_0005_0000_0003_0002 (.psheet ⟨false, 0, false, false, 0, 2⟩ ⟨0, false, 5, b0⟩) ∧
    reads .p 0x0000_0000_0000_0FC0_0405_0400_0004_0000 (.pcorr h0 ⟨3, 15, 0, 0, 0, 1, 0, false, false, 5, ⟨0, 2, 0⟩⟩) ∧
    reads .p 0x0000_0000_0000_0000_0308_0800_000B_0000 (.pdrain h0 ⟨3, false, false, 1, 0, ⟨0, 4, 0⟩⟩) ∧
    reads .p 0x0000_0000_0000_0000_0000_0000_FF08_0000 (.pzero h0 0xFF) ∧
    reads .p 0x0000_0000_0000_0000_0000_0000_000E_0000 (.pmode h0 0) ∧
    reads .p 0x0000_0000_0000_0000_0000_0000_0810_0000 (.ploop h0 ⟨0, 0, 0, 0, 0, true, 0⟩) ∧
    reads .p 0x0000_0000_0000_0000_0000_0000_0012_0000 (.pRdv h0) := by unfold reads; decide +kernel
-- R333 to R346
theorem test_words_v_compute : reads .v 0x1000_8000_0002_0000 (.vaddFloat h0 ⟨2, 0, 1, 0, false, 0, 0, 0, false⟩) ∧
    reads .v 0x1410_8000_0202_0000 (.vmulFloat h0 ⟨2, 32, 33, 0, false, 0, 0, 0, false⟩) ∧
    reads .v 0x0801_8140_4204_0000 (.vcmplt h0 ⟨0, ⟨1, 0, 3, 0, true, 2, 0, 0, true⟩⟩) ∧
    reads .v 0x0E00_0000_0108_0020 (.vbcst ⟨false, 0, false, false, 2, 0⟩ ⟨1, 48, 0, 0, false, 0, 0, 0, false⟩) ∧
    reads .v 0x183F_8000_000C_0000 (.vli h0 ⟨3, 0, 0x3F800000⟩) ∧
    reads .v 0x2840_0000_0009_0000 (.rsum h0 ⟨5, 2, 0, 0, false, 0, 0, 0, false⟩) ∧
    reads .v 0x0800_0000_050B_0000 (.mset h0 ⟨1, 0, 0, false⟩) ∧ reads .v 0x0000_0000_020D_0000 (.vmode h0 2) ∧
    reads .v 0x0000_0000_001B_0008 (.vRdv ⟨false, 0, false, false, 0, 8⟩) := by unfold reads; decide +kernel
-- R349 to R361
theorem test_words_v_memory : reads .v 0x0000_0000_0010_0022 (.vld ⟨false, 0, false, false, 2, 2⟩ ⟨0, 0, 0, false, 0, b0⟩) ∧
    reads .v 0x1000_0200_0011_0088 (.vst ⟨false, 0, false, false, 8, 8⟩ ⟨2, 0, 0, false, 0, ⟨0, 1, 0⟩⟩) ∧
    reads .v 0x0020_0C00_0014_0000 (.part h0 ⟨1, false, 0, ⟨0, 6, 0⟩⟩) ∧
    reads .v 0x4A00_0C08_0012_0000 (.vgath h0 ⟨9, 8, false, 0, ⟨0, 6, 0x800⟩⟩) ∧
    reads .v 0x2044_601C_0015_0010 (.vatom ⟨false, 0, false, false, 1, 0⟩ ⟨4, 1, 2, .di, .add, false, 0, 7, false, false⟩) ∧
    reads .v 0x0081_1200_0016_0000 (.redm h0 ⟨2, .sy, .fadd, false, 0, false⟩) ∧
    reads .v 0x0081_0000_8017_0000 (.redt h0 ⟨2, .sy, false, 0, false, 2⟩) ∧
    reads .v 0x0000_0000_0818_0000 (.vLoop h0 ⟨0, true, 0⟩) ∧ reads .v 0x0000_0000_0019_0000 (.vEndl h0 0) ∧
    reads .v 0x0000_0080_001A_0000 (.vlset h0 ⟨512, 0, 0⟩) := by unfold reads; decide +kernel
-- R371 to R381
theorem test_words_s : reads .s 0x0001_0200_0001_0088 (.fstore ⟨false, 0, false, false, 8, 8⟩ ⟨false, 0, 1, ⟨0, 1, 0⟩⟩) ∧
    reads .s 0x2400_0800_0002_0000 (.qstore h0 ⟨1, 2, 0, ⟨0, 4, 0⟩⟩) ∧ reads .s 0x4540_0A00_0003_0000 (.req h0 ⟨2, 1, 5, ⟨0, 5, 0⟩⟩) ∧
    reads .s 0x0000_0000_2904_0000 (.grain h0 ⟨5, 1⟩) ∧
    reads .s 0x0000_0000_0005_0082 (.smode ⟨false, 0, false, false, 8, 2⟩ 0) ∧ reads .s 0x0000_0000_0505_0000 (.smode h0 5) ∧
    reads .s 0x0000_0000_0307_0010 (.srel ⟨false, 0, false, false, 1, 0⟩ .di) ∧
    reads .s 0x0002_0007_E00B_0000 (.slsetCvc h0 ⟨true, 0, 31⟩) ∧ reads .s 0x0000_0000_0808_0000 (.sLoop h0 ⟨0, true, 0⟩) ∧
    reads .s 0x0000_0000_0009_0000 (.sEndl h0 0) := by unfold reads; decide +kernel

theorem test_words_refused : decodeWord (Stream.word .c 0) = .error .reservedCode ∧
    decodeWord (Stream.word .c 0xFC00_0000) = .error .reservedCode ∧ decodeWord (Stream.word .c 0x0400_0022) = .error .reservedCode ∧
    decodeWord (Stream.word .c 0xF000_0401) = .error .reservedBits ∧ decodeWord (Stream.word .c 0x0692_4C00) = .error .badField ∧
    decodeWord (Stream.word .l 0x0000_0000_000B_0000) = .error .reservedCode ∧
    decodeWord (Stream.word .p 0x0000_0000_0000_0000_0000_0000_0013_0000) = .error .reservedCode ∧
    decodeWord (Stream.word .v 0x0000_0000_000E_0000) = .error .reservedCode ∧
    decodeWord (Stream.word .s 0x0000_0000_000A_4000) = .error .reservedBits := by decide +kernel

/-! ### States for the witnesses -/

def team : Team := ⟨1, 0, 0, 0, 10, false, false⟩
/-- A bench with a team whose main context is live at 0x100, with a handler at 0x1000. -/
def base : Bench :=
  { Bench.idle with
    team := some team
    c := { CUnit.start with
      ctxs := CUnit.start.ctxs.set 0 { Ctx.start with live := true, pc := 0x100 }
      groups := (CUnit.start.groups.set 0 (.held 0)).set 1 (.held 0)
      trap := 0x1000 } }
/-- A turn of a stream of bench 0, whose bench is `f base`. -/
def on (st : Stream) (c : Fin 4) (f : Bench → Bench) : State :=
  { State.reset with cur := ⟨0, st, c, false, 0, 0x100, {}, (f base).banks⟩, benches := State.reset.benches.set 0 (f base) }
/-- The same turn, which leaves what it can in flight. -/
def onLate (st : Stream) (c : Fin 4) (f : Bench → Bench) : State :=
  let s := on st c f
  { s with cur := { s.cur with late := true } }
def withMem (m : Mem) (s : State) : State := { s with mem := m }
/-- The first 2^48 bytes, mapped one to one. -/
def page : Leaf := ⟨0, 0, 48, 0, 0, 0, 0, false, .sp, 0, true, true, true⟩
def paged (x : Bench) : Bench := { x with tlb := [page] }
/-- Change the context that runs. -/
def ctxIs (f : Ctx → Ctx) (x : Bench) : Bench := x.modCtx 0 f
def engIs (st : Stream) (f : Eng → Eng) (x : Bench) : Bench := x.modEng st f

theorem sndIs {α β : Type} {r : α × β} {b : β} (h : r.2 = b) : r = (r.1, b) := by obtain ⟨a, c⟩ := r; simp_all
def wordOf : Word → Option (Nat ⊕ Byte)
  | .ok w => some (.inl w)
  | .fault c => some (.inr c)
  | .wait => none
theorem okWord {r : State × Word} {w : Nat} (h : wordOf r.2 = some (.inl w)) : r = (r.1, .ok w) := by
  obtain ⟨a, b⟩ := r; cases b <;> simp_all [wordOf]
theorem faultWord {r : State × Word} {c : Byte} (h : wordOf r.2 = some (.inr c)) : r = (r.1, .fault c) := by
  obtain ⟨a, b⟩ := r; cases b <;> simp_all [wordOf]
def bytesOf : LoadRes → Option (List Byte)
  | .ok _ bs => some bs
  | _ => none
theorem okLoad {r : LoadRes} {bs : List Byte} (h : bytesOf r = some bs) : ∃ t, r = .ok t bs := by
  cases r <;> simp_all [bytesOf]

/-! ### Witnesses: words and steps -/

theorem witness_DecodeEncode :
    (Instr.add ⟨15, 31, 31, 2⟩).wellFormed = true ∧ (encode (.add ⟨15, 31, 31, 2⟩)).isSome = true ∧
    (Instr.vli h0 ⟨31, 0, 0xFFFFFFFF⟩).wellFormed = true ∧ (encode (.vli h0 ⟨31, 0, 0xFFFFFFFF⟩)).isSome = true ∧
    (Instr.ptile h0 ⟨false, 0x2003⟩).wellFormed = true ∧ (encode (.ptile h0 ⟨false, 0x2003⟩)).isSome = true := by
  decide +kernel

/-- ADD k10, k9, k4 at 0x100, and SMODE 5 at 0. -/
def program : Mem := [(2, 5), (3, 5), (0x101, 0x40), (0x102, 0x92), (0x103, 0x06)]
/-- The machine before a turn of a stream of bench 0. -/
def before (st : Stream) : State :=
  { withMem program (on .c 0 paged) with turns := [⟨0, false, .stream 0 st 0, {}⟩] }

theorem witness_StepRuns_C :
    let s0 := (before .c).atTurn ⟨0, false, .stream 0 .c 0, {}⟩ [] 0 .c 0
    let s1 := s0.modMyC fun m => { m with rr := m.rr.issue 0 s0.clk }
    (before .c).turns = [⟨0, false, .stream 0 .c 0, {}⟩] ∧ s0.here.chosen s0.clk = some 0 ∧ s1.here.takes = none ∧
    s1.myCtx.phase = .idle ∧ (∃ u, (s1.atPc s1.myCtx.pc).fetchHere = (u, .ok 0x06924000)) ∧
    decodeWord (Stream.word .c 0x06924000) = .ok (.add ⟨10, 9, 4, 0⟩) ∧ s1.holdsBack (.add ⟨10, 9, 4, 0⟩) = false :=
  ⟨by decide +kernel, by decide +kernel, by decide +kernel, by decide +kernel, ⟨_, okWord (by decide +kernel)⟩, by decide +kernel,
    by decide +kernel⟩

/-- The engine has issued `SMODE 5` and waits. -/
def goesOn : State :=
  { before .s with benches := (before .s).benches.set 0 ((paged base).modEng .s fun e =>
      { e with issued := true, cap := some (0x05050000, (before .s).cap) }) }
theorem witness_StepRuns_issued :
    let s1 := (goesOn.atTurn ⟨0, false, .stream 0 .s 0, {}⟩ [] 0 .s 0).pushGives 0 .s
    let e := s1.myEng
    s1.here.team ≠ none ∧ e.held = none ∧ e.gives = [] ∧ e.flags = [] ∧ e.rdv = false ∧ s1.mayGoOn 0 .s = true ∧
    e.issued = true ∧ e.cap = some (0x05050000, (before .s).cap) ∧
    decodeWord (Stream.word .s (0x05050000 : W128).toNat) = .ok (.smode h0 5) := by decide +kernel
theorem witness_StepRuns_engine :
    let s1 := ((before .s).atTurn ⟨0, false, .stream 0 .s 0, {}⟩ [] 0 .s 0).pushGives 0 .s
    let e := s1.myEng
    s1.here.team ≠ none ∧ e.held = none ∧ e.gives = [] ∧ e.flags = [] ∧ e.rdv = false ∧ s1.mayGoOn 0 .s = true ∧
    e.issued = false ∧ e.abandon = false ∧ (∃ u, (s1.atPc e.pc).fetchHere = (u, .ok 0x05050000)) ∧
    decodeWord (Stream.word .s 0x05050000) = .ok (.smode h0 5) :=
  ⟨by decide +kernel, by decide +kernel, by decide +kernel, by decide +kernel, by decide +kernel, by decide +kernel,
    by decide +kernel, by decide +kernel, ⟨_, okWord (by decide +kernel)⟩, by decide +kernel⟩

theorem witness_RegisterFrame :
    regForm (.add ⟨15, 31, 31, 0⟩) = some (15, 0) ∧ regForm (.fadd ⟨1, 0, 0, 2, 0⟩) = some (1, 2) ∧
    (∃ t, exec (.add ⟨15, 31, 31, 0⟩) (on .c 0 id) = .next t) ∧ ∃ t, exec (.fadd ⟨1, 0, 0, 2, 0⟩) (on .c 3 id) = .next t :=
  ⟨rfl, rfl, ⟨_, rfl⟩, _, rfl⟩

/-- A machine after reset whose next turn a host takes. -/
def claimed : State := { State.reset with turns := [⟨1, false, .event .claim, {}⟩] }
theorem witness_StepKeepsMemory : claimed.memWf ∧ ∃ t, step claimed = .next t := by
  refine ⟨⟨by decide +kernel, fun b => ?_, by simp [claimed, State.reset]⟩, _, rfl⟩
  simp [Bench.memWf, State.bench, claimed, State.reset, Bench.idle, Mem.wf]

/-! ### Witnesses: results of C -/

/-- Two queue entries, the newest the most negative number, and registers that hold the least and the greatest. -/
def loaded : Bench → Bench := ctxIs fun k => { k with rq := [⟨0x8000000000000000, none⟩, ⟨BitVec.allOnes 64, none⟩] }

theorem witness_IntegerResults : (on .c 0 loaded).gives 0 16 0x8000000000000000 ∧
    (on .c 0 loaded).gives 0 17 (BitVec.allOnes 64) ∧ (on .c 3 id).gives 2 15 0 ∧ (on .c 3 id).gives 1 31 0 := by
  unfold State.gives; decide +kernel
theorem witness_ImmediateResults : (on .c 0 loaded).gives 0 17 (BitVec.allOnes 64) ∧ (on .c 1 id).gives 1 0 0 := by
  unfold State.gives; decide +kernel
theorem witness_ThreeSourceResults : (on .c 0 loaded).gives 2 16 0x8000000000000000 ∧ (on .c 0 loaded).gives 2 0 0 ∧
    (on .c 0 loaded).gives 2 31 0 := by unfold State.gives; decide +kernel
theorem witness_FloatResults : (on .c 0 loaded).gives 0 16 0x8000000000000000 ∧
    (on .c 0 loaded).gives 0 17 (BitVec.allOnes 64) ∧ (on .c 0 loaded).gives 0 0 0 ∧ (on .c 0 loaded).gives 1 17 (BitVec.allOnes 64) := by
  unfold State.gives; decide +kernel
-- R112: FABS and FNEG pass a NaN unchanged
theorem test_fneg_nan : fneg32 0xFF800001 = 0xFF800001 ∧ fabs32 0xFFC00000 = 0xFFC00000 ∧ fneg32 0x80000000 = 0 ∧
    fabs32 0xFF800000 = 0x7F800000 := by decide +kernel
theorem witness_NanResults : (valF32 0x7F800001).isNan = true ∧ (valF32 0xFFFFFFFF).isNan = true ∧
    (valF32 0x7F800000).isNan = false ∧ (valF32 0x80000000).isNan = false := by decide +kernel

/-! ### Witnesses: branches and calls -/

/-- A flag queue of one entry, whose bits 0 and 1 differ. -/
def flagged (x : Bench) : Bench := { x with flagq := [1] }

theorem witness_BranchResults : (on .c 0 flagged).gives 0 31 0 ∧ (on .c 0 flagged).here.shadowPending 0 = false ∧
    (on .c 0 flagged).myCtx.sh1.faults = [] ∧ (on .c 0 flagged).cur.ctx = 0 ∧ (on .c 0 flagged).here.flagq = [1] := by
  unfold State.gives; decide +kernel
theorem witness_ShadowsCommit : (on .c 0 id).here.shadowPending 0 = false ∧ (on .c 0 id).here.shadowPending 3 = false := by
  decide +kernel

/-- A fault that shadow register 15 of level 1 holds. -/
def record15 : Deferred := ⟨0x03, 0x200, 0x80, 0x80000000, 7⟩
def deferred : Bench → Bench := ctxIs fun k =>
  { k with sh1 := { k.sh1 with regs := k.sh1.regs.set 15 ⟨true, 0, some record15⟩ } }
def handling (c : Fin 4) (x : Bench) : Bench := { x with c := { x.c with handler := some c } }

theorem witness_DeferredTrapEntry :
    ((on .c 0 fun x => flagged (deferred x)).cur.ctx = 0 ∧ (on .c 0 fun x => flagged (deferred x)).here.flagq = [1] ∧
      (on .c 0 fun x => flagged (deferred x)).oldestFault record15 ∧ (on .c 0 fun x => flagged (deferred x)).canTrap) ∧
    ((on .c 0 deferred).gives 0 0 0 ∧ (on .c 0 deferred).here.shadowPending 0 = false ∧
      (on .c 0 deferred).oldestFault record15 ∧ (on .c 0 deferred).canTrap) ∧
    (∀ f ∈ [flagged, id], (on .c 0 fun x => f (deferred { x with c := { x.c with trap := 0 } })).oldestFault record15 ∧
      (on .c 0 fun x => f (deferred { x with c := { x.c with trap := 0 } })).here.c.trap = 0 ∧
      (on .c 0 fun x => f (deferred (handling 0 x))).oldestFault record15 ∧
      (on .c 0 fun x => f (deferred (handling 0 x))).here.c.handler.isSome = true) ∧
    (on .c 0 fun x => deferred (handling 0 x)).gives 0 0 0 ∧
      (on .c 0 fun x => deferred (handling 0 x)).here.shadowPending 0 = false ∧
      (on .c 0 fun x => deferred (handling 0 x)).oldestFault record15 ∧
      (on .c 0 fun x => deferred (handling 0 x)).here.c.handler.isSome = true := by
  unfold State.gives State.oldestFault State.canTrap; decide +kernel

def holding (v : W64) : Bench → Bench := ctxIs fun k => { k with rq := [⟨v, none⟩] }

theorem witness_JumpResults :
    ((on .c 0 (holding 0x1FFFFFFFFFFFFFC)).gives 0 16 0x1FFFFFFFFFFFFFC ∧ goodTarget 0x1FFFFFFFFFFFFFC) ∧
    ((on .c 0 (holding 0x3FFFFFFFFFFFFFF)).gives 0 16 0x3FFFFFFFFFFFFFF ∧ (0x3FFFFFFFFFFFFFF : W64).toNat % 4 ≠ 0) ∧
    (on .c 0 (holding 0x200000000000000)).gives 0 16 0x200000000000000 ∧ (0x200000000000000 : W64).toNat % 4 = 0 ∧
      2 ^ 57 ≤ (0x200000000000000 : W64).toNat := by unfold State.gives goodTarget; decide +kernel
theorem witness_CallResults : (on .c 0 (holding 0x200)).here.c.groups[groupAt ((on .c 0 (holding 0x200)).myCtx.w.toNat + 2)] = .free ∧
    (on .c 0 (holding 0x200)).gives 0 16 0x200 ∧ goodTarget 0x200 := by unfold State.gives goodTarget; decide +kernel

/-- A frame below the first: window 15, depth 1, groups 15, 0 and 1 held. -/
def inFrame (x : Bench) : Bench :=
  { (ctxIs (fun k => { k with depth := 1, w := 15 }) x) with c := { (ctxIs (fun k => { k with depth := 1, w := 15 }) x).c with
      groups := ((Vector.replicate 16 GState.free).set 15 (.held 0)).set 0 (.held 0) } }

theorem witness_ReturnResults :
    ((on .c 0 inFrame).myCtx.depth ≠ 0 ∧ (on .c 0 inFrame).myCtx.spilled = 0) ∧
    ((on .c 0 id).myCtx.depth = 0 ∧ (on .c 0 id).cur.ctx = 0) ∧
    (on .c 3 id).myCtx.depth = 0 ∧ (on .c 3 id).cur.ctx ≠ 0 ∧
      ((on .c 3 id).here.c.loads.any fun l => l.ctx == (on .c 3 id).cur.ctx) = false := by decide +kernel
theorem witness_CallThenReturn : (on .c 0 id).here.c.groups[groupAt ((on .c 0 id).myCtx.w.toNat + 2)] = .free ∧
    (on .c 0 id).myCtx.spilled = 0 := by decide +kernel
/-- Three live tails. -/
def tails (x : Bench) : Bench :=
  ((x.modCtx 1 fun k => { k with live := true }).modCtx 2 fun k => { k with live := true }).modCtx 3 fun k =>
    { k with live := true }
theorem witness_RelsResults :
    (let s := on .c 0 inFrame
     s.cur.ctx = 0 ∧ s.myCtx.depth ≠ 0 ∧ s.myCtx.phase = .idle ∧ s.here.freeTail = some 1 ∧ s.myCtx.spilled = 0 ∧
     s.here.c.loads = [] ∧ s.here.c.groups[groupAt (s.myCtx.w.toNat + 2)] = .free ∧
     s.here.c.groups[groupAt (s.myCtx.w.toNat + 3)] = .free) ∧
    (let s := on .c 0 fun x => ctxIs (fun k => { k with phase := .rels 2 }) (inFrame x)
     s.cur.ctx = 0 ∧ s.myCtx.depth ≠ 0 ∧ s.myCtx.phase = .rels 2 ∧ s.myCtx.spilled = 0 ∧
     s.here.c.loads = [] ∧ s.here.c.groups[groupAt (s.myCtx.w.toNat + 2)] = .free ∧
     s.here.c.groups[groupAt (s.myCtx.w.toNat + 3)] = .free) ∧
    (on .c 1 id).cur.ctx ≠ 0 ∧ (on .c 0 id).myCtx.depth = 0 ∧
    (let s := on .c 0 fun x => tails (inFrame x)
     s.cur.ctx = 0 ∧ s.myCtx.depth ≠ 0 ∧ s.myCtx.phase = .idle ∧ s.here.freeTail = none) := by decide +kernel

/-! ### Witnesses: memory of C -/

theorem notRemote_of {s : State} (h : s.myCtx.phase = .idle) : s.notRemote := by simp [State.notRemote, h]

/-- The last doubleword of the memory of die 7. -/
def top8 : W64 := 0xBFFFFFFFF8
/-- Its address in the newest queue entry. -/
def atTop (x : Bench) : Bench := holding top8 (paged x)

theorem loads_of {s : State} {k : LoadKind} {va : W64} {q : Passed} {bs : List Byte}
    (h : let r := s.check s.cur.bench va.toNat k.size .read false (k.scope == .io)
      r.2 = .ok q ∧ r.1.cur.late = false ∧ (k.boost = 0 ∨ r.1.goesDirect q k.scope = false) ∧
      r.1.here.loadInFlight r.1.cur.ctx q.pa k.size = false ∧
      (r.1.goesDirect q k.scope = false ∨ r.1.here.deviceInFlight r.1.cur.ctx = false) ∧
      r.1.behind r.1.cur.bench r.1.here.seq q = false ∧
      bytesOf (if k.const then r.1.loadConst r.1.cur.bench q
        else r.1.load r.1.cur.bench q k.size k.scope k.pri k.last (forwardByte r.1.here.c.sb r.1.cur.ctx r.1.here.seq)) = some bs) :
    ∃ s1 t, s1.cur.late = false ∧ s.loads k va s1 q t bs := by
  obtain ⟨t, ht⟩ := okLoad h.2.2.2.2.2.2
  exact ⟨_, t, h.2.1, sndIs h.1, h.2.2.1, h.2.2.2.1, h.2.2.2.2.1, h.2.2.2.2.2.1, ht⟩

theorem witness_LoadResults :
    ((on .c 0 atTop).notRemote ∧ (on .c 0 atTop).gives 0 16 top8 ∧ ∃ s1 t, s1.cur.late = false ∧ (on .c 0 atTop).loads
      (ldKind 8 false ⟨1, 16, 0, .ho, true, 1, true, 0⟩) (top8 + (0 : BitVec 10).signExtend 64 * BitVec.ofNat 64 8) s1
      ⟨page, 0xBFFFFFFFF8⟩ t (List.replicate 8 0)) ∧
    ((on .c 3 atTop).notRemote ∧ (on .c 3 atTop).gives 1 15 0 ∧ ∃ s1 t, s1.cur.late = false ∧ (on .c 3 atTop).loads
      (ldKind 1 true ⟨1, 15, 1, .st, false, 1, false, 511⟩) (0 + (511 : BitVec 10).signExtend 64 * BitVec.ofNat 64 1) s1
      ⟨page, 511⟩ t [0]) ∧
    (on .c 0 atTop).notRemote ∧ (on .c 0 atTop).gives 2 16 top8 ∧ ∃ s1 t, s1.cur.late = false ∧ (on .c 0 atTop).loads
      ⟨8, false, true, 1, 2, .sp, false, 1, false⟩ (top8 + (0 : BitVec 16).signExtend 64 * 8) s1 ⟨page, 0xBFFFFFFFF8⟩ t
      (List.replicate 8 0) := by
  refine ⟨⟨notRemote_of ?_, ?_, loads_of ?_⟩, ⟨notRemote_of ?_, ?_, loads_of ?_⟩, notRemote_of ?_, ?_, loads_of ?_⟩ <;>
    (try unfold State.gives) <;> decide +kernel

theorem witness_LoadReadsMemory :
    let s := on .c 0 paged
    s.region 0xBFFFFFFFF8 = .mem 7 ∧ s.closingRange 0xBFFFFFFFF8 = false ∧ (s.bench 0).l1 = [] ∧ (s.die (dieOf 0)).rdc = [] ∧
    s.trackers = [] ∧ s.poison = [] ∧ 0xBFFFFFFFF8 % 128 + 8 ≤ 128 := by decide +kernel

/-- A buffered store of context 0 to 8 bytes at 0. -/
def entry : StEntry :=
  ⟨3, 0, .store, 8, 0, 0, List.replicate 8 (some 7), .sp, false, false, 1, false, false, page, 0, 0, none, []⟩
theorem witness_LoadForwards : entry.ctx = 0 ∧ entry.seq < 4 ∧ entry.kind = .store ∧ entry.pa ≤ 7 ∧
    entry.bytes[7 - entry.pa]? = some (some 7) ∧ entry.bytes[0 - entry.pa]? = some (some 7) := by decide +kernel

/-- The page with another field. -/
def withPage (f : Leaf → Leaf) (x : Bench) : Bench := { x with tlb := [f page] }

theorem witness_AccessChecks :
    2 ^ 57 ≤ 0x200000000000000 ∧ (0x1FFFFFFFFFFFFFF < 2 ^ 57 ∧ 0x1FFFFFFFFFFFFFF % 8 ≠ 0) ∧
    (∃ s1, (on .c 0 id).translate 0 ((on .c 0 id).bench 0).tenant 0x1FFFFFFFFFFFFF8 = (s1, .none_)) ∧
    (∃ s1 l, (on .c 0 (withPage fun l => { l with w := false })).translate 0 0 0xBFFFFFFFF8 = (s1, .leaf l) ∧
      s1.region (l.phys 0xBFFFFFFFF8) = .mem 7 ∧ l.allows .write = false) ∧
    (∃ s1 l, (on .c 0 (withPage fun l => { l with tenant := 1 })).translate 0 0 0 = (s1, .leaf l) ∧
      s1.region (l.phys 0) = .mem 0 ∧ l.tenant ≠ (s1.bench 0).tenant) ∧
    (∃ s1 l, (on .c 0 (withPage fun l => { l with cache := 1 })).translate 0 0 0 = (s1, .leaf l) ∧
      s1.region (l.phys 0) = .mem 0 ∧ l.allows .both = true ∧ l.tenant = (s1.bench 0).tenant ∧ l.cache ≠ 0) ∧
    ∃ s1 l, (on .c 0 paged).translate 0 0 0xBFFFFFFFF8 = (s1, .leaf l) ∧
      s1.region (l.phys 0xBFFFFFFFF8) = .mem 7 ∧ l.allows .both = true ∧ l.tenant = (s1.bench 0).tenant ∧ l.cache = 0 := by
  refine ⟨by decide, by decide, ⟨_, sndIs (by decide +kernel)⟩, ⟨_, _, sndIs (b := Walked.leaf { page with w := false }) (by decide +kernel), ?_, ?_⟩,
    ⟨_, _, sndIs (b := Walked.leaf { page with tenant := 1 }) (by decide +kernel), ?_, ?_⟩,
    ⟨_, _, sndIs (b := Walked.leaf { page with cache := 1 }) (by decide +kernel), ?_, ?_, ?_, ?_⟩,
    ⟨_, _, sndIs (b := Walked.leaf page) (by decide +kernel), ?_, ?_, ?_, ?_⟩⟩ <;> decide +kernel

theorem witness_AccessFaults :
    (∃ s1, (on .c 0 atTop).notRemote ∧ (on .c 0 atTop).gives 0 16 top8 ∧
      (on .c 0 atTop).check 0 (top8 + (1 : BitVec 10).signExtend 64 * 8).toNat 8 .read false false = (s1, .fault 0x03)) ∧
    (∃ s1, (on .c 0 atTop).gives 1 16 top8 ∧
      (on .c 0 atTop).check 0 (top8 + (1 : BitVec 10).signExtend 64 * 8).toNat 8 .read false false = (s1, .fault 0x03)) ∧
    ∃ s1, (on .c 0 (withPage fun l => { l with w := false })).gives 0 0 0 ∧
      (on .c 0 (withPage fun l => { l with w := false })).check 0 (0 + (511 : BitVec 10).signExtend 64 * 1).toNat 1 .write false
        true = (s1, .fault 0x04) := by
  refine ⟨⟨_, notRemote_of (by decide +kernel), ?_, sndIs (by decide +kernel)⟩, ⟨_, ?_, sndIs (by decide +kernel)⟩,
    ⟨_, ?_, sndIs (by decide +kernel)⟩⟩ <;> (unfold State.gives; decide +kernel)

/-- The page, write-combining, in the TLB of a bench whose newest queue entry is the last doubleword. -/
def combining (x : Bench) : Bench := holding top8 (withPage (fun l => { l with cache := 1 }) x)
theorem witness_StoreWritesMemory :
    (∃ s1, (on .c 0 atTop).gives 0 16 top8 ∧ (on .c 0 atTop).gives 0 0 0 ∧ Mem.wf (on .c 0 atTop).mem = true ∧
      (on .c 0 atTop).check 0 (top8 + (0 : BitVec 10).signExtend 64 * 8).toNat 8 .write false false = (s1, .ok ⟨page, 0xBFFFFFFFF8⟩) ∧
      s1.region 0xBFFFFFFFF8 = .mem 7 ∧ s1.quiet ∧ s1.unshared 0xBFFFFFFFF8 ∧ s1.cur.late = false ∧ page.cache ≠ 1) ∧
    ∃ s1, (on .c 0 combining).gives 0 16 top8 ∧ (on .c 0 combining).gives 0 0 0 ∧ Mem.wf (on .c 0 combining).mem = true ∧
      (on .c 0 combining).check 0 (top8 + (0 : BitVec 10).signExtend 64 * 8).toNat 8 .write false false =
        (s1, .ok ⟨{ page with cache := 1 }, 0xBFFFFFFFF8⟩) ∧
      s1.region 0xBFFFFFFFF8 = .mem 7 ∧ s1.quiet ∧ s1.unshared 0xBFFFFFFFF8 ∧ s1.cur.late = false ∧
      (s1.here.ctx 0).live = true ∧ (∀ c, (s1.here.ctx c).live = true → (s1.here.ctx c).wait = none) ∧ s1.here.team ≠ none ∧ s1.here.stopping = none := by
  refine ⟨⟨_, ?_, ?_, ?_, sndIs (by decide +kernel), ?_, ?_, ?_, ?_, ?_⟩,
    ⟨_, ?_, ?_, ?_, sndIs (by decide +kernel), ?_, ?_, ?_, ?_, ?_, ?_, ?_, ?_⟩⟩ <;>
    (try unfold State.gives) <;> (try unfold State.quiet) <;> (try unfold State.unshared) <;> decide +kernel
theorem witness_StoreFrame :
    ∃ s1, (onLate .c 0 atTop).gives 0 16 top8 ∧ (onLate .c 0 atTop).gives 0 0 0 ∧
      (onLate .c 0 atTop).check 0 (top8 + (0 : BitVec 10).signExtend 64 * 8).toNat 8 .write false false =
        (s1, .ok ⟨page, 0xBFFFFFFFF8⟩) ∧ s1.cur.late = true := by
  refine ⟨_, ?_, ?_, sndIs (by decide +kernel), ?_⟩ <;> (try unfold State.gives) <;> decide +kernel
theorem witness_AtomicPerforms :
    let s := withMem [(0, 5)] (on .c 0 paged)
    Mem.wf s.mem = true ∧ s.region entry.pa = .mem 0 ∧ s.unshared entry.pa ∧ s.poison = [] ∧ (s.bench 0).halves entry.tag = [] ∧
    Mem.nat s.mem entry.pa entry.size ≠ 0 ∧ s.pending (entry.pa / 128) = false ∧
    (let t := { s with trackers := [⟨0, 0, 0, [1], [], []⟩] }
     t.unshared entry.pa ∧ scopeWiden .mo page.scope = .mo ∧ t.pendingMo (entry.pa / 128) = true ∧
     5 ≤ scopeRank (scopeWiden .ho page.scope) ∧ t.pending (entry.pa / 128) = true) := by unfold State.unshared; decide +kernel
theorem witness_AtomicResults :
    let s := { onLate .c 0 (ctxIs fun k => { k with phase := .atomic 0 0 page 0 }) with responses := [⟨0, 9, 0, 0⟩] }
    (atomForm (.atom ⟨1, 0, 0, .add, .di, true, false, false⟩) = some (1, 4, .di, true) ∧
      atomForm (.cas128 ⟨14, 0, 14, 14, .ho, false, true, false⟩) = some (14, 16, .ho, false)) ∧
    s.cur.late = true ∧ s.myCtx.phase = .atomic 0 0 page 0 ∧ s.response 0 = some ⟨0, 9, 0, 0⟩ := by
  decide +kernel

/-! ### Witnesses: synchronisation and the system instructions of C -/

/-- The team of the turn is the one member of barrier 9 of its span, with one arrival of two in generation 4. -/
def barrier (gen : Option Nat) : Barrier := ⟨1, 0, 9, .sp, 0, 2, [⟨1, 0, gen⟩, ⟨1, 1, none⟩], 4, 1, false⟩
def atBarrier (gen : Option Nat) : State := { on .c 0 (holding 0x4300) with barriers := [barrier gen] }

theorem witness_FenceResults : (∃ t, (on .c 0 id).releasesTo .ho t) ∧ ∃ t, (onLate .c 3 id).releasesTo .st t := by
  refine ⟨⟨_, ?_, rfl⟩, _, ?_, rfl⟩ <;> decide +kernel
/-- A membership word that R147 allows: its parts are decided. -/
theorem notRefused {s : State} {bar : Byte} {w : W64} {sc : Scope} {limit : Nat}
    (h1 : w.extractLsb' 16 48 = 0 ∧ w.extractLsb' 10 2 = 0) (h2 : (s.membership bar).all (fun x => x.arrivals == 0) = true)
    (h3 : (w.extractLsb' 0 10).toNat = 0 → s.membership bar ≠ none)
    (h4 : (w.extractLsb' 12 4, sc, limit) ∈ [(2#4, Scope.sp, 8), (3#4, Scope.di, 96), (4#4, Scope.mo, 768)])
    (h5 : (w.extractLsb' 0 10).toNat ≤ limit) (h6 : (w.extractLsb' 0 10).toNat = 0 ∨ s.scopeClash sc bar = false)
    (h7 : (w.extractLsb' 0 10).toNat = 0 ∨ (s.instanceAt sc bar).all (fun y => y.count == (w.extractLsb' 0 10).toNat
        && (decide (y.members.length < y.count) || s.membership bar == some y)) = true) : ¬s.bsetRefused bar w := by
  rintro (h | h | ⟨x, hx, h⟩ | ⟨h, h'⟩ | h)
  · exact h h1.1
  · exact h h1.2
  · simp_all
  · exact h3 h h'
  · obtain h | ⟨h, h' | ⟨y, hy, h'⟩⟩ := h sc limit h4
    · omega
    · exact absurd h' (by simp [h6.resolve_left h])
    · have h8 := h7.resolve_left h
      simp only [hy, Option.all_some, Bool.and_eq_true, Bool.or_eq_true, beq_iff_eq, decide_eq_true_eq] at h8
      obtain h' | ⟨h', h9⟩ := h'
      · exact h' h8.1
      · exact h8.2.elim (by omega) h9

/-- A bench that holds a word, in a phase of its context, with an instance of its span. -/
def joining (w : W64) (p : Phase) (xs : List Barrier) : State :=
  { on .c 0 (fun x => ctxIs (fun k => { k with phase := p }) (holding w x)) with barriers := xs }
/-- Two teams of three, of which the one of the turn is not. -/
def other : Barrier := ⟨1, 0, 9, .sp, 0, 3, [⟨1, 1, none⟩, ⟨1, 2, none⟩], 4, 0, false⟩
/-- The team of the turn is a member that has arrived in no generation, or in the third. -/
def member (gen : Option Nat) (broken : Bool) : Barrier := ⟨0, 0, 9, .mo, 0, 2, [⟨1, 0, gen⟩, ⟨1, 1, none⟩], 4, 0, broken⟩

theorem witness_Bset_refused : (joining 0x4301 .idle []).gives 0 16 0x4301 ∧ (joining 0x4301 .idle []).bsetRefused 0 0x4301 := by
  refine ⟨by unfold State.gives; decide +kernel, .inr (.inr (.inr (.inr fun sc limit h => ?_)))⟩
  simp only [List.mem_cons, Prod.mk.injEq, List.not_mem_nil, or_false] at h
  obtain ⟨h, -⟩ | ⟨h, -⟩ | ⟨-, -, rfl⟩ := h
  · exact absurd h (by decide)
  · exact absurd h (by decide)
  · exact .inl (by decide)
theorem witness_Bset_begin :
    (joining 0x4300 .idle []).gives 0 16 0x4300 ∧ ¬(joining 0x4300 .idle []).bsetRefused 255 0x4300 ∧
    barrierScope 0x4300 = some (.mo, 768) ∧ (joining 0x4300 .idle []).membership 255 = none ∧
    (joining 0x4300 .idle []).instanceAt .mo 255 = none := by
  refine ⟨by unfold State.gives; decide +kernel, notRefused (sc := .mo) (limit := 768) ?_ ?_ ?_ ?_ ?_ ?_ ?_, ?_, ?_, ?_⟩ <;>
    decide +kernel
theorem witness_Bset_join :
    (joining 0x2003 .idle [other]).gives 0 16 0x2003 ∧ ¬(joining 0x2003 .idle [other]).bsetRefused 9 0x2003 ∧
    barrierScope 0x2003 = some (.sp, 8) ∧ (joining 0x2003 .idle [other]).membership 9 = none ∧
    (joining 0x2003 .idle [other]).instanceAt .sp 9 = some other := by
  refine ⟨by unfold State.gives; decide +kernel, notRefused (sc := .sp) (limit := 8) ?_ ?_ ?_ ?_ ?_ ?_ ?_, ?_, ?_, ?_⟩ <;>
    decide +kernel
/-- The team of the turn is a member of a .mo instance of two, before any arrival. -/
def membered (w : W64) : State := joining w .idle [member none false]
theorem witness_Bset_again :
    (membered 0x4002).gives 0 16 0x4002 ∧ ¬(membered 0x4002).bsetRefused 9 0x4002 ∧ barrierScope 0x4002 = some (.mo, 768) ∧
    (membered 0x4002).instanceAt .mo 9 = some (member none false) ∧ (membered 0x4002).membership 9 = some (member none false) := by
  refine ⟨by unfold State.gives; decide +kernel, notRefused (sc := .mo) (limit := 768) ?_ ?_ ?_ ?_ ?_ ?_ ?_, ?_, ?_, ?_⟩ <;>
    decide +kernel
theorem witness_Bset_leave :
    (membered 0x4000).gives 0 16 0x4000 ∧ ¬(membered 0x4000).bsetRefused 9 0x4000 ∧ ((0x4000 : W64).extractLsb' 0 10).toNat = 0 ∧
    (membered 0x4000).membership 9 = some (member none false) := by
  refine ⟨by unfold State.gives; decide +kernel, notRefused (sc := .mo) (limit := 768) ?_ ?_ ?_ ?_ ?_ ?_ ?_, ?_, ?_⟩ <;>
    decide +kernel
theorem witness_BarrierResults :
    ((atBarrier none).membership 9 = some (barrier none) ∧ (barrier none).broken = false ∧
      (barrier none).lastGen (atBarrier none).team ≠ some (barrier none).gen ∧
      ∃ t, (atBarrier none).releasesTo .sp t ∧ t.membership 9 = some (barrier none)) ∧
    (∀ g ∈ [3, 4], (joining 0 .idle [member (some g) false]).membership 9 = some (member (some g) false) ∧
      (member (some g) false).lastGen (joining 0 .idle []).team = some g ∧ (joining 0 .idle []).myCtx.phase = .idle) ∧
    (3 < (member (some 3) false).gen ∧ (member (some 4) false).gen ≤ 4) ∧
    (∀ b ∈ [true, false], (joining 0 (.bwait 4) [member (some 4) b]).membership 9 = some (member (some 4) b) ∧
      (member (some 4) b).lastGen (joining 0 (.bwait 4) []).team = some 4 ∧ (joining 0 (.bwait 4) []).myCtx.phase = .bwait 4) ∧
    (joining 0 (.bwait 3) [member (some 3) true]).membership 9 = some (member (some 3) true) ∧
    (joining 0 .idle []).membership 255 = none := by
  refine ⟨⟨?_, ?_, ?_, ⟨_, ⟨?_, rfl⟩, ?_⟩⟩, ?_, ?_, ?_, ?_, ?_⟩ <;> decide +kernel
theorem witness_BarrierGenerations :
    let x : Barrier := ⟨1, 0, 9, .sp, 0, 2, [⟨1, 0, none⟩, ⟨1, 1, none⟩], 4, 0, false⟩
    let ts : List Team := [team, { team with idx := 1 }]
    x.arrivals = 0 ∧ (∀ t ∈ ts, x.hasMember t = true) ∧ 0 < ts.length ∧ ts.length ≤ x.count ∧
    (ts.Pairwise fun t u => ¬(t.seq = u.seq ∧ t.idx = u.idx)) ∧ [team].length < x.count ∧ ts.length = x.count := by
  decide +kernel
/-- A context whose watch is armed. -/
def watching (x : Bench) : Bench := ctxIs (fun k => { k with watch := some 0 }) x
def watched : State := { on .c 0 watching with watches := [⟨0, 0, 0, 0, 0, none⟩] }
theorem witness_WatchResults :
    (∃ s1, (on .c 0 atTop).gives 0 16 top8 ∧
      (on .c 0 atTop).check 0 top8.toNat 1 .read true false = (s1, .ok ⟨page, 0xBFFFFFFFF8⟩) ∧ s1.notRemote ∧
      s1.region 0xBFFFFFFFF8 = .mem 7) ∧
    (on .c 0 id).myCtx.watch = none ∧ (on .c 0 watching).myCtx.wake = false ∧ (on .c 0 watching).myCtx.watch ≠ none := by
  refine ⟨⟨_, ?_, sndIs ?_, notRemote_of ?_, ?_⟩, ?_, ?_, ?_⟩ <;> (try unfold State.gives) <;> decide +kernel
theorem witness_StoreWakes : ∃ w ∈ watched.watches, w.remote = none ∧ w.line = 127 / 128 := by decide +kernel

theorem witness_QueueResults :
    ((on .c 0 id).cur.ctx = 0 ∧ (on .c 0 id).gives 0 0 0 ∧
      ((on .c 0 fun x => { x with queues := x.queues.set 3 (List.replicate 15 0) }).here.queued 3).length < 16) ∧
    (on .c 0 flagged).here.flagq = [1] ∧ (on .c 1 id).cur.ctx ≠ 0 ∧ (on .c 0 id).here.flagq = [] := by
  unfold State.gives; decide +kernel
/-- Every FIFO from C holds 7 tokens and every FIFO to C one. -/
def tokens : Vector Nat 20 := #v[7, 7, 7, 7, 1, 0, 0, 0, 1, 0, 0, 0, 1, 0, 0, 0, 1, 0, 0, 0]
def tokened (x : Bench) : Bench := { x with tokens := tokens }
theorem witness_TokenResults :
    (∃ t, (on .c 0 tokened).mayName 15 ∧ (on .c 0 tokened).releasesTo .en t ∧
      ∀ g ∈ maskStreams .c 15, vget t.here.tokens (fifo .c g) 0 < 8) ∧
    ((on .c 3 tokened).mayName 8 ∧ ∀ g ∈ maskStreams .c 8, 0 < vget (on .c 3 tokened).here.tokens (fifo g .c) 0) ∧
    ¬(on .c 3 tokened).mayName 9 := by
  refine ⟨⟨_, ?_, ⟨?_, rfl⟩, ?_⟩, ⟨?_, ?_⟩, ?_⟩ <;> (try unfold State.mayName) <;> decide +kernel
theorem witness_TokenFifos : (Stream.c : Stream) ≠ .s ∧ fifo .s .v < 20 := by decide
theorem witness_TailJoin :
    (∃ t, (on .c 0 id).cur.ctx = 0 ∧ (on .c 0 id).settleBuffer = t ∧ ∀ c : Fin 4, joins 0 c = true → (t.here.ctx c).live = false ∧
      ∀ e ∈ t.here.c.sb, e.ctx ≠ c) := by
  refine ⟨_, ?_, rfl, ?_⟩ <;> decide +kernel

theorem witness_SpecialReads : (on .c 0 (handling 3)).here.c.handler ≠ none ∧ (on .c 0 id).here.c.handler = none ∧
    ∀ n ∈ [(0x0A : Byte), 0x15, 0xFF], (∀ p ∈ (on .c 0 id).sregTable, p.1 ≠ n) ∧ ∀ p ∈ (on .c 0 id).hregTable, p.1 ≠ n := by
  refine ⟨by decide +kernel, by decide +kernel, ?_⟩
  simp [State.sregTable, State.hregTable]
/-- The main context is deep, with a spilled group and `n` free groups. -/
def deep (n : Nat) (x : Bench) : Bench :=
  let y := ctxIs (fun k => { k with depth := 12, spilled := 1 }) (paged x)
  { y with c := { y.c with spill := 0x10000, groups := Vector.ofFn fun i : Fin 16 => if i.val < n then .free else .held 0 } }
theorem witness_SpecialWrites : (on .c 0 (handling 0)).gives 0 0 0 ∧ (on .c 0 (handling 0)).here.anySpilled = false ∧
    (on .c 0 (handling 0)).engineBusy 0 = false ∧ ((on .c 0 (deep 0)).gives 0 0 0 ∧ (on .c 0 (deep 0)).engineBusy 0 = true) ∧
    ((on .c 0 (deep 4)).gives 0 0 0 ∧ (on .c 0 (deep 4)).engineBusy 0 = false ∧ (on .c 0 (deep 4)).here.anySpilled = true) ∧
    (on .c 0 (holding 4)).gives 0 16 4 ∧ (4 : W64).toNat % 8 < 5 ∧ (on .c 0 (holding 5)).gives 0 16 5 ∧ 5 ≤ (5 : W64).toNat % 8 ∧
    (on .c 0 (handling 0)).here.c.handler ≠ none ∧ (on .c 0 (holding 5)).here.c.handler = none ∧
    (0x11 : Byte) ∉ [(0x05 : Byte), 0x08, 0x09, 0x10, 0x12, 0x14] := by unfold State.gives; decide +kernel
theorem on_other (st : Stream) (c : Fin 4) (f : Bench → Bench) {b : BenchId} (h : b ≠ 0) : (onLate st c f).bench b = .idle := by
  have h2 : (0 : Nat) ≠ b.val := fun e => h (Fin.ext e.symm)
  simp [State.bench, onLate, on, State.reset, h2]
theorem witness_SpecialComplete :
    ((0x09 : Byte).toNat < 0x0A ∧ (on .c 3 (handling 0)).here.c.handler.isSome = true) ∧
    ((on .c 0 (holding 4)).gives 0 16 4 ∧ (4 : W64).toNat % 8 < 5 ∧ (on .c 0 (holding 4)).here.anySpilled = false ∧
      (on .c 0 (holding 4)).engineBusy 0 = false) ∧
    (let s := onLate .c 0 fun x => handling 0 (paged x)
     s.gives 0 0 0 ∧ s.here.c.handler.isSome = true ∧ (5 : Byte).toNat < 6 ∧ s.here.c.sb = [] ∧
     ∀ b, (s.bench b).usesLeaf (tlbiHits 5 s.here.tenant 0) = false) := by
  refine ⟨by decide +kernel, ?_, ?_, ?_, ?_, ?_, fun b => ?_⟩
  case refine_6 =>
    by_cases h : b = 0
    · subst h; decide +kernel
    · have h1 := on_other .c 0 (fun x => handling 0 (paged x)) h
      show ((onLate .c 0 fun x => handling 0 (paged x)).bench b).usesLeaf _ = false
      rw [h1]; decide +kernel
  all_goals (try unfold State.gives); decide +kernel
theorem witness_TrapEntry : (on .c 3 id).canTrap := by unfold State.canTrap; decide +kernel
theorem witness_TrapReturn : (on .c 3 (handling 3)).here.c.handler = some 3 ∧
    (on .c 2 (handling 3)).here.c.handler ≠ some (on .c 2 (handling 3)).cur.ctx := by decide +kernel
theorem witness_TrapThenReturn : (on .c 0 id).canTrap := by unfold State.canTrap; decide +kernel
/-- A load of context 0 that another module answers. -/
def awayLoad : PendLoad :=
  ⟨0, 0, 0, none, 8, false, .sp, 0, 0, 1, false, page, 0, none, ⟨0, 0, false⟩, true, ⟨[], .empty, .empty, []⟩⟩
theorem witness_PreciseFaults : (on .c 0 id).canTrap ∧ (on .c 0 (handling 1)).here.c.handler ≠ none ∧
    (on .c 0 fun x => { x with c := { x.c with loads := [awayLoad] } }).here.unsure 0 = true ∧
    (∀ f ∈ [id, handling 0, handling 1, fun x => { x with c := { x.c with trap := 0 } }], (on .c 0 f).here.unsure 0 = false) ∧
    (on .c 0 (handling 0)).here.c.handler = some (on .c 0 (handling 0)).cur.ctx ∧ (on .c 0 (handling 1)).here.c.handler = some 1 ∧
    (on .c 0 fun x => { x with c := { x.c with trap := 0 } }).here.c.trap = 0 := by unfold State.canTrap; decide +kernel
theorem witness_SystemCalls :
    (∃ t, (on .c 0 id).releasesTo .mo t ∧ (on .c 0 id).myCtx.phase = .idle) ∧
    ∃ t, (on .c 0 (ctxIs fun k => { k with phase := .sysc 255 true })).releasesTo .mo t ∧
      (on .c 0 (ctxIs fun k => { k with phase := .sysc 255 true })).myCtx.phase = .sysc 255 true := by
  refine ⟨⟨_, ⟨?_, rfl⟩, ?_⟩, _, ⟨?_, rfl⟩, ?_⟩ <;> decide +kernel
theorem witness_TlbInvalidate :
    let s := onLate .c 0 fun x => handling 0 (paged x)
    ((on .c 0 id).gives 0 0 0 ∧ (on .c 0 id).here.c.handler = none) ∧ (s.gives 0 0 0 ∧ s.here.c.handler ≠ none) ∧
    6 ≤ (6 : Byte).toNat ∧ (5 : Byte).toNat < 6 ∧ tlbiHits 5 s.here.tenant 0 page = true ∧
    ∀ b, (s.settleBuffer.bench b).usesLeaf (tlbiHits 5 s.here.tenant 0) = false := by
  refine ⟨?_, ?_, by decide, by decide, by decide +kernel, fun b => ?_⟩
  · unfold State.gives; decide +kernel
  · unfold State.gives; decide +kernel
  · by_cases h : b = 0
    · subst h; decide +kernel
    · have h1 := on_other .c 0 (fun x => handling 0 (paged x)) h
      show ((onLate .c 0 fun x => handling 0 (paged x)).bench b).usesLeaf _ = false
      rw [h1]; decide +kernel
/-- Tenant 0's table entry is valid, and a record of one bench lies at 0x80. -/
def launching : State :=
  withMem [(0, 1), (0xB0, 1), (0xB1, 0xA0)] { on .c 0 (fun x => holding 0x80 (paged x)) with bootStage := 2 }
def readOf : ReadRes → Option (Nat ⊕ Byte)
  | .val v => some (.inl v)
  | .fault c => some (.inr c)
  | .wait => none
theorem okRead {r : State × ReadRes} {v : Nat} (h : readOf r.2 = some (.inl v)) : r = (r.1, .val v) := by
  obtain ⟨a, b⟩ := r; cases b <;> simp_all [readOf]
theorem witness_LaunchResults :
    ∃ s1 t u z n, launching.gives 0 16 0x80 ∧ launching.myCtx.phase = .idle ∧ launching.check 0 (0x80 : W64).toNat 128 .read false false = (s1, .ok ⟨page, 0x80⟩) ∧
      s1.releasesTo .di t ∧ t.launchRecord (.of t.cur.bench .c t.cur.ctx) ⟨page, 0x80⟩ = (u, .val (0xA001 * 2 ^ 384)) ∧
      t.cur = launching.cur ∧ u.cur = t.cur ∧
      (let r := recordWords (leBytes 128 (0xA001 * 2 ^ 384))
       u.queueRoom 0 (runQueue (ctlPrio (recWord r 6)) (ctlTenant (recWord r 6))) = true ∧
       ctlTenant (recWord r 6) = u.here.tenant ∧ u.accept (.of t.cur.bench .c t.cur.ctx) 0 (ctlTenant (recWord r 6)) r = (z, some n) ∧
       recWord r 7 = 0 ∧ n ≠ 0) := by
  refine ⟨_, _, _, _, 1, ?_, ?_, sndIs ?_, ⟨?_, rfl⟩, okRead ?_, ?_, ?_, ?_, ?_, sndIs ?_, ?_, ?_⟩ <;> (try unfold State.gives) <;>
    decide +kernel
/-- The record of `launching` has been read, and its acceptance waits. -/
def relaunching : State :=
  let s := launching
  { s with benches := s.benches.set 0 { ctxIs (fun k => { k with phase := .launch }) s.here with
      asks := [⟨.c, 0, 0x80, 128, 0, some (0xA001 * 2 ^ 384, 0), page⟩] } }
theorem witness_LaunchResults_again :
    ∃ z n, relaunching.gives 0 16 0x80 ∧ relaunching.myCtx.phase = .launch ∧
      relaunching.readRecord (.of 0 .c 0) = some (0xA001 * 2 ^ 384) ∧
      (let r := recordWords (leBytes 128 (0xA001 * 2 ^ 384))
       relaunching.queueRoom 0 (runQueue (ctlPrio (recWord r 6)) (ctlTenant (recWord r 6))) = true ∧
       ctlTenant (recWord r 6) = relaunching.here.tenant ∧
       relaunching.accept (.of 0 .c 0) 0 (ctlTenant (recWord r 6)) r = (z, some n)) := by
  refine ⟨_, 1, ?_, ?_, ?_, ?_, ?_, sndIs ?_⟩ <;> (try unfold State.gives) <;> decide +kernel
theorem witness_LaunchReads :
    let s := launching
    s.region 0xBFFFFFFF80 = .mem 7 ∧ s.closingRange 0xBFFFFFFF80 = false ∧ (s.die 7).rdc = [] ∧ s.trackers = [] ∧ s.poison = [] ∧
    0xBFFFFFFF80 % 128 + 128 ≤ 128 := by decide +kernel
/-- A queued launch of tenant 0 with one bench and nothing saved. -/
def launch : Hitch :=
  ⟨1, 0, 0, ⟨#v[0x100, 0, 0, 0, 0], 7, 0xA001, []⟩, 0, 0, 0, .queued, [], [], [], [], none, [], ⟨0, 0, 0, 0, 0⟩⟩
/-- Die 0 has issued launch 1, which has not retired. -/
def launched (h : Hitch) : State :=
  let s := on .c 0 (holding 1)
  { s with dies := s.dies.set 0 { Die.start with launches := 1, queues := Die.start.queues.set 0 [1] }, hitches := [h] }
theorem witness_LaunchWaits :
    (on .c 0 id).gives 0 0 0 ∧ (launched launch).gives 0 16 1 ∧ (launched launch).issued 1 = true ∧ (launched launch).hitch 1 ≠ none ∧
    ({ launched launch with hitches := [] } : State).issued 1 = true ∧ ({ launched launch with hitches := [] } : State).hitch 1 = none ∧
    (on .c 0 (holding 1)).gives 0 16 1 ∧ (on .c 0 (holding 1)).issued 1 = false := by unfold State.gives; decide +kernel
theorem witness_ReadingAndEnding :
    (on .c 0 id).cur.ctx = 0 ∧ (on .c 0 id).before[(0 : BenchId)].estat 0 = some 0 ∧ ((on .c 0 id).before[(0 : BenchId)].estat 15).isSome = true ∧
    ((7 : Byte).toNat = 7 ∧ 16 ≤ (16 : Byte).toNat) ∧ (on .c 0 id).here.c.handler = none ∧ (on .c 1 id).cur.ctx ≠ 0 := by
  decide +kernel

/-! ### Witnesses: engines and L -/

/-- Level 0 runs, at iteration `i` of `n`. -/
def looping (st : Stream) (i n : W32) : Bench → Bench := engIs st fun e =>
  { e with loops := e.loops.set 0 ⟨true, n, i, #v[0, 0, 0, 0], 0x40⟩ }
/-- Levels 0 to 4 run. -/
def nested (st : Stream) : Bench → Bench := engIs st fun e =>
  { e with loops := (Vector.replicate 6 ⟨true, 2, 0, #v[0, 0, 0, 0], 0x40⟩).set 5 .off }

/-- Entries wait in every value queue. -/
def queued (es : List W64) (x : Bench) : Bench := { x with queues := Vector.replicate 4 es }

theorem witness_EngineHeaders :
    (let s := on .v 0 fun x => queued [0, 0, 0, 0] (nested .v x)
     headed (.vli ⟨false, 5, false, true, 0, 0⟩ ⟨0, 0, 0⟩) = some (⟨false, 5, false, true, 0, 0⟩, false) ∧ s.myEng.issued = false ∧
      ¬headFits ⟨false, 5, false, true, 0, 0⟩ s.myEng false ∧ ¬headSkips ⟨false, 5, false, true, 0, 0⟩ s.myEng ∧
      s.supplied ⟨false, 5, false, true, 0, 0⟩ ∧ ¬headFits ⟨false, 0, false, true, 0, 0⟩ s.myEng true ∧
      ¬headSkips ⟨false, 0, false, true, 0, 0⟩ s.myEng ∧ s.supplied ⟨false, 0, false, true, 0, 0⟩) ∧
    headSkips ⟨false, 0, true, false, 0, 0⟩ (on .l 0 (looping .l 0 2)).myEng ∧
    headFits ⟨false, 0, true, true, 0, 8⟩ (on .l 0 (looping .l 0 1)).myEng false ∧
      ¬headSkips ⟨false, 0, true, true, 0, 8⟩ (on .l 0 (looping .l 0 1)).myEng ∧
      (on .l 0 (looping .l 0 1)).myEng.taken = false ∧
      (∃ g ∈ maskStreams .l 8, vget (on .l 0 (looping .l 0 1)).here.tokens (fifo g .l) 0 = 0) ∧
    (rdvOf (.vRdv ⟨false, 5, false, true, 0, 0⟩)).isSome = true := by
  unfold headFits headSkips headSelects State.supplied; decide +kernel

/-- P has a segment open in which nothing has been reached, of `n` steps and the signature of no word (R261). -/
def segmented (n : BitVec 24) (x : Bench) : Bench :=
  { x with plane := { x.plane with regs := { x.plane.regs with seg := some ⟨n, 0, 0, 0xFFFFFFFF⟩ } } }
theorem witness_EngineHeaders_P :
    (planeHead (.pcommit ⟨false, 5, false, true, 0, 0⟩)).isSome = true ∧ (planeHead (.pzero h0 1)).isSome = true ∧
    (∀ f ∈ [fun x => queued [0, 0, 0, 0] (nested .p x), looping .p 0 1, looping .p 0 2], (on .p 0 f).cur.stream = .p ∧
      (on .p 0 f).myEng.issued = false ∧ (on .p 0 f).plane.regs.seg = none ∧ (on .p 0 f).myEng.taken = false) ∧
    (let s := on .p 0 fun x => queued [0, 0, 0, 0] (nested .p x)
     ¬headFits ⟨false, 5, false, true, 0, 0⟩ s.myEng false ∧ ¬headSkips ⟨false, 5, false, true, 0, 0⟩ s.myEng ∧
     s.supplied ⟨false, 5, false, true, 0, 0⟩) ∧
    headSkips ⟨false, 0, true, false, 0, 0⟩ (on .p 0 (looping .p 0 2)).myEng ∧
    ¬headSkips ⟨false, 0, true, true, 0, 8⟩ (on .p 0 (looping .p 0 1)).myEng ∧
    (∃ g ∈ maskStreams .p 8, vget (on .p 0 (looping .p 0 1)).here.tokens (fifo g .p) 0 = 0) ∧
    (on .p 0 (segmented 1)).plane.regs.seg = some ⟨1, 0, 0, 0xFFFFFFFF⟩ ∧ (⟨1, 0, 0, 0xFFFFFFFF⟩ : Seg).ok = false ∧
    (on .p 0 (segmented 0)).plane.regs.seg = some ⟨0, 0, 0, 0xFFFFFFFF⟩ ∧ (⟨0, 0, 0, 0xFFFFFFFF⟩ : Seg).ok = true := by
  unfold headFits headSkips headSelects State.supplied; decide +kernel

def fullFifos (x : Bench) : Bench := { x with tokens := Vector.replicate 20 8 }
theorem witness_EngineRetires :
    (let s := on .v 0 tokened
     s.cur.stream = .v ∧ s.myEng.gives = [] ∧ s.myEng.flags = [] ∧ s.here.vfly = [] ∧ s.cur.late = false ∧ s.here.canGive .v (maskStreams .v 15) = true) ∧
    (let s := on .l 0 fullFifos
     s.cur.stream = .l ∧ s.myEng.gives = [] ∧ s.myEng.flags = [] ∧ s.here.vfly = [] ∧ s.here.canGive .l (maskStreams .l 1) = false) ∧
    (onLate .l 0 tokened).cur.late = true := by decide +kernel

theorem witness_LoopResults :
    ((Machine.loopOf (Instr.vLoop h0 ⟨0xFFFFFFFF, false, 5⟩)).isSome = true ∧ (on .v 0 (nested .v)).issues h0 true 0 ∧
      ((on .v 0 (nested .v)).atIssue h0 0).myEng.mayOpen 5 = true) ∧
    ((on .s 0 (queued [1])).issues h0 true 1 ∧ ((on .s 0 (queued [1])).atIssue h0 1).myEng.mayOpen 0 = true ∧
      entryCount (((on .s 0 (queued [1])).entriesAt 1).getD 0 0) ≠ 0) ∧
    ((endlOf (Instr.lEndl h0 0)).isSome = true ∧ (on .l 0 (looping .l 0 2)).issues h0 true 0 ∧
      ((on .l 0 (looping .l 0 2)).atIssue h0 0).myEng.isTop 0 = true) ∧
    ((on .l 0 (looping .l 1 2)).issues h0 true 0 ∧ ((on .l 0 (looping .l 1 2)).atIssue h0 0).myEng.isTop 0 = true) ∧
    ((Machine.strideOf (Instr.slset h0 ⟨1, 3, 5⟩)).isSome = true ∧ (on .s 0 id).issues h0 false 0) ∧
    (rdvOf (Instr.vRdv h0)).isSome = true ∧ (on .v 0 id).issues h0 false 0 := by unfold State.issues; decide +kernel
theorem witness_BankWrites : 15 < 16 ∧ Mem.wf ((on .l 0 id).here.bank 15) = true ∧ 0 ≤ 32 * 0 ∧
    32 * 0 + 32 ≤ 0 + (List.replicate 32 (0 : Byte)).length := by decide +kernel

/-- A descriptor at 0x140: F32, one dimension of four words. -/
def descriptor : Mem := [(0x150, 4), (0x154, 4)]
/-- Feeds bound to it: feed 0 for reading, feed 1 with two rows of four words, feed 2 for writing. -/
def feed0 : Feed := ⟨.unused, 0, [(4, 4)], 0x400, [0], 0, 0, none, []⟩
def feed1 : Feed := ⟨.unused, 0x100, [(4, 4), (2, 16)], 0x400, [0, 0], 0, 0, none, []⟩
def fed (x : Bench) : Bench := { (paged x) with feeds := (x.feeds.set 0 feed0).set 1 feed1 }
/-- An index list with the one row 1 at the start of bank 1. -/
def listed (x : Bench) : Bench := { (fed x) with banks := x.banks.set 1 [(0, 1), (4, 1)] }

def fetchedOf : Fetched → Option (List Byte × Option Leaf × List (Nat × Nat))
  | .ok _ bs tr ls => some (bs, tr, ls)
  | _ => none
theorem okFetched {r : Fetched} {bs : List Byte} {tr : Option Leaf} {ls : List (Nat × Nat)} (h : fetchedOf r = some (bs, tr, ls)) :
    ∃ t, r = .ok t bs tr ls := by cases r <;> simp_all [fetchedOf]
def poppedOf : Popped → Option (Feed × FBlock)
  | .ok _ f k => some (f, k)
  | _ => none
theorem okPopped {r : Popped} {p : Feed → FBlock → Bool} (h : ((poppedOf r).map fun q => p q.1 q.2) = some true) :
    ∃ t f k, r = .ok t f k ∧ p f k = true := by cases r <;> simp_all [poppedOf]
theorem okRun {r : Except Byte Run} {a : Run} (h : r.toOption = some a) : r = .ok a := by
  cases r <;> simp_all [Except.toOption]

theorem witness_FeedResults_FBIND :
    (let s := withMem descriptor (on .l 0 fun x => queued [0x400] (paged x))
     let s1 := s.atIssue h0 1
     let bs := Mem.read descriptor 0x140 64
     s.issues h0 false 1 ∧ (s.entriesAt 1).length = 1 ∧
     (∃ t, s1.fetchPieces 0 ⟨.sp, 1, false, some .l⟩ [(descAddr ⟨1, false, 15⟩ 0x100 [0x400], 64)] none =
       .ok t bs (some page) [(0x140, 64)]) ∧
     fdWild ((words8 bs).getD 0 0) = false ∧ bindFault (words8 bs) (fdDimList (words8 bs) 1) 0x400 = none ∧
     s.noOverlap [feedAcc 15]) ∧
    (let s := withMem [(0x141, 8), (0x154, 4)] (on .l 0 fun x => queued [0x400, 9] (paged x))
     let s1 := s.atIssue h0 1
     let bs := Mem.read s.mem 0x140 64
     s.issues h0 false 1 ∧ fdWild ((words8 bs).getD 0 0) = true ∧ (s1.bound [(0x140, 64)]).here.queued 0 = 9 :: [] ∧
     bindFault (words8 bs) [(entryCount 9, 4)] 0x400 = none) := by
  refine ⟨⟨?_, ?_, okFetched ?_, ?_, ?_, ?_⟩, ?_⟩ <;> (try unfold State.issues) <;> (try unfold State.noOverlap) <;> decide +kernel
theorem witness_FeedResults_FLOAD :
    let s := on .l 0 fed
    let s1 := s.atIssue h0 0
    let r : Run := ⟨0, 0, false, 0, 0x1FFF0⟩
    s.issues h0 false 0 ∧ s1.opRun ⟨0, 0, 0x1FFF0⟩ 1 r ∧ (∃ t f k, s1.popBlock 0 0 = .ok t f k ∧ (k.n == 4) = true) ∧
    inBank r.off (r.bytes 4) = true ∧ s.noOverlap [r.acc 4 true, feedAcc 0] := by
  refine ⟨?_, ⟨?_, okRun ?_⟩, okPopped ?_, ?_, ?_⟩ <;> (try unfold State.issues) <;> (try unfold State.noOverlap) <;> decide +kernel
theorem witness_FeedResults_FGATH :
    let s := on .l 0 listed
    let s1 := s.atIssue h0 0
    let x := s1.here
    let f := x.feed 1
    let r : Run := ⟨0, 0, false, 0, 0⟩
    s.issues h0 false 0 ∧ bfFmt (x.bf 1) = 0 ∧ bfDith (x.bf 1) = false ∧ s1.opRun b0 0 r ∧ f.gathers = true ∧ f.dir ≠ .wr ∧
    x.indexFault 1 0 2 = none ∧ (x.indexList 1 0).1 = 1 ∧ (x.indexList 1 0).2.length = 1 ∧ inBank r.off (r.bytes 4) = true ∧
    (∃ t, s1.fetchPieces 0 (f.reading (some .l)) ((x.indexList 1 0).2.flatMap f.rowPieces) none =
      .ok t (List.replicate 16 0) (some page) [(0x410, 4), (0x414, 4), (0x418, 4), (0x41C, 4)]) ∧
    s.noOverlap [⟨1, 0, 8, false⟩, r.acc 4 true] := by
  refine ⟨?_, ?_, ?_, ⟨?_, okRun ?_⟩, ?_, ?_, ?_, ?_, ?_, ?_, okFetched ?_, ?_⟩ <;> (try unfold State.issues) <;>
    (try unfold State.noOverlap) <;> decide +kernel

theorem okPref {r : Pref} (h : (match r with | .ok _ => true | .wait _ => false) = true) : ∃ t, r = .ok t := by
  cases r <;> simp_all

theorem witness_LoadEngineResults :
    (let s := on .l 0 id
     let x := (s.atIssue h0 0).here
     s.issues h0 false 0 ∧ x.run 15 0x1FFE0 1 = .ok ⟨15, 0, false, 0, 0x1FFE0⟩ ∧ x.run 0 0x1FFFC 1 = .ok ⟨0, 0, false, 0, 0x1FFFC⟩ ∧
     x.lcvc.nm1 = 0 ∧ x.bankPoisoned 15 0x1FFE0 4 = false ∧ s.noOverlap [⟨15, 0x1FFE0, 0x1FFE4, false⟩, ⟨0, 0x1FFFC, 0x20000, true⟩] ∧
     bfsetRefused (x.bf 15) 0 = false ∧ s.noOverlap [⟨15, 0, 0x20000, true⟩] ∧ s.cur.stream = .l) ∧
    (∃ t, ((on .l 0 fed).atIssue h0 0).prefetch ⟨0, 0, 0⟩ = .ok t) ∧ (fmtReserved 14 = true ∨ fmtReserved 15 = true) ∧ fmtDithers 0 = false := by
  refine ⟨⟨?_, okRun ?_, okRun ?_, ?_, ?_, ?_, ?_, ?_, ?_⟩, okPref ?_, ?_, ?_⟩ <;> (try unfold State.issues) <;> (try unfold State.noOverlap) <;> decide +kernel

/-! ### Witnesses: P -/

theorem segOk_of {s : State} (h : s.plane.regs.seg = none) : s.segOk := by intro q hq; simp [h] at hq
def planeIs (f : Plane → Plane) (x : Bench) : Bench := { x with plane := f x.plane }
/-- A tile of 4 × 1 cells is open. -/
def tiled : Bench → Bench := planeIs fun p => { p with tile := true, pgeo := 3, point := some .start }

theorem witness_PlaneControl :
    ((on .p 0 id).pIssues h0 (.ptile h0 ⟨false, 0x2003⟩) false false 0 ∧ (on .p 0 id).plane.replay = none ∧
      geoOk ((0x2003 : BitVec 26).setWidth 32) (posOf 0) = true) ∧
    ((on .p 0 tiled).endSeg.pIssues h0 (.pcommit h0) true false 0 ∧ (on .p 0 tiled).segOk ∧
      ((on .p 0 tiled).endSeg.atIssue h0 0).plane.checked 0xFF = true) ∧
    ((on .p 0 tiled).pIssues h0 (.pshift h0 9 8) true false 0 ∧ -7 ≤ (9 : BitVec 4).toInt ∧ (8 : BitVec 4).toInt = -8 ∧
      (on .p 0 tiled).pIssues h0 (.pshiftRel h0 9 7) true false 0 ∧
      -7 ≤ ((on .p 0 tiled).atIssue h0 0).plane.regs.by_ + (9 : BitVec 4).toInt ∧
      ((on .p 0 tiled).atIssue h0 0).plane.regs.by_ + (7 : BitVec 4).toInt ≤ 7) ∧
    ((0x80 : Byte) ≠ 0 ∧ (on .p 0 tiled).pIssues h0 (.pzero h0 0x80) true false 0 ∧
      (on .p 0 tiled).pIssues h0 (.pchk h0 0x80) true false 0 ∧ ((on .p 0 tiled).atIssue h0 0).plane.checked 0x80 = true) ∧
    ((on .p 0 id).pIssues h0 (.pmode h0 5) false false 0 ∧ (5 : BitVec 3).toNat < 6 ∧
      (on .p 0 id).pIssues h0 (.pmode h0 6) false false 0 ∧ 6 ≤ (6 : BitVec 3).toNat) ∧
    (on .p 0 id).endSeg.pIssues h0 (.pseg h0 0 0) false false 0 ∧ (on .p 0 id).segOk := by
  refine ⟨?_, ⟨?_, segOk_of ?_, ?_⟩, ?_, ?_, ?_, ?_, segOk_of ?_⟩ <;> (try unfold State.pIssues) <;> (try unfold State.issues) <;>
    decide +kernel

theorem witness_PlaneLoops :
    ((on .p 0 (nested .p)).endSeg.pIssues h0 (.ploop h0 ⟨0, 0, 0, 0, 1, false, 5⟩) false true 0 ∧ (on .p 0 (nested .p)).segOk ∧
      ((on .p 0 (nested .p)).endSeg.atIssue h0 0).myEng.mayOpen 5 = true ∧ (on .p 0 (nested .p)).cur.stream = .p) ∧
    ((on .p 0 (queued [0xFFFFFFFF])).endSeg.pIssues h0 (.ploop h0 ⟨0, 0, 0, 0, 0, true, 0⟩) false true 1 ∧
      ((on .p 0 (queued [0xFFFFFFFF])).endSeg.atIssue h0 1).myEng.mayOpen 0 = true ∧
      entryCount (((on .p 0 (queued [0xFFFFFFFF])).endSeg.entriesAt 1).getD 0 0) ≠ 0) ∧
    ((on .p 0 (looping .p 0 1)).endSeg.pIssues h0 (.pendl h0 0) false true 0 ∧ (on .p 0 (looping .p 0 1)).segOk ∧
      ((on .p 0 (looping .p 0 1)).endSeg.atIssue h0 0).myEng.isTop 0 = true) ∧
    (on .p 0 id).endSeg.pIssues h0 (.pRdv h0) false false 0 ∧ (on .p 0 id).segOk := by
  refine ⟨⟨?_, segOk_of ?_, ?_⟩, ?_, ⟨?_, segOk_of ?_, ?_⟩, ?_, segOk_of ?_⟩ <;> (try unfold State.pIssues) <;>
    (try unfold State.issues) <;> decide +kernel

/-- The run of the last `n` words of bank 0. -/
def lastRun (n : Nat) : Run := ⟨0, 0, false, 0, 0x20000 - 4 * n⟩
theorem pRun_of {s : State} {o : Bop} {fmt : BitVec 4} {n : Nat} {r : Run}
    (h : fmtReserved fmt = false ∧ bankFmtOk s.cap o fmt = true ∧ (s.cap.run o n).toOption = some r) : s.pRun o fmt n r :=
  ⟨h.1, h.2.1, okRun h.2.2⟩

theorem pFree_of {s : State} {acc : List Acc} (h : s.noOverlap acc) : s.pFree acc := fun _ => h

theorem witness_PlaneSteps :
    let s := on .p 0 tiled
    let s1 := s.atIssue h0 0
    let k : PCorrOp := ⟨5, 9, 7, 3, 3, 0, 0, true, false, 0, b0⟩
    (s.pIssues h0 (.psheet h0 ⟨4, false, 0, ⟨0, 0, 0x1FFF0⟩⟩) true false 0 ∧ s1.pRun ⟨0, 0, 0x1FFF0⟩ 0 4 (lastRun 4) ∧
      s1.clean 0 [(lastRun 4).part 0 4] ∧ s.pFree (readAccs 0 [(lastRun 4).part 0 4])) ∧
    (s.pIssues h0 (.pwgt h0 ⟨0, ⟨0, 0, 0x1FFE0⟩⟩) true false 0 ∧ s1.pRun ⟨0, 0, 0x1FFE0⟩ 0 8 (lastRun 8) ∧
      s1.clean 0 [(lastRun 8).part 0 8] ∧ s.pFree [(lastRun 8).acc 8 false]) ∧
    (s.pIssues h0 (.pcorr h0 k) true false 0 ∧ (∀ t ∈ pcorrTaps k s1.plane.regs.by_ s1.plane.regs.bx,
        -7 ≤ t.1 ∧ t.1 ≤ 7 ∧ -7 ≤ t.2 ∧ t.2 ≤ 7) ∧ profOk 5 0 = true ∧ fmtReserved 0 = false ∧
      (pcorrTaps k s1.plane.regs.by_ s1.plane.regs.bx).length - s1.myEng.step ≤ s1.stepsLeft) ∧
    (s.pIssues h0 (.pmm h0 ⟨0, 4, 0, 0, ⟨0, 0, 0x1FFF0⟩, ⟨0, 0, 0x1FFE0⟩⟩) true false 0 ∧ profOk 3 0 = false ∧
      profOk 0 0 = true ∧ pmmElem 0 4 1 0 3 0 + 1 = 4 ∧ 1 - s1.myEng.step ≤ s1.stepsLeft ∧
      s.pFree (readAccs 0 [(lastRun 4).part 0 4] ++ [(lastRun 8).acc 8 false])) := by
  refine ⟨⟨?_, pRun_of ?_, ?_, pFree_of ?_⟩, ⟨?_, pRun_of ?_, ?_, pFree_of ?_⟩, ⟨?_, ?_, ?_, ?_, ?_⟩, ?_, ?_, ?_, ?_, ?_, pFree_of ?_⟩ <;>
    (try unfold State.pIssues) <;> (try unfold State.issues) <;> (try unfold State.clean) <;> (try unfold State.noOverlap) <;>
    decide +kernel

/-- Benches 0 and 1 hold teams of one launch; the turn is one of bench `b`. -/
def pair (b : BenchId) (st : Stream) (f g : Bench → Bench) : State :=
  let s := on st 0 f
  { s with benches := s.benches.set 1 (g { base with team := some { team with idx := 1 } }), cur := { s.cur with bench := b } }
/-- A tile with a neighbour on its high side. -/
def sided (f : Plane → Plane) : Bench → Bench := planeIs fun p => f { p with tile := true, pgeo := 0x2003, point := some .start }

theorem witness_PlaneTransfers :
    (let s := on .p 0 tiled
     let s1 := s.atIssue h0 0
     let o : PDrainOp := ⟨5, true, false, 7, 7, ⟨0, 0, 0x1FFF0⟩⟩
     s.pIssues h0 (.pdrain h0 o) true false 0 ∧ (drainVals s1.plane.pgeo s1.plane.regs.a o).length = 4 ∧
     fmtReserved (bfFmt (vget s1.cap.bfmt 0 0)) = false ∧ s1.cap.run ⟨0, 0, 0x1FFF0⟩ 4 = .ok (lastRun 4) ∧
     s.pFree [(lastRun 4).acc 4 true]) ∧
    (let s := pair 0 .p (sided id) id
     let s1 := s.atIssue h0 0
     s.pIssues h0 (.phsend h0) true false 0 ∧ geoSides s1.plane.pgeo = [true] ∧ s1.mate 0 1 = some 1 ∧ s1.plane.sent = false ∧
     (s1.reserve 1 true).reserved true = true) ∧
    (let s := pair 0 .p (sided fun p => { p with rxHi := some ⟨[]⟩ }) id
     let s1 := s.atIssue h0 0
     s.pIssues h0 (.phrecv h0) true false 0 ∧ s1.plane.replay = none ∧ s1.plane.sent = false ∧ s1.plane.rxUsed = false ∧
     ∀ hi ∈ geoSides s1.plane.pgeo, (if hi then s1.plane.rxHi else s1.plane.rxLo).isSome = true) ∧
    (let s := on .p 0 (planeIs fun p => { p with tile := true, sent := true })
     s.pIssues h0 (.phrecv h0) true false 0 ∧ (s.atIssue h0 0).plane.replay = none ∧ (s.atIssue h0 0).plane.sent = true) := by
  refine ⟨⟨?_, ?_, ?_, okRun ?_, pFree_of ?_⟩, ⟨?_, ?_, ?_, ?_, ?_⟩, ⟨?_, ?_, ?_, ?_, ?_⟩, ?_, ?_, ?_⟩ <;> (try unfold State.pIssues) <;>
    (try unfold State.issues) <;> (try unfold State.noOverlap) <;> decide +kernel

/-- Bench 0 forwards the last word of bank 0 to bench 1, which has come to a stage. -/
def forward (stage : Nat) : Forward := ⟨0, 0, 0x1FFFC, 4, [9, 9, 9, 9], [(1, stage)]⟩
theorem okNat {r : Except Byte Nat} {a : Nat} (h : r.toOption = some a) : r = .ok a := by cases r <;> simp_all [Except.toOption]
def pIssued (x : Bench) : Bench := engIs .p (fun e => { e with issued := true, taken := true }) x
theorem witness_PlaneForwards :
    (let s := pair 0 .p id id
     let s1 := s.atIssue h0 0
     fwdRegion s1.cap ⟨1, 3, ⟨0, 0, 0x1FFFC⟩⟩ = .ok 0x1FFFC ∧ s.pIssues h0 (.pfwd h0 ⟨1, 3, ⟨0, 0, 0x1FFFC⟩⟩) false false 0 ∧
     s.myEng.issued = false ∧ posOf 0 + 1 ≤ 7 ∧ (s1.mate 0 1).isSome = true ∧ s1.clean 0 [(0x1FFFC, 4)] ∧
     s.noOverlap [⟨0, 0x1FFFC, 0x20000, false⟩]) ∧
    (let s := { pair 0 .p pIssued id with forwards := [forward 3] }
     s.pIssues h0 (.pfwd h0 ⟨1, 3, ⟨0, 0, 0x1FFFC⟩⟩) false false 0 ∧ s.myEng.issued = true ∧
     ∀ f ∈ (s.atIssue h0 0).forwards, f.src = 0 → ∀ r ∈ f.rx, r.2 = 3) ∧
    (let s := { pair 1 .p id id with forwards := [forward 1] }
     let s1 := s.atIssue h0 0
     s.pIssues h0 (.pfwdRx h0 ⟨1, 3, ⟨0, 0, 0x1FFFC⟩⟩) false false 0 ∧ 1 ≤ posOf 1 ∧ neighbour 1 (-1) = some 0 ∧
     firstWhere (fun f => f.src == 0 && f.rx.any fun r => r.1 == 1 && decide (r.2 < 2)) s1.forwards = some (forward 1) ∧
     (∀ r ∈ (forward 1).rx, r.1 = 1 → r.2 ≠ 0) ∧ s.pFree [⟨0, 0x1FFFC, 0x20000, true⟩]) := by
  refine ⟨⟨okNat ?_, ?_, ?_, ?_, ?_, ?_, ?_⟩, ⟨?_, ?_, ?_⟩, ?_, ?_, ?_, ?_, ?_, pFree_of ?_⟩ <;> (try unfold State.pIssues) <;>
    (try unfold State.issues) <;> (try unfold State.clean) <;> (try unfold State.noOverlap) <;> decide +kernel

/-! ### Witnesses: V and S -/

def readsOf (srcs : List (BitVec 6 × BitVec 3)) (ents : List W64) : Pops → Option (List VReg)
  | .ok t ks none => some (operands t.here srcs ents ks)
  | _ => none
theorem vReads_of {s : State} {h : Hdr} {u : List Nat} {srcs : List (BitVec 6 × BitVec 3)} {vs : List VReg}
    (hi : let nq := srcs.countP fun a => a.1 == 48
      let regs := (srcs.filter fun a => decide (a.1.toNat < 32)).map fun a => a.1.toNat
      s.issues h false nq ∧ (s.atIssue h nq).here.vBlocked (regs ++ u) = false ∧ s.noOverlap (vAcc srcs) ∧
      readsOf srcs (s.entriesAt nq) ((s.atIssue h nq).popAll (feedOps srcs)) = some vs) : ∃ t, s.vReads h u srcs t vs := by
  obtain ⟨h1, h2, h3, h4⟩ := hi
  have : ∃ t ks, (s.atIssue h (srcs.countP fun a => a.1 == 48)).popAll (feedOps srcs) = .ok t ks none ∧
      operands t.here srcs (s.entriesAt (srcs.countP fun a => a.1 == 48)) ks = vs := by
    revert h4; cases (s.atIssue h (srcs.countP fun a => a.1 == 48)).popAll (feedOps srcs) with
    | ok t ks b => cases b <;> simp [readsOf]
    | wait => simp [readsOf]
    | bad c => simp [readsOf]
    | eret n a c v => simp [readsOf]
  obtain ⟨t, ks, ht, hv⟩ := this
  exact ⟨t, h1, h2, h3, ks, ht, hv.symm⟩

/-- A register, and the block of a feed. -/
theorem witness_VectorIntegers : (∃ t, (on .v 0 fed).vReads h0 [] [(31, 3), (32, 3)] t [0, 0]) ∧
    (∃ t, (on .v 0 id).vReads h0 [] [(31, 5)] t [0]) ∧
    ∃ t, (on .v 0 id).vReads h0 [] [(0, 4), (31, 4), (0, 4)] t [0, 0, 0] := by
  refine ⟨vReads_of ?_, vReads_of ?_, vReads_of ?_⟩ <;> (try unfold State.issues) <;> (try unfold State.noOverlap) <;> decide +kernel
/-- Queue entries are broadcast; a feed block gives its elements. -/
theorem witness_VectorFloats : (∃ t, (on .v 0 fed).vReads h0 [] [(31, 0), (32, 0)] t [0, 0]) ∧
    (∃ t, (on .v 0 (queued [0])).vReads h0 [] [(48, 2)] t [0]) ∧ (∃ t, (on .v 0 id).vReads h0 [v0.vd.toNat] [(31, 5)] t [0]) ∧
    (∃ t, (on .v 0 id).vReads h0 [] [(0, 1), (31, 1), (0, 1)] t [0, 0, 0]) ∧
    ∃ t, (on .v 0 id).vReads h0 [] [(0, 4), (31, 4), (0, 3)] t [0, 0, 0] := by
  refine ⟨vReads_of ?_, vReads_of ?_, vReads_of ?_, vReads_of ?_, vReads_of ?_⟩ <;> (try unfold State.issues) <;>
    (try unfold State.noOverlap) <;> decide +kernel
/-- Without an atomic of V in flight nothing waits for one. -/
theorem unblocked {x : Bench} (h : x.vfly = []) (u : List Nat) : x.vBlocked u = false := by simp [Bench.vBlocked, h]
theorem witness_VectorSelects : (∃ t, (on .v 0 id).vReads h0 [] [(31, 4), (0, 4)] t [0, 0]) ∧
    (∃ t, (on .v 0 id).vReads h0 [] [(0, 3), (0, 3), (31, 3)] t [0, 0, 0]) ∧
    (∃ t, (on .v 0 id).vReads h0 [v0.vd.toNat] [(0, 3), (0, 3), (31, 3)] t [0, 0, 0]) ∧
    (∃ t, (on .v 0 id).vReads h0 [] [(31, 0), (0, 0)] t [0, 0]) ∧
    (∃ t, (on .v 0 id).vReads h0 [] [(31, 3)] t [0]) ∧
    (∃ t, (on .v 0 id).vReads h0 [] [] t []) ∧ (on .v 0 id).issues h0 false 0 ∧ (4 : BitVec 3).toNat < 5 ∧
    5 ≤ (5 : BitVec 3).toNat ∧ ∀ u, ((on .v 0 id).atIssue h0 0).here.vBlocked u = false := by
  refine ⟨vReads_of ?_, vReads_of ?_, vReads_of ?_, vReads_of ?_, vReads_of ?_, vReads_of ?_, ?_, ?_, ?_, unblocked ?_⟩ <;> (try unfold State.issues) <;>
    (try unfold State.noOverlap) <;> decide +kernel
theorem witness_VectorPredication : 31 < 32 := by decide
/-- The entry of a VATOM in flight comes first, and what a younger word pushes waits behind it (R332). -/
theorem test_flag_order :
    let x := ((on .v 0 fun x => x.flagOut ⟨some 4, [0], 0, 0, [], []⟩).writeVr 31 1 true 1).here
    x.v.flags.map FlagOut.atom = [some 4, none] ∧ (x.pushFlags .v).isNone = true ∧ x.flagq = [] := by decide +kernel

theorem witness_VectorBanks :
    let s := on .v 0 (fun x => { x with vmask := x.vmask.set 0 1 })
    let s1 := s.atIssue h0 0
    let x := s1.here
    s.issues h0 false 0 ∧ (∀ u, x.vBlocked u = false) ∧ s1.vBankAt ⟨0, 0, 0x1FE00⟩ (vldFmtOk 3) (4 * 127 * 1 + 4) 0x1FE00 ∧
    s1.vBankAt ⟨0, 0, 0⟩ (vldFmtOk 0) (4 * 127 * 16 + 4) 0 ∧
    (x.wordsPoisoned 0 ((lanesOf (x.active true 0)).map fun i => 0x1FE00 + 4 * i) = false ∧
      s.noOverlap ((lanesOf (x.active true 0)).map fun i => ⟨0, 0x1FE00 + 4 * i, 0x1FE00 + 4 * i + 4, true⟩)) ∧
    s1.vIndexAt ⟨0, 31, true, 0, ⟨0, 0, 0x1FFFC⟩⟩ 0x1FFFC ∧ liveLanes (x.active true 0) (x.vr 31) = [0] ∧
    (x.wordsPoisoned 0 [0x1FFFC] = false ∧ s.noOverlap [⟨0, 0x1FFFC, 0x20000, true⟩]) ∧
    s1.vBankAt ⟨0, 15, 0x1F9FC⟩ (fun f => f == 0) 0x604 0x1F9FC ∧
    s.noOverlap [⟨15, 0x1F9FC, 0x1FC00, true⟩, ⟨15, 0x1FDFC, 0x20000, true⟩] := by
  refine ⟨?_, unblocked ?_, ?_, ?_, ?_, ?_, ?_, ?_, ?_, ?_⟩ <;> (try unfold State.issues) <;> (try unfold State.vBankAt) <;>
    (try unfold State.vIndexAt) <;> (try unfold State.noOverlap) <;> decide +kernel

/-- V with entries in its queue, whose mask 0 holds lanes 0 and 127. -/
def laned (es : List W64) : State :=
  onLate .v 0 fun x => queued es { (paged x) with vmask := x.vmask.set 0 0x80000000000000000000000000000001 }
/-- A VATOM in flight into register 31 and mask 7, numbered from 4, whose two lanes have their records. -/
def flown : State :=
  onLate .v 0 fun x => { x with
    vfly := [⟨4, [0, 127], 0x80000000000000000000000000000001, some (31, 7, true), 0, 0, 0, 0x80000000000000000000000000000000, 1, []⟩]
    vres := [(4, 7, false), (131, 3, true)] }
theorem witness_VectorAtomics :
    (let s := laned [0x80]
     let s1 := s.atIssue h0 1
     s.issues h0 false 1 ∧ (∀ u, s1.here.vBlocked u = false) ∧ lanesOf (s1.here.active true 0) = [0, 127] ∧
     ∃ t, s1.checkLanes 4 [(0, 0x80), (127, 0x80)] = (t, some [(0, 0x80, .ok ⟨page, 0x80⟩), (127, 0x80, .ok ⟨page, 0x80⟩)])) ∧
    (∃ t, ((laned [0x80]).atIssue h0 1).checkLanes 4 [(0, 0x80)] = (t, some [(0, 0x80, .ok ⟨page, 0x80⟩)])) ∧
    ((laned [64, 0xFFFFFF80]).issues h0 false 2 ∧ (∀ u, ((laned [64, 0xFFFFFF80]).atIssue h0 2).here.vBlocked u = false) ∧ (((laned [64, 0xFFFFFF80]).entriesAt 2).getD 0 0).toNat % 64 = 0 ∧
      (((laned [64, 0xFFFFFF80]).entriesAt 2).getD 1 0).toNat < 2 ^ 32 ∧
      (((laned [64, 0xFFFFFF80]).entriesAt 2).getD 1 0).toNat % 2 ^ 7 = 0 ∧
      ∃ t, ((laned [64, 0xFFFFFF80]).atIssue h0 2).checkLanes 64 [(0, 64)] = (t, some [(0, 64, .ok ⟨page, 64⟩)])) ∧
    ∃ a, (flown.bench 0).vfly = [a] ∧ a.out = some (31, 7, true) ∧
      (∀ i ∈ a.lanes, flown.laneResult 0 a i = some (if i = 0 then (7, false) else (3, true))) ∧
      ∀ i : Nat, i < 128 → a.active.getLsbD i = true → i ∈ a.lanes := by
  refine ⟨⟨?_, unblocked ?_, ?_, _, sndIs ?_⟩, ⟨_, sndIs ?_⟩, ⟨?_, unblocked ?_, ?_, ?_, ?_, _, sndIs ?_⟩, _, rfl, ?_, ?_, ?_⟩ <;>
    (try unfold State.issues) <;> decide +kernel

theorem okPlaced {α : Type} {r : Placed α} (h : (match r with | .ok _ _ _ => true | _ => false) = true) :
    ∃ t out tr, r = .ok t out tr := by
  cases r <;> simp_all
theorem witness_StoreFeeds_FSTORE :
    let s := on .s 0 fed
    let s1 := s.atIssue h0 0
    let x := s1.here
    let f := x.feed 0
    s.issues h0 false 0 ∧ f.writeFault = none ∧ (blockAt f.ctl f.dims f.idx).1 * perIndex (fdFmt f.ctl) = 4 ∧
    s1.opRun ⟨0, 0, 0x1FFF0⟩ 4 (lastRun 4) ∧
    (∃ t out tr, s1.placePieces 0 (f.scope == .io) (blockPieces f.ctl f.dims f.base f.idx 4)
      (f.encode (lastRun 4) x.smode f.seq (x.runBytes (lastRun 4) 4) (x.runVals (lastRun 4) 4)) f.trans = .ok t out tr) ∧
    x.bankPoisoned 0 0x1FFF0 16 = false ∧ s.noOverlap [(lastRun 4).acc 4 false, feedAcc 0] := by
  refine ⟨?_, ?_, ?_, ⟨?_, okRun ?_⟩, okPlaced ?_, ?_, ?_⟩ <;> (try unfold State.issues) <;> (try unfold State.noOverlap) <;> decide +kernel
theorem witness_StoreFeeds_SSCAT :
    let s := on .s 0 listed
    let s1 := s.atIssue h0 0
    let x := s1.here
    let f := x.feed 1
    s.issues h0 false 0 ∧ f.scatters = true ∧ bfFmt (x.bf 1) = 0 ∧ bfDith (x.bf 1) = false ∧
    s1.opRun ⟨0, 0, 0x1FFF0⟩ 0 ⟨0, 0, false, 0, 0x1FFF0⟩ ∧ x.indexBad 1 0 2 = false ∧ x.indexPoison 1 0 = false ∧ (x.indexList 1 0).1 = 1 ∧
    inBank 0x1FFF0 ((lastRun 4).bytes 4) = true ∧
    (∃ t ls tr, s1.placeRows 0 f (lastRun 4) x.smode x 4 (x.indexList 1 0).2 0 = .ok t ls tr) ∧
    s1.clean 0 [(lastRun 4).part 0 4] ∧ s.noOverlap (⟨1, 0, 8, false⟩ :: readAccs 0 [(lastRun 4).part 0 4]) := by
  refine ⟨?_, ?_, ?_, ?_, ⟨?_, okRun ?_⟩, ?_, ?_, ?_, ?_, okPlaced ?_, ?_, ?_⟩ <;> (try unfold State.issues) <;> (try unfold State.clean) <;> (try unfold State.noOverlap) <;>
    decide +kernel
/-- Bank 0 holds a format that may dither. -/
def bytesBank (x : Bench) : Bench := { x with bfmt := x.bfmt.set 0 3 }
theorem witness_StoreEngineResults :
    (let s := on .s 0 bytesBank
     let x := (s.atIssue h0 0).here
     s.issues h0 false 0 ∧ x.run 15 (512 * 255) 1 = .ok ⟨15, 0, false, 0, 0x1FE00⟩ ∧
     x.namedRun 0 7 0x1FFFF 1 = .ok ⟨0, 3, true, 0, 0x1FFFF⟩ ∧ x.namedRun 0 7 0 1 = .ok ⟨0, 3, true, 0, 0⟩ ∧
     x.bankPoisoned 15 0x1FE00 4 = false ∧ s.noOverlap [⟨15, 0x1FE00, 0x1FE04, false⟩, ⟨0, 0x1FFFF, 0x20000, true⟩]) ∧
    ((5 : BitVec 3).toNat < 6 ∧ 6 ≤ (6 : BitVec 3).toNat) ∧ ((onLate .s 0 id).cur.late = true ∧ (onLate .s 0 id).issues h0 false 0) ∧
    (let s := on .s 0 (queued [0, 0, 0, 0])
     s.issues h0 false (bitsOf (15 : BitVec 4)).length ∧
     frameOk (grainWords ((s.atIssue h0 4).here.frame 7) 15 (s.entriesAt 4)) = true ∧
     ((upTo 16).any fun k => bfLock ((s.atIssue h0 4).here.bf k) && bfDith ((s.atIssue h0 4).here.bf k) &&
       bfFrame ((s.atIssue h0 4).here.bf k) == 7) = false) ∧ (on .s 0 id).issues h0 false (bitsOf (0 : BitVec 4)).length := by
  refine ⟨⟨?_, okRun ?_, okRun ?_, okRun ?_, ?_, ?_⟩, ?_, ⟨?_, ?_⟩, ⟨?_, ?_, ?_⟩, ?_⟩ <;> (try unfold State.issues) <;> (try unfold State.noOverlap) <;>
    decide +kernel

/-! ### Witnesses: events of a bench -/

/-- The turn of an event that brings something, on bench 0. -/
def ev (br : Brought) (f : Bench → Bench) : State :=
  let s := on .c 0 f
  { s with cur := { s.cur with bring := br } }
theorem someOf {α : Type} {r : Option α} (h : r.isSome = true) : ∃ t, r = some t := by cases r <;> simp_all

/-- A load of context 0 in flight, and one entry of a kind in the store buffer. -/
def flying : PendLoad := ⟨5, 0, 0, some (.phys 8), 8, false, .sp, 0, 0, 1, false, page, 0, none, ⟨0x80, 0, false⟩, false,
  ⟨[⟨3, none⟩], .empty, .empty, []⟩⟩
def away : PendLoad := { flying with away := true }
def inFlightOf (l : PendLoad) (x : Bench) : Bench := { x with c := { x.c with loads := [l] } }
def inFlight (x : Bench) : Bench := inFlightOf flying x

/-- R85, R89, R131: another module's fault for a boosted load in flight goes to the shadow's record; for another the context returns
to the load, which has pushed nothing. -/
theorem test_away_fault :
    (let l := { away with dst := some (.shadow 0 1 3), origin := ⟨64, 9, true⟩ }
     let x := base.loadAnswer l ⟨5, 0, 5, 1⟩
     (x.ctx 0).sh1.regs[(3 : Fin 16)] = ⟨true, 0, some ⟨5, 0, 64, 9, 0⟩⟩ ∧ x.c.lost = []) ∧
    (let s := { ev { tag := 5 } (inFlightOf away) with responses := [⟨5, 0, 5, 1⟩] }
     let t := s.arrive 0 away
     ((t.bench 0).ctx 0).pc = 0x80 ∧ ((t.bench 0).ctx 0).rq = [⟨3, none⟩] ∧ (t.bench 0).c.loads = [] ∧ (t.bench 0).c.lost = []) := by
  decide +kernel
def buffered (k : StKind) (x : Bench) : Bench := { x with c := { x.c with sb := [{ entry with kind := k }] } }

/-- A store to a write-combining page, with which others may still merge. -/
def gathering (x : Bench) : Bench := { x with c := { x.c with sb := [{ entry with leaf := { page with cache := 1 } }] } }

/-- A store of S that has left the bench, and a younger one of C behind it. -/
def overtaken : Bench := { base with sq := [entry], left := #v[0, 0, 0, 0, 0, 0, 0, 4] }
def overtaking (_ : Bench) : Bench := { overtaken with c := { base.c with sb := [{ entry with seq := 5 }] } }

theorem witness_CompletionEvents :
    (let s := ev { tag := 5 } inFlight
     firstWhere (fun l => l.tag == 5) (s.bench 0).c.loads = some flying ∧ flying.atom = none ∧ flying.away = false ∧
     s.behind 0 0 ⟨page, 0⟩ = false ∧
     ∃ t, s.load 0 ⟨page, 0⟩ 8 .sp 1 false (forwardByte (s.bench 0).c.sb 0 0) = .ok t (List.replicate 8 0)) ∧
    (let s := { ev { tag := 5 } (inFlightOf away) with responses := [⟨5, 7, 0, 0⟩] }
     firstWhere (fun l => l.tag == 5) (s.bench 0).c.loads = some away ∧ away.atom = none ∧ away.away = true ∧
     s.response 5 = some ⟨5, 7, 0, 0⟩) ∧
    (∀ k ∈ [StKind.store, .release, .atomic .add 1 0, .redt 0 0 1],
      (((ev {} (buffered k)).bench 0).queue .c).length = 1 ∧
      (ev {} (buffered k)).hitches = [] ∧ (ev {} (buffered k)).openRun 0 .c = false ∧
      ∃ t, (ev {} (buffered k)).performHead 0 .c false = some t) ∧
    (let s := ev {} gathering
     ((s.bench 0).queue .c).length = 1 ∧ s.openRun 0 .c = true ∧ s.tlbiWaits = false ∧ ∃ t, s.performHead 0 .c false = some t) ∧
    (let s := ev {} overtaking
     ((s.bench 0).queue .c).length = 1 ∧ s.behind 0 5 ⟨page, 0⟩ = true ∧ s.behind 0 3 ⟨page, 0⟩ = false) ∧
    (let s := ev {} fun x => { x with orphans := [(.c, entry)] }
     (s.bench 0).orphansOf .c = [entry] ∧ s.region entry.pa = .mem 0 ∧ s.behind 0 entry.seq ⟨page, 0⟩ = false ∧
     s.awayFrom (s.bench 0).orphans .c entry = false ∧
     ((s.modBench 0 fun y => { y with orphans := y.orphans.erase (.c, entry) }).performStore 0 entry
       (coversSector entry.pa entry.bytes)).isSome = true) ∧
    (let x := engIs .s (fun e => { e with gives := [⟨1, 4, .st, 0, 0, 0⟩] }) overtaken
     (x.eng .s).flags = [] ∧ x.sq.length = 1 ∧ (∀ e ∈ x.sq, e.plain = true) ∧
     ∀ r ∈ maskStreams .s 1, vget x.tokens (fifo .s r) 0 < 8) ∧
    (let g : Give := ⟨15, 0, .st, 0, 0, 0⟩
     let x := (ev { stream := .p } fun x => engIs .p (fun e => { e with gives := [g] }) (tokened x)).bench 0
     (x.eng .p).flags = [] ∧ (x.eng .p).gives = [g] ∧
     ∀ r ∈ maskStreams .p 15, vget x.tokens (fifo .p r) 0 < 8) := by
  refine ⟨⟨?_, ?_, ?_, ?_, okLoad ?_⟩, ?_, ?_, ⟨?_, ?_, ?_, someOf ?_⟩, ?_, ?_, ?_, ?_⟩
  case refine_7 =>
    intro k hk
    simp only [List.mem_cons, List.not_mem_nil, or_false] at hk
    rcases hk with rfl | rfl | rfl | rfl <;>
      exact ⟨by decide +kernel, by decide +kernel, by decide +kernel, someOf (by decide +kernel)⟩
  all_goals decide +kernel

/-- A wait that began 2^30 clk ago. -/
def waits (k : WaitKind) : Wait := ⟨k, 0, 4, 1, 0⟩
def late30 (s : State) : State := { s with clk := 2 ^ 30 }
theorem witness_WatchdogEvents :
    (waits .take).since + 2 ^ 30 ≤ (late30 (ev {} id)).clk ∧
    (let x := (late30 (ev {} (ctxIs fun k => { k with wait := some (waits .take) }))).bench 0
     x.stopping = none ∧ (x.ctx 0).wait = some (waits .take) ∧ x.overC (waits .take) = false ∧ (waits .take).counts = true) ∧
    (late30 (ev {} (fun x => ctxIs (fun k => { k with wait := some (waits .queue) }) (flagged x)))).here.overC (waits .queue) = true ∧
    (let s := late30 (ev { stream := .v } (engIs .v fun e => { e with wait := some (waits .queue) }))
     let u := s.pushGives 0 .v
     ((u.bench 0).eng .v).wait = some (waits .queue) ∧ (u.bench 0).stopping = none ∧ u.overE 0 .v (waits .queue) = false) ∧
    (let s := late30 (ev { stream := .v } fun x => queued [0] (engIs .v (fun e => { e with wait := some (waits .queue) }) x))
     (s.pushGives 0 .v).overE 0 .v (waits .queue) = true) ∧
    (((late30 (ev {} (ctxIs fun k => { k with wait := some (waits .claim) }))).bench 0).ctx 0).wait = some (waits .claim) ∧
    (((late30 (ev {} (ctxIs fun k => { k with wait := some (waits .fill) }))).bench 0).ctx 0).wait = some (waits .fill) := by
  decide +kernel

/-- A context with `d` frames below its own, the first `n` groups of them spilled. -/
def frames (d n : Nat) (x : Bench) : Bench :=
  let y := paged (ctxIs (fun k => { k with depth := d, w := BitVec.ofNat 4 d, spilled := n }) x)
  { y with c := { y.c with
      spill := 0x8000, groups := Vector.ofFn fun i : Fin 16 => if n ≤ i.val ∧ i.val < d + 2 then .held 0 else .free } }
def gotOk : Got → Bool
  | .ok _ => true
  | _ => false
theorem okGot {r : Got} (h : gotOk r = true) : ∃ t, r = .ok t := by cases r <;> simp_all [gotOk]
theorem witness_SpillEngine :
    (let s := ev {} (frames 11 0)
     let x := s.bench 0
     x.team ≠ none ∧ x.fullest = some 0 ∧ x.freeGroups = 3 ∧ ∃ t, s.spillOldest 0 0 = .ok t) ∧
    (let s := ev {} (frames 10 1)
     let x := s.bench 0
     x.team ≠ none ∧ (x.ctx 0).live = true ∧ 0 < (x.ctx 0).spilled ∧ x.freeGroups = 5 ∧
     x.c.groups[(x.ctx 0).group (firstSpillable 0 + (x.ctx 0).spilled - 1)] = .free ∧ ∃ t, s.fillLatest 0 0 = .ok t) := by
  refine ⟨⟨?_, ?_, ?_, okGot ?_⟩, ?_, ?_, ?_, ?_, ?_, okGot ?_⟩ <;> decide +kernel

def fault : Held := ⟨0x06, 0x40, 0, 0x200, false, false, none, 0⟩
theorem witness_HandlerEvents :
    (let x := (ev {} (engIs .s fun e => { e with held := some fault })).bench 0
     x.c.trap ≠ 0 ∧ x.takes = some (.engine .s fault)) ∧
    (let x := (ev {} fun x => { x with c := { x.c with lost := [(0, 0x10, 0x80, 7)] } }).bench 0
     x.c.trap ≠ 0 ∧ x.c.handler = none ∧ x.takes = some (.lost 0 0x10 0x80 7)) := by decide +kernel
theorem witness_ContextEvents : (((ev {} watching).bench 0).ctx 0).watch ≠ none ∧
    (((ev {} (ctxIs fun k => { k with phase := .sysc 255 false })).bench 0).ctx 0).phase = .sysc 255 false := by decide +kernel

theorem search_end {s t : State} {b : BenchId} {st : Stream} {p : Nat → Bool} {pc : W64} (h : s.fetch b st 2 pc = (t, .ok 0))
    (k : Nat) : s.search b st p (k + 1) pc = (t.dropWords b st 2, .terminator) := by simp [State.search, h]
theorem search_here {s t : State} {b : BenchId} {st : Stream} {p : Nat → Bool} {pc : W64} {w : Nat}
    (h : s.fetch b st 2 pc = (t, .ok w)) (h0 : w ≠ 0) (hp : p w = true) (k : Nat) :
    s.search b st p (k + 1) pc = (t.dropWords b st 2, .at_ pc) := by simp [State.search, h, h0, hp]
theorem search_next {s t : State} {b : BenchId} {st : Stream} {p : Nat → Bool} {pc : W64} {w : Nat}
    (h : s.fetch b st 2 pc = (t, .ok w)) (h0 : w ≠ 0) (hp : p w = false) (k : Nat) :
    s.search b st p (k + 1) pc = t.search b st p k (pc + BitVec.ofNat 64 st.wordBytes) := by
  simp [State.search, h, h0, hp]
theorem fuel_two : searchFuel = (144115188075855870 + 1) + 1 := by decide
def abandoned (x : Bench) : Bench := engIs .l (fun e => { e with abandon := true }) (paged x)
theorem witness_StreamEvents :
    (let s := withMem [(2, 10), (9, 0x20), (10, 10)] (ev { stream := .l } abandoned)
     let x := s.bench 0
     (x.eng .l).abandon = true ∧ (x.eng .l).held = none ∧ x.quiet .l = true ∧
     ∃ v, (s.asEngine 0 .l 0).search 0 .l (fun w => w.testBit 13) searchFuel 0 = (v, .at_ 8)) ∧
    (let s := withMem [(2, 10)] (ev { stream := .l } abandoned)
     ∃ v, (s.asEngine 0 .l 0).search 0 .l (fun w => w.testBit 13) searchFuel 0 = (v, .terminator)) ∧
    ((∃ t, (on .c 0 paged).fetchHere = (t, .ok 0) ∧ t.cur.stream = .c) ∧ decodeWord (Stream.word .c 0) = .error .reservedCode) ∧
    ((∃ t, (on .l 0 paged).fetchHere = (t, .ok 0) ∧ t.cur.stream ≠ .c ∧ (t.withWord 0).issues (hdrOf (0 : BitVec 16)) false 0) ∧
      decodeWord (Stream.word .l 0) = .error .reservedCode) ∧
    ∃ t, (on .l 0 id).fetchHere = (t, .fault 0x03) := by
  refine ⟨⟨?_, ?_, ?_, ?_⟩, ?_, ⟨⟨_, okWord ?_, ?_⟩, ?_⟩, ⟨⟨_, okWord ?_, ?_, ?_⟩, ?_⟩, _, faultWord ?_⟩
  case refine_4 =>
    rw [fuel_two, search_next (okWord (w := 0xA0000) (by decide +kernel)) (by decide) (by decide)]
    exact ⟨_, search_here (okWord (w := 0xA2000) (by decide +kernel)) (by decide) (by decide) _⟩
  case refine_5 =>
    intro s
    rw [fuel_two, search_next (okWord (w := 0xA0000) (by decide +kernel)) (by decide) (by decide)]
    exact ⟨_, search_end (okWord (by decide +kernel)) _⟩
  all_goals (try unfold State.issues); decide +kernel

def blockOf : Block → Option (FBlock × Option Leaf)
  | .ok _ k tr => some (k, tr)
  | _ => none
theorem okBlock {r : Block} {p : FBlock → Option Leaf → Bool} (h : ((blockOf r).map fun q => p q.1 q.2) = some true) :
    ∃ t k tr, r = .ok t k tr ∧ p k tr = true := by cases r <;> simp_all [blockOf]
theorem witness_ArrivalEvents :
    (let s := ev { n := 1 } fed
     (s.bench 0).team ≠ none ∧ ((s.bench 0).feed 1).mayFetch = true ∧
     ∃ t k tr, s.fetchBlock 0 ((s.bench 0).feed 1) none = .ok t k tr ∧
       (k.bytes == List.replicate 16 0 && k.fault.isNone && tr == some page) = true) ∧
    (let s := ev { n := 1 } fun x => { (fed x) with tlb := [] }
     ((s.bench 0).feed 1).mayFetch = true ∧ ∃ t k tr, s.fetchBlock 0 ((s.bench 0).feed 1) none = .ok t k tr ∧
       (k.fault == some (0x03, 0x400) && tr == none) = true) ∧
    (let front : List (BenchId × Bool × Band) := [(0, false, ⟨[]⟩)]
     let s := { ev { hi := true } id with bands := front ++ (0, true, (⟨[]⟩ : Band)) :: front }
     s.bands = front ++ (0, true, (⟨[]⟩ : Band)) :: front ∧ ∀ r ∈ front, ¬(r.1 = 0 ∧ r.2.1 = true)) := by
  refine ⟨⟨?_, ?_, okBlock ?_⟩, ⟨?_, okBlock ?_⟩, rfl, ?_⟩ <;> decide +kernel

/-- The P engines of both benches have issued the two ends of the forward. -/
def forwarding (stage : Nat) (b : BenchId) (w : W128) (issued : Bool) : State :=
  let p (x : Bench) : Bench := engIs .p (fun e => { e with issued := issued, cap := some (w, (on .p 0 id).cap) }) x
  let s := pair 0 .c p p
  { s with cur := { s.cur with bring := { bench := b } }, forwards := [forward stage] }
theorem witness_PlaneEvents :
    (let s := forwarding 0 1 0x12000001FFFF0D0000 true
     firstWhere (fun f => f.rx.any fun r => r.1 == 1 && r.2 == 0) s.forwards = some (forward 0) ∧ (s.bench 1).p.issued = true ∧
     (s.bench 1).p.cap = some (0x12000001FFFF0D0000, (on .p 0 id).cap) ∧
     decodeWord (Stream.word .p 0x12000001FFFF0D0000) = .ok (.pfwdRx h0 ⟨1, 0, ⟨0, 0, 0x1FFFF⟩⟩)) ∧
    (let s := forwarding 0 1 0 false
     firstWhere (fun f => f.rx.any fun r => r.1 == 1 && r.2 == 0) s.forwards = some (forward 0) ∧ (s.bench 1).noFwd) ∧
    (let s := forwarding 2 1 0x02000001FFFF0D0000 true
     firstWhere (fun f => f.rx.any fun r => r.1 == 1 && r.2 == 2) s.forwards = some (forward 2) ∧ (s.bench 0).p.issued = true ∧
     (s.bench 0).p.cap = some (0x02000001FFFF0D0000, (on .p 0 id).cap) ∧
     decodeWord (Stream.word .p 0x02000001FFFF0D0000) = .ok (.pfwd h0 ⟨1, 0, ⟨0, 0, 0x1FFFF⟩⟩)) ∧
    (let s := forwarding 2 1 0 false
     firstWhere (fun f => f.rx.any fun r => r.1 == 1 && r.2 == 2) s.forwards = some (forward 2) ∧ (s.bench 0).noFwd) ∧
    (let s := forwarding 1 1 0 true
     s.forwards = forward 1 :: [] ∧ (1, 1) ∈ (forward 1).rx) ∧ ((ev {} id).bench 0).team ≠ none ∧
    (let s := { ev {} (fun x => { (tiled x) with stopping := some 0 }) with clk := 2048 }
     (s.bench 0).plane.tile = true ∧ (s.bench 0).stopping = some 0 ∧ 0 + 2048 ≤ s.clk ∧
     ∃ r, (s.bench 0).plane.point = some r) := by
  refine ⟨?_, ⟨?_, ?_⟩, ?_, ⟨?_, ?_⟩, ?_, ?_, ?_, ?_, ?_, someOf ?_⟩ <;> (try unfold Bench.noFwd) <;> decide +kernel

/-! ### Witnesses: events of the dispatcher and of the home side -/

/-- Die 0's launches, and its run queue of priority 0 for tenant 0. -/
def dispatching (hs : List Hitch) (br : Brought) : State :=
  let s := ev br id
  { s with
    dies := s.dies.set 0 { Die.start with launches := 2, queues := Die.start.queues.set 0 [1] }, hitches := hs, bootStage := 2 }
theorem witness_DispatchEvents :
    (let s := dispatching [launch] {}
     let u := (s.cancelDoomed s.hitches.length).continueSaves 0
     u.candidate 0 = some (0, launch) ∧ launch.fit (u.freeBenches 0 []) = some ([some 0], [0]) ∧ s.candidate 0 = some (0, launch) ∧
     launch.state = .queued ∧ [some (0 : BenchId)][0]? = some (some 0) ∧ [some (0 : BenchId)].length = 1) ∧
    (let h := { launch with record := { launch.record with ctl := 0xA060 } }
     let s := dispatching [h, { launch with seq := 2, state := .running, shape := [0], place := [some 0] }] {}
     let u := (s.cancelDoomed s.hitches.length).continueSaves 0
     u.candidate 0 = some (0, h) ∧ h.fit (u.freeBenches 0 []) = none) ∧
    (let h := { launch with state := .saved, saved := [none], place := [none] }
     let s := dispatching [h] {}
     s.candidate 0 = some (0, h) ∧ h.fit (s.freeBenches 0 []) = some ([none], [])) := by decide +kernel
theorem okCandidate {r : Option (Nat × Hitch)} {p : Nat → Hitch → Bool} (h : (r.map fun q => p q.1 q.2) = some true) :
    ∃ q h, r = some (q, h) ∧ p q h = true := by
  cases r with
  | none => simp at h
  | some a => exact ⟨a.1, a.2, rfl, by simpa using h⟩
theorem witness_DispatchEvents_resume :
    let s := dispatching [{ launch with state := .saved, saved := [some base], place := [none] }] {}
    ∃ q h, s.candidate 0 = some (q, h) ∧ (h.state == .saved && (h.saved.getD 0 none).isSome && h.saved.length == 1 &&
      h.fit (s.freeBenches 0 []) == some ([some 0], [0]) && !s.placeWaits h && !s.slotPoison h) = true := okCandidate (by decide +kernel)
/-- The slot of a saved launch lies in an extent that closes, or in one that has been released (R423). -/
def inExtent (closing released : Bool) : State :=
  let h := { launch with state := .saved, saved := [none], place := [none], area := [0], ent := some ⟨0, 0, 0x10000000000, 8, 0, 0, 0, 0⟩ }
  { dispatching [h] {} with extents := [⟨0x10000000000, 128, 0, closing, released⟩] }
theorem witness_DispatchEvents_slots :
    (let s := inExtent true false
     s.hitches.all (fun h => s.candidate 0 == some (0, h) && s.placeWaits h) = true ∧ s.hitches.length = 1) ∧
    (let s := inExtent false true
     s.hitches.all (fun h => s.candidate 0 == some (0, h) && !s.placeWaits h && s.slotPoison h) = true ∧ s.hitches.length = 1) := by
  decide +kernel
theorem witness_PreemptEvents :
    (let h := { launch with state := .running, shape := [0], place := [some 0], ent := some ⟨0, 0, 0x10000000, 8, 0, 0, 0, 0⟩ }
     let s := dispatching [h] { tag := 1 }
     s.hitch (BitVec.ofNat 64 1) = some h ∧ s.slotsOk h [] = true) ∧
    (let h := { launch with state := .saving }
     (dispatching [h] { tag := 1 }).hitch (BitVec.ofNat 64 1) = some h) := by decide +kernel
theorem witness_LaunchEvents :
    let s := { dispatching [launch] { tag := 1 } with clk := 2 ^ 24 }
    s.hitch (BitVec.ofNat 64 1) = some launch ∧ launch.prio ≠ 3 ∧ launch.since + 2 ^ 24 ≤ s.clk ∧ launch.state ≠ .dying ∧
    launch.benches = [] := by decide +kernel

theorem witness_AgentEvents :
    (let s := ev { agent := 7, pa := 0 } id
     s.homeDie (128 * s.evLine) = some 0 ∧ s.pending s.evLine = false ∧ s.closingRange (128 * s.evLine) = false ∧ s.hasAgent 7 = true ∧ (7 : BitVec 6).toNat ≠ 0) ∧
    (let s := { ev { agent := 63, pa := 0xBFFFFFFFFF } id with agents := [63] }
     s.homeDie 0xBFFFFFFFFF = some 7 ∧ s.reachable = true ∧ 8 ≤ (63 : BitVec 6).toNat ∧ 63 ∈ s.agents ∧ s.pending s.evLine = false ∧
     s.closingRange 0xBFFFFFFFFF = false) ∧
    (let s := { ev { agent := 63, pa := 128 } id with trackers := [⟨1, 0, 1, [7, 63], [], []⟩] }
     s.dstores = [] ∧ ∃ tr ∈ s.trackers, tr.line = s.evLine ∧ 63 ∈ tr.sent) := by decide +kernel
theorem witness_HostAccessEvents :
    (let s := { ev { host := 15, pa := 0xBFFFFFFFFF, bytes := [9, 9] } id with mailbox := { State.reset.mailbox with owner := some 15 } }
     Mem.wf s.mem = true ∧ s.homeDie 0xBFFFFFFFFF = some 7 ∧ s.reachable = true ∧ s.owns 15 = true ∧
     [(9 : Byte), 9].take (128 - 0xBFFFFFFFFF % 128) ≠ [] ∧ s.unshared 0xBFFFFFFFFF ∧ s.releasedRange 0xBFFFFFFFFF = false) ∧
    (let s := { ev { pa := 0x400000000000 } id with hostRanges := [(0x400000000000, 128)] }
     s.region (128 * s.evLine) = .host) := by unfold State.unshared; decide +kernel
theorem witness_ErrorEvents :
    (let s := ev { pa := 0xBFFFFFFFFF } id
     s.homeDie 0xBFFFFFFFFF = some 7 ∧ s.cur.bring.n % 4 = 0 ∧ s.isCached (0xBFFFFFFFFF / 128) = false) ∧
    (let s := { ev { pa := 0, n := 1 } id with msc := [⟨0, 0⟩] }
     s.homeDie 0 = some 0 ∧ s.cur.bring.n % 4 = 1 ∧ s.isCached 0 = true ∧ s.dirty 0 = false) ∧
    (let s := { ev { pa := 0, n := 1 } id with msc := [⟨0, 0⟩], backing := [⟨0, 0, 0⟩] }
     s.isCached 0 = true ∧ s.dirty 0 = true) ∧
    (ev { n := 2 } id).cur.bring.n % 4 = 2 ∧ (ev { n := 3 } id).cur.bring.n % 4 = 3 ∧
    (ev { n := 3 } fun x => { x with cc := [⟨0, 0, 0, false⟩] }).here.cc.any (fun l => l.line == 0) = true := by decide +kernel
theorem witness_MemoryEvents :
    (let s := ev { pa := 0x3FFFFFFFFF80, len := 128 } id
     0x10000000000 ≤ 0x3FFFFFFFFF80 ∧ 0x3FFFFFFFFF80 + 128 ≤ 0x400000000000 ∧ s.extents = []) ∧
    (let x : Extent := ⟨0x10000000000, 128, 7, false, false⟩
     let s := { ev { pa := 0x10000000000, hi := true } id with extents := [x] }
     firstWhere (fun x => x.base == 0x10000000000 && !x.released) s.extents = some x ∧ s.dir = [] ∧ s.trackers = [] ∧
     s.cur.bring.hi = true ∧ Mem.wf s.mem = true ∧ x.holds (0xBFFFFFFFFF / 128) = false ∧ (ev {} id).cur.bring.hi = false) ∧
    (let s := { ev { die := 7, n := 127 } id with clk := 2 ^ 18 }
     (s.chan 7 127).state = 0 ∧ (s.chan 7 127).last + 2 ^ 18 ≤ s.clk ∧ (s.chan 7 127).last + 64 ≤ s.clk) ∧
    (let x : Bucket := ⟨0, 383, 0, 0, 0, 0⟩
     let s := withMem [(0, 1), (0x20, 5)] { ev { n := 383 } id with buckets := [x] }
     x.die = 0 ∧ x.slice = 383 % 384 ∧ x.waiting = 0 ∧ (s.entOf 0 x.tenant).map (fun e => decide (x.tokens ≤ 1024 * e.depth)) = some true) ∧
    (let s := { ev { n := 5, pa := 9, tenant := 63 } id with rowActs := List.replicate 256 ⟨0, 5, 9, 63, 0⟩ }
     s.hot 0 5 9 63 = true) := by decide +kernel


/-! ### Witnesses: events of registers, of the fabric and of hosts -/

/-- The owner is host `h`. -/
def owned (h : BitVec 4) (br : Brought) : State := { ev br id with mailbox := { State.reset.mailbox with owner := some h } }
/-- Tenant 0's table entry and tables, which map the first 2^30 addresses to the bytes from 0 on. -/
def tables : Mem := [(0, 1), (1, 0x10), (0x1000, 1), (0x1001, 0x20), (0x2000, 1), (0x2001, 0x30), (0x3000, 0x1F), (0x3001, 1)]
theorem witness_RegisterEvents :
    (let s := ev { val := 0x10001, n := 3, die := 7 } id
     s.reachable = true ∧ s.cur.bring.val.getLsbD 0 = true ∧ (s.retnAt 7 3).en = false ∧ s.retnWaits 7 3 0x10001 0 = false ∧
      (s.retnCheck 7 3 0x10001 0).2 = .refused) ∧
    (let s := withMem tables (ev { val := 0x10001 } id)
     let t := { s with dies := s.dies.set 0 { Die.start with retn := Die.start.retn.set 0 ⟨0x4000, 128, 0, false, false, 0, 0, 0⟩ } }
     t.reachable = true ∧ t.cur.bring.val.getLsbD 0 = true ∧ (t.retnAt 0 0).en = false ∧ t.retnWaits 0 0 0x10001 0 = false ∧
     (t.retnCheck 0 0 0x10001 0).2 = .at_ 0x80 1) ∧
    (2 : W64).getLsbD 0 = false ∧ (4 ≠ 8) ∧ (owned 15 { host := 15 }).ownerWrites ∧ (0x7FFFFFFFFFFFFFFF : W64).getLsbD 63 = false ∧
    0xFF00000040 + 65536 * 7 < 0xFF00080000 ∧ (owned 15 { host := 0 }).mailbox.owner ≠ some (owned 15 { host := 0 }).cur.bring.host := by
  unfold State.ownerWrites; decide +kernel
theorem witness_PowerEvents : (ev { val := 1023, die := 7 } id).clk % 16 = 0 ∧ (ev {} id).hasStepped 0 = false ∧
    (ev {} (planeIs fun p => { p with stepWin := 0, stepUsed := 1 })).hasStepped 0 = true ∧
    (let s := { ev {} id with dies := State.reset.dies.set 0 { Die.start with pwr := 561 } }
     min (min (s.die 0).dcap.toNat (0x230 % 1024)) 560 < (s.die 0).pwr.toNat) ∧
    ((ev {} id).die 0).pwr.toNat < min (min ((ev {} id).die 0).dcap.toNat (0x230 % 1024)) 560 ∧
    (ev {} id).clk ≤ ((ev {} id).die 0).telemAt ∧ ({ ev {} id with clk := 2 ^ 16 + 1 } : State).clk % 2 ^ 16 ≠ 0 ∧
    ({ ev {} id with clk := 2 ^ 16 } : State).clk % 2 ^ 16 = 0 ∧
    (∀ d : Fin 8, (({ ev {} id with clk := 2 ^ 16 } : State).die d).telemAt < 2 ^ 16) ∧
    ({ ev {} id with clk := 2 ^ 16 } : State).clk ≤ 2 ^ 16 * 1 ∧ 2 ^ 16 * 1 < 2 ^ 16 + 1 := by decide +kernel

/-- A store request of module 5 to this module, of SEQ `q`. -/
def packet (q : W32) (b : Body) (kind : Byte) (ch : BitVec 2) : Packet := ⟨0, 5, ch, 0, 0, kind, 0, q, false, b⟩
theorem witness_PacketEvents :
    (let s := ev {} id
     let p := packet 0 (.store 0 [some 7]) 2 0
     s.reachable = true ∧ s.fits p ∧ p.seq = (s.inFlow 5 0).expect ∧ (s.perform p).isSome = true) ∧
    ({ ev {} id with bootErr := 1 } : State).reachable = false ∧
    (let s := { ev {} id with inFlows := [⟨5, 0, 1, []⟩] }
     let p := packet 0 (.store 0 [some 7]) 2 0
     s.fits p ∧ p.seq ≠ (s.inFlow 5 0).expect ∧ ((s.inFlow 5 0).expect - p.seq).toNat < 2 ^ 31) ∧
    (let s := ev {} id
     let p := packet 0x80000000 (.store 0 [some 7]) 2 0
     s.fits p ∧ p.seq ≠ (s.inFlow 5 0).expect ∧ 2 ^ 31 ≤ ((s.inFlow 5 0).expect - p.seq).toNat) ∧
    (let p := packet 0 (.ack 0 0 0) 6 1
     p.kind = 6 ∧ p.ch = 1 ∧ p.dmod = (ev {} id).fabid ∧ p.resv = false ∧ (ev {} id).wakesOut = [] ∧ (ev {} id).resetting = none) ∧
    properPacket (packet 0 .mgmt 7 2) ∧ (ev {} id).passes (packet 0 .mgmt 7 2) 4095 ∧
    ¬(ev {} id).passes (packet 0 .mgmt 7 2) 4096 ∧ ¬properPacket (packet 0 .mgmt 0 2) ∧ ¬properPacket (packet 0 .mgmt 8 2) := by
  unfold State.fits State.passes properPacket; decide +kernel
theorem witness_RouteEvents :
    ((∀ t0, (ev {} id).verAt = some t0 → t0 + 2 ^ 23 ≤ (ev {} id).clk)) ∧
    (({ ev {} id with verAt := some 0, clk := 2 ^ 23 } : State).verAt = some 0 ∧ 0 + 2 ^ 23 ≤ 2 ^ 23) ∧
    (∃ t0, ({ ev {} id with verAt := some 0, clk := 2 ^ 23 - 1 } : State).verAt = some t0 ∧ 2 ^ 23 - 1 < t0 + 2 ^ 23) ∧
    (let f : OutFlow := ⟨5, 0, 1, [(packet 0 .mgmt 7 2, 0)], none, none⟩
     let s := { ev { module := 5, flow := 0 } id with outFlows := [f], clk := 2 ^ 20 }
     s.outFlows = f :: [] ∧ f.dmod = s.cur.bring.module ∧ f.ch = s.cur.bring.flow ∧ 0 + 2 ^ 20 ≤ s.clk) ∧
    (((ev { module := 5 } (ctxIs fun k => { k with watch := some 0, wtag := some (5, 9) })).bench 0).ctx 0).wtag = some (5, 9) ∧
    ((ev { n := 47, val := 3 } id).links[(47 : Fin 48)].state.toNat < (3 : W64).toNat % 4) ∧
    ((3 : W64).toNat % 4 ≤ ({ ev { n := 47, val := 3 } id with links := State.reset.links.set 47 ⟨0, 3⟩ } : State).links[(47 : Fin 48)].state.toNat) ∧
    (let s : State := { ev {} id with bootStage := 2 }
     s.fabidSet = false ∧ s.reachable = true ∧ s.bootStage = 2) ∧ ({ ev {} id with fabidSet := true } : State).fabidSet = true := by
  refine ⟨by simp [ev, on, State.reset], by decide +kernel, ⟨0, by decide +kernel⟩, ?_⟩
  decide +kernel
theorem witness_OwnerEvents :
    ((ev {} id).reachable = true ∧ (ev {} id).mailbox.owner = none ∧ (ev {} id).mailbox.attest = false) ∧
    (owned 15 { host := 15 }).mailbox.owner = some (owned 15 { host := 15 }).cur.bring.host ∧
    ((owned 15 { host := 0 }).mailbox.owner ≠ some (owned 15 { host := 0 }).cur.bring.host ∧ (owned 15 {}).mailbox.owner ≠ none ∧
      (owned 15 { host := 0 }).region 0xBFFFFFFFFF = .mem 7) ∧
    ({ ev {} id with mailbox := { State.reset.mailbox with attest := true } } : State).mailbox.attest = true := by decide +kernel
/-- The owner has a record with a process group, and an invalidation of the line of the tenant's first table is under way. -/
def waiting : State :=
  let s := withMem tables (owned 15 { host := 15 })
  { s with
    bootStage := 2, trackers := [⟨0x20, 0, 32, [1], [], []⟩]
    mailbox := { s.mailbox with record := 0xA001 * 2 ^ 384 + 0x40 * 2 ^ 448 + 0x80 * 2 ^ 768 } }
theorem witness_SubmitEvents :
    (let s := owned 15 { host := 15 }
     let r := recordWords (lineBytes s.mailbox.record)
     s.ownerWrites ∧ s.queueRoom 0 (runQueue (ctlPrio (recWord r 6)) s.mailbox.ten) = true ∧
     ∃ t, s.accept .mail 0 s.mailbox.ten r = (t, some 0)) ∧
    (let r := recordWords (lineBytes waiting.mailbox.record)
     waiting.ownerWrites ∧ waiting.queueRoom 0 (runQueue (ctlPrio (recWord r 6)) waiting.mailbox.ten) = true ∧
     ∃ t, waiting.accept .mail 0 waiting.mailbox.ten r = (t, none)) ∧
    (let s := { owned 15 { host := 15 } with
        dies := State.reset.dies.set 0 { Die.start with queues := Die.start.queues.set 0 (List.replicate 64 1) } }
     s.ownerWrites ∧
     s.queueRoom 0 (runQueue (ctlPrio (recWord (recordWords (lineBytes s.mailbox.record)) 6)) s.mailbox.ten) = false) := by
  refine ⟨⟨?_, ?_, _, sndIs ?_⟩, ⟨?_, ?_, _, sndIs ?_⟩, ?_, ?_⟩ <;> (try unfold State.ownerWrites) <;> decide +kernel
/-- No bench of a small state holds a store of a retired team. -/
theorem owned_orphans (h : BitVec 4) (br : Brought) (b : BenchId) (q : Buf) : ((owned h br).bench b).orphansOf q = [] := by
  have e : ((owned h br).bench b).orphans = [] := by
    simp only [State.bench, owned, ev, on, State.reset, Fin.getElem_fin, Vector.getElem_set]
    split <;> first | rfl | simp [Bench.idle]
  simp [Bench.orphansOf, e]
theorem witness_ResetEvents :
    ((ev {} id).bootErr = 0 ∧ (ev {} id).bootStage.toNat < 2) ∧ (3 : BitVec 4) ≠ 0 ∧ (3 : BitVec 4).toNat ≤ 3 ∧
    (ev { hi := true } id).cur.bring.hi = true ∧ Mem.wf (ev { hi := true } id).mem = true ∧ (ev { hi := true } id).backing = [] ∧
    (owned 15 { host := 15 }).reachable = true ∧ (owned 15 { host := 15 }).owns 15 = true ∧ (owned 15 { host := 15 }).hitches = [] ∧
    (let s := { owned 15 { host := 15 } with hitches := [{ launch with state := .running, shape := [0], place := [some 0] }] }
     (∀ h ∈ s.hitches, ∀ b ∈ h.benches, (s.bench b).drained = true) ∧ (∀ b q, (s.bench b).orphansOf q = []) ∧ s.outFlows = [] ∧
      s.resetting ≠ some true) ∧ ({ ev {} id with bootErr := 1 } : State).reachable = false ∧
    (owned 15 { host := 15 }).watches = [] ∧ (owned 15 { host := 15 }).dstores = [] ∧ (ev {} id).cur.bring.hi = false ∧ (ev {} id).owns 0 = false := by
  refine ⟨?_, ?_, ?_, ?_, ?_, ?_, ?_, ?_, ?_, ⟨?_, fun b q => owned_orphans 15 { host := 15 } b q, ?_, ?_⟩, ?_, ?_, ?_, ?_, ?_⟩ <;> decide +kernel

/-! ### Small checks, with results from the spec's worked examples or by hand from its rules -/

/-- What the outcome of a step says of its next state. -/
def after (r : Host.Outcome State Fault Refusal) (p : State → Bool) : Bool :=
  match r with | .next t => p t | _ => false
/-- A register of the context of the turn. -/
def reg (s : State) (k : BitVec 4) (v : W64) : Bool := s.here.readReg s.cur.ctx 0 k == .val v

-- R117: K = 7, every coordinate 0
theorem test_rndc : after (exec (.rndc ⟨5, 16, 0, 0, 0⟩) (on .c 0 (holding 7))) (fun t => reg t 5 0x7F6E8AE7) = true := by
  decide +kernel
-- The priorities of the worked program on graph colouring, vertices 8, 16 and 24
theorem test_grain_hash : (grainHash 7 8 0 0).toNat / 65536 = 0x511C ∧ (grainHash 7 16 0 0).toNat / 65536 = 0xD80D ∧
    (grainHash 7 24 0 0).toNat / 65536 = 0xA141 := by decide +kernel
-- R109: the grain-hash multiplier in three words
theorem test_li : after (exec (.li ⟨5, 0, 0x13C6F⟩) (on .c 0 id)) (fun t => reg t 5 0x13C6F) = true := by decide +kernel
theorem test_shfi : after (exec (.shfi ⟨5, 16, 0, 0, 15⟩) (on .c 0 (holding 0x13C6F))) (fun t => reg t 5 0x9E378000) = true := by
  decide +kernel
theorem test_addi : after (exec (.addi ⟨5, 16, 0, 0x79B1⟩) (on .c 0 (holding 0x9E378000))) (fun t => reg t 5 0x9E3779B1) = true := by
  decide +kernel
-- R105: a result that wraps; R106: the remainder of the most negative number by -1
theorem test_add_wraps : after (exec (.add ⟨5, 16, 16, 0⟩) (on .c 0 (holding 0x8000000000000000))) (fun t => reg t 5 0) = true := by
  decide +kernel
theorem test_rem_overflow : after (exec (.rem ⟨15, 16, 17, 0⟩) (on .c 0 loaded)) (fun t => reg t 15 0) = true := by decide +kernel
-- R111: 1 + 2^-24 is a tie, which RNE takes to 1 and RUP to the next number
theorem test_fadd_rounds : (fadd32 .rne 0x3F800000 0x33800000).1 = 0x3F800000 ∧ (fadd32 .rup 0x3F800000 0x33800000).1 = 0x3F800001 := by
  decide +kernel
-- R161, R178
theorem test_trap : after (exec (.trap 7) (on .c 0 id)) (fun t => t.here.c.epc == 0x104 && t.here.c.tval == 7 &&
    t.here.c.cause == 0x20 && t.myCtx.pc == 0x1000) = true := by decide +kernel
-- R3, R102: the word lies where the step fetches, and the next word is four bytes on
theorem test_step_add : after (step (State.reset.withFetchWord 32 0x06924000)) (fun t => t.myCtx.pc == 4) = true := by decide +kernel

/-- The frame of the worked example: map (3, 2, 1) under a key. -/
def frameOf (key perm : Nat) : BitVec 256 := BitVec.ofNat 256 (perm * 2 ^ 17 + key * 2 ^ 32 + 2 * 2 ^ 64 + 1 * 2 ^ 80)
-- R208, R215: the offsets of keys 7, 2 and 0, and the transposed index
theorem test_dither_offsets : grain (frameOf 7 0) 0 = -1 ∧ grain (frameOf 2 0) 0 = 15 ∧ grain (frameOf 0 0) 0 = -15 ∧
    grain (frameOf 7 0) 3 = grain (frameOf 7 1) 1 := by decide +kernel
-- R215: 2.7 is stored as 0x43, and reads 353/128, 367/128 under key 0, and 11/4 without DITH
theorem test_dither_store : encodeCode 3 .rne true (some (-1)) (valF32 0x402CCCCD) = 0x43 := by decide +kernel
theorem test_dither_load : (decodeCode 3 0x43 0 (some (-1))).eqv (.fin false 353 (-7)) = true ∧
    (decodeCode 3 0x43 0 (some (-15))).eqv (.fin false 367 (-7)) = true ∧
    (decodeCode 3 0x43 0 none).eqv (.fin false 11 (-2)) = true := by decide +kernel
-- R376: the repair under key 2, by RNE and by RTZ
theorem test_requantise : encodeCode 3 .rne true (some 15) (.fin false 353 (-7)) = 0x44 ∧
    encodeCode 3 .rtz true (some 15) (.fin false 353 (-7)) = 0x43 := by decide +kernel

end Sys2Proof.Tests
end

