-- ==== Sys2Proof/Proofs/KeepsMemory.lean ====
section
/-! O7: every step keeps every memory in the canonical form.

`State.memWf` speaks of main memory, of the banks of every bench and of the banks of every saved team. Each function of the model that
changes a state or a bench keeps it, and there is one lemma `f_memWf` for each, in the order of the model's files. Most functions write
none of these memories themselves, and their lemma follows from those of the functions that they call; those that do write go through
`Mem.write` and `Mem.writeAll`, which keep the form (`Mem.wf_write`, `Mem.wf_writeAll`). Each lemma is given to `grind` by a local
pattern, the call that it speaks of, so that the lemma of a caller names the definition of the caller alone; where a function recurs,
folds over a list, takes a function or moves a memory, the induction or the case split is written out. -/

namespace Sys2Proof.Machine

-- One proof after the other: all at once need more thread stacks than the check's memory limit allows.
set_option Elab.async false

/-! ### The canonical form by its parts -/

/-- The memories of a state in the canonical form, by its parts. -/
def WfParts (m : Mem) (bs : Vector Bench 768) (hs : List Hitch) : Prop :=
  Mem.wf m = true ∧ (∀ b : Fin 768, (bs[b]).memWf) ∧ ∀ h ∈ hs, ∀ x, some x ∈ h.saved → x.memWf

theorem State.memWf_iff (s : State) : s.memWf ↔ WfParts s.mem s.benches s.hitches := Iff.rfl
local grind_pattern State.memWf_iff => s.memWf

/-- Every bank is in the canonical form. -/
def BanksWf (v : Vector Mem 16) : Prop := ∀ m ∈ v.toList, Mem.wf m = true

theorem Bench.memWf_iff (x : Bench) : x.memWf ↔ BanksWf x.banks := Iff.rfl
local grind_pattern Bench.memWf_iff => x.memWf

/-! ### Writing a part -/

theorem WfParts_write {m : Mem} {bs : Vector Bench 768} {hs : List Hitch} (a : Nat) (l : List (Option Byte))
    (h : WfParts m bs hs) : WfParts (Mem.write m a l) bs hs := ⟨Mem.wf_write _ _ _ h.1, h.2⟩
local grind_pattern WfParts_write => WfParts (Mem.write m a l) bs hs

theorem WfParts_writeAll {m : Mem} {bs : Vector Bench 768} {hs : List Hitch} (a : Nat) (l : List Byte)
    (h : WfParts m bs hs) : WfParts (Mem.writeAll m a l) bs hs := ⟨Mem.wf_writeAll _ _ _ h.1, h.2⟩
local grind_pattern WfParts_writeAll => WfParts (Mem.writeAll m a l) bs hs

theorem WfParts_mapBenches {m : Mem} {bs : Vector Bench 768} {hs : List Hitch} (f : Bench → Bench)
    (hw : WfParts m bs hs) (hf : ∀ x : Bench, x.memWf → (f x).memWf) : WfParts m (bs.map f) hs := by
  refine ⟨hw.1, fun b => ?_, hw.2.2⟩
  simpa using hf _ (hw.2.1 b)
local grind_pattern WfParts_mapBenches => WfParts m (bs.map f) hs

theorem BanksWf_vmod {v : Vector Mem 16} (i : Nat) (f : Mem → Mem) (hv : BanksWf v)
    (hf : ∀ m, Mem.wf m = true → Mem.wf (f m) = true) : BanksWf (vmod v i f) := by
  unfold vmod
  split
  · next hi =>
    intro m hm
    obtain ⟨j, hj, rfl⟩ := List.mem_iff_getElem.1 hm
    have hget (k : Nat) (hk : k < 16) : Mem.wf v[k] = true := hv _ (by simp)
    simp only [Vector.getElem_toList, Vector.getElem_set]
    split
    · exact hf _ (hget i hi)
    · exact hget j _
  · exact hv

theorem BanksWf_foldl {α : Type} {v : Vector Mem 16} (f : Vector Mem 16 → α → Vector Mem 16) (l : List α) (hv : BanksWf v)
    (hf : ∀ w a, BanksWf w → BanksWf (f w a)) : BanksWf (l.foldl f v) :=
  List.foldlRecOn l f hv fun w hw a _ => hf w a hw

theorem BanksWf_replicate : BanksWf (Vector.replicate 16 []) := by
  intro m hm
  obtain rfl : m = [] := by simpa using hm
  rfl
local grind_pattern BanksWf_replicate => BanksWf (Vector.replicate 16 [])

theorem Mem.lt_of_wf_cons {c : Host.Cell} {m : Mem} (h : Mem.wf (c :: m) = true) : ∀ d ∈ m, c.1 < d.1 := by
  induction m generalizing c with
  | nil => simp
  | cons e m ih =>
    obtain ⟨-, hlt, hm⟩ := (Mem.wf_cons c _).1 h
    have hce : c.1 < e.1 := hlt e (by simp)
    intro d hd
    obtain rfl | hd := List.mem_cons.1 hd
    · exact hce
    · exact hce.trans (ih hm d hd)

theorem Mem.wf_filter (p : Host.Cell → Bool) {m : Mem} (h : Mem.wf m = true) : Mem.wf (m.filter p) = true := by
  induction m with
  | nil => rfl
  | cons c m ih =>
    obtain ⟨hc, -, hm⟩ := (Mem.wf_cons c m).1 h
    rw [List.filter_cons]
    split
    · refine (Mem.wf_cons _ _).2 ⟨hc, fun d hd => ?_, ih hm⟩
      exact Mem.lt_of_wf_cons h d (List.mem_of_mem_filter (List.mem_of_mem_head? hd))
    · exact ih hm

/-! ### Changing one bench -/

theorem Bench.idle_memWf : Bench.idle.memWf := by
  intro m hm
  obtain rfl : m = [] := by simpa [Bench.idle] using hm
  rfl
local grind_pattern Bench.idle_memWf => Bench.idle

theorem State.bench_memWf {s : State} (h : s.memWf) (b : BenchId) : (s.bench b).memWf := h.2.1 b
local grind_pattern State.bench_memWf => s.bench b

theorem State.here_memWf {s : State} (h : s.memWf) : s.here.memWf := h.2.1 _
local grind_pattern State.here_memWf => s.here

theorem State.setBench_memWf {s : State} {x : Bench} (h : s.memWf) (hx : x.memWf) (b : BenchId) : (s.setBench b x).memWf := by
  obtain ⟨hm, hb, hh⟩ := h
  refine ⟨hm, fun c => ?_, hh⟩
  by_cases hc : b = c
  · subst hc
    simpa [State.setBench, State.bench] using hx
  · have : (b : Nat) ≠ c := fun k => hc (Fin.ext k)
    simpa [State.setBench, State.bench, Vector.getElem_set_ne, this] using hb c
local grind_pattern State.setBench_memWf => s.setBench b x

theorem State.modBench_memWf {s : State} (b : BenchId) (f : Bench → Bench) (h : s.memWf)
    (hf : (s.bench b).memWf → (f (s.bench b)).memWf) : (s.modBench b f).memWf :=
  State.setBench_memWf h (hf (h.2.1 b)) b
local grind_pattern State.modBench_memWf => s.modBench b f

theorem State.modHere_memWf {s : State} (f : Bench → Bench) (h : s.memWf)
    (hf : s.here.memWf → (f s.here).memWf) : (s.modHere f).memWf := State.modBench_memWf _ f h hf
local grind_pattern State.modHere_memWf => s.modHere f

theorem State.modDie_memWf {s : State} (d : Fin 8) (f : Die → Die) (h : s.memWf) : (s.modDie d f).memWf := h
local grind_pattern State.modDie_memWf => s.modDie d f

theorem Bench.modEng_memWf {x : Bench} (st : Stream) (f : Eng → Eng) (h : x.memWf) : (x.modEng st f).memWf := by
  cases st <;> exact h
local grind_pattern Bench.modEng_memWf => x.modEng st f

theorem Bench.modC_memWf {x : Bench} (f : CUnit → CUnit) (h : x.memWf) : (x.modC f).memWf := h
local grind_pattern Bench.modC_memWf => x.modC f

theorem Bench.modCtx_memWf {x : Bench} (c : Fin 4) (f : Ctx → Ctx) (h : x.memWf) : (x.modCtx c f).memWf := h
local grind_pattern Bench.modCtx_memWf => x.modCtx c f

theorem Bench.modPlane_memWf {x : Bench} (f : Plane → Plane) (h : x.memWf) : (x.modPlane f).memWf := h
local grind_pattern Bench.modPlane_memWf => x.modPlane f

theorem State.modMy_memWf {s : State} (f : Ctx → Ctx) (h : s.memWf) : (s.modMy f).memWf := by grind [State.modMy]
local grind_pattern State.modMy_memWf => s.modMy f

theorem State.modMyC_memWf {s : State} (f : CUnit → CUnit) (h : s.memWf) : (s.modMyC f).memWf := by grind [State.modMyC]
local grind_pattern State.modMyC_memWf => s.modMyC f

theorem State.modMyEng_memWf {s : State} (f : Eng → Eng) (h : s.memWf) : (s.modMyEng f).memWf := by grind [State.modMyEng]
local grind_pattern State.modMyEng_memWf => s.modMyEng f

/-! ### Folds -/

theorem foldl_memWf {α : Type} {s : State} (f : State → α → State) (l : List α) (h : s.memWf)
    (hf : ∀ t a, t.memWf → (f t a).memWf) : (l.foldl f s).memWf :=
  List.foldlRecOn l f h fun t ht a _ => hf t a ht
local grind_pattern foldl_memWf => l.foldl f s

theorem foldl_benchWf {α : Type} {x : Bench} (f : Bench → α → Bench) (l : List α) (h : x.memWf)
    (hf : ∀ t a, t.memWf → (f t a).memWf) : (l.foldl f x).memWf :=
  List.foldlRecOn l f h fun t ht a _ => hf t a ht
local grind_pattern foldl_benchWf => l.foldl f x

/-! ### Launches -/

/-- The banks of the saved teams of a launch are in the canonical form. -/
def Hitch.savedWf (h : Hitch) : Prop := ∀ x, some x ∈ h.saved → x.memWf

theorem State.withHitches_memWf {s : State} {l : List Hitch} (hw : s.memWf) (hl : ∀ h ∈ l, h.savedWf) :
    { s with hitches := l }.memWf := ⟨hw.1, hw.2.1, hl⟩

theorem State.mapHitches_memWf {s : State} (f : Hitch → Hitch) (hw : s.memWf)
    (hf : ∀ h : Hitch, h.savedWf → (f h).savedWf) : { s with hitches := s.hitches.map f }.memWf := by
  refine State.withHitches_memWf hw fun h hh => ?_
  obtain ⟨g, hg, rfl⟩ := List.mem_map.1 hh
  exact hf g (hw.2.2 g hg)

theorem mem_replaceFirst {α : Type} {p : α → Bool} {f : α → α} {l : List α} {y : α} (hy : y ∈ replaceFirst p f l) :
    y ∈ l ∨ ∃ x ∈ l, y = f x := by
  induction l with
  | nil => simp [replaceFirst] at hy
  | cons a l ih => grind [replaceFirst]

theorem State.modHitch_memWf {s : State} (seq : W64) (f : Hitch → Hitch) (hw : s.memWf)
    (hf : ∀ h : Hitch, h.savedWf → (f h).savedWf) : (s.modHitch seq f).memWf := by
  refine State.withHitches_memWf hw fun h hh => ?_
  obtain hh | ⟨g, hg, rfl⟩ := mem_replaceFirst hh
  · exact hw.2.2 h hh
  · exact hf g (hw.2.2 g hg)

/-! ### Results that carry a state -/

/-- A state, if there is one. -/
def OptWf : Option State → Prop | none => True | some t => t.memWf
theorem OptWf_some (t : State) : OptWf (some t) ↔ t.memWf := Iff.rfl
local grind_pattern OptWf_some => OptWf (some t)
theorem OptWf_none : OptWf none := trivial
local grind_pattern OptWf_none => OptWf none

/-- A bench, if there is one. -/
def OptWfB : Option Bench → Prop | none => True | some t => t.memWf
theorem OptWfB_some (t : Bench) : OptWfB (some t) ↔ t.memWf := Iff.rfl
local grind_pattern OptWfB_some => OptWfB (some t)
theorem OptWfB_none : OptWfB none := trivial
local grind_pattern OptWfB_none => OptWfB none

/-- A state beside another value, if there is one. -/
def OptWf1 {α : Type} : Option (State × α) → Prop | none => True | some t => t.1.memWf
theorem OptWf1_some {α : Type} (t : State × α) : OptWf1 (some t) ↔ t.1.memWf := Iff.rfl
local grind_pattern OptWf1_some => OptWf1 (some t)
theorem OptWf1_none {α : Type} : OptWf1 (none : Option (State × α)) := trivial
local grind_pattern OptWf1_none => OptWf1 (none : Option (State × α))

/-- The next state of an outcome. -/
def Out.memWf : Out → Prop | .next t => t.memWf | _ => True
theorem Out.memWf_next (t : State) : Out.memWf (.next t) ↔ t.memWf := Iff.rfl
local grind_pattern Out.memWf_next => Out.memWf (.next t)

/-- How a load goes. -/
def LoadRes.memWf : LoadRes → Prop | .ok s _ => s.memWf | .wait s => s.memWf | .fault s _ => s.memWf | .remote s => s.memWf
theorem LoadRes.memWf_ok (s : State) (bs) : (LoadRes.ok s bs).memWf ↔ s.memWf := Iff.rfl
local grind_pattern LoadRes.memWf_ok => (LoadRes.ok s bs).memWf
theorem LoadRes.memWf_wait (s : State) : (LoadRes.wait s).memWf ↔ s.memWf := Iff.rfl
local grind_pattern LoadRes.memWf_wait => (LoadRes.wait s).memWf
theorem LoadRes.memWf_fault (s : State) (c) : (LoadRes.fault s c).memWf ↔ s.memWf := Iff.rfl
local grind_pattern LoadRes.memWf_fault => (LoadRes.fault s c).memWf
theorem LoadRes.memWf_remote (s : State) : (LoadRes.remote s).memWf ↔ s.memWf := Iff.rfl
local grind_pattern LoadRes.memWf_remote => (LoadRes.remote s).memWf

/-- What a piece of an access comes to. -/
def Got.memWf : Got → Prop | .ok s => s.memWf | .wait s => s.memWf | .fault s _ _ => s.memWf
theorem Got.memWf_ok (s : State) : (Got.ok s).memWf ↔ s.memWf := Iff.rfl
local grind_pattern Got.memWf_ok => (Got.ok s).memWf
theorem Got.memWf_wait (s : State) : (Got.wait s).memWf ↔ s.memWf := Iff.rfl
local grind_pattern Got.memWf_wait => (Got.wait s).memWf
theorem Got.memWf_fault (s : State) (c) (v) : (Got.fault s c v).memWf ↔ s.memWf := Iff.rfl
local grind_pattern Got.memWf_fault => (Got.fault s c v).memWf

/-- What fetching pieces comes to. -/
def Fetched.memWf : Fetched → Prop | .ok s _ _ _ => s.memWf | .wait s => s.memWf | .fault s _ _ => s.memWf | .remote => True
theorem Fetched.memWf_ok (s : State) (a b c) : (Fetched.ok s a b c).memWf ↔ s.memWf := Iff.rfl
local grind_pattern Fetched.memWf_ok => (Fetched.ok s a b c).memWf
theorem Fetched.memWf_wait (s : State) : (Fetched.wait s).memWf ↔ s.memWf := Iff.rfl
local grind_pattern Fetched.memWf_wait => (Fetched.wait s).memWf
theorem Fetched.memWf_fault (s : State) (c) (v) : (Fetched.fault s c v).memWf ↔ s.memWf := Iff.rfl
local grind_pattern Fetched.memWf_fault => (Fetched.fault s c v).memWf
theorem Fetched.memWf_remote : Fetched.remote.memWf := trivial
local grind_pattern Fetched.memWf_remote => Fetched.remote.memWf

/-- What fetching a block comes to. -/
def Block.memWf : Block → Prop | .ok s _ _ => s.memWf | .wait s => s.memWf | .remote => True
theorem Block.memWf_ok (s : State) (a b) : (Block.ok s a b).memWf ↔ s.memWf := Iff.rfl
local grind_pattern Block.memWf_ok => (Block.ok s a b).memWf
theorem Block.memWf_wait (s : State) : (Block.wait s).memWf ↔ s.memWf := Iff.rfl
local grind_pattern Block.memWf_wait => (Block.wait s).memWf
theorem Block.memWf_remote : Block.remote.memWf := trivial
local grind_pattern Block.memWf_remote => Block.remote.memWf

/-- What popping a block comes to. -/
def Popped.memWf : Popped → Prop | .ok s _ _ => s.memWf | .wait s => s.memWf | .bad _ => True | .fault s _ _ _ => s.memWf
theorem Popped.memWf_ok (s : State) (a b) : (Popped.ok s a b).memWf ↔ s.memWf := Iff.rfl
local grind_pattern Popped.memWf_ok => (Popped.ok s a b).memWf
theorem Popped.memWf_wait (s : State) : (Popped.wait s).memWf ↔ s.memWf := Iff.rfl
local grind_pattern Popped.memWf_wait => (Popped.wait s).memWf
theorem Popped.memWf_bad (c) : (Popped.bad c).memWf := trivial
local grind_pattern Popped.memWf_bad => (Popped.bad c).memWf
theorem Popped.memWf_fault (s : State) (a b c) : (Popped.fault s a b c).memWf ↔ s.memWf := Iff.rfl
local grind_pattern Popped.memWf_fault => (Popped.fault s a b c).memWf

/-- What a prefetch comes to. -/
def Pref.memWf : Pref → Prop | .ok s => s.memWf | .wait s => s.memWf
theorem Pref.memWf_ok (s : State) : (Pref.ok s).memWf ↔ s.memWf := Iff.rfl
local grind_pattern Pref.memWf_ok => (Pref.ok s).memWf
theorem Pref.memWf_wait (s : State) : (Pref.wait s).memWf ↔ s.memWf := Iff.rfl
local grind_pattern Pref.memWf_wait => (Pref.wait s).memWf

/-- What a check of pages comes to. -/
def Pages.memWf : Pages → Prop | .ok s _ => s.memWf | .fails s => s.memWf | .wait s => s.memWf
theorem Pages.memWf_ok (s : State) (a) : (Pages.ok s a).memWf ↔ s.memWf := Iff.rfl
local grind_pattern Pages.memWf_ok => (Pages.ok s a).memWf
theorem Pages.memWf_wait (s : State) : (Pages.wait s).memWf ↔ s.memWf := Iff.rfl
local grind_pattern Pages.memWf_wait => (Pages.wait s).memWf
theorem Pages.memWf_fails (s : State) : (Pages.fails s).memWf ↔ s.memWf := Iff.rfl
local grind_pattern Pages.memWf_fails => (Pages.fails s).memWf

/-- What popping operands comes to. -/
def Pops.memWf : Pops → Prop | .ok s _ _ => s.memWf | _ => True
theorem Pops.memWf_ok (s : State) (a b) : (Pops.ok s a b).memWf ↔ s.memWf := Iff.rfl
local grind_pattern Pops.memWf_ok => (Pops.ok s a b).memWf
theorem Pops.memWf_wait : Pops.wait.memWf := trivial
local grind_pattern Pops.memWf_wait => Pops.wait.memWf
theorem Pops.memWf_bad (c) : (Pops.bad c).memWf := trivial
local grind_pattern Pops.memWf_bad => (Pops.bad c).memWf
theorem Pops.memWf_eret (a b c d) : (Pops.eret a b c d).memWf := trivial
local grind_pattern Pops.memWf_eret => (Pops.eret a b c d).memWf

/-- Where elements are placed. -/
def Placed.memWf {α} : Placed α → Prop | .ok s _ _ => s.memWf | .wait s => s.memWf | .fault s _ _ => s.memWf
theorem Placed.memWf_ok {α} (s : State) (a b) : (Placed.ok (α := α) s a b).memWf ↔ s.memWf := Iff.rfl
local grind_pattern Placed.memWf_ok => (Placed.ok (α := α) s a b).memWf
theorem Placed.memWf_wait {α} (s : State) : (Placed.wait (α := α) s).memWf ↔ s.memWf := Iff.rfl
local grind_pattern Placed.memWf_wait => (Placed.wait (α := α) s).memWf
theorem Placed.memWf_fault {α} (s : State) (a b) : (Placed.fault (α := α) s a b).memWf ↔ s.memWf := Iff.rfl
local grind_pattern Placed.memWf_fault => (Placed.fault (α := α) s a b).memWf

/-- What the body of an engine instruction does; a body may also be a function of the state that it is given. -/
def Eff.memWf : Eff → Prop
  | .done s _ _ => s.memWf
  | .pre _ _ => True
  | .preEret _ _ => True
  | .preDo f _ => ∀ u : State, u.memWf → (f u).memWf
  | .post s _ _ _ _ => s.memWf
  | .wait _ _ => True
  | .ask f => ∀ u : State, u.memWf → (f u).memWf
  | .stay s _ _ _ => s.memWf
theorem Eff.memWf_done (s : State) (a b) : (Eff.done s a b).memWf ↔ s.memWf := Iff.rfl
local grind_pattern Eff.memWf_done => (Eff.done s a b).memWf
theorem Eff.memWf_pre (a b) : (Eff.pre a b).memWf := trivial
local grind_pattern Eff.memWf_pre => (Eff.pre a b).memWf
theorem Eff.memWf_preEret (a b) : (Eff.preEret a b).memWf := trivial
local grind_pattern Eff.memWf_preEret => (Eff.preEret a b).memWf
theorem Eff.memWf_preDo (f a) : (Eff.preDo f a).memWf ↔ ∀ u : State, u.memWf → (f u).memWf := Iff.rfl
local grind_pattern Eff.memWf_preDo => (Eff.preDo f a).memWf
theorem Eff.memWf_post (s : State) (a b c d) : (Eff.post s a b c d).memWf ↔ s.memWf := Iff.rfl
local grind_pattern Eff.memWf_post => (Eff.post s a b c d).memWf
theorem Eff.memWf_wait (a b) : (Eff.wait a b).memWf := trivial
local grind_pattern Eff.memWf_wait => (Eff.wait a b).memWf
theorem Eff.memWf_ask (f) : (Eff.ask f).memWf ↔ ∀ u : State, u.memWf → (f u).memWf := Iff.rfl
local grind_pattern Eff.memWf_ask => (Eff.ask f).memWf
theorem Eff.memWf_stay (s : State) (a b c) : (Eff.stay s a b c).memWf ↔ s.memWf := Iff.rfl
local grind_pattern Eff.memWf_stay => (Eff.stay s a b c).memWf

theorem OptWf_map {o : Option State} {f : State → State} (ho : OptWf o) (hf : ∀ t, t.memWf → (f t).memWf) :
    OptWf (o.map f) := by
  cases o with
  | none => trivial
  | some t => exact hf t ho
local grind_pattern OptWf_map => OptWf (o.map f)

theorem OptWf_map1 {α : Type} {o : Option (State × α)} {f : State × α → State} (ho : OptWf1 o)
    (hf : ∀ r, r.1.memWf → (f r).memWf) : OptWf (o.map f) := by
  cases o with
  | none => trivial
  | some t => exact hf t ho
local grind_pattern OptWf_map1 => OptWf (o.map f)

/-! ### The functions of the model -/

/-! #### The parts of the state, the error log and the flows (Acc) -/

theorem State.logErr_memWf {s : State} (d : Fin 8) (sect kind ten : Nat) (hw : s.memWf) : (s.logErr d sect kind ten).memWf := hw
local grind_pattern State.logErr_memWf => s.logErr d sect kind ten

theorem Bench.arriveVal_memWf {x : Bench} (l : PendLoad) (v : W64) (hw : x.memWf) :
    (x.arriveVal l v).memWf := by grind [Bench.arriveVal]
local grind_pattern Bench.arriveVal_memWf => x.arriveVal l v

theorem State.sendFlow_memWf {s : State} (dmod : BitVec 14) (ch : BitVec 2) (ten : BitVec 6) (kind : Byte) (body : Body)
    (hw : s.memWf) :
    (s.sendFlow dmod ch ten kind body).1.memWf := hw
local grind_pattern State.sendFlow_memWf => s.sendFlow dmod ch ten kind body

/-! #### The home side: placement, directory, watches, stores at home (Home) -/

theorem State.setPoison_memWf {s : State} (sec : Nat) (b : Bool) (hw : s.memWf) : (s.setPoison sec b).memWf := hw
local grind_pattern State.setPoison_memWf => s.setPoison sec b

theorem State.restoreLine_memWf {s : State} (ln : Nat) (d : LineData) (p : BitVec 4) (hw : s.memWf) :
    (s.restoreLine ln d p).memWf := by
  have hm : { s with mem := Mem.writeAll s.mem (128 * ln) (lineBytes d) }.memWf := by grind
  grind [State.restoreLine]
local grind_pattern State.restoreLine_memWf => s.restoreLine ln d p

theorem State.portGain_memWf {s : State} (d : Fin 8) (slice : Nat) (hw : s.memWf) : (s.portGain d slice).memWf := hw
local grind_pattern State.portGain_memWf => s.portGain d slice

theorem State.portRun_memWf {s : State} (d : Fin 8) (slice k : Nat) (hw : s.memWf) :
    (s.portRun d slice k).memWf := by
  induction k generalizing s with
  | zero => exact hw
  | succ k ih => grind [State.portRun]
local grind_pattern State.portRun_memWf => s.portRun d slice k

theorem State.portTo_memWf {s : State} (d : Fin 8) (slice : Nat) (hw : s.memWf) :
    (s.portTo d slice).memWf := by grind [State.portTo]
local grind_pattern State.portTo_memWf => s.portTo d slice

theorem State.touchChan_memWf {s : State} (d : Fin 8) (pa : Nat) (ten : BitVec 6) (hw : s.memWf) :
    (s.touchChan d pa ten).memWf := hw
local grind_pattern State.touchChan_memWf => s.touchChan d pa ten

theorem State.takeToken_memWf {s : State} (d : Fin 8) (slice : Nat) (ten : BitVec 6) (hw : s.memWf) :
    (s.takeToken d slice ten).memWf := by grind [State.takeToken]
local grind_pattern State.takeToken_memWf => s.takeToken d slice ten

theorem State.writeBack_memWf {s : State} (ln : Nat) (hw : s.memWf) : (s.writeBack ln).memWf := hw
local grind_pattern State.writeBack_memWf => s.writeBack ln

theorem State.dropSharers_memWf {s : State} (ln : Nat) (hw : s.memWf) : (s.dropSharers ln).memWf := hw
local grind_pattern State.dropSharers_memWf => s.dropSharers ln

theorem State.evictL2_memWf {s : State} (v : L2Line) (ten : BitVec 6) (hw : s.memWf) :
    (s.evictL2 v ten).memWf := by grind [State.evictL2]
local grind_pattern State.evictL2_memWf => s.evictL2 v ten

theorem State.touchL2_memWf {s : State} (pa : Nat) (leaf : Leaf) (pri : BitVec 2) (lru : Bool) (ten : BitVec 6) (hw : s.memWf) :
    (s.touchL2 pa leaf pri lru ten).memWf := by grind [State.touchL2]
local grind_pattern State.touchL2_memWf => s.touchL2 pa leaf pri lru ten

theorem State.passL2_memWf {s : State} (pa : Nat) (leaf : Leaf) (ten : BitVec 6) (hw : s.memWf) :
    (s.passL2 pa leaf ten).memWf := by grind [State.passL2]
local grind_pattern State.passL2_memWf => s.passL2 pa leaf ten

theorem State.readTable_memWf {s : State} (d : Fin 8) (ten : BitVec 6) (hw : s.memWf) :
    (s.readTable d ten).memWf := by grind [State.readTable]
local grind_pattern State.readTable_memWf => s.readTable d ten

theorem State.readEntry_memWf {s : State} (d : Fin 8) (ten : BitVec 6) (hw : s.memWf) :
    (s.readEntry d ten).memWf := by
  have ht := State.readTable_memWf d ten hw
  unfold State.readEntry
  exact State.mapHitches_memWf (s := s.readTable d ten) _ ht fun h hh => by grind [Hitch.savedWf]
local grind_pattern State.readEntry_memWf => s.readEntry d ten

theorem State.makeDirty_memWf {s : State} (ln : Nat) (hw : s.memWf) : (s.makeDirty ln).memWf := by grind [State.makeDirty]
local grind_pattern State.makeDirty_memWf => s.makeDirty ln

theorem State.through_memWf {s : State} (pa : Nat) (bs : List (Option Byte)) (clears : Nat → Bool) (hw : s.memWf) :
    (s.through pa bs clears).memWf := hw
local grind_pattern State.through_memWf => s.through pa bs clears

theorem State.dropLine_memWf {s : State} (ln : Nat) (hw : s.memWf) : (s.dropLine ln).memWf := by grind [State.dropLine]
local grind_pattern State.dropLine_memWf => s.dropLine ln

theorem State.setDir_memWf {s : State} (ln : Nat) (m : Option DirMode) (hw : s.memWf) :
    (s.setDir ln m).memWf := by
  simp only [State.setDir]
  grind
local grind_pattern State.setDir_memWf => s.setDir ln m

theorem State.dirRead_memWf {s : State} (a : BitVec 6) (ln : Nat) (hw : s.memWf) : (s.dirRead a ln).memWf := hw
local grind_pattern State.dirRead_memWf => s.dirRead a ln

theorem State.dirStore_memWf {s : State} (ln : Nat) (home : Nat × Nat) (hw : s.memWf) :
    OptWf (s.dirStore ln home) := by grind [State.dirStore]
local grind_pattern State.dirStore_memWf => s.dirStore ln home

theorem State.dirAnswer_memWf {s : State} (a : BitVec 6) (ln : Nat) (viaEviction : Bool) (hw : s.memWf) :
    (s.dirAnswer a ln viaEviction).memWf := hw
local grind_pattern State.dirAnswer_memWf => s.dirAnswer a ln viaEviction

theorem State.noticeFrom_memWf {s : State} (a : BitVec 6) (ln : Nat) (hw : s.memWf) :
    (s.noticeFrom a ln).memWf := by grind [State.noticeFrom]
local grind_pattern State.noticeFrom_memWf => s.noticeFrom a ln

theorem State.fillRdc_memWf {s : State} (d : Fin 8) (n : CopyLine) (pri : BitVec 2) (hw : s.memWf) :
    (s.fillRdc d n pri).memWf := by grind [State.fillRdc]
local grind_pattern State.fillRdc_memWf => s.fillRdc d n pri

theorem State.fetchFor_memWf {s : State} (d : Fin 8) (ten : BitVec 6) (leaf : Leaf) (pa : Nat) (sc : Scope) (pri : BitVec 2)
    (alloc : Bool) (hw : s.memWf) :
    OptWf1 (s.fetchFor d ten leaf pa sc pri alloc) := by
  grind [State.fetchFor]
local grind_pattern State.fetchFor_memWf => s.fetchFor d ten leaf pa sc pri alloc

theorem State.readPhys_memWf {s : State} (d : Fin 8) (ten : BitVec 6) (pa n : Nat) (hw : s.memWf) :
    OptWf1 (s.readPhys d ten pa n) := by grind [State.readPhys]
local grind_pattern State.readPhys_memWf => s.readPhys d ten pa n

theorem State.wakeCtx_memWf {s : State} (b : BenchId) (c : Fin 4) (hw : s.memWf) :
    (s.wakeCtx b c).memWf := by grind [State.wakeCtx]
local grind_pattern State.wakeCtx_memWf => s.wakeCtx b c

theorem State.sendWake_memWf {s : State} (m : BitVec 14) (tag : Nat) (hw : s.memWf) :
    (s.sendWake m tag).memWf := by grind [State.sendWake]
local grind_pattern State.sendWake_memWf => s.sendWake m tag

theorem State.wakeWatch_memWf {s : State} (w : Watch) (hw : s.memWf) : (s.wakeWatch w).memWf := by grind [State.wakeWatch]
local grind_pattern State.wakeWatch_memWf => s.wakeWatch w

theorem State.wakeLine_memWf {s : State} (ln : Nat) (hw : s.memWf) : (s.wakeLine ln).memWf := by grind [State.wakeLine]
local grind_pattern State.wakeLine_memWf => s.wakeLine ln

theorem State.addWatch_memWf {s : State} (w : Watch) (hw : s.memWf) : (s.addWatch w).memWf := by grind [State.addWatch]
local grind_pattern State.addWatch_memWf => s.addWatch w

theorem State.resetSlot_memWf {s : State} (pa : Nat) (bs : List (Option Byte)) (hw : s.memWf) : (s.resetSlot pa bs).memWf := hw
local grind_pattern State.resetSlot_memWf => s.resetSlot pa bs

theorem State.writeHomeAs_memWf {s : State} (die : Option (Fin 8)) (pa : Nat) (bs : List (Option Byte))
    (clears : Nat → Bool) (direct : Bool) (hw : s.memWf) : (s.writeHomeAs die pa bs clears direct).memWf := by
  have hm (t : State) (ht : t.memWf) : { t with mem := Mem.write t.mem pa bs }.memWf := by grind
  simp only [State.writeHomeAs]
  grind -lia
local grind_pattern State.writeHomeAs_memWf => s.writeHomeAs die pa bs clears direct

theorem State.writeHome_memWf {s : State} (die : Option (Fin 8)) (pa : Nat) (bs : List (Option Byte)) (hw : s.memWf) :
    (s.writeHome die pa bs).memWf := by grind [State.writeHome]
local grind_pattern State.writeHome_memWf => s.writeHome die pa bs

theorem Bench.updateL1_memWf {x : Bench} (pa : Nat) (bs : List (Option Byte)) (clears : Nat → Bool) (pri : BitVec 2)
    (last : Bool) (hw : x.memWf) :
    (x.updateL1 pa bs clears pri last).memWf := by
  grind [Bench.updateL1]
local grind_pattern Bench.updateL1_memWf => x.updateL1 pa bs clears pri last

theorem State.writeWord_memWf {s : State} (pa v : Nat) (hw : s.memWf) : (s.writeWord pa v).memWf := by grind [State.writeWord]
local grind_pattern State.writeWord_memWf => s.writeWord pa v

theorem State.writeSlot_memWf {s : State} (slot o v : Nat) (hw : s.memWf) :
    (s.writeSlot slot o v).memWf := by grind [State.writeSlot]
local grind_pattern State.writeSlot_memWf => s.writeSlot slot o v

theorem State.combine_memWf {s : State} (p : Node) (hw : s.memWf) : OptWf (s.combine p) := by grind [State.combine]
local grind_pattern State.combine_memWf => s.combine p

theorem State.dropRdc_memWf {s : State} (a : BitVec 6) (ln : Nat) (hw : s.memWf) :
    (s.dropRdc a ln).memWf := by grind [State.dropRdc]
local grind_pattern State.dropRdc_memWf => s.dropRdc a ln

/-! #### Translation and the checks of an access (Xlate) -/

theorem State.walk_memWf {s : State} (d : Fin 8) (owner : BitVec 6) (va lvl tbl : Nat) (hw : s.memWf) :
    (s.walk d owner va lvl tbl).1.memWf := by
  induction lvl generalizing s tbl with
  | zero =>
    unfold State.walk
    extract_lets a ok
    have hread := State.readPhys_memWf d owner a 8 hw
    split
    · exact hw
    split
    · exact hw
    next t e heq =>
    have ht : t.memWf := by rwa [heq] at hread
    split
    · exact ht
    split <;> exact ht
  | succ lvl ih =>
    unfold State.walk
    extract_lets a ok
    have hread := State.readPhys_memWf d owner a 8 hw
    split
    · exact hw
    split
    · exact hw
    next t e heq =>
    have ht : t.memWf := by rwa [heq] at hread
    split
    · exact ht
    split
    · exact ht
    dsimp only
    split
    · exact ht
    · exact ih _ ht
local grind_pattern State.walk_memWf => s.walk d owner va lvl tbl

theorem State.walkTenant_memWf {s : State} (d : Fin 8) (ten : BitVec 6) (ent : Option TenEntry) (va : Nat) (hw : s.memWf) :
    (s.walkTenant d ten ent va).1.memWf := by
  simp only [State.walkTenant]
  grind
local grind_pattern State.walkTenant_memWf => s.walkTenant d ten ent va

theorem State.translate_memWf {s : State} (b : BenchId) (ten : BitVec 6) (va : Nat) (hw : s.memWf) :
    (s.translate b ten va).1.memWf := by grind [State.translate]
local grind_pattern State.translate_memWf => s.translate b ten va

theorem State.setLost_memWf {s : State} (w : Nat) (hw : s.memWf) : (s.setLost w).memWf := hw
local grind_pattern State.setLost_memWf => s.setLost w

theorem State.checkPage_memWf {s : State} (ten : BitVec 6) (va : Nat) (need : Need) (atomic io : Bool) (l : Leaf) (hw : s.memWf) :
    (s.checkPage ten va need atomic io l).1.memWf := by grind [State.checkPage]
local grind_pattern State.checkPage_memWf => s.checkPage ten va need atomic io l

theorem State.check_memWf {s : State} (b : BenchId) (va n : Nat) (need : Need) (atomic io : Bool) (hw : s.memWf) :
    (s.check b va n need atomic io).1.memWf := by grind [State.check]
local grind_pattern State.check_memWf => s.check b va n need atomic io

/-! #### Device registers (Dev) -/

theorem State.retnCheck_memWf {s : State} (d : Fin 8) (n : Nat) (ctl : W64) (ten : BitVec 6) (hw : s.memWf) :
    (s.retnCheck d n ctl ten).1.memWf := by grind [State.retnCheck]
local grind_pattern State.retnCheck_memWf => s.retnCheck d n ctl ten

theorem State.retnRefuse_memWf {s : State} (d : Fin 8) (n : Nat) (ctl : W64) (ten : BitVec 6) (hw : s.memWf) :
    (s.retnRefuse d n ctl ten).memWf := hw
local grind_pattern State.retnRefuse_memWf => s.retnRefuse d n ctl ten

theorem State.retnSet_memWf {s : State} (d : Fin 8) (n : Nat) (ctl : W64) (ten : BitVec 6) (hw : s.memWf) :
    (s.retnSet d n ctl ten).memWf := by
  have hc := State.retnCheck_memWf d n ctl ten hw
  unfold State.retnSet
  split <;> grind
local grind_pattern State.retnSet_memWf => s.retnSet d n ctl ten

theorem State.retnClear_memWf {s : State} (d : Fin 8) (n : Nat) (ctl : W64) (hw : s.memWf) : (s.retnClear d n ctl).memWf := hw
local grind_pattern State.retnClear_memWf => s.retnClear d n ctl

theorem State.retnCtl_memWf {s : State} (d : Fin 8) (n : Nat) (ctl : W64) (ten : BitVec 6) (hw : s.memWf) :
    (s.retnCtl d n ctl ten).memWf := by grind [State.retnCtl]
local grind_pattern State.retnCtl_memWf => s.retnCtl d n ctl ten

theorem State.fwinSet_memWf {s : State} (w : Nat) (val : W64) (hw : s.memWf) : (s.fwinSet w val).memWf := hw
local grind_pattern State.fwinSet_memWf => s.fwinSet w val

theorem State.plainWrite_memWf {s : State} (d : Fin 8) (o : Nat) (val : W64) (hw : s.memWf) :
    (s.plainWrite d o val).memWf := by grind [State.plainWrite]
local grind_pattern State.plainWrite_memWf => s.plainWrite d o val

theorem State.pageWrite_memWf {s : State} (d : Fin 8) (o : Nat) (val : W64) (ten : BitVec 6) (hw : s.memWf) :
    (s.pageWrite d o val ten).memWf := by grind [State.pageWrite]
local grind_pattern State.pageWrite_memWf => s.pageWrite d o val ten

theorem State.mailWrite_memWf {s : State} (o : Nat) (val : W64) (hw : s.memWf) :
    (s.mailWrite o val).memWf := by grind [State.mailWrite]
local grind_pattern State.mailWrite_memWf => s.mailWrite o val

theorem State.devWrite_memWf {s : State} (pa n : Nat) (val : W64) (ten : BitVec 6) (hw : s.memWf) :
    (s.devWrite pa n val ten).memWf := by grind [State.devWrite]
local grind_pattern State.devWrite_memWf => s.devWrite pa n val ten

theorem State.devWalks_memWf {s : State} (pa : Nat) (bs : List (Option Byte)) (ten : BitVec 6) (hw : s.memWf) :
    (s.devWalks pa bs ten).memWf := by grind [State.devWalks]
local grind_pattern State.devWalks_memWf => s.devWalks pa bs ten

theorem State.devStore_memWf {s : State} (pa : Nat) (bs : List (Option Byte)) (ten : BitVec 6) (hw : s.memWf) :
    (s.devStore pa bs ten).memWf := by grind [State.devStore]
local grind_pattern State.devStore_memWf => s.devStore pa bs ten

/-! #### Loads, acquires, store buffers and releases (Mem) -/

theorem Bench.bumpClass_memWf {x : Bench} (k : Nat) (hw : x.memWf) : (x.bumpClass k).memWf := hw
local grind_pattern Bench.bumpClass_memWf => x.bumpClass k

theorem Bench.acquire_memWf {x : Bench} (sc : Scope) (hw : x.memWf) : (x.acquire sc).memWf := by grind [Bench.acquire]
local grind_pattern Bench.acquire_memWf => x.acquire sc

theorem Bench.discardAhead_memWf {x : Bench} (hw : x.memWf) : (x.discardAhead).memWf := by grind [Bench.discardAhead]
local grind_pattern Bench.discardAhead_memWf => x.discardAhead

theorem Bench.leave_memWf {x : Bench} (i mark : Nat) (hw : x.memWf) : (x.leave i mark).memWf := hw
local grind_pattern Bench.leave_memWf => x.leave i mark

theorem Bench.addDuty_memWf {x : Bench} (i : Nat) (ls : List Nat) (hw : x.memWf) : (x.addDuty i ls).memWf := hw
local grind_pattern Bench.addDuty_memWf => x.addDuty i ls

theorem Bench.mapStores_memWf {x : Bench} (f : Buf → StEntry → StEntry) (hw : x.memWf) : (x.mapStores f).memWf := hw
local grind_pattern Bench.mapStores_memWf => x.mapStores f

theorem Bench.joinDuty_memWf {x : Bench} (i j : Nat) (hw : x.memWf) : (x.joinDuty i j).memWf := hw
local grind_pattern Bench.joinDuty_memWf => x.joinDuty i j

theorem State.publish_memWf {s : State} (b : BenchId) (i : Nat) (sc : Scope) (hw : s.memWf) :
    (s.publish b i sc).memWf := by grind [State.publish]
local grind_pattern State.publish_memWf => s.publish b i sc

theorem State.dutyAll_memWf {s : State} (b : BenchId) (i : Nat) (sc : Scope) (hw : s.memWf) :
    (s.dutyAll b i sc).memWf := by grind [State.dutyAll]
local grind_pattern State.dutyAll_memWf => s.dutyAll b i sc

theorem State.leaves_memWf {s : State} (b : BenchId) (i : Nat) (sc : Scope) (mark : Nat) (hw : s.memWf) :
    (s.leaves b i sc mark).memWf := by grind [State.leaves]
local grind_pattern State.leaves_memWf => s.leaves b i sc mark

theorem Bench.fillL1_memWf {x : Bench} (n : L1Line) (pri : BitVec 2) (hw : x.memWf) :
    (x.fillL1 n pri).memWf := by grind [Bench.fillL1]
local grind_pattern Bench.fillL1_memWf => x.fillL1 n pri

theorem Bench.hitL1_memWf {x : Bench} (l : L1Line) (pri : BitVec 2) (hw : x.memWf) :
    (x.hitL1 l pri).memWf := by grind [Bench.hitL1]
local grind_pattern Bench.hitL1_memWf => x.hitL1 l pri

theorem State.logPrepOf_memWf {s : State} (p : Passed) (d : Fin 8) (ten : BitVec 6) (hw : s.memWf) :
    (s.logPrepOf p d ten).memWf := by grind [State.logPrepOf]
local grind_pattern State.logPrepOf_memWf => s.logPrepOf p d ten

theorem State.logPrep_memWf {s : State} (p : Passed) (b : BenchId) (hw : s.memWf) :
    (s.logPrep p b).memWf := by grind [State.logPrep]
local grind_pattern State.logPrep_memWf => s.logPrep p b

theorem State.dropAfter_memWf {s : State} (b : BenchId) (ln : Nat) (hw : s.memWf) :
    (s.dropAfter b ln).memWf := by grind [State.dropAfter]
local grind_pattern State.dropAfter_memWf => s.dropAfter b ln

theorem State.fetchLine_memWf {s : State} (b : BenchId) (p : Passed) (sc : Scope) (pri : BitVec 2) (alloc : Bool) (hw : s.memWf) :
    OptWf1 (s.fetchLine b p sc pri alloc) := by grind [State.fetchLine]
local grind_pattern State.fetchLine_memWf => s.fetchLine b p sc pri alloc

theorem State.oweRead_memWf {s : State} (b : BenchId) (sc : Scope) (ln : Nat) (hw : s.memWf) :
    (s.oweRead b sc ln).memWf := by grind [State.oweRead]
local grind_pattern State.oweRead_memWf => s.oweRead b sc ln

theorem State.loadLine_memWf {s : State} (b : BenchId) (p : Passed) (sc : Scope) (pri : BitVec 2) (hw : s.memWf) :
    OptWf1 (s.loadLine b p sc pri) := by grind [State.loadLine]
local grind_pattern State.loadLine_memWf => s.loadLine b p sc pri

theorem State.load_memWf {s : State} (b : BenchId) (p : Passed) (n : Nat) (sc : Scope) (pri : BitVec 2) (last : Bool)
    (fwd : Nat → Option Byte) (hw : s.memWf) :
    (s.load b p n sc pri last fwd).memWf := by
  grind [State.load]
local grind_pattern State.load_memWf => s.load b p n sc pri last fwd

theorem Bench.fillConst_memWf {x : Bench} (n : CopyLine) (hw : x.memWf) : (x.fillConst n).memWf := hw
local grind_pattern Bench.fillConst_memWf => x.fillConst n

theorem State.loadConst_memWf {s : State} (b : BenchId) (p : Passed) (hw : s.memWf) :
    (s.loadConst b p).memWf := by grind [State.loadConst]
local grind_pattern State.loadConst_memWf => s.loadConst b p

theorem State.send_memWf {s : State} (dmod : BitVec 14) (ten : BitVec 6) (kind : Byte) (body : Body) (hw : s.memWf) :
    OptWf1 (s.send dmod ten kind body) := by
  simp only [State.send]
  grind
local grind_pattern State.send_memWf => s.send dmod ten kind body

theorem State.takeResponse_memWf {s : State} (tag : Nat) (hw : s.memWf) : (s.takeResponse tag).memWf := hw
local grind_pattern State.takeResponse_memWf => s.takeResponse tag

theorem State.setAsks_memWf {s : State} (w : Asker) (l : List AskIn) (hw : s.memWf) :
    (s.setAsks w l).memWf := by
  simp only [State.setAsks]
  grind
local grind_pattern State.setAsks_memWf => s.setAsks w l

theorem State.askTag_memWf {s : State} (w : Asker) (hw : s.memWf) :
    (s.askTag w).1.memWf := by
  simp only [State.askTag]
  grind
local grind_pattern State.askTag_memWf => s.askTag w

theorem State.addAsk_memWf {s : State} (w : Asker) (p : Passed) (size tag : Nat) (val : Option (Nat × Byte)) (hw : s.memWf) :
    (s.addAsk w p size tag val).memWf := by
  simp only [State.addAsk]
  grind
local grind_pattern State.addAsk_memWf => s.addAsk w p size tag val

theorem State.dropAsks_memWf {s : State} (w : Asker) (hw : s.memWf) : (s.dropAsks w).memWf := by grind [State.dropAsks]
local grind_pattern State.dropAsks_memWf => s.dropAsks w

theorem State.askRemote_memWf {s : State} (w : Asker) (ten : BitVec 6) (p : Passed) (size : Nat) (hw : s.memWf) :
    (s.askRemote w ten p size).1.memWf := by grind [State.askRemote]
local grind_pattern State.askRemote_memWf => s.askRemote w ten p size

theorem Bench.setQueue_memWf {x : Bench} (q : Buf) (l : List StEntry) (hw : x.memWf) :
    (x.setQueue q l).memWf := by
  simp only [Bench.setQueue]
  grind
local grind_pattern Bench.setQueue_memWf => x.setQueue q l

theorem Bench.landHalves_memWf {x : Bench} (ls : List PendLoad) (val : Nat) (hw : x.memWf) :
    (x.landHalves ls val).memWf := by grind [Bench.landHalves]
local grind_pattern Bench.landHalves_memWf => x.landHalves ls val

theorem Bench.squash_memWf {x : Bench} (l : PendLoad) (hw : x.memWf) : (x.squash l).memWf := hw
local grind_pattern Bench.squash_memWf => x.squash l

theorem State.squash_memWf {s : State} (b : BenchId) (l : PendLoad) (hw : s.memWf) :
    (s.squash b l).memWf := by grind [State.squash]
local grind_pattern State.squash_memWf => s.squash b l

theorem State.answer_memWf {s : State} (b : BenchId) (q : Buf) (e : StEntry) (val : Nat) (code : Byte) (hw : s.memWf) :
    (s.answer b q e val code).memWf := by
  simp only [State.answer]
  grind
local grind_pattern State.answer_memWf => s.answer b q e val code

theorem State.holdHost_memWf {s : State} (pa : Nat) (hw : s.memWf) : (s.holdHost pa).memWf := by grind [State.holdHost]
local grind_pattern State.holdHost_memWf => s.holdHost pa

theorem State.owe_memWf {s : State} (b : BenchId) (e : StEntry) (hw : s.memWf) : (s.owe b e).memWf := by grind [State.owe]
local grind_pattern State.owe_memWf => s.owe b e

theorem State.poisonAtomic_memWf {s : State} (b : BenchId) (q : Buf) (e : StEntry) (hw : s.memWf) :
    (s.poisonAtomic b q e).memWf := by grind [State.poisonAtomic]
local grind_pattern State.poisonAtomic_memWf => s.poisonAtomic b q e

theorem State.performAtomic_memWf {s : State} (b : BenchId) (q : Buf) (e : StEntry) (op : AtomOp) (v ex : W128) (hw : s.memWf) :
    OptWf (s.performAtomic b q e op v ex) := by grind [State.performAtomic]
local grind_pattern State.performAtomic_memWf => s.performAtomic b q e op v ex

theorem State.performStore_memWf {s : State} (b : BenchId) (e : StEntry) (clears : Nat → Bool) (hw : s.memWf) :
    OptWf (s.performStore b e clears) := by grind [State.performStore]
local grind_pattern State.performStore_memWf => s.performStore b e clears

theorem State.performRedt_memWf {s : State} (b : BenchId) (q : Buf) (e : StEntry) (p : Node) (hw : s.memWf) :
    OptWf (s.performRedt b q e p) := by grind [State.performRedt]
local grind_pattern State.performRedt_memWf => s.performRedt b q e p

theorem Bench.loseStore_memWf {x : Bench} (e : StEntry) (hw : x.memWf) : (x.loseStore e).memWf := hw
local grind_pattern Bench.loseStore_memWf => x.loseStore e

theorem State.performRemote_memWf {s : State} (b : BenchId) (q : Buf) (e : StEntry) (old : Bool) (hw : s.memWf) :
    OptWf (s.performRemote b q e old) := by grind [State.performRemote]
local grind_pattern State.performRemote_memWf => s.performRemote b q e old

theorem Bench.holdSrel_memWf {x : Bench} (e : StEntry) (hw : x.memWf) : (x.holdSrel e).memWf := hw
local grind_pattern Bench.holdSrel_memWf => x.holdSrel e

theorem State.dropRelease_memWf {s : State} (b : BenchId) (q : Buf) (e : StEntry) (hw : s.memWf) :
    (s.dropRelease b q e).memWf := by
  simp only [State.dropRelease]
  grind
local grind_pattern State.dropRelease_memWf => s.dropRelease b q e

theorem State.performEntry_memWf {s : State} (b : BenchId) (q : Buf) (e : StEntry) (ys : List StEntry) (hw : s.memWf) :
    OptWf (s.performEntry b q e ys) := by grind [State.performEntry]
local grind_pattern State.performEntry_memWf => s.performEntry b q e ys

theorem State.performRun_memWf {s : State} (b : BenchId) (q : Buf) (force : Bool) (hw : s.memWf) :
    OptWf (s.performRun b q force) := by grind [State.performRun]
local grind_pattern State.performRun_memWf => s.performRun b q force

theorem State.performDown_memWf {s : State} (b : BenchId) (q : Buf) (len k : Nat) (hw : s.memWf) :
    OptWf (s.performDown b q len k) := by
  induction k generalizing s with
  | zero => exact hw
  | succ k ih => grind [State.performDown]
local grind_pattern State.performDown_memWf => s.performDown b q len k

theorem State.performGroup_memWf {s : State} (b : BenchId) (q : Buf) (hw : s.memWf) :
    OptWf (s.performGroup b q) := by grind [State.performGroup]
local grind_pattern State.performGroup_memWf => s.performGroup b q

theorem State.performOrphan_memWf {s : State} (b : BenchId) (q : Buf) (hw : s.memWf) :
    OptWf (s.performOrphan b q) := by grind [State.performOrphan]
local grind_pattern State.performOrphan_memWf => s.performOrphan b q

theorem State.performHead_memWf {s : State} (b : BenchId) (q : Buf) (force : Bool) (hw : s.memWf) :
    OptWf (s.performHead b q force) := by grind [State.performHead]
local grind_pattern State.performHead_memWf => s.performHead b q force

theorem State.stuck_memWf {s : State} (b : BenchId) (q : Buf) (hw : s.memWf) : (s.stuck b q).memWf := by grind [State.stuck]
local grind_pattern State.stuck_memWf => s.stuck b q

theorem State.drain_memWf {s : State} (b : BenchId) (q : Buf) (force : Bool) (k : Nat) (hw : s.memWf) :
    (s.drain b q force k).memWf := by
  induction k generalizing s with
  | zero => exact hw
  | succ k ih => grind [State.drain]
local grind_pattern State.drain_memWf => s.drain b q force k

theorem State.drainFree_memWf {s : State} (b : BenchId) (q : Buf) (k : Nat) (hw : s.memWf) :
    (s.drainFree b q k).memWf := by
  induction k generalizing s with
  | zero => exact hw
  | succ k ih => grind [State.drainFree]
local grind_pattern State.drainFree_memWf => s.drainFree b q k

theorem State.drainOn_memWf {s : State} (b : BenchId) (q : Buf) (hw : s.memWf) : (s.drainOn b q).memWf := by grind [State.drainOn]
local grind_pattern State.drainOn_memWf => s.drainOn b q

theorem State.drainAll_memWf {s : State} (b : BenchId) (q : Buf) (force : Bool) (hw : s.memWf) :
    (s.drainAll b q force).memWf := by grind [State.drainAll]
local grind_pattern State.drainAll_memWf => s.drainAll b q force

theorem State.drainBench_memWf {s : State} (b : BenchId) (force : Bool) (hw : s.memWf) :
    (s.drainBench b force).memWf := by grind [State.drainBench]
local grind_pattern State.drainBench_memWf => s.drainBench b force

/-! #### How a team and a hitch end (Teams) -/

theorem State.storeHome_memWf {s : State} (die : Fin 8) (ten : BitVec 6) (leaf : Leaf) (pa : Nat) (bs : List Byte)
    (hw : s.memWf) :
    OptWf (s.storeHome die ten leaf pa bs) := by
  grind [State.storeHome]
local grind_pattern State.storeHome_memWf => s.storeHome die ten leaf pa bs

theorem State.performDisp_memWf {s : State} (hw : s.memWf) : OptWf (s.performDisp) := by grind [State.performDisp]
local grind_pattern State.performDisp_memWf => s.performDisp

theorem State.settleDisp_memWf {s : State} (k : Nat) (hw : s.memWf) : (s.settleDisp k).memWf := by
  induction k generalizing s with
  | zero => exact hw
  | succ k ih => grind [State.settleDisp]
local grind_pattern State.settleDisp_memWf => s.settleDisp k

theorem State.settleStores_memWf {s : State} (hw : s.memWf) : (s.settleStores).memWf := by grind [State.settleStores]
local grind_pattern State.settleStores_memWf => s.settleStores

theorem State.report_memWf {s : State} (h : Hitch) (what : Nat) (k : KillCause) (hw : s.memWf) :
    (s.report h what k).memWf := by grind [State.report]
local grind_pattern State.report_memWf => s.report h what k

theorem State.leaveBarriers_memWf {s : State} (seq : W64) (hw : s.memWf) : (s.leaveBarriers seq).memWf := hw
local grind_pattern State.leaveBarriers_memWf => s.leaveBarriers seq

theorem Bench.land_memWf {x : Bench} (p : Nat → Stream → Bool) (hw : x.memWf) : (x.land p).memWf := by
  unfold Bench.land
  split
  · exact hw
  · exact BanksWf_foldl _ _ hw fun _ _ hv => BanksWf_vmod _ _ hv fun _ hm => Mem.wf_writeAll _ _ _ hm
local grind_pattern Bench.land_memWf => x.land p

theorem Bench.freed_memWf {x : Bench} (hw : x.memWf) : (x.freed).memWf := by grind [Bench.freed]
local grind_pattern Bench.freed_memWf => x.freed

theorem State.dropWatches_memWf {s : State} (b : BenchId) (hw : s.memWf) : (s.dropWatches b).memWf := hw
local grind_pattern State.dropWatches_memWf => s.dropWatches b

theorem State.freeBench_memWf {s : State} (b : BenchId) (hw : s.memWf) : (s.freeBench b).memWf := by grind [State.freeBench]
local grind_pattern State.freeBench_memWf => s.freeBench b

theorem Bench.stopped_memWf {x : Bench} (hw : x.memWf) : (x.stopped).memWf := by grind [Bench.stopped]
local grind_pattern Bench.stopped_memWf => x.stopped

theorem State.unqueue_memWf {s : State} (seq : W64) (hw : s.memWf) : (s.unqueue seq).memWf := hw
local grind_pattern State.unqueue_memWf => s.unqueue seq

theorem State.dropHitch_memWf {s : State} (h : Hitch) (hw : s.memWf) : (s.dropHitch h).memWf := by
  have hu : ((s.unqueue h.seq).leaveBarriers h.seq).memWf := by grind
  exact ⟨hu.1, hu.2.1, fun g hg => hw.2.2 g (List.mem_of_mem_filter hg)⟩
local grind_pattern State.dropHitch_memWf => s.dropHitch h

theorem State.cancelDoomed_memWf {s : State} (k : Nat) (hw : s.memWf) : (s.cancelDoomed k).memWf := by
  induction k generalizing s with
  | zero => exact hw
  | succ k ih => grind -lia [State.cancelDoomed]
local grind_pattern State.cancelDoomed_memWf => s.cancelDoomed k

theorem State.endHitch_memWf {s : State} (h : Hitch) (killed : Bool) (hw : s.memWf) :
    (s.endHitch h killed).memWf := by grind -lia [State.endHitch]
local grind_pattern State.endHitch_memWf => s.endHitch h killed

theorem State.finishKill_memWf {s : State} (seq : W64) (hw : s.memWf) : (s.finishKill seq).memWf := by grind [State.finishKill]
local grind_pattern State.finishKill_memWf => s.finishKill seq

theorem State.stopBench_memWf {s : State} (b : BenchId) (hw : s.memWf) : (s.stopBench b).memWf := by grind [State.stopBench]
local grind_pattern State.stopBench_memWf => s.stopBench b

theorem State.kill_memWf {s : State} (seq : W64) (k : KillCause) (hw : s.memWf) : (s.kill seq k).memWf := by
  have dying : ((s.unqueue seq).modHitch seq fun x => { x with state := .dying, why := k, saved := [] }).memWf :=
    State.modHitch_memWf _ _ (State.unqueue_memWf seq hw) fun h _ x hx => by simp at hx
  grind [State.kill]
local grind_pattern State.kill_memWf => s.kill seq k

theorem State.tryRetire_memWf {s : State} (b : BenchId) (hw : s.memWf) : (s.tryRetire b).memWf := by
  have place (t : State) (ht : t.memWf) (seq : W64) : (t.modHitch seq fun h =>
      { h with place := h.place.map fun p => if p == some b then none else p }).memWf :=
    State.modHitch_memWf _ _ ht fun h hh => by grind [Hitch.savedWf]
  grind [State.tryRetire]
local grind_pattern State.tryRetire_memWf => s.tryRetire b

/-! #### Answers of the home side, and resets (Reset) -/

theorem State.sendAck_memWf {s : State} (f : InFlow) (hw : s.memWf) : (s.sendAck f).memWf := hw
local grind_pattern State.sendAck_memWf => s.sendAck f

theorem State.settleFlows_memWf {s : State} (hw : s.memWf) : (s.settleFlows).memWf := by grind [State.settleFlows]
local grind_pattern State.settleFlows_memWf => s.settleFlows

theorem State.settleHome_memWf {s : State} (hw : s.memWf) : (s.settleHome).memWf := by grind [State.settleHome]
local grind_pattern State.settleHome_memWf => s.settleHome

theorem State.loseDirty_memWf {s : State} (hw : s.memWf) : (s.loseDirty).memWf := by grind [State.loseDirty]
local grind_pattern State.loseDirty_memWf => s.loseDirty

theorem State.cold_memWf {s : State} (hw : s.memWf) : s.cold.memWf := by
  refine ⟨Mem.wf_filter _ (State.loseDirty_memWf hw).1, fun b => ?_, fun h hh => by simp [State.cold, State.reset] at hh⟩
  simpa [State.cold, State.bench, State.reset] using Bench.idle_memWf
local grind_pattern State.cold_memWf => s.cold

theorem Bench.warm_memWf {x : Bench} (hw : x.memWf) : (x.warm).memWf := by grind [Bench.warm]
local grind_pattern Bench.warm_memWf => x.warm

theorem State.killAll_memWf {s : State} (hw : s.memWf) : s.killAll.memWf := by
  have dying : { s with hitches := s.hitches.map fun h : Hitch => { h with state := .dying, saved := [], ent := none } }.memWf :=
    State.mapHitches_memWf _ hw fun h _ x hx => by simp at hx
  simp only [State.killAll]
  grind -lia
local grind_pattern State.killAll_memWf => s.killAll

theorem State.warm_memWf {s : State} (hw : s.memWf) : s.warm.memWf := by
  have hs : ({ s.watches.foldl State.wakeWatch s with trackers := [], dir := [] }.settleHome).memWf := by grind
  refine ⟨hs.1, fun b => ?_, fun h hh => by simp [State.warm] at hh⟩
  simpa [State.warm, State.bench] using Bench.warm_memWf (hs.2.1 b)
local grind_pattern State.warm_memWf => s.warm

theorem State.tryReset_memWf {s : State} (hw : s.memWf) : (s.tryReset).memWf := by grind [State.tryReset]
local grind_pattern State.tryReset_memWf => s.tryReset

theorem State.askReset_memWf {s : State} (cold : Bool) (hw : s.memWf) : (s.askReset cold).memWf := by grind [State.askReset]
local grind_pattern State.askReset_memWf => s.askReset cold

/-! #### V's lanes and the retirement of its atomics (Lanes) -/

theorem Bench.flagOut_memWf {x : Bench} (f : FlagOut) (hw : x.memWf) : (x.flagOut f).memWf := hw
local grind_pattern Bench.flagOut_memWf => x.flagOut f

theorem Bench.overV_memWf {x : Bench} (vd : Nat) (m : Mask) (hw : x.memWf) : (x.overV vd m).memWf := hw
local grind_pattern Bench.overV_memWf => x.overV vd m

theorem Bench.overM_memWf {x : Bench} (md : Nat) (m : Mask) (hw : x.memWf) : (x.overM md m).memWf := hw
local grind_pattern Bench.overM_memWf => x.overM md m

theorem Bench.giveBack_memWf {x : Bench} (f : FlagOut) (hw : x.memWf) : (x.giveBack f).memWf := hw
local grind_pattern Bench.giveBack_memWf => x.giveBack f

theorem State.takeLanes_memWf {s : State} (b : BenchId) (a : VFly) (hw : s.memWf) :
    (s.takeLanes b a).memWf := by grind [State.takeLanes]
local grind_pattern State.takeLanes_memWf => s.takeLanes b a

theorem Bench.failAtomic_memWf {x : Bench} (a : VFly) (code : Byte) (hw : x.memWf) : (x.failAtomic a code).memWf := hw
local grind_pattern Bench.failAtomic_memWf => x.failAtomic a code

theorem Bench.landAtomic_memWf {x : Bench} (a : VFly) (res : Nat → W32 × Bool) (hw : x.memWf) :
    (x.landAtomic a res).memWf := by grind [Bench.landAtomic]
local grind_pattern Bench.landAtomic_memWf => x.landAtomic a res

theorem State.logLane_memWf {s : State} (b : BenchId) (a : VFly) (l : Nat × Nat × Leaf) (hw : s.memWf) :
    (s.logLane b a l).memWf := by grind [State.logLane]
local grind_pattern State.logLane_memWf => s.logLane b a l

theorem State.landV_memWf {s : State} (b : BenchId) (k : Nat) (hw : s.memWf) : (s.landV b k).memWf := by
  induction k generalizing s with
  | zero => exact hw
  | succ k ih => grind [State.landV]
local grind_pattern State.landV_memWf => s.landV b k

/-! #### Operations that the streams share (Ops) -/

theorem Bench.takeV_memWf {x : Bench} (me : Stream) (hw : x.memWf) : (x.takeV me).memWf := by
  unfold Bench.takeV
  extract_lets n y
  have hy : y.memWf := hw
  split
  · split
    · exact hy
    · exact Bench.acquire_memWf _ hy
  · exact hy
local grind_pattern Bench.takeV_memWf => x.takeV me

theorem Bench.takeTokens_memWf {x : Bench} (me : Stream) (c : Fin 4) (from_ : List Stream) (hw : x.memWf) :
    (x.takeTokens me c from_).memWf := by grind [Bench.takeTokens]
local grind_pattern Bench.takeTokens_memWf => x.takeTokens me c from_

theorem State.takeFrom_memWf {s : State} (b : BenchId) (me : Stream) (c : Fin 4) (from_ : List Stream) (hw : s.memWf) :
    (s.takeFrom b me c from_).memWf := by grind [State.takeFrom]
local grind_pattern State.takeFrom_memWf => s.takeFrom b me c from_

theorem Bench.giveTokens_memWf {x : Bench} (me : Stream) (dst : List Stream) (acq : Scope) (hw : x.memWf) :
    (x.giveTokens me dst acq).memWf := hw
local grind_pattern Bench.giveTokens_memWf => x.giveTokens me dst acq

theorem Bench.popQueue_memWf {x : Bench} (q n : Nat) (hw : x.memWf) : (x.popQueue q n).memWf := hw
local grind_pattern Bench.popQueue_memWf => x.popQueue q n

theorem Bench.pushFlags_memWf {x : Bench} (st : Stream) (hw : x.memWf) : OptWfB (x.pushFlags st) := by grind [Bench.pushFlags]
local grind_pattern Bench.pushFlags_memWf => x.pushFlags st

theorem Bench.pushGive_memWf {x : Bench} (st : Stream) (hw : x.memWf) : OptWfB (x.pushGive st) := by grind [Bench.pushGive]
local grind_pattern Bench.pushGive_memWf => x.pushGive st

theorem Bench.pushOne_memWf {x : Bench} (st : Stream) (hw : x.memWf) : OptWfB (x.pushOne st) := by grind [Bench.pushOne]
local grind_pattern Bench.pushOne_memWf => x.pushOne st

theorem Bench.pushAll_memWf {x : Bench} (st : Stream) (k : Nat) (hw : x.memWf) : (x.pushAll st k).memWf := by
  induction k generalizing x with
  | zero => exact hw
  | succ k ih => grind [Bench.pushAll]
local grind_pattern Bench.pushAll_memWf => x.pushAll st k

theorem Bench.dropRanges_memWf {x : Bench} (st : Stream) (hw : x.memWf) : (x.dropRanges st).memWf := hw
local grind_pattern Bench.dropRanges_memWf => x.dropRanges st

theorem Bench.settle_memWf {x : Bench} (st : Stream) (hw : x.memWf) : (x.settle st).memWf := by grind [Bench.settle]
local grind_pattern Bench.settle_memWf => x.settle st

theorem State.pushGives_memWf {s : State} (b : BenchId) (st : Stream) (hw : s.memWf) :
    (s.pushGives b st).memWf := by grind [State.pushGives]
local grind_pattern State.pushGives_memWf => s.pushGives b st

theorem State.record_memWf {s : State} (acc : List Acc) (hw : s.memWf) : (s.record acc).memWf := by grind [State.record]
local grind_pattern State.record_memWf => s.record acc

theorem State.hold_memWf {s : State} (code : Byte) (va : W64) (eret : Bool) (hw : s.memWf) :
    (s.hold code va eret).memWf := by grind [State.hold]
local grind_pattern State.hold_memWf => s.hold code va eret

theorem State.holdOverlap_memWf {s : State} (r : Range) (hw : s.memWf) : (s.holdOverlap r).memWf := by grind [State.holdOverlap]
local grind_pattern State.holdOverlap_memWf => s.holdOverlap r

theorem State.waitEng_memWf {s : State} (kind : WaitKind) (what need : Nat) (hw : s.memWf) :
    (s.waitEng kind what need).memWf := by grind [State.waitEng]
local grind_pattern State.waitEng_memWf => s.waitEng kind what need

theorem State.stallC_memWf {s : State} (hw : s.memWf) : (s.stallC).memWf := by grind [State.stallC]
local grind_pattern State.stallC_memWf => s.stallC

theorem State.waitC_memWf {s : State} (kind : WaitKind) (what : Nat) (hw : s.memWf) :
    (s.waitC kind what).memWf := by grind [State.waitC]
local grind_pattern State.waitC_memWf => s.waitC kind what

theorem Bench.lift_memWf {x : Bench} (st : Stream) (base : Vector Mem 16) (acc : List Acc) (hw : x.memWf) :
    (x.lift st base acc).memWf :=
  BanksWf_foldl _ _ hw fun _ _ hv => BanksWf_vmod _ _ hv fun _ hm => Mem.wf_writeAll _ _ _ hm
local grind_pattern Bench.lift_memWf => x.lift st base acc

theorem State.retire_memWf {s : State} (give : BitVec 4) (acc : List Acc) (pc : Option W64) (hw : s.memWf) :
    (s.retire give acc pc).memWf := by
  unfold State.retire
  extract_lets st tile s1 s2 s3
  have h1 : s1.memWf := State.modHere_memWf _ hw fun hx => Bench.modEng_memWf _ _ hx
  have h2 : s2.memWf := by
    unfold s2
    split
    · exact State.modHere_memWf _ h1 id
    · exact h1
  have h3 : s3.memWf := by
    unfold s3
    split
    · exact State.modHere_memWf _ h2 fun hx => Bench.modPlane_memWf _ hx
    · exact State.record_memWf _ (State.modHere_memWf _ h2 fun hx => Bench.dropRanges_memWf _ hx)
  split
  · exact State.modHere_memWf _ h3 fun hx => Bench.lift_memWf _ _ _ hx
  · exact State.pushGives_memWf _ _ h3
local grind_pattern State.retire_memWf => s.retire give acc pc

theorem State.conclude_memWf {s : State} (h : Hdr) (nq : Nat) (first : Bool) (ents : List W64) {r : Eff} (hw : s.memWf)
    (hr : r.memWf) : Out.memWf (s.conclude h nq first ents r) := by
  have rec_ (t : State) (ht : t.memWf) (acc : List Acc) : (if first then t.record acc else t).memWf := by grind
  cases r with
  | pre code va => exact State.hold_memWf _ _ _ hw
  | preEret code va => exact State.hold_memWf _ _ _ hw
  | preDo f code => exact State.hold_memWf _ _ _ (hr s hw)
  | wait kind what => exact State.waitEng_memWf _ _ _ hw
  | ask f => exact State.waitEng_memWf _ _ _ (hr s hw)
  | post t code va eret acc =>
    simp only [State.conclude]
    split
    · exact State.holdOverlap_memWf _ hw
    · exact State.hold_memWf _ _ _ (rec_ _ (State.modMyEng_memWf _ hr) _)
  | stay t more on acc =>
    simp only [State.conclude]
    split
    · exact State.holdOverlap_memWf _ hw
    · have htaken := State.modMyEng_memWf (fun e => { e with taken := true, popped := ents ++ more }) hr
      have hissued := State.modMyEng_memWf
        (fun e => { e with issued := true, cap := some (s.cur.word, s.cap), wait := if first then none else e.wait }) htaken
      have ht := rec_ _ hissued acc
      cases on with
      | none => exact State.modMyEng_memWf _ ht
      | some w => exact State.waitEng_memWf _ _ _ ht
  | done t acc pc =>
    simp only [State.conclude]
    split
    · exact State.holdOverlap_memWf _ hw
    · exact State.retire_memWf _ _ _ hr
local grind_pattern State.conclude_memWf => s.conclude h nq first ents r

theorem State.issue_memWf {s : State} (h : Hdr) (loopWord : Bool) (nq : Nat) (body : State → List W64 → Eff) (hw : s.memWf)
    (hb : ∀ t es, t.memWf → (body t es).memWf) : Out.memWf (s.issue h loopWord nq body) := by
  grind -lia [State.issue]
local grind_pattern State.issue_memWf => s.issue h loopWord nq body

theorem Bench.clearShadows_memWf {x : Bench} (c : Fin 4) (hw : x.memWf) : (x.clearShadows c).memWf := hw
local grind_pattern Bench.clearShadows_memWf => x.clearShadows c

theorem State.dropWatch_memWf {s : State} (b : BenchId) (c : Fin 4) (hw : s.memWf) :
    (s.dropWatch b c).memWf := by grind [State.dropWatch]
local grind_pattern State.dropWatch_memWf => s.dropWatch b c

theorem State.enterTrap_memWf {s : State} (b : BenchId) (c : Fin 4) (code : Byte) (src : BitVec 3) (deferred : Bool) (w : W32)
    (epc tval : W64) (hw : s.memWf) :
    (s.enterTrap b c code src deferred w epc tval).memWf := by
  grind [State.enterTrap]
local grind_pattern State.enterTrap_memWf => s.enterTrap b c code src deferred w epc tval

theorem State.doubleFault_memWf {s : State} (b : BenchId) (c : Fin 4) (code : Byte) (w : W32) (hw : s.memWf) :
    (s.doubleFault b c code w).memWf := by grind [State.doubleFault]
local grind_pattern State.doubleFault_memWf => s.doubleFault b c code w

theorem State.raiseC_memWf {s : State} (code : Byte) (tval : W64) (hw : s.memWf) :
    (s.raiseC code tval).memWf := by grind [State.raiseC]
local grind_pattern State.raiseC_memWf => s.raiseC code tval

theorem State.exitTrap_memWf {s : State} (hw : s.memWf) : (s.exitTrap).memWf := by grind [State.exitTrap]
local grind_pattern State.exitTrap_memWf => s.exitTrap

theorem State.doneC_memWf {s : State} (hw : s.memWf) : (s.doneC).memWf := by grind [State.doneC]
local grind_pattern State.doneC_memWf => s.doneC

theorem State.goC_memWf {s : State} (pc : W64) (hw : s.memWf) : (s.goC pc).memWf := by grind [State.goC]
local grind_pattern State.goC_memWf => s.goC pc

theorem State.setShadow_memWf {s : State} (lvl : BitVec 2) (d : BitVec 4) (r : ShadowReg) (hw : s.memWf) :
    (s.setShadow lvl d r).memWf := by grind [State.setShadow]
local grind_pattern State.setShadow_memWf => s.setShadow lvl d r

theorem State.put_memWf {s : State} (d : BitVec 4) (lvl : BitVec 2) (v : W64) (hw : s.memWf) :
    (s.put d lvl v).memWf := by grind [State.put]
local grind_pattern State.put_memWf => s.put d lvl v

theorem State.defer_memWf {s : State} (lvl : BitVec 2) (d : BitVec 4) (f : Deferred) (hw : s.memWf) :
    (s.defer lvl d f).memWf := by grind [State.defer]
local grind_pattern State.defer_memWf => s.defer lvl d f

theorem State.deferNew_memWf {s : State} (lvl : BitVec 2) (d : BitVec 4) (code : Byte) (va : W64) (hw : s.memWf) :
    (s.deferNew lvl d code va).memWf := by grind [State.deferNew]
local grind_pattern State.deferNew_memWf => s.deferNew lvl d code va

theorem State.withSrc_memWf {s : State} (lvl : BitVec 2) (d : BitVec 4) (a : BitVec 5) (f : W64 → Out) (hw : s.memWf)
    (hf : ∀ v, Out.memWf (f v)) : Out.memWf (s.withSrc lvl d a f) := by
  grind [State.withSrc]
local grind_pattern State.withSrc_memWf => s.withSrc lvl d a f

theorem State.op1_memWf {s : State} (d : BitVec 4) (lvl : BitVec 2) (a : BitVec 5) (f : W64 → W64) (hw : s.memWf) :
    Out.memWf (s.op1 d lvl a f) := by grind [State.op1]
local grind_pattern State.op1_memWf => s.op1 d lvl a f

theorem State.op2_memWf {s : State} (d : BitVec 4) (lvl : BitVec 2) (a b : BitVec 5) (f : W64 → W64 → W64) (hw : s.memWf) :
    Out.memWf (s.op2 d lvl a b f) := by grind [State.op2]
local grind_pattern State.op2_memWf => s.op2 d lvl a b f

theorem State.op3_memWf {s : State} (d : BitVec 4) (lvl : BitVec 2) (a b c : BitVec 5) (f : W64 → W64 → W64 → W64)
    (hw : s.memWf) :
    Out.memWf (s.op3 d lvl a b c f) := by
  grind [State.op3]
local grind_pattern State.op3_memWf => s.op3 d lvl a b c f

theorem State.mainOnly_memWf {s : State} (r : Out) (hw : s.memWf) (hr : Out.memWf r) :
    Out.memWf (s.mainOnly r) := by grind [State.mainOnly]
local grind_pattern State.mainOnly_memWf => s.mainOnly r

/-! #### F32 results with flags (Flags) -/

theorem State.orFlags_memWf {s : State} (lvl : BitVec 2) (fl : FFlags) (hw : s.memWf) :
    (s.orFlags lvl fl).memWf := by grind [State.orFlags]
local grind_pattern State.orFlags_memWf => s.orFlags lvl fl

theorem State.fop1_memWf {s : State} (o : CFlt) (f : RMode → W32 → W64 × FFlags) (hw : s.memWf) :
    Out.memWf (s.fop1 o f) := by grind [State.fop1]
local grind_pattern State.fop1_memWf => s.fop1 o f

theorem State.fop2_memWf {s : State} (o : CFlt) (f : RMode → W32 → W32 → W64 × FFlags) (hw : s.memWf) :
    Out.memWf (s.fop2 o f) := by grind [State.fop2]
local grind_pattern State.fop2_memWf => s.fop2 o f

theorem State.fop3_memWf {s : State} (o : CTri) (f : RMode → W32 → W32 → W32 → W32 × FFlags) (hw : s.memWf) :
    Out.memWf (s.fop3 o f) := by grind [State.fop3]
local grind_pattern State.fop3_memWf => s.fop3 o f

/-! #### C's F32 instructions (CFloat) -/

theorem execFadd_memWf (o : CFlt) {s : State} (hw : s.memWf) : Out.memWf (execFadd o s) := by grind [execFadd]
local grind_pattern execFadd_memWf => execFadd o s

theorem execFsub_memWf (o : CFlt) {s : State} (hw : s.memWf) : Out.memWf (execFsub o s) := by grind [execFsub]
local grind_pattern execFsub_memWf => execFsub o s

theorem execFmul_memWf (o : CFlt) {s : State} (hw : s.memWf) : Out.memWf (execFmul o s) := by grind [execFmul]
local grind_pattern execFmul_memWf => execFmul o s

theorem execFdiv_memWf (o : CFlt) {s : State} (hw : s.memWf) : Out.memWf (execFdiv o s) := by grind [execFdiv]
local grind_pattern execFdiv_memWf => execFdiv o s

theorem execFsqrt_memWf (o : CFlt) {s : State} (hw : s.memWf) : Out.memWf (execFsqrt o s) := by grind [execFsqrt]
local grind_pattern execFsqrt_memWf => execFsqrt o s

theorem execFmin_memWf (o : CFlt) {s : State} (hw : s.memWf) : Out.memWf (execFmin o s) := by grind [execFmin]
local grind_pattern execFmin_memWf => execFmin o s

theorem execFmax_memWf (o : CFlt) {s : State} (hw : s.memWf) : Out.memWf (execFmax o s) := by grind [execFmax]
local grind_pattern execFmax_memWf => execFmax o s

theorem execFabs_memWf (o : CFlt) {s : State} (hw : s.memWf) : Out.memWf (execFabs o s) := by grind [execFabs]
local grind_pattern execFabs_memWf => execFabs o s

theorem execFneg_memWf (o : CFlt) {s : State} (hw : s.memWf) : Out.memWf (execFneg o s) := by grind [execFneg]
local grind_pattern execFneg_memWf => execFneg o s

theorem execFcmpeq_memWf (o : CFlt) {s : State} (hw : s.memWf) : Out.memWf (execFcmpeq o s) := by grind [execFcmpeq]
local grind_pattern execFcmpeq_memWf => execFcmpeq o s

theorem execFcmplt_memWf (o : CFlt) {s : State} (hw : s.memWf) : Out.memWf (execFcmplt o s) := by grind [execFcmplt]
local grind_pattern execFcmplt_memWf => execFcmplt o s

theorem execFcmple_memWf (o : CFlt) {s : State} (hw : s.memWf) : Out.memWf (execFcmple o s) := by grind [execFcmple]
local grind_pattern execFcmple_memWf => execFcmple o s

theorem execFcmpun_memWf (o : CFlt) {s : State} (hw : s.memWf) : Out.memWf (execFcmpun o s) := by grind [execFcmpun]
local grind_pattern execFcmpun_memWf => execFcmpun o s

theorem execFcvtI32_memWf (o : CFlt) {s : State} (hw : s.memWf) : Out.memWf (execFcvtI32 o s) := by grind [execFcvtI32]
local grind_pattern execFcvtI32_memWf => execFcvtI32 o s

theorem execFcvtN32_memWf (o : CFlt) {s : State} (hw : s.memWf) : Out.memWf (execFcvtN32 o s) := by grind [execFcvtN32]
local grind_pattern execFcvtN32_memWf => execFcvtN32 o s

theorem execFcvtI64_memWf (o : CFlt) {s : State} (hw : s.memWf) : Out.memWf (execFcvtI64 o s) := by grind [execFcvtI64]
local grind_pattern execFcvtI64_memWf => execFcvtI64 o s

theorem execFcvtN64_memWf (o : CFlt) {s : State} (hw : s.memWf) : Out.memWf (execFcvtN64 o s) := by grind [execFcvtN64]
local grind_pattern execFcvtN64_memWf => execFcvtN64 o s

theorem execIcvtF32_memWf (o : CFlt) {s : State} (hw : s.memWf) : Out.memWf (execIcvtF32 o s) := by grind [execIcvtF32]
local grind_pattern execIcvtF32_memWf => execIcvtF32 o s

theorem execNcvtF32_memWf (o : CFlt) {s : State} (hw : s.memWf) : Out.memWf (execNcvtF32 o s) := by grind [execNcvtF32]
local grind_pattern execNcvtF32_memWf => execNcvtF32 o s

theorem execFclass_memWf (o : CFlt) {s : State} (hw : s.memWf) : Out.memWf (execFclass o s) := by grind [execFclass]
local grind_pattern execFclass_memWf => execFclass o s

theorem execFma_memWf (o : CTri) {s : State} (hw : s.memWf) : Out.memWf (execFma o s) := by grind [execFma]
local grind_pattern execFma_memWf => execFma o s

theorem execFms_memWf (o : CTri) {s : State} (hw : s.memWf) : Out.memWf (execFms o s) := by grind [execFms]
local grind_pattern execFms_memWf => execFms o s

theorem execFnma_memWf (o : CTri) {s : State} (hw : s.memWf) : Out.memWf (execFnma o s) := by grind [execFnma]
local grind_pattern execFnma_memWf => execFnma o s

/-! #### C's integer instructions (CInt) -/

theorem execAdd_memWf (o : COp) {s : State} (hw : s.memWf) : Out.memWf (execAdd o s) := by grind [execAdd]
local grind_pattern execAdd_memWf => execAdd o s

theorem execSub_memWf (o : COp) {s : State} (hw : s.memWf) : Out.memWf (execSub o s) := by grind [execSub]
local grind_pattern execSub_memWf => execSub o s

theorem execMul_memWf (o : COp) {s : State} (hw : s.memWf) : Out.memWf (execMul o s) := by grind [execMul]
local grind_pattern execMul_memWf => execMul o s

theorem execMulh_memWf (o : COp) {s : State} (hw : s.memWf) : Out.memWf (execMulh o s) := by grind [execMulh]
local grind_pattern execMulh_memWf => execMulh o s

theorem execMulhu_memWf (o : COp) {s : State} (hw : s.memWf) : Out.memWf (execMulhu o s) := by grind [execMulhu]
local grind_pattern execMulhu_memWf => execMulhu o s

theorem execDiv_memWf (o : COp) {s : State} (hw : s.memWf) : Out.memWf (execDiv o s) := by grind [execDiv]
local grind_pattern execDiv_memWf => execDiv o s

theorem execDivu_memWf (o : COp) {s : State} (hw : s.memWf) : Out.memWf (execDivu o s) := by grind [execDivu]
local grind_pattern execDivu_memWf => execDivu o s

theorem execRem_memWf (o : COp) {s : State} (hw : s.memWf) : Out.memWf (execRem o s) := by grind [execRem]
local grind_pattern execRem_memWf => execRem o s

theorem execRemu_memWf (o : COp) {s : State} (hw : s.memWf) : Out.memWf (execRemu o s) := by grind [execRemu]
local grind_pattern execRemu_memWf => execRemu o s

theorem execAnd_memWf (o : COp) {s : State} (hw : s.memWf) : Out.memWf (execAnd o s) := by grind [execAnd]
local grind_pattern execAnd_memWf => execAnd o s

theorem execOr_memWf (o : COp) {s : State} (hw : s.memWf) : Out.memWf (execOr o s) := by grind [execOr]
local grind_pattern execOr_memWf => execOr o s

theorem execXor_memWf (o : COp) {s : State} (hw : s.memWf) : Out.memWf (execXor o s) := by grind [execXor]
local grind_pattern execXor_memWf => execXor o s

theorem execAndn_memWf (o : COp) {s : State} (hw : s.memWf) : Out.memWf (execAndn o s) := by grind [execAndn]
local grind_pattern execAndn_memWf => execAndn o s

theorem execShl_memWf (o : COp) {s : State} (hw : s.memWf) : Out.memWf (execShl o s) := by grind [execShl]
local grind_pattern execShl_memWf => execShl o s

theorem execShr_memWf (o : COp) {s : State} (hw : s.memWf) : Out.memWf (execShr o s) := by grind [execShr]
local grind_pattern execShr_memWf => execShr o s

theorem execSar_memWf (o : COp) {s : State} (hw : s.memWf) : Out.memWf (execSar o s) := by grind [execSar]
local grind_pattern execSar_memWf => execSar o s

theorem execRor_memWf (o : COp) {s : State} (hw : s.memWf) : Out.memWf (execRor o s) := by grind [execRor]
local grind_pattern execRor_memWf => execRor o s

theorem execCmpeq_memWf (o : COp) {s : State} (hw : s.memWf) : Out.memWf (execCmpeq o s) := by grind [execCmpeq]
local grind_pattern execCmpeq_memWf => execCmpeq o s

theorem execCmpne_memWf (o : COp) {s : State} (hw : s.memWf) : Out.memWf (execCmpne o s) := by grind [execCmpne]
local grind_pattern execCmpne_memWf => execCmpne o s

theorem execCmplt_memWf (o : COp) {s : State} (hw : s.memWf) : Out.memWf (execCmplt o s) := by grind [execCmplt]
local grind_pattern execCmplt_memWf => execCmplt o s

theorem execCmpltu_memWf (o : COp) {s : State} (hw : s.memWf) : Out.memWf (execCmpltu o s) := by grind [execCmpltu]
local grind_pattern execCmpltu_memWf => execCmpltu o s

theorem execCmple_memWf (o : COp) {s : State} (hw : s.memWf) : Out.memWf (execCmple o s) := by grind [execCmple]
local grind_pattern execCmple_memWf => execCmple o s

theorem execCmpleu_memWf (o : COp) {s : State} (hw : s.memWf) : Out.memWf (execCmpleu o s) := by grind [execCmpleu]
local grind_pattern execCmpleu_memWf => execCmpleu o s

theorem execMin_memWf (o : COp) {s : State} (hw : s.memWf) : Out.memWf (execMin o s) := by grind [execMin]
local grind_pattern execMin_memWf => execMin o s

theorem execMax_memWf (o : COp) {s : State} (hw : s.memWf) : Out.memWf (execMax o s) := by grind [execMax]
local grind_pattern execMax_memWf => execMax o s

theorem execMinu_memWf (o : COp) {s : State} (hw : s.memWf) : Out.memWf (execMinu o s) := by grind [execMinu]
local grind_pattern execMinu_memWf => execMinu o s

theorem execMaxu_memWf (o : COp) {s : State} (hw : s.memWf) : Out.memWf (execMaxu o s) := by grind [execMaxu]
local grind_pattern execMaxu_memWf => execMaxu o s

theorem execAdds_memWf (o : COp) {s : State} (hw : s.memWf) : Out.memWf (execAdds o s) := by grind [execAdds]
local grind_pattern execAdds_memWf => execAdds o s

theorem execSubs_memWf (o : COp) {s : State} (hw : s.memWf) : Out.memWf (execSubs o s) := by grind [execSubs]
local grind_pattern execSubs_memWf => execSubs o s

theorem execClz_memWf (o : COp) {s : State} (hw : s.memWf) : Out.memWf (execClz o s) := by grind [execClz]
local grind_pattern execClz_memWf => execClz o s

theorem execCtz_memWf (o : COp) {s : State} (hw : s.memWf) : Out.memWf (execCtz o s) := by grind [execCtz]
local grind_pattern execCtz_memWf => execCtz o s

theorem execPopc_memWf (o : COp) {s : State} (hw : s.memWf) : Out.memWf (execPopc o s) := by grind [execPopc]
local grind_pattern execPopc_memWf => execPopc o s

theorem execSext32_memWf (o : COp) {s : State} (hw : s.memWf) : Out.memWf (execSext32 o s) := by grind [execSext32]
local grind_pattern execSext32_memWf => execSext32 o s

theorem execZext32_memWf (o : COp) {s : State} (hw : s.memWf) : Out.memWf (execZext32 o s) := by grind [execZext32]
local grind_pattern execZext32_memWf => execZext32 o s

theorem execSel_memWf (o : CTri) {s : State} (hw : s.memWf) : Out.memWf (execSel o s) := by grind [execSel]
local grind_pattern execSel_memWf => execSel o s

theorem execRndc_memWf (o : CTri) {s : State} (hw : s.memWf) : Out.memWf (execRndc o s) := by grind [execRndc]
local grind_pattern execRndc_memWf => execRndc o s

theorem execImad_memWf (o : CTri) {s : State} (hw : s.memWf) : Out.memWf (execImad o s) := by grind [execImad]
local grind_pattern execImad_memWf => execImad o s

theorem execAddi_memWf (o : CImm) {s : State} (hw : s.memWf) : Out.memWf (execAddi o s) := by grind [execAddi]
local grind_pattern execAddi_memWf => execAddi o s

theorem execAndi_memWf (o : CImm) {s : State} (hw : s.memWf) : Out.memWf (execAndi o s) := by grind [execAndi]
local grind_pattern execAndi_memWf => execAndi o s

theorem execOri_memWf (o : CImm) {s : State} (hw : s.memWf) : Out.memWf (execOri o s) := by grind [execOri]
local grind_pattern execOri_memWf => execOri o s

theorem execXori_memWf (o : CImm) {s : State} (hw : s.memWf) : Out.memWf (execXori o s) := by grind [execXori]
local grind_pattern execXori_memWf => execXori o s

theorem execCmpeqi_memWf (o : CImm) {s : State} (hw : s.memWf) : Out.memWf (execCmpeqi o s) := by grind [execCmpeqi]
local grind_pattern execCmpeqi_memWf => execCmpeqi o s

theorem execCmplti_memWf (o : CImm) {s : State} (hw : s.memWf) : Out.memWf (execCmplti o s) := by grind [execCmplti]
local grind_pattern execCmplti_memWf => execCmplti o s

theorem execCmpltui_memWf (o : CImm) {s : State} (hw : s.memWf) : Out.memWf (execCmpltui o s) := by grind [execCmpltui]
local grind_pattern execCmpltui_memWf => execCmpltui o s

theorem execShfi_memWf (o : CShf) {s : State} (hw : s.memWf) : Out.memWf (execShfi o s) := by grind [execShfi]
local grind_pattern execShfi_memWf => execShfi o s

theorem execLi_memWf (o : CWide) {s : State} (hw : s.memWf) : Out.memWf (execLi o s) := by grind [execLi]
local grind_pattern execLi_memWf => execLi o s

/-! #### C's branches (CBranch) -/

theorem Bench.commitShadows_memWf {x : Bench} (c : Fin 4) (hw : x.memWf) : (x.commitShadows c).memWf := hw
local grind_pattern Bench.commitShadows_memWf => x.commitShadows c

theorem State.settle_memWf {s : State} (assumed : Bool) (pc : W64) (hw : s.memWf) :
    Out.memWf (s.settle assumed pc) := by grind [State.settle]
local grind_pattern State.settle_memWf => s.settle assumed pc

theorem State.branch_memWf {s : State} (o : CBr) (f : W64 → W64 → Bool) (hw : s.memWf) :
    Out.memWf (s.branch o f) := by grind [State.branch]
local grind_pattern State.branch_memWf => s.branch o f

theorem execBeq_memWf (o : CBr) {s : State} (hw : s.memWf) : Out.memWf (execBeq o s) := by grind [execBeq]
local grind_pattern execBeq_memWf => execBeq o s

theorem execBne_memWf (o : CBr) {s : State} (hw : s.memWf) : Out.memWf (execBne o s) := by grind [execBne]
local grind_pattern execBne_memWf => execBne o s

theorem execBlt_memWf (o : CBr) {s : State} (hw : s.memWf) : Out.memWf (execBlt o s) := by grind [execBlt]
local grind_pattern execBlt_memWf => execBlt o s

theorem execBge_memWf (o : CBr) {s : State} (hw : s.memWf) : Out.memWf (execBge o s) := by grind [execBge]
local grind_pattern execBge_memWf => execBge o s

theorem execBltu_memWf (o : CBr) {s : State} (hw : s.memWf) : Out.memWf (execBltu o s) := by grind [execBltu]
local grind_pattern execBltu_memWf => execBltu o s

theorem execBgeu_memWf (o : CBr) {s : State} (hw : s.memWf) : Out.memWf (execBgeu o s) := by grind [execBgeu]
local grind_pattern execBgeu_memWf => execBgeu o s

theorem execBrf_memWf (o : CBrf) {s : State} (hw : s.memWf) : Out.memWf (execBrf o s) := by grind [execBrf]
local grind_pattern execBrf_memWf => execBrf o s

theorem execJmp_memWf (off : BitVec 26) {s : State} (hw : s.memWf) : Out.memWf (execJmp off s) := by grind [execJmp]
local grind_pattern execJmp_memWf => execJmp off s

theorem execJmpi_memWf (a : BitVec 5) {s : State} (hw : s.memWf) : Out.memWf (execJmpi a s) := by grind [execJmpi]
local grind_pattern execJmpi_memWf => execJmpi a s

/-! #### C's windows and calls (CCall) -/

theorem Bench.dropGroupLoads_memWf {x : Bench} (g : Fin 16) (hw : x.memWf) : (x.dropGroupLoads g).memWf := hw
local grind_pattern Bench.dropGroupLoads_memWf => x.dropGroupLoads g

theorem Bench.setGroup_memWf {x : Bench} (g : Fin 16) (st : GState) (hw : x.memWf) : (x.setGroup g st).memWf := hw
local grind_pattern Bench.setGroup_memWf => x.setGroup g st

theorem Bench.freeGroup_memWf {x : Bench} (g : Fin 16) (hw : x.memWf) : (x.freeGroup g).memWf := hw
local grind_pattern Bench.freeGroup_memWf => x.freeGroup g

theorem State.spillStore_memWf {s : State} (b : BenchId) (c : Fin 4) (va : W64) (p : Passed) (bs : List Byte)
    (hw : s.memWf) : OptWf (s.spillStore b c va p bs) := by
  simp only [State.spillStore]
  split
  · split
    · trivial
    · exact State.devStore_memWf _ _ _ hw
  · exact OptWf_map1 (State.send_memWf _ _ _ _ hw) fun r hr => State.modBench_memWf _ _ hr id
  · exact OptWf_map (State.storeHome_memWf _ _ _ _ _ hw) fun t ht => by grind
local grind_pattern State.spillStore_memWf => s.spillStore b c va p bs

theorem State.spillOldest_memWf {s : State} (b : BenchId) (c : Fin 4) (hw : s.memWf) :
    (s.spillOldest b c).memWf := by grind [State.spillOldest]
local grind_pattern State.spillOldest_memWf => s.spillOldest b c

theorem Bench.refill_memWf {x : Bench} (c : Fin 4) (g : Fin 16) (i : Nat) (bs : List Byte) (hw : x.memWf) :
    (x.refill c g i bs).memWf := hw
local grind_pattern Bench.refill_memWf => x.refill c g i bs

theorem State.fillLatest_memWf {s : State} (b : BenchId) (c : Fin 4) (hw : s.memWf) :
    (s.fillLatest b c).memWf := by
  simp only [State.fillLatest]
  grind
local grind_pattern State.fillLatest_memWf => s.fillLatest b c

theorem State.spillUntil_memWf {s : State} (b : BenchId) (c : Fin 4) (g : Fin 16) (k : Nat) (hw : s.memWf) :
    (s.spillUntil b c g k).memWf := by
  induction k generalizing s with
  | zero => exact hw
  | succ k ih => grind [State.spillUntil]
local grind_pattern State.spillUntil_memWf => s.spillUntil b c g k

theorem State.claim_memWf {s : State} (b : BenchId) (g : Fin 16) (to_ : GState) (hw : s.memWf) :
    (s.claim b g to_).memWf := by grind [State.claim]
local grind_pattern State.claim_memWf => s.claim b g to_

theorem State.needBelow_memWf {s : State} (b : BenchId) (c : Fin 4) (hw : s.memWf) :
    (s.needBelow b c).memWf := by grind [State.needBelow]
local grind_pattern State.needBelow_memWf => s.needBelow b c

theorem State.call_memWf {s : State} (target : W64) (hw : s.memWf) : Out.memWf (s.call target) := by grind [State.call]
local grind_pattern State.call_memWf => s.call target

theorem execCall_memWf (off : BitVec 26) {s : State} (hw : s.memWf) : Out.memWf (execCall off s) := by grind [execCall]
local grind_pattern execCall_memWf => execCall off s

theorem execCalli_memWf (a : BitVec 5) {s : State} (hw : s.memWf) : Out.memWf (execCalli a s) := by grind [execCalli]
local grind_pattern execCalli_memWf => execCalli a s

theorem State.endTail_memWf {s : State} (hw : s.memWf) : Out.memWf (s.endTail) := by grind [State.endTail]
local grind_pattern State.endTail_memWf => s.endTail

theorem execRet_memWf {s : State} (hw : s.memWf) : Out.memWf (execRet s) := by grind [execRet]
local grind_pattern execRet_memWf => execRet s

theorem State.splitTail_memWf {s : State} (t : Fin 4) (hw : s.memWf) : (s.splitTail t).memWf := by grind [State.splitTail]
local grind_pattern State.splitTail_memWf => s.splitTail t

theorem State.waitRels_memWf {s : State} (t : Fin 4) (kind : WaitKind) (hw : s.memWf) :
    (s.waitRels t kind).memWf := by grind [State.waitRels]
local grind_pattern State.waitRels_memWf => s.waitRels t kind

theorem execRels_memWf {s : State} (hw : s.memWf) :
    Out.memWf (execRels s) := by
  unfold execRels
  split <;> grind
local grind_pattern execRels_memWf => execRels s

theorem execBackgroundSpill_memWf {s : State} (hw : s.memWf) : Out.memWf (execBackgroundSpill s) := by grind [execBackgroundSpill]
local grind_pattern execBackgroundSpill_memWf => execBackgroundSpill s

theorem execGroupFill_memWf {s : State} (hw : s.memWf) : Out.memWf (execGroupFill s) := by grind [execGroupFill]
local grind_pattern execGroupFill_memWf => execGroupFill s

theorem State.asContext_memWf {s : State} (b : BenchId) (c : Fin 4) (word : W128) (hw : s.memWf) :
    (s.asContext b c word).memWf := hw
local grind_pattern State.asContext_memWf => s.asContext b c word

theorem execClaimStallTimeout_memWf {s : State} (hw : s.memWf) :
    Out.memWf (execClaimStallTimeout s) := by grind [execClaimStallTimeout]
local grind_pattern execClaimStallTimeout_memWf => execClaimStallTimeout s

theorem execFillStallTimeout_memWf {s : State} (hw : s.memWf) :
    Out.memWf (execFillStallTimeout s) := by grind [execFillStallTimeout]
local grind_pattern execFillStallTimeout_memWf => execFillStallTimeout s

/-! #### C's memory instructions (CMem) -/

theorem State.count_memWf {s : State} (hw : s.memWf) : (s.count).memWf := by grind [State.count]
local grind_pattern State.count_memWf => s.count

theorem State.loadFault_memWf {s : State} (k : LoadKind) (code : Byte) (va : W64) (hw : s.memWf) :
    Out.memWf (s.loadFault k code va) := by grind [State.loadFault]
local grind_pattern State.loadFault_memWf => s.loadFault k code va

theorem State.acquireC_memWf {s : State} (sc : Scope) (hw : s.memWf) : (s.acquireC sc).memWf := by grind [State.acquireC]
local grind_pattern State.acquireC_memWf => s.acquireC sc

theorem State.loadDone_memWf {s : State} (k : LoadKind) (bs : List Byte) (hw : s.memWf) :
    Out.memWf (s.loadDone k bs) := by grind [State.loadDone]
local grind_pattern State.loadDone_memWf => s.loadDone k bs

theorem State.loadLate_memWf {s : State} (k : LoadKind) (va : W64) (p : Passed) (bs : List Byte) (away : Bool) (hw : s.memWf) :
    Out.memWf (s.loadLate k va p bs away) := by grind [State.loadLate]
local grind_pattern State.loadLate_memWf => s.loadLate k va p bs away

theorem State.request_memWf {s : State} (pa size : Nat) (hw : s.memWf) : OptWf (s.request pa size) := by
  unfold State.request
  exact OptWf_map1 (State.send_memWf _ _ _ _ hw) fun r hr => hr
local grind_pattern State.request_memWf => s.request pa size

theorem State.loadRemote_memWf {s : State} (va : W64) (p : Passed) (pa size : Nat) (hw : s.memWf) :
    Out.memWf (s.loadRemote va p pa size) := by grind [State.loadRemote]
local grind_pattern State.loadRemote_memWf => s.loadRemote va p pa size

theorem State.loadAt_memWf {s : State} (k : LoadKind) (va : W64) (p : Passed) (hw : s.memWf) :
    Out.memWf (s.loadAt k va p) := by
  unfold State.loadAt
  extract_lets x c direct fwd late
  split
  · exact State.loadFault_memWf _ _ _ hw
  split
  · exact State.waitC_memWf _ _ hw
  split
  · exact State.waitC_memWf _ _ (State.drainAll_memWf _ _ _ hw)
  split
  · exact State.waitC_memWf _ _ hw
  generalize hl : (if k.const then s.loadConst s.cur.bench p else s.load s.cur.bench p k.size k.scope k.pri k.last fwd) = l
  have hlw : l.memWf := by
    rw [← hl]
    split
    · exact State.loadConst_memWf _ _ hw
    · exact State.load_memWf _ _ _ _ _ _ _ hw
  cases l with
  | ok t bs => grind -lia
  | wait t => exact State.waitC_memWf _ _ hlw
  | fault t code => exact State.loadFault_memWf _ _ _ hlw
  | remote t =>
    have ht : t.memWf := hlw
    have hr := State.request_memWf p.pa k.size ht
    grind -lia
local grind_pattern State.loadAt_memWf => s.loadAt k va p

theorem Bench.constBack_memWf {x : Bench} (n : CopyLine) (hw : x.memWf) : (x.constBack n).memWf := by grind [Bench.constBack]
local grind_pattern Bench.constBack_memWf => x.constBack n

theorem State.loadBack_memWf {s : State} (k : LoadKind) (va : W64) (pa : Nat) (leaf : Leaf) (r : Response) (hw : s.memWf) :
    Out.memWf (s.loadBack k va pa leaf r) := by grind [State.loadBack]
local grind_pattern State.loadBack_memWf => s.loadBack k va pa leaf r

theorem State.loadC_memWf {s : State} (k : LoadKind) (a : BitVec 5) (off : BitVec 7) (hw : s.memWf) :
    Out.memWf (s.loadC k a off) := by grind [State.loadC]
local grind_pattern State.loadC_memWf => s.loadC k a off

theorem execLd_memWf (o : CLd) {s : State} (hw : s.memWf) : Out.memWf (execLd o s) := by grind [execLd]
local grind_pattern execLd_memWf => execLd o s

theorem execLdI32_memWf (o : CLd) {s : State} (hw : s.memWf) : Out.memWf (execLdI32 o s) := by grind [execLdI32]
local grind_pattern execLdI32_memWf => execLdI32 o s

theorem execLdN32_memWf (o : CLd) {s : State} (hw : s.memWf) : Out.memWf (execLdN32 o s) := by grind [execLdN32]
local grind_pattern execLdN32_memWf => execLdN32 o s

theorem execLdI16_memWf (o : CLd) {s : State} (hw : s.memWf) : Out.memWf (execLdI16 o s) := by grind [execLdI16]
local grind_pattern execLdI16_memWf => execLdI16 o s

theorem execLdN16_memWf (o : CLd) {s : State} (hw : s.memWf) : Out.memWf (execLdN16 o s) := by grind [execLdN16]
local grind_pattern execLdN16_memWf => execLdN16 o s

theorem execLdI8_memWf (o : CLd) {s : State} (hw : s.memWf) : Out.memWf (execLdI8 o s) := by grind [execLdI8]
local grind_pattern execLdI8_memWf => execLdI8 o s

theorem execLdN8_memWf (o : CLd) {s : State} (hw : s.memWf) : Out.memWf (execLdN8 o s) := by grind [execLdN8]
local grind_pattern execLdN8_memWf => execLdN8 o s

theorem execLdc_memWf (o : CLdc) {s : State} (hw : s.memWf) : Out.memWf (execLdc o s) := by grind [execLdc]
local grind_pattern execLdc_memWf => execLdc o s

theorem State.enterBuffer_memWf {s : State} (e : StEntry) (hw : s.memWf) : (s.enterBuffer e).memWf := by grind [State.enterBuffer]
local grind_pattern State.enterBuffer_memWf => s.enterBuffer e

theorem State.storeC_memWf {s : State} (size : Nat) (o : CSt) (hw : s.memWf) :
    Out.memWf (s.storeC size o) := by grind [State.storeC]
local grind_pattern State.storeC_memWf => s.storeC size o

theorem execSt_memWf (o : CSt) {s : State} (hw : s.memWf) : Out.memWf (execSt o s) := by grind [execSt]
local grind_pattern execSt_memWf => execSt o s

theorem execStI32_memWf (o : CSt) {s : State} (hw : s.memWf) : Out.memWf (execStI32 o s) := by grind [execStI32]
local grind_pattern execStI32_memWf => execStI32 o s

theorem execStI16_memWf (o : CSt) {s : State} (hw : s.memWf) : Out.memWf (execStI16 o s) := by grind [execStI16]
local grind_pattern execStI16_memWf => execStI16 o s

theorem execStI8_memWf (o : CSt) {s : State} (hw : s.memWf) : Out.memWf (execStI8 o s) := by grind [execStI8]
local grind_pattern execStI8_memWf => execStI8 o s

theorem State.putOld_memWf {s : State} (d : BitVec 4) (size v : Nat) (hw : s.memWf) :
    (s.putOld d size v).memWf := by grind [State.putOld]
local grind_pattern State.putOld_memWf => s.putOld d size v

theorem State.atomicDone_memWf {s : State} (tag : Nat) (p : Passed) (d : BitVec 4) (size : Nat) (sc : Scope) (acq : Bool)
    (va : W64) (hw : s.memWf) :
    Out.memWf (s.atomicDone tag p d size sc acq va) := by
  grind [State.atomicDone]
local grind_pattern State.atomicDone_memWf => s.atomicDone tag p d size sc acq va

theorem State.halfLate_memWf {s : State} (e : StEntry) (mark : Mark) (d : BitVec 4) (hi : Bool) (hw : s.memWf) :
    (s.halfLate e mark d hi).memWf := by grind [State.halfLate]
local grind_pattern State.halfLate_memWf => s.halfLate e mark d hi

theorem State.atomicC_memWf {s : State} (a : BitVec 5) (d : BitVec 4) (op : AtomOp) (size : Nat) (sc : Scope) (acq rel : Bool)
    (b ex : State → W128) (hw : s.memWf) :
    Out.memWf (s.atomicC a d op size sc acq rel b ex) := by
  grind [State.atomicC]
local grind_pattern State.atomicC_memWf => s.atomicC a d op size sc acq rel b ex

theorem State.atomicTurn_memWf {s : State} (d : BitVec 4) (size : Nat) (sc : Scope) (acq : Bool) (issue : Out)
    (hw : s.memWf) (hi : Out.memWf issue) : Out.memWf (s.atomicTurn d size sc acq issue) := by
  grind [State.atomicTurn]
local grind_pattern State.atomicTurn_memWf => s.atomicTurn d size sc acq issue

theorem execAtom_memWf (o : CAtm) {s : State} (hw : s.memWf) : Out.memWf (execAtom o s) := by grind [execAtom]
local grind_pattern execAtom_memWf => execAtom o s

theorem execCas_memWf (o : CCas) {s : State} (hw : s.memWf) : Out.memWf (execCas o s) := by grind [execCas]
local grind_pattern execCas_memWf => execCas o s

theorem execCas128_memWf (o : CCas) {s : State} (hw : s.memWf) : Out.memWf (execCas128 o s) := by grind [execCas128]
local grind_pattern execCas128_memWf => execCas128 o s

theorem Bench.loadAnswer_memWf {x : Bench} (l : PendLoad) (r : Response) (hw : x.memWf) :
    (x.loadAnswer l r).memWf := by grind [Bench.loadAnswer]
local grind_pattern Bench.loadAnswer_memWf => x.loadAnswer l r

theorem State.arriveAway_memWf {s : State} (b : BenchId) (l : PendLoad) (hw : s.memWf) :
    (s.arriveAway b l).memWf := by grind [State.arriveAway]
local grind_pattern State.arriveAway_memWf => s.arriveAway b l

theorem State.arrive_memWf {s : State} (b : BenchId) (l : PendLoad) (hw : s.memWf) :
    (s.arrive b l).memWf := by grind [State.arrive]
local grind_pattern State.arrive_memWf => s.arrive b l

theorem State.arriveTag_memWf {s : State} (b : BenchId) (tag : Nat) (hw : s.memWf) :
    (s.arriveTag b tag).memWf := by grind [State.arriveTag]
local grind_pattern State.arriveTag_memWf => s.arriveTag b tag

theorem execResultArrival_memWf {s : State} (hw : s.memWf) : Out.memWf (execResultArrival s) := by grind [execResultArrival]
local grind_pattern execResultArrival_memWf => execResultArrival s

theorem State.performOne_memWf {s : State} (b : BenchId) (q : Buf) (hw : s.memWf) :
    (s.performOne b q).memWf := by grind [State.performOne]
local grind_pattern State.performOne_memWf => s.performOne b q

theorem State.performKind_memWf {s : State} (k : Nat) (hw : s.memWf) : (s.performKind k).memWf := by grind [State.performKind]
local grind_pattern State.performKind_memWf => s.performKind k

theorem execStorePerform_memWf {s : State} (hw : s.memWf) : Out.memWf (execStorePerform s) := by grind [execStorePerform]
local grind_pattern execStorePerform_memWf => execStorePerform s

theorem execAtomicPerform_memWf {s : State} (hw : s.memWf) : Out.memWf (execAtomicPerform s) := by grind [execAtomicPerform]
local grind_pattern execAtomicPerform_memWf => execAtomicPerform s

theorem execRedtCombine_memWf {s : State} (hw : s.memWf) : Out.memWf (execRedtCombine s) := by grind [execRedtCombine]
local grind_pattern execRedtCombine_memWf => execRedtCombine s

/-! #### C's synchronising instructions (CSync) -/

theorem State.settleBuffer_memWf {s : State} (hw : s.memWf) : (s.settleBuffer).memWf := by grind [State.settleBuffer]
local grind_pattern State.settleBuffer_memWf => s.settleBuffer

theorem State.released_memWf {s : State} (sc : Scope) (k : State → Out) (hw : s.memWf) (hk : ∀ t, t.memWf → Out.memWf (k t)) :
    Out.memWf (s.released sc k) := by grind [State.released]
local grind_pattern State.released_memWf => s.released sc k

theorem execFence_memWf (scope : Scope) {s : State} (hw : s.memWf) : Out.memWf (execFence scope s) := by grind [execFence]
local grind_pattern execFence_memWf => execFence scope s

theorem State.putBarrier_memWf {s : State} (old new : Barrier) (hw : s.memWf) : (s.putBarrier old new).memWf := hw
local grind_pattern State.putBarrier_memWf => s.putBarrier old new

theorem State.leaveBarrier_memWf {s : State} (x : Barrier) (hw : s.memWf) : (s.leaveBarrier x).memWf := hw
local grind_pattern State.leaveBarrier_memWf => s.leaveBarrier x

theorem State.joinBarrier_memWf {s : State} (sc : Scope) (n : Byte) (count : Nat) (hw : s.memWf) :
    (s.joinBarrier sc n count).memWf := by grind [State.joinBarrier]
local grind_pattern State.joinBarrier_memWf => s.joinBarrier sc n count

theorem State.setMembership_memWf {s : State} (n : Byte) (w : W64) (hw : s.memWf) :
    OptWf (s.setMembership n w) := by grind [State.setMembership]
local grind_pattern State.setMembership_memWf => s.setMembership n w

theorem execBset_memWf (a : BitVec 5) (bar : Byte) {s : State} (hw : s.memWf) :
    Out.memWf (execBset a bar s) := by grind [execBset]
local grind_pattern execBset_memWf => execBset a bar s

theorem execArrv_memWf (scope : Scope) (bar : Byte) {s : State} (hw : s.memWf) :
    Out.memWf (execArrv scope bar s) := by grind [execArrv]
local grind_pattern execArrv_memWf => execArrv scope bar s

theorem execBwait_memWf (scope : Scope) (bar : Byte) {s : State} (hw : s.memWf) :
    Out.memWf (execBwait scope bar s) := by grind [execBwait]
local grind_pattern execBwait_memWf => execBwait scope bar s

theorem State.armWatch_memWf {s : State} (ln : Nat) (tag : Option (BitVec 14 × Nat)) (hw : s.memWf) :
    (s.armWatch ln tag).memWf := by grind [State.armWatch]
local grind_pattern State.armWatch_memWf => s.armWatch ln tag

theorem State.watchBack_memWf {s : State} (va : W64) (tag pa : Nat) (m : BitVec 14) (r : Response) (hw : s.memWf) :
    Out.memWf (s.watchBack va tag pa m r) := by grind [State.watchBack]
local grind_pattern State.watchBack_memWf => s.watchBack va tag pa m r

theorem execWatch_memWf (a : BitVec 5) {s : State} (hw : s.memWf) : Out.memWf (execWatch a s) := by grind [execWatch]
local grind_pattern execWatch_memWf => execWatch a s

theorem execWait_memWf {s : State} (hw : s.memWf) : Out.memWf (execWait s) := by grind [execWait]
local grind_pattern execWait_memWf => execWait s

theorem execWatchWake_memWf {s : State} (hw : s.memWf) : Out.memWf (execWatchWake s) := by grind [execWatchWake]
local grind_pattern execWatchWake_memWf => execWatchWake s

theorem execSend_memWf (a : BitVec 5) (q : BitVec 2) {s : State} (hw : s.memWf) :
    Out.memWf (execSend a q s) := by grind [execSend]
local grind_pattern execSend_memWf => execSend a q s

theorem execRecv_memWf (d : BitVec 4) {s : State} (hw : s.memWf) : Out.memWf (execRecv d s) := by grind [execRecv]
local grind_pattern execRecv_memWf => execRecv d s

theorem State.tailMask_memWf {s : State} (mask : BitVec 4) (r : Out) (hw : s.memWf) (hr : Out.memWf r) :
    Out.memWf (s.tailMask mask r) := by grind [State.tailMask]
local grind_pattern State.tailMask_memWf => s.tailMask mask r

theorem execGive_memWf (mask : BitVec 4) {s : State} (hw : s.memWf) : Out.memWf (execGive mask s) := by grind [execGive]
local grind_pattern execGive_memWf => execGive mask s

theorem execTake_memWf (mask : BitVec 4) {s : State} (hw : s.memWf) : Out.memWf (execTake mask s) := by grind [execTake]
local grind_pattern execTake_memWf => execTake mask s

theorem execTjoin_memWf (t : BitVec 2) {s : State} (hw : s.memWf) : Out.memWf (execTjoin t s) := by grind [execTjoin]
local grind_pattern execTjoin_memWf => execTjoin t s

theorem execGivePush_memWf {s : State} (hw : s.memWf) : Out.memWf (execGivePush s) := by grind [execGivePush]
local grind_pattern execGivePush_memWf => execGivePush s

/-! #### Launch records (Launch) -/

theorem State.tenantCheck_memWf {s : State} (d : Fin 8) (ten : BitVec 6) (ent : Option TenEntry) (va n : Nat) (need : Need)
    (hw : s.memWf) :
    (s.tenantCheck d ten ent va n need).1.memWf := by
  grind [State.tenantCheck]
local grind_pattern State.tenantCheck_memWf => s.tenantCheck d ten ent va n need

theorem State.dispRead_memWf {s : State} (w : Asker) (d : Fin 8) (ten : BitVec 6) (p : Passed) (n : Nat) (hw : s.memWf) :
    (s.dispRead w d ten p n).1.memWf := by grind [State.dispRead]
local grind_pattern State.dispRead_memWf => s.dispRead w d ten p n

theorem State.tenantWord_memWf {s : State} (w : Asker) (d : Fin 8) (ten : BitVec 6) (ent : Option TenEntry) (va : Nat)
    (hw : s.memWf) :
    (s.tenantWord w d ten ent va).1.memWf := by
  grind [State.tenantWord]
local grind_pattern State.tenantWord_memWf => s.tenantWord w d ten ent va

theorem State.tenantWords_memWf {s : State} (w : Asker) (d : Fin 8) (ten : BitVec 6) (ent : Option TenEntry)
    (va n : Nat) (hw : s.memWf) : (s.tenantWords w d ten ent va n).1.memWf := by
  induction n generalizing s va with
  | zero => exact hw
  | succ n ih => grind -lia [State.tenantWords]
local grind_pattern State.tenantWords_memWf => s.tenantWords w d ten ent va n

theorem State.groupView_memWf {s : State} (w : Asker) (d : Fin 8) (ten : BitVec 6) (ent : Option TenEntry) (table : Nat)
    (hw : s.memWf) :
    (s.groupView w d ten ent table).1.memWf := by
  grind [State.groupView]
local grind_pattern State.groupView_memWf => s.groupView w d ten ent table

theorem State.storeView_memWf {s : State} (w : Asker) (d : Fin 8) (ten : BitVec 6) (p : Passed) (ws : List W64) (hw : s.memWf) :
    (s.storeView w d ten p ws).memWf := by grind [State.storeView]
local grind_pattern State.storeView_memWf => s.storeView w d ten p ws

theorem State.writeView_memWf {s : State} (w : Asker) (d : Fin 8) (ten : BitVec 6) (ent : Option TenEntry) (table view : Nat)
    (hw : s.memWf) :
    (s.writeView w d ten ent table view).1.memWf := by
  grind [State.writeView]
local grind_pattern State.writeView_memWf => s.writeView w d ten ent table view

theorem State.enqueue_memWf {s : State} (d : Fin 8) (h : Hitch) (head : Bool) (hw : s.memWf) :
    (s.enqueue d h head).memWf :=
  State.modHitch_memWf _ _ (State.modDie_memWf d _ hw) fun g hg => by grind [Hitch.savedWf]
local grind_pattern State.enqueue_memWf => s.enqueue d h head

theorem State.accept_memWf {s : State} (w : Asker) (d : Fin 8) (ten : BitVec 6) (r : List W64) (hw : s.memWf) :
    (s.accept w d ten r).1.memWf := by
  have append (t : State) (ht : t.memWf) (h : Hitch) (hh : h.saved = []) : { t with hitches := t.hitches ++ [h] }.memWf :=
    State.withHitches_memWf ht fun g hg => by grind [Hitch.savedWf, ht.2.2]
  simp only [State.accept]
  grind -lia
local grind_pattern State.accept_memWf => s.accept w d ten r

/-! #### C's system instructions (CSys) -/

theorem State.sregWrite_memWf {s : State} (r : SReg) (v : W64) (hw : s.memWf) :
    OptWf (s.sregWrite r v) := by
  simp only [State.sregWrite]
  grind
local grind_pattern State.sregWrite_memWf => s.sregWrite r v

theorem execMfs_memWf (d : BitVec 4) (n : Byte) {s : State} (hw : s.memWf) : Out.memWf (execMfs d n s) := by grind [execMfs]
local grind_pattern execMfs_memWf => execMfs d n s

theorem execMts_memWf (a : BitVec 5) (n : Byte) {s : State} (hw : s.memWf) : Out.memWf (execMts a n s) := by grind [execMts]
local grind_pattern execMts_memWf => execMts a n s

theorem execTrap_memWf (n : Byte) {s : State} (hw : s.memWf) : Out.memWf (execTrap n s) := by grind [execTrap]
local grind_pattern execTrap_memWf => execTrap n s

theorem execSysc_memWf (n : Byte) {s : State} (hw : s.memWf) : Out.memWf (execSysc n s) := by grind [execSysc]
local grind_pattern execSysc_memWf => execSysc n s

theorem execSyscComplete_memWf {s : State} (hw : s.memWf) : Out.memWf (execSyscComplete s) := by grind [execSyscComplete]
local grind_pattern execSyscComplete_memWf => execSyscComplete s

theorem State.takePending_memWf {s : State} (b : BenchId) (p : Pending) (hw : s.memWf) :
    (s.takePending b p).memWf := by
  simp only [State.takePending]
  grind
local grind_pattern State.takePending_memWf => s.takePending b p

theorem execEret_memWf {s : State} (hw : s.memWf) : Out.memWf (execEret s) := by grind [execEret]
local grind_pattern execEret_memWf => execEret s

theorem execTrapEntry_memWf {s : State} (hw : s.memWf) : Out.memWf (execTrapEntry s) := by grind [execTrapEntry]
local grind_pattern execTrapEntry_memWf => execTrapEntry s

theorem Bench.dropLeaves_memWf {x : Bench} (hit : Leaf → Bool) (hw : x.memWf) :
    (x.dropLeaves hit).memWf := by grind [Bench.dropLeaves]
local grind_pattern Bench.dropLeaves_memWf => x.dropLeaves hit

theorem State.tlbi_memWf {s : State} (b : BenchId) (kind : Nat) (hit : Leaf → Bool) (hw : s.memWf) :
    (s.tlbi b kind hit).memWf := by
  simp only [State.tlbi]
  split
  · exact State.modBench_memWf _ _ hw fun hx => Bench.dropLeaves_memWf _ hx
  · refine ⟨hw.1, fun i => ?_, hw.2.2⟩
    have hi : (s.bench i).memWf := hw.2.1 i
    simp only [State.bench, Fin.getElem_fin, Vector.getElem_ofFn]
    split
    · exact Bench.dropLeaves_memWf _ hi
    · exact hi
local grind_pattern State.tlbi_memWf => s.tlbi b kind hit

theorem execTlbi_memWf (a : BitVec 5) (kind : Byte) {s : State} (hw : s.memWf) :
    Out.memWf (execTlbi a kind s) := by grind [execTlbi]
local grind_pattern execTlbi_memWf => execTlbi a kind s

theorem execEstat_memWf (d : BitVec 4) (n : Byte) {s : State} (hw : s.memWf) : Out.memWf (execEstat d n s) := by grind [execEstat]
local grind_pattern execEstat_memWf => execEstat d n s

theorem State.launchRecord_memWf {s : State} (w : Asker) (p : Passed) (hw : s.memWf) :
    (s.launchRecord w p).1.memWf := by grind [State.launchRecord]
local grind_pattern State.launchRecord_memWf => s.launchRecord w p

theorem State.submit_memWf {s : State} (w : Asker) (d : BitVec 4) (va : W64) (r : List W64) (hw : s.memWf) :
    Out.memWf (s.submit w d va r) := by grind [State.submit]
local grind_pattern State.submit_memWf => s.submit w d va r

theorem execLaunch_memWf (d : BitVec 4) (a : BitVec 5) {s : State} (hw : s.memWf) :
    Out.memWf (execLaunch d a s) := by
  refine State.withSrc_memWf _ _ _ _ hw fun va => ?_
  split
  · exact State.submit_memWf _ _ _ _ hw
  · have hc := State.check_memWf s.cur.bench va.toNat 128 .read false false hw
    split
    · grind
    · grind
    · next t p heq =>
      rw [heq] at hc
      refine State.released_memWf _ _ hc fun u hu => ?_
      have hr := State.launchRecord_memWf (.of s.cur.bench .c s.cur.ctx) p hu
      grind
local grind_pattern execLaunch_memWf => execLaunch d a s

theorem execLwait_memWf (a : BitVec 5) {s : State} (hw : s.memWf) : Out.memWf (execLwait a s) := by grind [execLwait]
local grind_pattern execLwait_memWf => execLwait a s

theorem execClock_memWf (d : BitVec 4) {s : State} (hw : s.memWf) : Out.memWf (execClock d s) := by grind [execClock]
local grind_pattern execClock_memWf => execClock d s

theorem execRdv_memWf {s : State} (hw : s.memWf) : Out.memWf (execRdv s) := by grind [execRdv]
local grind_pattern execRdv_memWf => execRdv s

/-! #### Bank operands (Operands) -/

theorem Bench.writeBank_memWf {x : Bench} (bank off : Nat) (bs : List Byte) (hw : x.memWf) :
    (x.writeBank bank off bs).memWf :=
  BanksWf_vmod _ _ hw fun _ hm => Mem.wf_writeAll _ _ _ hm
local grind_pattern Bench.writeBank_memWf => x.writeBank bank off bs

theorem Bench.writeVals_memWf {x : Bench} (r : Run) (mode : BitVec 3) (vs : List Val) (hw : x.memWf) :
    (x.writeVals r mode vs).memWf := by grind [Bench.writeVals]
local grind_pattern Bench.writeVals_memWf => x.writeVals r mode vs

/-! #### Feeds (Feeds) -/

theorem State.feedCheck_memWf {s : State} (b : BenchId) (va : W64) (n : Nat) (need : Need) (io : Bool) (trans : Option Leaf)
    (hw : s.memWf) :
    (s.feedCheck b va n need io trans).1.memWf := by
  simp only [State.feedCheck]
  grind
local grind_pattern State.feedCheck_memWf => s.feedCheck b va n need io trans

theorem State.fetchPieces_memWf {s : State} (b : BenchId) (r : Reading) (ps : List (W64 × Nat)) (tr : Option Leaf)
    (hw : s.memWf) : (s.fetchPieces b r ps tr).memWf := by
  induction ps generalizing s tr with
  | nil => exact hw
  | cons p ps ih =>
    obtain ⟨va, n⟩ := p
    have hc := State.feedCheck_memWf b va n .read (r.scope == .io) tr hw
    simp only [State.fetchPieces]
    split
    · grind
    · grind
    · next t q heq =>
      rw [heq] at hc
      have rest (u : State) (hu : u.memWf) (bs : List Byte) : (match u.fetchPieces b r ps (some q.leaf) with
          | .ok s cs t ls => Fetched.ok s (bs ++ cs) t ((q.pa, n) :: ls) | e => e).memWf := by grind
      split
      · trivial
      split
      · exact hc
      · split <;> grind
local grind_pattern State.fetchPieces_memWf => s.fetchPieces b r ps tr

theorem State.fetchBlock_memWf {s : State} (b : BenchId) (f : Feed) (asker : Option Stream) (hw : s.memWf) :
    (s.fetchBlock b f asker).memWf := by grind [State.fetchBlock]
local grind_pattern State.fetchBlock_memWf => s.fetchBlock b f asker

theorem Bench.modFeed_memWf {x : Bench} (n : Nat) (f : Feed → Feed) (hw : x.memWf) : (x.modFeed n f).memWf := hw
local grind_pattern Bench.modFeed_memWf => x.modFeed n f

theorem execFeedBlockArrival_memWf {s : State} (hw : s.memWf) :
    Out.memWf (execFeedBlockArrival s) := by grind [execFeedBlockArrival]
local grind_pattern execFeedBlockArrival_memWf => execFeedBlockArrival s

theorem Bench.orderFeeds_memWf {x : Bench} (bound : Nat) (places : List (Nat × Nat)) (hw : x.memWf) :
    (x.orderFeeds bound places).memWf := hw
local grind_pattern Bench.orderFeeds_memWf => x.orderFeeds bound places

theorem Bench.dropEngineAsks_memWf {x : Bench} (hw : x.memWf) : (x.dropEngineAsks).memWf := hw
local grind_pattern Bench.dropEngineAsks_memWf => x.dropEngineAsks

theorem State.useBlock_memWf {s : State} (b : BenchId) (n : Nat) (f : Feed) (k : FBlock) (hw : s.memWf) :
    (s.useBlock b n f k).memWf := by grind [State.useBlock]
local grind_pattern State.useBlock_memWf => s.useBlock b n f k

theorem State.popBlock_memWf {s : State} (b : BenchId) (n : Nat) (hw : s.memWf) :
    (s.popBlock b n).memWf := by grind [State.popBlock]
local grind_pattern State.popBlock_memWf => s.popBlock b n

/-! #### Fetching words and loops (Fetch) -/

theorem State.fetch_memWf {s : State} (b : BenchId) (st : Stream) (c : Fin 4) (va : W64) (hw : s.memWf) :
    (s.fetch b st c va).1.memWf := by grind [State.fetch]
local grind_pattern State.fetch_memWf => s.fetch b st c va

theorem State.dropWords_memWf {s : State} (b : BenchId) (st : Stream) (c : Fin 4) (hw : s.memWf) :
    (s.dropWords b st c).memWf := by grind [State.dropWords]
local grind_pattern State.dropWords_memWf => s.dropWords b st c

theorem State.fetchHere_memWf {s : State} (hw : s.memWf) : (s.fetchHere).1.memWf := by grind [State.fetchHere]
local grind_pattern State.fetchHere_memWf => s.fetchHere

theorem State.fetchFault_memWf {s : State} (code : Byte) (va : W64) (hw : s.memWf) :
    (s.fetchFault code va).memWf := by grind [State.fetchFault]
local grind_pattern State.fetchFault_memWf => s.fetchFault code va

theorem execInstructionFetchFault_memWf {s : State} (hw : s.memWf) :
    Out.memWf (execInstructionFetchFault s) := by grind [execInstructionFetchFault]
local grind_pattern execInstructionFetchFault_memWf => execInstructionFetchFault s

theorem State.search_memWf {s : State} (b : BenchId) (st : Stream) (p : Nat → Bool) (k : Nat) (pc : W64)
    (hw : s.memWf) : (s.search b st p k pc).1.memWf := by
  induction k generalizing s pc with
  | zero => exact hw
  | succ k ih => grind -lia [State.search]
local grind_pattern State.search_memWf => s.search b st p k pc

theorem State.modLoop_memWf {s : State} (n : Nat) (f : Loop → Loop) (hw : s.memWf) :
    (s.modLoop n f).memWf := by grind [State.modLoop]
local grind_pattern State.modLoop_memWf => s.modLoop n f

theorem State.findEndl_memWf {s : State} (n : Nat) (hw : s.memWf) : (s.findEndl n).1.memWf := by grind [State.findEndl]
local grind_pattern State.findEndl_memWf => s.findEndl n

theorem State.openLoop_memWf {s : State} (n : Nat) (count : W32) (hw : s.memWf) :
    (s.openLoop n count).memWf := by grind [State.openLoop]
local grind_pattern State.openLoop_memWf => s.openLoop n count

theorem State.closeLoop_memWf {s : State} (n : Nat) (hw : s.memWf) : (s.closeLoop n).memWf := by grind [State.closeLoop]
local grind_pattern State.closeLoop_memWf => s.closeLoop n

theorem State.loopWord_memWf {s : State} (h : Hdr) (o : LoopOp) (hw : s.memWf) :
    Out.memWf (s.loopWord h o) := by grind [State.loopWord]
local grind_pattern State.loopWord_memWf => s.loopWord h o

theorem State.endlWord_memWf {s : State} (h : Hdr) (lvl : BitVec 3) (hw : s.memWf) :
    Out.memWf (s.endlWord h lvl) := by grind [State.endlWord]
local grind_pattern State.endlWord_memWf => s.endlWord h lvl

theorem State.rdvWord_memWf {s : State} (h : Hdr) (hw : s.memWf) : Out.memWf (s.rdvWord h) := by grind [State.rdvWord]
local grind_pattern State.rdvWord_memWf => s.rdvWord h

theorem State.strideWord_memWf {s : State} (h : Hdr) (o : StrideSet) (hw : s.memWf) :
    Out.memWf (s.strideWord h o) := by grind [State.strideWord]
local grind_pattern State.strideWord_memWf => s.strideWord h o

theorem execAbandonLand_memWf {s : State} (hw : s.memWf) : (execAbandonLand s).memWf := by
  -- `searchFuel` as a variable bound in the proof term, so that nothing counts it down
  obtain ⟨fuel, hfuel⟩ : ∃ n, n = searchFuel := ⟨_, rfl⟩
  unfold execAbandonLand
  rw [← hfuel]
  clear hfuel
  grind -lia
local grind_pattern execAbandonLand_memWf => execAbandonLand s

/-! #### The load engine (LEng) -/

theorem postFault_memWf {s : State} (code : Byte) (va : W64) (acc : List Acc) (hw : s.memWf) :
    (postFault s code va acc).memWf := hw
local grind_pattern postFault_memWf => postFault s code va acc

theorem State.bound_memWf {s : State} (places : List (Nat × Nat)) (hw : s.memWf) :
    (s.bound places).memWf := by grind [State.bound]
local grind_pattern State.bound_memWf => s.bound places

theorem State.bind_memWf {s : State} (n : Nat) (ws : List W64) (count : Option W32) (base : W64) (hw : s.memWf) :
    (s.bind n ws count base).memWf := by
  unfold State.bind
  extract_lets ctl k dims dims'
  clear_value dims'
  split
  · exact hw
  · exact State.modHere_memWf _ hw fun hx => Bench.dropEngineAsks_memWf (Bench.modFeed_memWf _ _ hx)
local grind_pattern State.bind_memWf => s.bind n ws count base

theorem State.bindRead_memWf {s : State} (n : Nat) (ws more : List W64) (base : W64) (hw : s.memWf) :
    (s.bindRead n ws more base).memWf := by grind [State.bindRead]
local grind_pattern State.bindRead_memWf => s.bindRead n ws more base

theorem execFbind_memWf (h : Hdr) (o : LBind) {s : State} (hw : s.memWf) : Out.memWf (execFbind h o s) := by grind [execFbind]
local grind_pattern execFbind_memWf => execFbind h o s

theorem Bench.blockIn_memWf {x : Bench} (r : Run) (rm : BitVec 3) (f : Feed) (k : FBlock) (hw : x.memWf) :
    (x.blockIn r rm f k).memWf := by grind [Bench.blockIn]
local grind_pattern Bench.blockIn_memWf => x.blockIn r rm f k

theorem execFload_memWf (h : Hdr) (o : LLoad) {s : State} (hw : s.memWf) : Out.memWf (execFload h o s) := by grind [execFload]
local grind_pattern execFload_memWf => execFload h o s

theorem Bench.rowsIn_memWf {x : Bench} (r : Run) (rm : BitVec 3) (f : Feed) (is : List W32) (bs : List Byte) (hw : x.memWf) :
    (x.rowsIn r rm f is bs).memWf := by grind [Bench.rowsIn]
local grind_pattern Bench.rowsIn_memWf => x.rowsIn r rm f is bs

theorem State.gather_memWf {s : State} (n : Nat) (r : Run) (ix : Acc) (is : List W32) (hw : s.memWf) :
    (s.gather n r ix is).memWf := by grind [State.gather]
local grind_pattern State.gather_memWf => s.gather n r ix is

theorem execFgath_memWf (h : Hdr) (o : IdxMove) {s : State} (hw : s.memWf) : Out.memWf (execFgath h o s) := by grind [execFgath]
local grind_pattern execFgath_memWf => execFgath h o s

theorem execMovb_memWf (h : Hdr) (o : LMovb) {s : State} (hw : s.memWf) : Out.memWf (execMovb h o s) := by grind [execMovb]
local grind_pattern execMovb_memWf => execMovb h o s

theorem State.checkPieces_memWf {s : State} (b : BenchId) (ps : List (W64 × Nat)) (hw : s.memWf) :
    (s.checkPieces b ps).memWf := by
  induction ps generalizing s with
  | nil => exact hw
  | cons p ps ih => grind -lia [State.checkPieces]
local grind_pattern State.checkPieces_memWf => s.checkPieces b ps

theorem State.checkBlocks_memWf {s : State} (b : BenchId) (f : Feed) (k : Nat) (pos : List Nat) (hw : s.memWf) :
    (s.checkBlocks b f k pos).memWf := by
  induction k generalizing s pos with
  | zero => exact hw
  | succ k ih => grind -lia [State.checkBlocks]
local grind_pattern State.checkBlocks_memWf => s.checkBlocks b f k pos

theorem State.prefetchLines_memWf {s : State} (b : BenchId) (sc : Scope) (pri : BitVec 2) (ps : List Passed)
    (hw : s.memWf) : OptWf (s.prefetchLines b sc pri ps) := by
  induction ps generalizing s with
  | nil => exact hw
  | cons p ps ih => grind -lia [State.prefetchLines]
local grind_pattern State.prefetchLines_memWf => s.prefetchLines b sc pri ps

theorem State.prefetchBlocks_memWf {s : State} (b : BenchId) (f : Feed) (pri : BitVec 2) (k : Nat) (pos : List Nat)
    (hw : s.memWf) :
    (s.prefetchBlocks b f pri k pos).memWf := by
  grind [State.prefetchBlocks]
local grind_pattern State.prefetchBlocks_memWf => s.prefetchBlocks b f pri k pos

theorem State.prefetch_memWf {s : State} (o : LPref) (hw : s.memWf) : (s.prefetch o).memWf := by grind [State.prefetch]
local grind_pattern State.prefetch_memWf => s.prefetch o

theorem execFpref_memWf (h : Hdr) (o : LPref) {s : State} (hw : s.memWf) : Out.memWf (execFpref h o s) := by grind [execFpref]
local grind_pattern execFpref_memWf => execFpref h o s

theorem execBfset_memWf (h : Hdr) (o : LBfset) {s : State} (hw : s.memWf) : Out.memWf (execBfset h o s) := by grind [execBfset]
local grind_pattern execBfset_memWf => execBfset h o s

theorem execLset_memWf (h : Hdr) (o : StrideSet) {s : State} (hw : s.memWf) : Out.memWf (execLset h o s) := by grind [execLset]
local grind_pattern execLset_memWf => execLset h o s

theorem execLsetCvc_memWf (h : Hdr) (o : Cvc) {s : State} (hw : s.memWf) : Out.memWf (execLsetCvc h o s) := by grind [execLsetCvc]
local grind_pattern execLsetCvc_memWf => execLsetCvc h o s

theorem execLLoop_memWf (h : Hdr) (o : LoopOp) {s : State} (hw : s.memWf) : Out.memWf (execLLoop h o s) := by grind [execLLoop]
local grind_pattern execLLoop_memWf => execLLoop h o s

theorem execLEndl_memWf (h : Hdr) (lvl : BitVec 3) {s : State} (hw : s.memWf) :
    Out.memWf (execLEndl h lvl s) := by grind [execLEndl]
local grind_pattern execLEndl_memWf => execLEndl h lvl s

theorem execLRdv_memWf (h : Hdr) {s : State} (hw : s.memWf) : Out.memWf (execLRdv h s) := by grind [execLRdv]
local grind_pattern execLRdv_memWf => execLRdv h s

/-! #### The plane engine (Plane) -/

theorem State.modPlane_memWf {s : State} (f : Plane → Plane) (hw : s.memWf) : (s.modPlane f).memWf := by grind [State.modPlane]
local grind_pattern State.modPlane_memWf => s.modPlane f

theorem State.modRegs_memWf {s : State} (f : PRegs → PRegs) (hw : s.memWf) : (s.modRegs f).memWf := by grind [State.modRegs]
local grind_pattern State.modRegs_memWf => s.modRegs f

theorem State.crcWord_memWf {s : State} (w : W128) (hw : s.memWf) : (s.crcWord w).memWf := by grind [State.crcWord]
local grind_pattern State.crcWord_memWf => s.crcWord w

theorem State.startReplay_memWf {s : State} (hw : s.memWf) : (s.startReplay).memWf := by grind [State.startReplay]
local grind_pattern State.startReplay_memWf => s.startReplay

theorem State.tileEvent_memWf {s : State} (code : Byte) (found : BitVec 6) (hw : s.memWf) :
    (s.tileEvent code found).memWf := by grind [State.tileEvent]
local grind_pattern State.tileEvent_memWf => s.tileEvent code found

theorem State.mismatch_memWf {s : State} (found : BitVec 6) (acc : List Acc) (hw : s.memWf) :
    (s.mismatch found acc).memWf := by grind [State.mismatch]
local grind_pattern State.mismatch_memWf => s.mismatch found acc

theorem State.foundError_memWf {s : State} (found : BitVec 6) {r : Eff} (hw : s.memWf) (hr : r.memWf) :
    (s.foundError found r).memWf := by
  have hm (acc : List Acc) : (s.mismatch found acc).memWf := State.mismatch_memWf found acc hw
  cases r with
  | stay t more on acc =>
    cases on with
    | none => exact hm acc
    | some w => exact hr
  | post t code va eret acc => exact hm acc
  | done t acc pc => exact hm acc
  | _ => exact hr
local grind_pattern State.foundError_memWf => s.foundError found r

theorem State.logStorage_memWf {s : State} (hw : s.memWf) : (s.logStorage).memWf := by grind [State.logStorage]
local grind_pattern State.logStorage_memWf => s.logStorage

theorem foundOutside_memWf {r : Eff} (hr : r.memWf) : (foundOutside r).memWf := by
  cases r with
  | done t acc pc => exact fun u hu => State.logStorage_memWf hu
  | _ => exact hr
local grind_pattern foundOutside_memWf => foundOutside r

theorem State.pDone_memWf {s : State} (i : Instr) (cap : PCap) (wasOpen : Bool) (acc : List Acc) (hw : s.memWf) :
    (s.pDone i cap wasOpen acc).memWf := by
  unfold State.pDone
  extract_lets t u
  have ht : t.memWf := by
    unfold t
    split
    · exact State.crcWord_memWf _ hw
    · exact hw
  have hu : u.memWf := State.modPlane_memWf _ ht
  split
  · exact State.modPlane_memWf _ (State.record_memWf _ hu)
  · exact hu
local grind_pattern State.pDone_memWf => s.pDone i cap wasOpen acc

theorem State.skipWord_memWf {s : State} (hw : s.memWf) : (s.skipWord).memWf := by grind [State.skipWord]
local grind_pattern State.skipWord_memWf => s.skipWord

theorem State.reachWord_memWf {s : State} (h : Hdr) (hw : s.memWf) : (s.reachWord h).memWf := by grind [State.reachWord]
local grind_pattern State.reachWord_memWf => s.reachWord h

theorem State.pWord_memWf {s : State} (h : Hdr) (i : Instr) (place : Place) (ending loopWord : Bool) (nq : Nat)
    (body : PCap → State → List W64 → Eff) (hw : s.memWf) (hb : ∀ cap t es, t.memWf → (body cap t es).memWf) :
    Out.memWf (s.pWord h i place ending loopWord nq body) := by
  grind -lia [State.pWord]
local grind_pattern State.pWord_memWf => s.pWord h i place ending loopWord nq body

theorem State.stepping_memWf {s : State} (n : Nat) (acc : List Acc) (go : State → Eff) (hw : s.memWf)
    (hg : ∀ t, t.memWf → (go t).memWf) : (s.stepping n acc go).memWf := by
  grind -lia [State.stepping]
local grind_pattern State.stepping_memWf => s.stepping n acc go

theorem State.openTile_memWf {s : State} (g : W32) (chk : Bool) (hw : s.memWf) :
    (s.openTile g chk).memWf := by grind [State.openTile]
local grind_pattern State.openTile_memWf => s.openTile g chk

theorem bodyPtile_memWf (o : PTileOp) (x1 : PCap) {s : State} (hw : s.memWf) : (bodyPtile o x1 s).memWf := by grind [bodyPtile]
local grind_pattern bodyPtile_memWf => bodyPtile o x1 s

theorem execPtile_memWf (h : Hdr) (o : PTileOp) {s : State} (hw : s.memWf) : Out.memWf (execPtile h o s) := by grind [execPtile]
local grind_pattern execPtile_memWf => execPtile h o s

theorem Bench.landBand_memWf {x : Bench} (hi : Bool) (band : Band) (hw : x.memWf) : (x.landBand hi band).memWf := hw
local grind_pattern Bench.landBand_memWf => x.landBand hi band

theorem State.sendBand_memWf {s : State} (hi : Bool) (a2 : Option Band) (hw : s.memWf) :
    (s.sendBand hi a2).memWf := by
  simp only [State.sendBand]
  grind
local grind_pattern State.sendBand_memWf => s.sendBand hi a2

theorem State.commitTile_memWf {s : State} (hw : s.memWf) : (s.commitTile).memWf := by grind [State.commitTile]
local grind_pattern State.commitTile_memWf => s.commitTile

theorem execPcommit_memWf (h : Hdr) {s : State} (hw : s.memWf) : Out.memWf (execPcommit h s) := by grind [execPcommit]
local grind_pattern execPcommit_memWf => execPcommit h s

theorem State.reads_memWf {s : State} (bank : Nat) (parts : List (Nat × Nat)) (acc : List Acc) (r : Eff) (hw : s.memWf)
    (hr : r.memWf) : (s.reads bank parts acc r).memWf := by
  grind [State.reads]
local grind_pattern State.reads_memWf => s.reads bank parts acc r

theorem bodyPsheet_memWf (o : PSheetOp) (cap : PCap) {s : State} (hw : s.memWf) :
    (bodyPsheet o cap s).memWf := by grind [bodyPsheet]
local grind_pattern bodyPsheet_memWf => bodyPsheet o cap s

theorem execPsheet_memWf (h : Hdr) (o : PSheetOp) {s : State} (hw : s.memWf) :
    Out.memWf (execPsheet h o s) := by grind [execPsheet]
local grind_pattern execPsheet_memWf => execPsheet h o s

theorem bodyPwgt_memWf (o : PWgtOp) (cap : PCap) {s : State} (hw : s.memWf) : (bodyPwgt o cap s).memWf := by grind [bodyPwgt]
local grind_pattern bodyPwgt_memWf => bodyPwgt o cap s

theorem execPwgt_memWf (h : Hdr) (o : PWgtOp) {s : State} (hw : s.memWf) : Out.memWf (execPwgt h o s) := by grind [execPwgt]
local grind_pattern execPwgt_memWf => execPwgt h o s

theorem bodyPcorr_memWf (o : PCorrOp) (cap : PCap) {s : State} (hw : s.memWf) : (bodyPcorr o cap s).memWf := by grind [bodyPcorr]
local grind_pattern bodyPcorr_memWf => bodyPcorr o cap s

theorem execPcorr_memWf (h : Hdr) (o : PCorrOp) {s : State} (hw : s.memWf) : Out.memWf (execPcorr h o s) := by grind [execPcorr]
local grind_pattern execPcorr_memWf => execPcorr h o s

theorem bodyPmm_memWf (o : PMmOp) (cap : PCap) {s : State} (hw : s.memWf) : (bodyPmm o cap s).memWf := by grind [bodyPmm]
local grind_pattern bodyPmm_memWf => bodyPmm o cap s

theorem execPmm_memWf (h : Hdr) (o : PMmOp) {s : State} (hw : s.memWf) : Out.memWf (execPmm h o s) := by grind [execPmm]
local grind_pattern execPmm_memWf => execPmm h o s

theorem State.shiftTo_memWf {s : State} (sy sx : Int) (hw : s.memWf) : (s.shiftTo sy sx).memWf := by grind [State.shiftTo]
local grind_pattern State.shiftTo_memWf => s.shiftTo sy sx

theorem bodyPshift_memWf (sx sy : BitVec 4) (x2 : PCap) {s : State} (hw : s.memWf) :
    (bodyPshift sx sy x2 s).memWf := by grind [bodyPshift]
local grind_pattern bodyPshift_memWf => bodyPshift sx sy x2 s

theorem execPshift_memWf (h : Hdr) (sx sy : BitVec 4) {s : State} (hw : s.memWf) :
    Out.memWf (execPshift h sx sy s) := by grind [execPshift]
local grind_pattern execPshift_memWf => execPshift h sx sy s

theorem bodyPshiftRel_memWf (sx sy : BitVec 4) (x2 : PCap) {s : State} (hw : s.memWf) :
    (bodyPshiftRel sx sy x2 s).memWf := by grind [bodyPshiftRel]
local grind_pattern bodyPshiftRel_memWf => bodyPshiftRel sx sy x2 s

theorem execPshiftRel_memWf (h : Hdr) (sx sy : BitVec 4) {s : State} (hw : s.memWf) :
    Out.memWf (execPshiftRel h sx sy s) := by grind [execPshiftRel]
local grind_pattern execPshiftRel_memWf => execPshiftRel h sx sy s

theorem State.zeroLayers_memWf {s : State} (m : Byte) (hw : s.memWf) : (s.zeroLayers m).memWf := by grind [State.zeroLayers]
local grind_pattern State.zeroLayers_memWf => s.zeroLayers m

theorem bodyPzero_memWf (m : Byte) (x1 : PCap) {s : State} (hw : s.memWf) : (bodyPzero m x1 s).memWf := by grind [bodyPzero]
local grind_pattern bodyPzero_memWf => bodyPzero m x1 s

theorem execPzero_memWf (h : Hdr) (zmask : Byte) {s : State} (hw : s.memWf) :
    Out.memWf (execPzero h zmask s) := by grind [execPzero]
local grind_pattern execPzero_memWf => execPzero h zmask s

theorem State.reserve_memWf {s : State} (n : BenchId) (hi : Bool) (hw : s.memWf) :
    (s.reserve n hi).memWf := by grind [State.reserve]
local grind_pattern State.reserve_memWf => s.reserve n hi

theorem bodyPhsend_memWf (x0 : PCap) {s : State} (hw : s.memWf) : (bodyPhsend x0 s).memWf := by grind [bodyPhsend]
local grind_pattern bodyPhsend_memWf => bodyPhsend x0 s

theorem execPhsend_memWf (h : Hdr) {s : State} (hw : s.memWf) : Out.memWf (execPhsend h s) := by grind [execPhsend]
local grind_pattern execPhsend_memWf => execPhsend h s

theorem bodyPhrecv_memWf (cap : PCap) {s : State} (hw : s.memWf) : (bodyPhrecv cap s).memWf := by grind [bodyPhrecv]
local grind_pattern bodyPhrecv_memWf => bodyPhrecv cap s

theorem execPhrecv_memWf (h : Hdr) {s : State} (hw : s.memWf) : Out.memWf (execPhrecv h s) := by grind [execPhrecv]
local grind_pattern execPhrecv_memWf => execPhrecv h s

theorem bodyPdrain_memWf (o : PDrainOp) (cap : PCap) {s : State} (hw : s.memWf) :
    (bodyPdrain o cap s).memWf := by grind [bodyPdrain]
local grind_pattern bodyPdrain_memWf => bodyPdrain o cap s

theorem execPdrain_memWf (h : Hdr) (o : PDrainOp) {s : State} (hw : s.memWf) :
    Out.memWf (execPdrain h o s) := by grind [execPdrain]
local grind_pattern execPdrain_memWf => execPdrain h o s

theorem bodyPchk_memWf (m : Byte) (x1 : PCap) {s : State} (hw : s.memWf) : (bodyPchk m x1 s).memWf := by grind [bodyPchk]
local grind_pattern bodyPchk_memWf => bodyPchk m x1 s

theorem execPchk_memWf (h : Hdr) (zmask : Byte) {s : State} (hw : s.memWf) : Out.memWf (execPchk h zmask s) := by grind [execPchk]
local grind_pattern execPchk_memWf => execPchk h zmask s

theorem State.stage_memWf {s : State} (src b : BenchId) (k : Nat) (hw : s.memWf) : (s.stage src b k).memWf := hw
local grind_pattern State.stage_memWf => s.stage src b k

theorem execPfwd_memWf (h : Hdr) (o : PFwdOp) {s : State} (hw : s.memWf) : Out.memWf (execPfwd h o s) := by grind [execPfwd]
local grind_pattern execPfwd_memWf => execPfwd h o s

theorem execPfwdRx_memWf (h : Hdr) (o : PFwdOp) {s : State} (hw : s.memWf) :
    Out.memWf (execPfwdRx h o s) := by
  refine State.pWord_memWf _ _ _ _ _ _ _ hw fun cap t _ ht => ?_
  grind -lia
local grind_pattern execPfwdRx_memWf => execPfwdRx h o s

theorem execPmode_memWf (h : Hdr) (mode : BitVec 3) {s : State} (hw : s.memWf) :
    Out.memWf (execPmode h mode s) := by grind [execPmode]
local grind_pattern execPmode_memWf => execPmode h mode s

theorem bodyPseg_memWf (steps : BitVec 24) (sig : W32) (x2 : PCap) {s : State} (hw : s.memWf) :
    (bodyPseg steps sig x2 s).memWf := by grind [bodyPseg]
local grind_pattern bodyPseg_memWf => bodyPseg steps sig x2 s

theorem execPseg_memWf (h : Hdr) (steps : BitVec 24) (sig : W32) {s : State} (hw : s.memWf) :
    Out.memWf (execPseg h steps sig s) := by grind [execPseg]
local grind_pattern execPseg_memWf => execPseg h steps sig s

theorem execPloop_memWf (h : Hdr) (o : PLoopOp) {s : State} (hw : s.memWf) : Out.memWf (execPloop h o s) := by grind [execPloop]
local grind_pattern execPloop_memWf => execPloop h o s

theorem execPendl_memWf (h : Hdr) (lvl : BitVec 3) {s : State} (hw : s.memWf) :
    Out.memWf (execPendl h lvl s) := by grind [execPendl]
local grind_pattern execPendl_memWf => execPendl h lvl s

theorem execPRdv_memWf (h : Hdr) {s : State} (hw : s.memWf) : Out.memWf (execPRdv h s) := by grind [execPRdv]
local grind_pattern execPRdv_memWf => execPRdv h s

theorem tileBody_memWf (i : Instr) (cap : PCap) {s : State} (hw : s.memWf) :
    (tileBody i cap s).memWf := by
  simp only [tileBody]
  grind
local grind_pattern tileBody_memWf => tileBody i cap s

theorem State.reSkip_memWf {o : Option State} (w : W128) (hw : OptWf o) : OptWf (State.reSkip o w) := by
  cases o with
  | none => trivial
  | some s =>
    have hs : s.memWf := hw
    simp only [State.reSkip, Option.bind_some]
    grind
local grind_pattern State.reSkip_memWf => State.reSkip o w

theorem State.reSkips_memWf {o : Option State} (ws : List W128) (hw : OptWf o) : OptWf (ws.foldl State.reSkip o) :=
  List.foldlRecOn ws State.reSkip hw fun _ ho w _ => State.reSkip_memWf w ho
local grind_pattern State.reSkips_memWf => ws.foldl State.reSkip o

theorem State.replayNext_memWf {s : State} (k : Nat) (hw : s.memWf) : (s.replayNext k).memWf := by grind [State.replayNext]
local grind_pattern State.replayNext_memWf => s.replayNext k

theorem State.replayTurn_memWf {s : State} (k : Nat) (hw : s.memWf) : (s.replayTurn k).memWf := by
  have hat (w : WinItem) : { s with cur := { s.cur with word := w.word, pc := w.pc } }.memWf := hw
  unfold State.replayTurn
  extract_lets p at_
  split
  · grind -lia
  split
  · split
    · grind -lia
    · exact State.tileEvent_memWf _ _ hw
  · next w _ =>
    extract_lets t fresh
    split
    · exact State.tileEvent_memWf _ _ (hat w)
    · next u heq =>
      have hu : OptWf (some u) := by
        rw [← heq]
        split
        · exact State.reSkips_memWf _ (hat w)
        · exact hat w
      grind -lia
local grind_pattern State.replayTurn_memWf => s.replayTurn k

/-! #### ABANDON and the span link (PlaneEv) -/

theorem State.unreserve_memWf {s : State} (b : BenchId) (hw : s.memWf) : (s.unreserve b).memWf := by grind [State.unreserve]
local grind_pattern State.unreserve_memWf => s.unreserve b

theorem State.dropTile_memWf {s : State} (b : BenchId) (hw : s.memWf) : (s.dropTile b).memWf := by grind [State.dropTile]
local grind_pattern State.dropTile_memWf => s.dropTile b

theorem State.abandon_memWf {s : State} (b : BenchId) (st : Stream) (hw : s.memWf) :
    (s.abandon b st).memWf := by grind [State.abandon]
local grind_pattern State.abandon_memWf => s.abandon b st

theorem execAbandon_memWf (mask : BitVec 4) {s : State} (hw : s.memWf) : Out.memWf (execAbandon mask s) := by grind [execAbandon]
local grind_pattern execAbandon_memWf => execAbandon mask s

theorem execHaloBandArrival_memWf {s : State} (hw : s.memWf) : Out.memWf (execHaloBandArrival s) := by grind [execHaloBandArrival]
local grind_pattern execHaloBandArrival_memWf => execHaloBandArrival s

theorem State.resumeFwd_memWf {s : State} (b : BenchId) (hw : s.memWf) : Out.memWf (s.resumeFwd b) := by
  simp only [State.resumeFwd]
  split
  · next w _ _ _ =>
    have ht : { s with cur := { s.cur with bench := b, stream := .p, word := w, pc := (s.bench b).p.pc } }.memWf := hw
    split
    · exact execPfwd_memWf _ _ ht
    · exact execPfwdRx_memWf _ _ ht
    · exact hw
  · exact hw
local grind_pattern State.resumeFwd_memWf => s.resumeFwd b

theorem execForwardRegionComplete_memWf {s : State} (hw : s.memWf) :
    Out.memWf (execForwardRegionComplete s) := by grind [execForwardRegionComplete]
local grind_pattern execForwardRegionComplete_memWf => execForwardRegionComplete s

theorem execForwardAck_memWf {s : State} (hw : s.memWf) : Out.memWf (execForwardAck s) := by grind [execForwardAck]
local grind_pattern execForwardAck_memWf => execForwardAck s

theorem execForwardReceiptError_memWf {s : State} (hw : s.memWf) : Out.memWf (execForwardReceiptError s) := hw
local grind_pattern execForwardReceiptError_memWf => execForwardReceiptError s

theorem execPlaneStateStorageError_memWf {s : State} (hw : s.memWf) :
    Out.memWf (execPlaneStateStorageError s) := by grind [execPlaneStateStorageError]
local grind_pattern execPlaneStateStorageError_memWf => execPlaneStateStorageError s

theorem State.illegalWord_memWf {s : State} (w : Nat) (hw : s.memWf) : Out.memWf (s.illegalWord w) := by grind [State.illegalWord]
local grind_pattern State.illegalWord_memWf => s.illegalWord w

theorem execReservedOpcodeWord_memWf {s : State} (hw : s.memWf) :
    Out.memWf (execReservedOpcodeWord s) := by grind [execReservedOpcodeWord]
local grind_pattern execReservedOpcodeWord_memWf => execReservedOpcodeWord s

theorem Bench.qdead_memWf {x : Bench} (st : Stream) (w : Wait) (hw : x.memWf) : (x.qdead st w).memWf := by grind [Bench.qdead]
local grind_pattern Bench.qdead_memWf => x.qdead st w

theorem execQdead_memWf {s : State} (hw : s.memWf) : Out.memWf (execQdead s) := by grind [execQdead]
local grind_pattern execQdead_memWf => execQdead s

/-! #### What the instructions of V share (VEng) -/

theorem State.vIssue_memWf {s : State} (h : Hdr) (nq : Nat) (regs : List Nat) (body : State → List W64 → Eff)
    (hw : s.memWf) (hb : ∀ t es, t.memWf → (body t es).memWf) : Out.memWf (s.vIssue h nq regs body) := by
  grind [State.vIssue]
local grind_pattern State.vIssue_memWf => s.vIssue h nq regs body

theorem State.writeVr_memWf {s : State} (vd : Nat) (active : Mask) (fo : Bool) (new : VReg) (hw : s.memWf) :
    (s.writeVr vd active fo new).memWf := by grind [State.writeVr]
local grind_pattern State.writeVr_memWf => s.writeVr vd active fo new

theorem State.writeMask_memWf {s : State} (md : Nat) (active : Mask) (fo : Bool) (new : Mask) (hw : s.memWf) :
    (s.writeMask md active fo new).memWf := by grind [State.writeMask]
local grind_pattern State.writeMask_memWf => s.writeMask md active fo new

theorem State.popAll_memWf {s : State} (fs : List (Nat × BitVec 3)) (hw : s.memWf) : (s.popAll fs).memWf := by
  induction fs generalizing s with
  | nil => exact hw
  | cons f fs ih =>
    obtain ⟨n, t⟩ := f
    simp only [State.popAll]
    grind -lia
local grind_pattern State.popAll_memWf => s.popAll fs

theorem State.askBlocks_memWf {s : State} (fs : Vector Feed 16) (ns : List Nat) (hw : s.memWf) :
    (s.askBlocks fs ns).memWf := by
  induction ns generalizing s fs with
  | nil => exact hw
  | cons n ns ih => grind -lia [State.askBlocks]
local grind_pattern State.askBlocks_memWf => s.askBlocks fs ns

theorem Eff.withFeeds_memWf {e : Eff} (fs : List (Nat × BitVec 3)) (he : e.memWf) : (e.withFeeds fs).memWf := by
  cases e <;> exact he
local grind_pattern Eff.withFeeds_memWf => e.withFeeds fs

theorem State.vWord_memWf {s : State} (h : Hdr) (more : List Nat) (srcs : List (BitVec 6 × BitVec 3))
    (body : State → List VReg → Eff) (hw : s.memWf) (hb : ∀ t vs, t.memWf → (body t vs).memWf) :
    Out.memWf (s.vWord h more srcs body) := by
  refine State.vIssue_memWf _ _ _ _ hw fun t es ht => ?_
  have hp := State.popAll_memWf (feedOps srcs) ht
  grind -lia
local grind_pattern State.vWord_memWf => s.vWord h more srcs body

theorem State.vComp_memWf {s : State} (h : Hdr) (o : VOp) (srcs : List (BitVec 6 × BitVec 3))
    (f : RMode → List VReg → VReg → VReg) (hw : s.memWf) :
    Out.memWf (s.vComp h o srcs f) := by
  grind [State.vComp]
local grind_pattern State.vComp_memWf => s.vComp h o srcs f

theorem State.vCompOld_memWf {s : State} (h : Hdr) (o : VOp) (srcs : List (BitVec 6 × BitVec 3))
    (f : RMode → List VReg → VReg → VReg) (hw : s.memWf) :
    Out.memWf (s.vCompOld h o srcs f) := by
  grind [State.vCompOld]
local grind_pattern State.vCompOld_memWf => s.vCompOld h o srcs f

theorem State.vEl1_memWf {s : State} (h : Hdr) (o : VOp) (f : RMode → Nat → Nat) (hw : s.memWf) :
    Out.memWf (s.vEl1 h o f) := by grind [State.vEl1]
local grind_pattern State.vEl1_memWf => s.vEl1 h o f

theorem State.vEl2_memWf {s : State} (h : Hdr) (o : VOp) (f : RMode → Nat → Nat → Nat) (hw : s.memWf) :
    Out.memWf (s.vEl2 h o f) := by grind [State.vEl2]
local grind_pattern State.vEl2_memWf => s.vEl2 h o f

theorem State.vEl3_memWf {s : State} (h : Hdr) (o : VOp) (f : RMode → Nat → Nat → Nat → Nat) (hw : s.memWf) :
    Out.memWf (s.vEl3 h o f) := by grind [State.vEl3]
local grind_pattern State.vEl3_memWf => s.vEl3 h o f

theorem State.vLanes_memWf {s : State} (h : Hdr) (o : VOp) (f : VReg → VReg → Nat → W32) (hw : s.memWf) :
    Out.memWf (s.vLanes h o f) := by grind [State.vLanes]
local grind_pattern State.vLanes_memWf => s.vLanes h o f

/-! #### V's integer group (VInt) -/

theorem execVaddInt_memWf (h : Hdr) (o : VOp) {s : State} (hw : s.memWf) : Out.memWf (execVaddInt h o s) := by grind [execVaddInt]
local grind_pattern execVaddInt_memWf => execVaddInt h o s

theorem execVsubInt_memWf (h : Hdr) (o : VOp) {s : State} (hw : s.memWf) : Out.memWf (execVsubInt h o s) := by grind [execVsubInt]
local grind_pattern execVsubInt_memWf => execVsubInt h o s

theorem execVmulInt_memWf (h : Hdr) (o : VOp) {s : State} (hw : s.memWf) : Out.memWf (execVmulInt h o s) := by grind [execVmulInt]
local grind_pattern execVmulInt_memWf => execVmulInt h o s

theorem execVmulh_memWf (h : Hdr) (o : VOp) {s : State} (hw : s.memWf) : Out.memWf (execVmulh h o s) := by grind [execVmulh]
local grind_pattern execVmulh_memWf => execVmulh h o s

theorem execVmulhu_memWf (h : Hdr) (o : VOp) {s : State} (hw : s.memWf) : Out.memWf (execVmulhu h o s) := by grind [execVmulhu]
local grind_pattern execVmulhu_memWf => execVmulhu h o s

theorem execVadds_memWf (h : Hdr) (o : VOp) {s : State} (hw : s.memWf) : Out.memWf (execVadds h o s) := by grind [execVadds]
local grind_pattern execVadds_memWf => execVadds h o s

theorem execVsubs_memWf (h : Hdr) (o : VOp) {s : State} (hw : s.memWf) : Out.memWf (execVsubs h o s) := by grind [execVsubs]
local grind_pattern execVsubs_memWf => execVsubs h o s

theorem execVaddsu_memWf (h : Hdr) (o : VOp) {s : State} (hw : s.memWf) : Out.memWf (execVaddsu h o s) := by grind [execVaddsu]
local grind_pattern execVaddsu_memWf => execVaddsu h o s

theorem execVsubsu_memWf (h : Hdr) (o : VOp) {s : State} (hw : s.memWf) : Out.memWf (execVsubsu h o s) := by grind [execVsubsu]
local grind_pattern execVsubsu_memWf => execVsubsu h o s

theorem execVand_memWf (h : Hdr) (o : VOp) {s : State} (hw : s.memWf) : Out.memWf (execVand h o s) := by grind [execVand]
local grind_pattern execVand_memWf => execVand h o s

theorem execVor_memWf (h : Hdr) (o : VOp) {s : State} (hw : s.memWf) : Out.memWf (execVor h o s) := by grind [execVor]
local grind_pattern execVor_memWf => execVor h o s

theorem execVxor_memWf (h : Hdr) (o : VOp) {s : State} (hw : s.memWf) : Out.memWf (execVxor h o s) := by grind [execVxor]
local grind_pattern execVxor_memWf => execVxor h o s

theorem execVandn_memWf (h : Hdr) (o : VOp) {s : State} (hw : s.memWf) : Out.memWf (execVandn h o s) := by grind [execVandn]
local grind_pattern execVandn_memWf => execVandn h o s

theorem execVshl_memWf (h : Hdr) (o : VOp) {s : State} (hw : s.memWf) : Out.memWf (execVshl h o s) := by grind [execVshl]
local grind_pattern execVshl_memWf => execVshl h o s

theorem execVshr_memWf (h : Hdr) (o : VOp) {s : State} (hw : s.memWf) : Out.memWf (execVshr h o s) := by grind [execVshr]
local grind_pattern execVshr_memWf => execVshr h o s

theorem execVsar_memWf (h : Hdr) (o : VOp) {s : State} (hw : s.memWf) : Out.memWf (execVsar h o s) := by grind [execVsar]
local grind_pattern execVsar_memWf => execVsar h o s

theorem execVminInt_memWf (h : Hdr) (o : VOp) {s : State} (hw : s.memWf) : Out.memWf (execVminInt h o s) := by grind [execVminInt]
local grind_pattern execVminInt_memWf => execVminInt h o s

theorem execVmaxInt_memWf (h : Hdr) (o : VOp) {s : State} (hw : s.memWf) : Out.memWf (execVmaxInt h o s) := by grind [execVmaxInt]
local grind_pattern execVmaxInt_memWf => execVmaxInt h o s

theorem execVminu_memWf (h : Hdr) (o : VOp) {s : State} (hw : s.memWf) : Out.memWf (execVminu h o s) := by grind [execVminu]
local grind_pattern execVminu_memWf => execVminu h o s

theorem execVmaxu_memWf (h : Hdr) (o : VOp) {s : State} (hw : s.memWf) : Out.memWf (execVmaxu h o s) := by grind [execVmaxu]
local grind_pattern execVmaxu_memWf => execVmaxu h o s

theorem execVabsInt_memWf (h : Hdr) (o : VOp) {s : State} (hw : s.memWf) : Out.memWf (execVabsInt h o s) := by grind [execVabsInt]
local grind_pattern execVabsInt_memWf => execVabsInt h o s

theorem execVnegInt_memWf (h : Hdr) (o : VOp) {s : State} (hw : s.memWf) : Out.memWf (execVnegInt h o s) := by grind [execVnegInt]
local grind_pattern execVnegInt_memWf => execVnegInt h o s

theorem execVpopc_memWf (h : Hdr) (o : VOp) {s : State} (hw : s.memWf) : Out.memWf (execVpopc h o s) := by grind [execVpopc]
local grind_pattern execVpopc_memWf => execVpopc h o s

theorem execVclz_memWf (h : Hdr) (o : VOp) {s : State} (hw : s.memWf) : Out.memWf (execVclz h o s) := by grind [execVclz]
local grind_pattern execVclz_memWf => execVclz h o s

theorem execVmad_memWf (h : Hdr) (o : VOp) {s : State} (hw : s.memWf) : Out.memWf (execVmad h o s) := by grind [execVmad]
local grind_pattern execVmad_memWf => execVmad h o s

theorem execVdot_memWf (h : Hdr) (o : VOp) {s : State} (hw : s.memWf) : Out.memWf (execVdot h o s) := by grind [execVdot]
local grind_pattern execVdot_memWf => execVdot h o s

theorem State.vCmp_memWf {s : State} (h : Hdr) (c : VCmp) (p : Nat → Nat → Bool) (hw : s.memWf) :
    Out.memWf (s.vCmp h c p) := by grind [State.vCmp]
local grind_pattern State.vCmp_memWf => s.vCmp h c p

theorem execVcmpeq_memWf (h : Hdr) (o : VCmp) {s : State} (hw : s.memWf) : Out.memWf (execVcmpeq h o s) := by grind [execVcmpeq]
local grind_pattern execVcmpeq_memWf => execVcmpeq h o s

theorem execVcmpne_memWf (h : Hdr) (o : VCmp) {s : State} (hw : s.memWf) : Out.memWf (execVcmpne h o s) := by grind [execVcmpne]
local grind_pattern execVcmpne_memWf => execVcmpne h o s

theorem execVcmplt_memWf (h : Hdr) (o : VCmp) {s : State} (hw : s.memWf) : Out.memWf (execVcmplt h o s) := by grind [execVcmplt]
local grind_pattern execVcmplt_memWf => execVcmplt h o s

theorem execVcmple_memWf (h : Hdr) (o : VCmp) {s : State} (hw : s.memWf) : Out.memWf (execVcmple h o s) := by grind [execVcmple]
local grind_pattern execVcmple_memWf => execVcmple h o s

theorem execVcmpltu_memWf (h : Hdr) (o : VCmp) {s : State} (hw : s.memWf) :
    Out.memWf (execVcmpltu h o s) := by grind [execVcmpltu]
local grind_pattern execVcmpltu_memWf => execVcmpltu h o s

theorem execVcmpleu_memWf (h : Hdr) (o : VCmp) {s : State} (hw : s.memWf) :
    Out.memWf (execVcmpleu h o s) := by grind [execVcmpleu]
local grind_pattern execVcmpleu_memWf => execVcmpleu h o s

theorem execVcmpun_memWf (h : Hdr) (o : VCmp) {s : State} (hw : s.memWf) : Out.memWf (execVcmpun h o s) := by grind [execVcmpun]
local grind_pattern execVcmpun_memWf => execVcmpun h o s

theorem execVsel_memWf (h : Hdr) (o : VOp) {s : State} (hw : s.memWf) : Out.memWf (execVsel h o s) := by grind [execVsel]
local grind_pattern execVsel_memWf => execVsel h o s

theorem execVbsel_memWf (h : Hdr) (o : VOp) {s : State} (hw : s.memWf) : Out.memWf (execVbsel h o s) := by grind [execVbsel]
local grind_pattern execVbsel_memWf => execVbsel h o s

theorem execVmov_memWf (h : Hdr) (o : VOp) {s : State} (hw : s.memWf) : Out.memWf (execVmov h o s) := by grind [execVmov]
local grind_pattern execVmov_memWf => execVmov h o s

theorem execVbcst_memWf (h : Hdr) (o : VOp) {s : State} (hw : s.memWf) : Out.memWf (execVbcst h o s) := by grind [execVbcst]
local grind_pattern execVbcst_memWf => execVbcst h o s

theorem execVperm_memWf (h : Hdr) (o : VOp) {s : State} (hw : s.memWf) : Out.memWf (execVperm h o s) := by grind [execVperm]
local grind_pattern execVperm_memWf => execVperm h o s

theorem execVrot_memWf (h : Hdr) (o : VOp) {s : State} (hw : s.memWf) : Out.memWf (execVrot h o s) := by grind [execVrot]
local grind_pattern execVrot_memWf => execVrot h o s

theorem execVxch_memWf (h : Hdr) (o : VOp) {s : State} (hw : s.memWf) : Out.memWf (execVxch h o s) := by grind [execVxch]
local grind_pattern execVxch_memWf => execVxch h o s

theorem execVidx_memWf (h : Hdr) (o : VOp) {s : State} (hw : s.memWf) : Out.memWf (execVidx h o s) := by grind [execVidx]
local grind_pattern execVidx_memWf => execVidx h o s

theorem execVli_memWf (h : Hdr) (o : VLiOp) {s : State} (hw : s.memWf) : Out.memWf (execVli h o s) := by grind [execVli]
local grind_pattern execVli_memWf => execVli h o s

theorem execRndcV_memWf (h : Hdr) (o : VOp) {s : State} (hw : s.memWf) : Out.memWf (execRndcV h o s) := by grind [execRndcV]
local grind_pattern execRndcV_memWf => execRndcV h o s

theorem State.vMaskOp_memWf {s : State} (h : Hdr) (o : MOp) (f : Mask → Mask → Mask) (hw : s.memWf) :
    Out.memWf (s.vMaskOp h o f) := by grind [State.vMaskOp]
local grind_pattern State.vMaskOp_memWf => s.vMaskOp h o f

theorem execMand_memWf (h : Hdr) (o : MOp) {s : State} (hw : s.memWf) : Out.memWf (execMand h o s) := by grind [execMand]
local grind_pattern execMand_memWf => execMand h o s

theorem execMor_memWf (h : Hdr) (o : MOp) {s : State} (hw : s.memWf) : Out.memWf (execMor h o s) := by grind [execMor]
local grind_pattern execMor_memWf => execMor h o s

theorem execMxor_memWf (h : Hdr) (o : MOp) {s : State} (hw : s.memWf) : Out.memWf (execMxor h o s) := by grind [execMxor]
local grind_pattern execMxor_memWf => execMxor h o s

theorem execMandn_memWf (h : Hdr) (o : MOp) {s : State} (hw : s.memWf) : Out.memWf (execMandn h o s) := by grind [execMandn]
local grind_pattern execMandn_memWf => execMandn h o s

theorem execMnot_memWf (h : Hdr) (o : MOp) {s : State} (hw : s.memWf) : Out.memWf (execMnot h o s) := by grind [execMnot]
local grind_pattern execMnot_memWf => execMnot h o s

theorem execMset_memWf (h : Hdr) (o : MOp) {s : State} (hw : s.memWf) : Out.memWf (execMset h o s) := by grind [execMset]
local grind_pattern execMset_memWf => execMset h o s

theorem execMclr_memWf (h : Hdr) (o : MOp) {s : State} (hw : s.memWf) : Out.memWf (execMclr h o s) := by grind [execMclr]
local grind_pattern execMclr_memWf => execMclr h o s

theorem execVmode_memWf (h : Hdr) (mode : BitVec 3) {s : State} (hw : s.memWf) :
    Out.memWf (execVmode h mode s) := by grind [execVmode]
local grind_pattern execVmode_memWf => execVmode h mode s

theorem execVRdv_memWf (h : Hdr) {s : State} (hw : s.memWf) : Out.memWf (execVRdv h s) := by grind [execVRdv]
local grind_pattern execVRdv_memWf => execVRdv h s

theorem execVLoop_memWf (h : Hdr) (o : LoopOp) {s : State} (hw : s.memWf) : Out.memWf (execVLoop h o s) := by grind [execVLoop]
local grind_pattern execVLoop_memWf => execVLoop h o s

theorem execVEndl_memWf (h : Hdr) (lvl : BitVec 3) {s : State} (hw : s.memWf) :
    Out.memWf (execVEndl h lvl s) := by grind [execVEndl]
local grind_pattern execVEndl_memWf => execVEndl h lvl s

theorem execVlset_memWf (h : Hdr) (o : StrideSet) {s : State} (hw : s.memWf) : Out.memWf (execVlset h o s) := by grind [execVlset]
local grind_pattern execVlset_memWf => execVlset h o s

/-! #### V's float group (VFloat) -/

theorem State.vF2_memWf {s : State} (h : Hdr) (o : VOp) (f : RMode → Val → Val → Val) (hw : s.memWf) :
    Out.memWf (s.vF2 h o f) := by grind [State.vF2]
local grind_pattern State.vF2_memWf => s.vF2 h o f

theorem State.vF1_memWf {s : State} (h : Hdr) (o : VOp) (f : RMode → Val → Val) (hw : s.memWf) :
    Out.memWf (s.vF1 h o f) := by grind [State.vF1]
local grind_pattern State.vF1_memWf => s.vF1 h o f

theorem State.vF3_memWf {s : State} (h : Hdr) (o : VOp) (f : RMode → Val → Val → Val → Val) (hw : s.memWf) :
    Out.memWf (s.vF3 h o f) := by grind [State.vF3]
local grind_pattern State.vF3_memWf => s.vF3 h o f

theorem execVaddFloat_memWf (h : Hdr) (o : VOp) {s : State} (hw : s.memWf) :
    Out.memWf (execVaddFloat h o s) := by grind [execVaddFloat]
local grind_pattern execVaddFloat_memWf => execVaddFloat h o s

theorem execVsubFloat_memWf (h : Hdr) (o : VOp) {s : State} (hw : s.memWf) :
    Out.memWf (execVsubFloat h o s) := by grind [execVsubFloat]
local grind_pattern execVsubFloat_memWf => execVsubFloat h o s

theorem execVmulFloat_memWf (h : Hdr) (o : VOp) {s : State} (hw : s.memWf) :
    Out.memWf (execVmulFloat h o s) := by grind [execVmulFloat]
local grind_pattern execVmulFloat_memWf => execVmulFloat h o s

theorem execVdiv_memWf (h : Hdr) (o : VOp) {s : State} (hw : s.memWf) : Out.memWf (execVdiv h o s) := by grind [execVdiv]
local grind_pattern execVdiv_memWf => execVdiv h o s

theorem execVsqrt_memWf (h : Hdr) (o : VOp) {s : State} (hw : s.memWf) : Out.memWf (execVsqrt h o s) := by grind [execVsqrt]
local grind_pattern execVsqrt_memWf => execVsqrt h o s

theorem execVminFloat_memWf (h : Hdr) (o : VOp) {s : State} (hw : s.memWf) :
    Out.memWf (execVminFloat h o s) := by grind [execVminFloat]
local grind_pattern execVminFloat_memWf => execVminFloat h o s

theorem execVmaxFloat_memWf (h : Hdr) (o : VOp) {s : State} (hw : s.memWf) :
    Out.memWf (execVmaxFloat h o s) := by grind [execVmaxFloat]
local grind_pattern execVmaxFloat_memWf => execVmaxFloat h o s

theorem execVabsFloat_memWf (h : Hdr) (o : VOp) {s : State} (hw : s.memWf) :
    Out.memWf (execVabsFloat h o s) := by grind [execVabsFloat]
local grind_pattern execVabsFloat_memWf => execVabsFloat h o s

theorem execVnegFloat_memWf (h : Hdr) (o : VOp) {s : State} (hw : s.memWf) :
    Out.memWf (execVnegFloat h o s) := by grind [execVnegFloat]
local grind_pattern execVnegFloat_memWf => execVnegFloat h o s

theorem execVrint_memWf (h : Hdr) (o : VOp) {s : State} (hw : s.memWf) : Out.memWf (execVrint h o s) := by grind [execVrint]
local grind_pattern execVrint_memWf => execVrint h o s

theorem execVfma_memWf (h : Hdr) (o : VOp) {s : State} (hw : s.memWf) : Out.memWf (execVfma h o s) := by grind [execVfma]
local grind_pattern execVfma_memWf => execVfma h o s

theorem execVfms_memWf (h : Hdr) (o : VOp) {s : State} (hw : s.memWf) : Out.memWf (execVfms h o s) := by grind [execVfms]
local grind_pattern execVfms_memWf => execVfms h o s

theorem execVfnma_memWf (h : Hdr) (o : VOp) {s : State} (hw : s.memWf) : Out.memWf (execVfnma h o s) := by grind [execVfnma]
local grind_pattern execVfnma_memWf => execVfnma h o s

theorem execVcvt_memWf (h : Hdr) (o : VCvt) {s : State} (hw : s.memWf) : Out.memWf (execVcvt h o s) := by grind [execVcvt]
local grind_pattern execVcvt_memWf => execVcvt h o s

theorem execVcvtu_memWf (h : Hdr) (o : VCvt) {s : State} (hw : s.memWf) : Out.memWf (execVcvtu h o s) := by grind [execVcvtu]
local grind_pattern execVcvtu_memWf => execVcvtu h o s

theorem execVexp2_memWf (h : Hdr) (o : VOp) {s : State} (hw : s.memWf) : Out.memWf (execVexp2 h o s) := by grind [execVexp2]
local grind_pattern execVexp2_memWf => execVexp2 h o s

theorem execVlog2_memWf (h : Hdr) (o : VOp) {s : State} (hw : s.memWf) : Out.memWf (execVlog2 h o s) := by grind [execVlog2]
local grind_pattern execVlog2_memWf => execVlog2 h o s

theorem execVrcp_memWf (h : Hdr) (o : VOp) {s : State} (hw : s.memWf) : Out.memWf (execVrcp h o s) := by grind [execVrcp]
local grind_pattern execVrcp_memWf => execVrcp h o s

theorem execVrsq_memWf (h : Hdr) (o : VOp) {s : State} (hw : s.memWf) : Out.memWf (execVrsq h o s) := by grind [execVrsq]
local grind_pattern execVrsq_memWf => execVrsq h o s

theorem State.vReduce_memWf {s : State} (h : Hdr) (o : VOp) (fnode inode : W32 → W32 → W32) (fid iid : W32) (hw : s.memWf) :
    Out.memWf (s.vReduce h o fnode inode fid iid) := by grind [State.vReduce]
local grind_pattern State.vReduce_memWf => s.vReduce h o fnode inode fid iid

theorem execRsum_memWf (h : Hdr) (o : VOp) {s : State} (hw : s.memWf) : Out.memWf (execRsum h o s) := by grind [execRsum]
local grind_pattern execRsum_memWf => execRsum h o s

theorem execRmax_memWf (h : Hdr) (o : VOp) {s : State} (hw : s.memWf) : Out.memWf (execRmax h o s) := by grind [execRmax]
local grind_pattern execRmax_memWf => execRmax h o s

theorem execRmin_memWf (h : Hdr) (o : VOp) {s : State} (hw : s.memWf) : Out.memWf (execRmin h o s) := by grind [execRmin]
local grind_pattern execRmin_memWf => execRmin h o s

/-! #### V's memory accesses (VMem) -/

theorem Bench.writeWords_memWf {x : Bench} (bank : Nat) (ws : List (Nat × W32)) (hw : x.memWf) :
    (x.writeWords bank ws).memWf :=
  BanksWf_vmod _ _ hw fun _ hm => List.foldlRecOn (motive := fun m => Mem.wf m = true) ws _ hm
    fun _ hm' _ _ => Mem.wf_writeAll _ _ _ hm'
local grind_pattern Bench.writeWords_memWf => x.writeWords bank ws

theorem State.vBank_memWf {s : State} (bop : Bop) (fmtOk : BitVec 4 → Bool) (len : Nat) (body : Nat → Nat → Eff)
    (hb : ∀ m n, (body m n).memWf) : (s.vBank bop fmtOk len body).memWf := by
  grind -lia [State.vBank]
local grind_pattern State.vBank_memWf => s.vBank bop fmtOk len body

theorem execVld_memWf (h : Hdr) (o : VMem) {s : State} (hw : s.memWf) : Out.memWf (execVld h o s) := by grind [execVld]
local grind_pattern execVld_memWf => execVld h o s

theorem execVst_memWf (h : Hdr) (o : VMem) {s : State} (hw : s.memWf) : Out.memWf (execVst h o s) := by grind [execVst]
local grind_pattern execVst_memWf => execVst h o s

theorem State.vIndexed_memWf {s : State} (o : VIdx) (body : Nat → Int → Mask → List Nat → Eff)
    (hb : ∀ m n k l, (body m n k l).memWf) : (s.vIndexed o body).memWf := by
  grind -lia [State.vIndexed]
local grind_pattern State.vIndexed_memWf => s.vIndexed o body

theorem execVgath_memWf (h : Hdr) (o : VIdx) {s : State} (hw : s.memWf) : Out.memWf (execVgath h o s) := by grind [execVgath]
local grind_pattern execVgath_memWf => execVgath h o s

theorem execVscat_memWf (h : Hdr) (o : VIdx) {s : State} (hw : s.memWf) : Out.memWf (execVscat h o s) := by grind [execVscat]
local grind_pattern execVscat_memWf => execVscat h o s

theorem execPart_memWf (h : Hdr) (o : VPart) {s : State} (hw : s.memWf) : Out.memWf (execPart h o s) := by grind [execPart]
local grind_pattern execPart_memWf => execPart h o s

theorem State.checkLanes_memWf {s : State} (n : Nat) (ls : List (Nat × W64)) (hw : s.memWf) :
    (s.checkLanes n ls).1.memWf := by
  induction ls generalizing s with
  | nil => exact hw
  | cons l ls ih =>
    obtain ⟨i, va⟩ := l
    simp only [State.checkLanes]
    grind -lia
local grind_pattern State.checkLanes_memWf => s.checkLanes n ls

theorem Bench.laneIssue_memWf {x : Bench} (b : BenchId) (n : Nat) (kind : StKind) (sc : Scope) (rel : Bool) (w : W128)
    (k : Nat) (va : W64) (c : Except Byte Passed) (hw : x.memWf) :
    (x.laneIssue b n kind sc rel w k va c).memWf := by
  simp only [Bench.laneIssue]
  grind
local grind_pattern Bench.laneIssue_memWf => x.laneIssue b n kind sc rel w k va c

theorem State.vAtomic_memWf {s : State} (lanes : List (Nat × W64)) (n : Nat) (kind : Nat → StKind) (sc : Scope) (rel : Bool)
    (active : Mask) (out : Option (BitVec 5 × BitVec 3 × Bool)) (va : W64) (hw : s.memWf) :
    (s.vAtomic lanes n kind sc rel active out va).memWf := by
  simp only [State.vAtomic]
  grind
local grind_pattern State.vAtomic_memWf => s.vAtomic lanes n kind sc rel active out va

theorem execVatom_memWf (h : Hdr) (o : VAtm) {s : State} (hw : s.memWf) : Out.memWf (execVatom h o s) := by grind [execVatom]
local grind_pattern execVatom_memWf => execVatom h o s

theorem State.vSend_memWf {s : State} (sc : Scope) (rel : Bool) (va : W64) (n : Nat) (kind : StKind) (hw : s.memWf) :
    (s.vSend sc rel va n kind).memWf := by grind [State.vSend]
local grind_pattern State.vSend_memWf => s.vSend sc rel va n kind

theorem execRedm_memWf (h : Hdr) (o : VRedm) {s : State} (hw : s.memWf) : Out.memWf (execRedm h o s) := by grind [execRedm]
local grind_pattern execRedm_memWf => execRedm h o s

theorem execRedt_memWf (h : Hdr) (o : VRedt) {s : State} (hw : s.memWf) : Out.memWf (execRedt h o s) := by grind [execRedt]
local grind_pattern execRedt_memWf => execRedt h o s

/-! #### The store engine (SEng) -/

theorem State.placeBytes_memWf {s : State} (b : BenchId) (io : Bool) (va : W64) (vs : List Byte) (k : Nat)
    (tr : Option Leaf) (hw : s.memWf) : (s.placeBytes b io va vs k tr).memWf := by
  induction vs generalizing s k tr with
  | nil => exact hw
  | cons v vs ih => grind -lia [State.placeBytes]
local grind_pattern State.placeBytes_memWf => s.placeBytes b io va vs k tr

theorem State.placePieces_memWf {s : State} (b : BenchId) (io : Bool) (ps : List (W64 × Nat)) (vs : List Byte)
    (tr : Option Leaf) (hw : s.memWf) : (s.placePieces b io ps vs tr).memWf := by
  induction ps generalizing s vs tr with
  | nil => exact hw
  | cons p ps ih => grind -lia [State.placePieces]
local grind_pattern State.placePieces_memWf => s.placePieces b io ps vs tr

theorem State.queueStores_memWf {s : State} (f : Feed) (ls : List LineStore) (hw : s.memWf) :
    (s.queueStores f ls).memWf := by grind [State.queueStores]
local grind_pattern State.queueStores_memWf => s.queueStores f ls

theorem State.drainS_memWf {s : State} (hw : s.memWf) : (s.drainS).memWf := by grind [State.drainS]
local grind_pattern State.drainS_memWf => s.drainS

theorem execFstore_memWf (h : Hdr) (o : SStore) {s : State} (hw : s.memWf) : Out.memWf (execFstore h o s) := by grind [execFstore]
local grind_pattern execFstore_memWf => execFstore h o s

theorem State.placeRows_memWf {s : State} (b : BenchId) (f : Feed) (r : Run) (mode : BitVec 3) (x : Bench) (total : Nat)
    (is : List W32) (j : Nat) (hw : s.memWf) : (s.placeRows b f r mode x total is j).memWf := by
  induction is generalizing s j with
  | nil => exact hw
  | cons i is ih => grind -lia [State.placeRows]
local grind_pattern State.placeRows_memWf => s.placeRows b f r mode x total is j

theorem State.scatter_memWf {s : State} (n : Nat) (r : Run) (is : List W32) (ix : Acc) (hw : s.memWf) :
    (s.scatter n r is ix).memWf := by grind [State.scatter]
local grind_pattern State.scatter_memWf => s.scatter n r is ix

theorem execSscat_memWf (h : Hdr) (o : IdxMove) {s : State} (hw : s.memWf) : Out.memWf (execSscat h o s) := by grind [execSscat]
local grind_pattern execSscat_memWf => execSscat h o s

theorem State.requant_memWf {s : State} (src dst : Except Byte Run) (hw : s.memWf) :
    (s.requant src dst).memWf := by
  simp only [State.requant]
  grind
local grind_pattern State.requant_memWf => s.requant src dst

theorem execQstore_memWf (h : Hdr) (o : SQst) {s : State} (hw : s.memWf) : Out.memWf (execQstore h o s) := by grind [execQstore]
local grind_pattern execQstore_memWf => execQstore h o s

theorem execReq_memWf (h : Hdr) (o : SReq) {s : State} (hw : s.memWf) : Out.memWf (execReq h o s) := by grind [execReq]
local grind_pattern execReq_memWf => execReq h o s

theorem execGrain_memWf (h : Hdr) (o : SGrain) {s : State} (hw : s.memWf) : Out.memWf (execGrain h o s) := by grind [execGrain]
local grind_pattern execGrain_memWf => execGrain h o s

theorem execSmode_memWf (h : Hdr) (mode : BitVec 3) {s : State} (hw : s.memWf) :
    Out.memWf (execSmode h mode s) := by grind [execSmode]
local grind_pattern execSmode_memWf => execSmode h mode s

theorem execSlset_memWf (h : Hdr) (o : StrideSet) {s : State} (hw : s.memWf) : Out.memWf (execSlset h o s) := by grind [execSlset]
local grind_pattern execSlset_memWf => execSlset h o s

theorem execSlsetCvc_memWf (h : Hdr) (o : Cvc) {s : State} (hw : s.memWf) :
    Out.memWf (execSlsetCvc h o s) := by grind [execSlsetCvc]
local grind_pattern execSlsetCvc_memWf => execSlsetCvc h o s

theorem execSrel_memWf (h : Hdr) (scope : Scope) {s : State} (hw : s.memWf) :
    Out.memWf (execSrel h scope s) := by grind [execSrel]
local grind_pattern execSrel_memWf => execSrel h scope s

theorem execSLoop_memWf (h : Hdr) (o : LoopOp) {s : State} (hw : s.memWf) : Out.memWf (execSLoop h o s) := by grind [execSLoop]
local grind_pattern execSLoop_memWf => execSLoop h o s

theorem execSEndl_memWf (h : Hdr) (lvl : BitVec 3) {s : State} (hw : s.memWf) :
    Out.memWf (execSEndl h lvl s) := by grind [execSEndl]
local grind_pattern execSEndl_memWf => execSEndl h lvl s

theorem execSRdv_memWf (h : Hdr) {s : State} (hw : s.memWf) : Out.memWf (execSRdv h s) := by grind [execSRdv]
local grind_pattern execSRdv_memWf => execSRdv h s

/-! #### Turns (Turn) -/

theorem State.fetchTurn_memWf {s : State} (pc : W64) (held : Instr → Bool) (hw : s.memWf) :
    (s.fetchTurn pc held).1.memWf := by grind [State.fetchTurn]
local grind_pattern State.fetchTurn_memWf => s.fetchTurn pc held

theorem State.goOn_memWf {s : State} (pc : W64) (w : W128) (hw : s.memWf) : (s.goOn pc w).1.memWf := by grind [State.goOn]
local grind_pattern State.goOn_memWf => s.goOn pc w

theorem State.ownEvent_memWf {s : State} (i : Instr) (hw : s.memWf) : (s.ownEvent i).1.memWf := hw
local grind_pattern State.ownEvent_memWf => s.ownEvent i

theorem State.turnC_memWf {s : State} (hw : s.memWf) : (s.turnC).1.memWf := by grind [State.turnC]
local grind_pattern State.turnC_memWf => s.turnC

theorem State.turnAt_memWf {s : State} (e : Eng) (hw : s.memWf) : (s.turnAt e).1.memWf := by grind [State.turnAt]
local grind_pattern State.turnAt_memWf => s.turnAt e

theorem State.turnE_memWf {s : State} (hw : s.memWf) : (s.turnE).1.memWf := by grind [State.turnE]
local grind_pattern State.turnE_memWf => s.turnE

theorem State.turnOf_memWf {s : State} (b : BenchId) (st : Stream) (ctx : Fin 4) (late : Bool) (bring : Brought) (hw : s.memWf) :
    (s.turnOf b st ctx late bring).1.memWf := by grind [State.turnOf]
local grind_pattern State.turnOf_memWf => s.turnOf b st ctx late bring

theorem State.nextTurn_memWf {s : State} (hw : s.memWf) : (s.nextTurn).1.memWf := by grind [State.nextTurn]
local grind_pattern State.nextTurn_memWf => s.nextTurn

theorem State.refreshAll_memWf {s : State} (at_ : Nat) (hw : s.memWf) : (s.refreshAll at_).memWf := hw
local grind_pattern State.refreshAll_memWf => s.refreshAll at_

theorem State.advance_memWf {s : State} (dt : Nat) (hw : s.memWf) : (s.advance dt).memWf := by grind [State.advance]
local grind_pattern State.advance_memWf => s.advance dt

theorem State.turn_memWf {s : State} (hw : s.memWf) : (s.turn).1.memWf := by grind [State.turn]
local grind_pattern State.turn_memWf => s.turn

/-! #### The dispatcher (Disp) -/

theorem Bench.begin_memWf {x : Bench} (h : Hitch) (idx : Nat) (trap : W64) (decl : List Byte) (hw : x.memWf) :
    (x.begin h idx trap decl).memWf := by grind [Bench.begin]
local grind_pattern Bench.begin_memWf => x.begin h idx trap decl

theorem State.acquireTeam_memWf {s : State} (b : BenchId) (hw : s.memWf) : (s.acquireTeam b).memWf := by grind [State.acquireTeam]
local grind_pattern State.acquireTeam_memWf => s.acquireTeam b

theorem State.startTeams_memWf {s : State} (h : Hitch) (place : List (Option BenchId)) (hw : s.memWf) :
    (s.startTeams h place).memWf := by grind [State.startTeams]
local grind_pattern State.startTeams_memWf => s.startTeams h place

theorem Bench.turnOver_memWf {x : Bench} (now : Nat) (hw : x.memWf) : (x.turnOver now).memWf := hw
local grind_pattern Bench.turnOver_memWf => x.turnOver now

theorem Bench.restore_memWf {x : Bench} {y : Bench} (prio : BitVec 2) (now : Nat) (hw : x.memWf) (hwy : y.memWf) :
    (x.restore y prio now).memWf := by grind [Bench.restore]
local grind_pattern Bench.restore_memWf => x.restore y prio now

theorem State.restoreTeams_memWf {s : State} (h : Hitch) (place : List (Option BenchId)) (hw : s.memWf)
    (hh : h.savedWf) : (s.restoreTeams h place).memWf := by
  unfold State.restoreTeams
  extract_lets one t
  have ht : t.memWf := by
    refine List.foldlRecOn _ one hw fun u hu p hp => ?_
    obtain ⟨_ | b, _ | y⟩ := p
    · exact hu
    · exact hu
    · exact hu
    · have hy : y.memWf := hh y (List.of_mem_zip hp).2
      exact State.acquireTeam_memWf b (State.modBench_memWf b _ hu fun hx => Bench.restore_memWf _ _ hx hy)
  exact ht
local grind_pattern State.restoreTeams_memWf => s.restoreTeams h place

theorem State.placeHitch_memWf {s : State} (q : Nat) (h : Hitch) (place : List (Option BenchId)) (shape : List BenchId)
    (hw : s.memWf) (hh : h.savedWf) : (s.placeHitch q h place shape).memWf := by
  unfold State.placeHitch
  split
  · exact hw
  split
  · exact State.kill_memWf _ _ hw
  refine State.modHitch_memWf _ _ ?_ fun g hg x hx => by simp at hx
  grind
local grind_pattern State.placeHitch_memWf => s.placeHitch q h place shape

theorem State.saveTile_memWf {s : State} (b : BenchId) (hw : s.memWf) : (s.saveTile b).memWf := by grind [State.saveTile]
local grind_pattern State.saveTile_memWf => s.saveTile b

theorem orElse_memWf {s : State} {o : Out} (hw : s.memWf) (ho : o.memWf) : (orElse s o).memWf := by
  cases o with
  | next t => exact ho
  | _ => exact hw
local grind_pattern orElse_memWf => orElse s o

theorem State.finishForward_memWf {s : State} (f : Forward) (hw : s.memWf) :
    (s.finishForward f).memWf := by grind -lia [State.finishForward]
local grind_pattern State.finishForward_memWf => s.finishForward f

theorem State.settleBench_memWf {s : State} (b : BenchId) (hw : s.memWf) : (s.settleBench b).memWf := by grind [State.settleBench]
local grind_pattern State.settleBench_memWf => s.settleBench b

theorem Bench.toSave_memWf {x : Bench} (now : Nat) (hw : x.memWf) : (x.toSave now).memWf := by grind -lia [Bench.toSave]
local grind_pattern Bench.toSave_memWf => x.toSave now

theorem State.saveSlot_memWf {s : State} (ten : BitVec 6) (base : Nat) (hw : s.memWf) : (State.saveSlot ten s base).memWf := by
  unfold State.saveSlot
  extract_lets image t mine
  have ht : t.memWf := by grind
  exact WfParts_mapBenches _ (WfParts_writeAll _ _ ht) fun x hx => hx
local grind_pattern State.saveSlot_memWf => State.saveSlot ten s base

theorem Hitch.savedWf_map {place : List (Option BenchId)} (f : BenchId → Bench) (h : Hitch)
    (hsaved : h.saved = place.map fun p => p.map f) (hf : ∀ b, (f b).memWf) : h.savedWf := by
  intro x hx
  rw [hsaved] at hx
  simp only [List.mem_map, Option.map_eq_some_iff] at hx
  obtain ⟨_, -, b, -, rfl⟩ := hx
  exact hf b

theorem State.saveHitch_memWf {s : State} (h : Hitch) (hw : s.memWf) : (s.saveHitch h).memWf := by
  unfold State.saveHitch
  extract_lets bs area bases t saved fwds u
  split
  · exact State.kill_memWf _ _ hw
  have ht : t.memWf := by grind
  have hu : u.memWf := by grind
  exact State.modHitch_memWf _ _ hu fun g _ =>
    Hitch.savedWf_map _ _ rfl fun b => Bench.toSave_memWf _ (State.bench_memWf ht b)
local grind_pattern State.saveHitch_memWf => s.saveHitch h

theorem State.trySave_memWf {s : State} (seq : W64) (hw : s.memWf) : (s.trySave seq).memWf := by grind [State.trySave]
local grind_pattern State.trySave_memWf => s.trySave seq

theorem State.preempt_memWf {s : State} (h : Hitch) (hw : s.memWf) : (s.preempt h).memWf := by
  unfold State.preempt
  extract_lets area t u
  have ht : t.memWf := by grind
  have hu : u.memWf := State.modHitch_memWf _ _ ht fun g hg => hg
  grind
local grind_pattern State.preempt_memWf => s.preempt h

theorem firstWhere_mem {α : Type} {p : α → Bool} {l : List α} {x : α} (h : firstWhere p l = some x) : x ∈ l := by
  induction l with
  | nil => simp [firstWhere] at h
  | cons a l ih => grind [firstWhere]

/-! The launch that the dispatcher goes on with is one of the state's, so its saved teams are in the canonical form. -/

theorem State.hitch_savedWf {s : State} (hw : s.memWf) {q : W64} {h : Hitch} (hq : s.hitch q = some h) : h.savedWf :=
  hw.2.2 h (firstWhere_mem hq)

theorem State.firstEligible_savedWf {s : State} (hw : s.memWf) {l : List W64} {h : Hitch}
    (hl : s.firstEligible l = some h) : h.savedWf := by
  induction l with
  | nil => simp [State.firstEligible] at hl
  | cons q qs ih => grind [State.firstEligible, State.hitch_savedWf]

theorem State.pick_savedWf {s : State} (hw : s.memWf) {d : Fin 8} {l : List Nat} {q : Nat} {h : Hitch}
    (hl : State.choose.pick s d l = some (q, h)) : h.savedWf := by
  induction l with
  | nil => simp [State.choose.pick] at hl
  | cons q qs ih => grind [State.choose.pick, State.firstEligible_savedWf]

theorem State.candidate_savedWf {s : State} (hw : s.memWf) {d : Fin 8} {q : Nat} {h : Hitch}
    (hc : s.candidate d = some (q, h)) : h.savedWf := by
  have hchoose : ∀ p, s.choose d = some p → p.2.savedWf := fun p hp => State.pick_savedWf hw hp
  have hwait : ∀ l, firstWhere s.eligible ((s.die d).waiting.filterMap fun q => s.hitch q) = some l → l.savedWf := by
    intro l hl
    obtain ⟨q, -, hq⟩ := List.mem_filterMap.1 (firstWhere_mem hl)
    exact State.hitch_savedWf hw hq
  grind [State.candidate]

theorem execPreempt_memWf {s : State} (hw : s.memWf) : Out.memWf (execPreempt s) := by grind [execPreempt]
local grind_pattern execPreempt_memWf => execPreempt s

theorem execTilePreemptTimeout_memWf {s : State} (hw : s.memWf) :
    Out.memWf (execTilePreemptTimeout s) := by grind [execTilePreemptTimeout]
local grind_pattern execTilePreemptTimeout_memWf => execTilePreemptTimeout s

theorem State.makeRoom_memWf {s : State} (h : Hitch) (hw : s.memWf) : (s.makeRoom h).memWf := by grind [State.makeRoom]
local grind_pattern State.makeRoom_memWf => s.makeRoom h

theorem State.continueSaves_memWf {s : State} (d : Fin 8) (hw : s.memWf) :
    (s.continueSaves d).memWf := by grind [State.continueSaves]
local grind_pattern State.continueSaves_memWf => s.continueSaves d

theorem State.await_memWf {s : State} (d : Fin 8) (h : Hitch) (hw : s.memWf) : (s.await d h).memWf := by grind [State.await]
local grind_pattern State.await_memWf => s.await d h

theorem execDispatchDecision_memWf {s : State} (hw : s.memWf) :
    Out.memWf (execDispatchDecision s) := by grind [execDispatchDecision, State.candidate_savedWf]
local grind_pattern execDispatchDecision_memWf => execDispatchDecision s

theorem execResume_memWf {s : State} (hw : s.memWf) : Out.memWf (execResume s) := by grind [execResume, State.candidate_savedWf]
local grind_pattern execResume_memWf => execResume s

theorem execLaunchAgeing_memWf {s : State} (hw : s.memWf) : Out.memWf (execLaunchAgeing s) := by
  unfold execLaunchAgeing
  split
  · exact hw
  next h hq =>
  have hh := State.hitch_savedWf hw hq
  extract_lets waits h'
  split
  · exact State.enqueue_memWf _ _ _ (State.modHitch_memWf _ _ (State.unqueue_memWf _ hw) fun _ _ => hh)
  · exact hw
local grind_pattern execLaunchAgeing_memWf => execLaunchAgeing s

theorem execHitchKill_memWf {s : State} (hw : s.memWf) : Out.memWf (execHitchKill s) := by grind [execHitchKill]
local grind_pattern execHitchKill_memWf => execHitchKill s

/-! #### Events of the home side (HomeEv) -/

theorem execRdcFillRead_memWf {s : State} (hw : s.memWf) : Out.memWf (execRdcFillRead s) := by grind [execRdcFillRead]
local grind_pattern execRdcFillRead_memWf => execRdcFillRead s

theorem execEvictionNotice_memWf {s : State} (hw : s.memWf) : Out.memWf (execEvictionNotice s) := by grind [execEvictionNotice]
local grind_pattern execEvictionNotice_memWf => execEvictionNotice s

theorem execInvalidationAck_memWf {s : State} (hw : s.memWf) : Out.memWf (execInvalidationAck s) := by grind [execInvalidationAck]
local grind_pattern execInvalidationAck_memWf => execInvalidationAck s

theorem State.discardWrite_memWf {s : State} (h : BitVec 4) (pa : Nat) (hw : s.memWf) : (s.discardWrite h pa).memWf := hw
local grind_pattern State.discardWrite_memWf => s.discardWrite h pa

theorem execHostMemRead_memWf {s : State} (hw : s.memWf) : Out.memWf (execHostMemRead s) := by grind [execHostMemRead]
local grind_pattern execHostMemRead_memWf => execHostMemRead s

theorem execHostMemWrite_memWf {s : State} (hw : s.memWf) : Out.memWf (execHostMemWrite s) := by grind [execHostMemWrite]
local grind_pattern execHostMemWrite_memWf => execHostMemWrite s

theorem Bench.dropCopy_memWf {x : Bench} (ln : Nat) (hw : x.memWf) : (Bench.dropCopy ln x).memWf := hw
local grind_pattern Bench.dropCopy_memWf => Bench.dropCopy ln x

theorem Bench.dropL1_memWf {x : Bench} (ln : Nat) (hw : x.memWf) : (x.dropL1 ln).memWf := hw

theorem execHostSnoop_memWf {s : State} (hw : s.memWf) : Out.memWf (execHostSnoop s) := by
  unfold execHostSnoop
  extract_lets ln bs t u
  have ht : t.memWf := State.dropSharers_memWf ln hw
  have hu : u.memWf := WfParts_mapBenches _ (WfParts_writeAll _ _ ht) fun _ => Bench.dropL1_memWf ln
  split
  · exact hw
  · exact State.wakeLine_memWf ln hu
local grind_pattern execHostSnoop_memWf => execHostSnoop s

theorem execSramUncorrectableError_memWf {s : State} (hw : s.memWf) :
    Out.memWf (execSramUncorrectableError s) := by grind [execSramUncorrectableError]
local grind_pattern execSramUncorrectableError_memWf => execSramUncorrectableError s

theorem State.dropHome_memWf {s : State} (ln : Nat) (hw : s.memWf) : (s.dropHome ln).memWf := hw
local grind_pattern State.dropHome_memWf => s.dropHome ln

theorem execMemoryUncorrectableError_memWf {s : State} (hw : s.memWf) :
    Out.memWf (execMemoryUncorrectableError s) := by grind [execMemoryUncorrectableError]
local grind_pattern execMemoryUncorrectableError_memWf => execMemoryUncorrectableError s

theorem execDcExtentAdd_memWf {s : State} (hw : s.memWf) : Out.memWf (execDcExtentAdd s) := by grind [execDcExtentAdd]
local grind_pattern execDcExtentAdd_memWf => execDcExtentAdd s

theorem State.recallLine_memWf {s : State} (ln : Nat) (hw : s.memWf) : (s.recallLine ln).memWf := by grind [State.recallLine]
local grind_pattern State.recallLine_memWf => s.recallLine ln

theorem State.dropDirty_memWf (d : Fin 8) {s : State} (l : Backing) (hw : s.memWf) :
    (s.dropDirty d l).memWf := by grind [State.dropDirty]
local grind_pattern State.dropDirty_memWf => s.dropDirty d l

theorem execDcExtentRelease_memWf {s : State} (hw : s.memWf) :
    Out.memWf (execDcExtentRelease s) := by grind -lia [execDcExtentRelease]
local grind_pattern execDcExtentRelease_memWf => execDcExtentRelease s

theorem State.rest_memWf {s : State} (d : Fin 8) (c idle : Nat) (st : BitVec 2) (hw : s.memWf) :
    (s.rest d c idle st).memWf := by grind [State.rest]
local grind_pattern State.rest_memWf => s.rest d c idle st

theorem execChannelPowerDown_memWf {s : State} (hw : s.memWf) :
    Out.memWf (execChannelPowerDown s) := by grind [execChannelPowerDown]
local grind_pattern execChannelPowerDown_memWf => execChannelPowerDown s

theorem execChannelSelfRefresh_memWf {s : State} (hw : s.memWf) :
    Out.memWf (execChannelSelfRefresh s) := by grind [execChannelSelfRefresh]
local grind_pattern execChannelSelfRefresh_memWf => execChannelSelfRefresh s

theorem execHotRowThrottle_memWf {s : State} (hw : s.memWf) : Out.memWf (execHotRowThrottle s) := by grind [execHotRowThrottle]
local grind_pattern execHotRowThrottle_memWf => execHotRowThrottle s

theorem execHotRowThrottleEnd_memWf {s : State} (hw : s.memWf) : Out.memWf (execHotRowThrottleEnd s) := hw
local grind_pattern execHotRowThrottleEnd_memWf => execHotRowThrottleEnd s

theorem execTokenBucketGain_memWf {s : State} (hw : s.memWf) : Out.memWf (execTokenBucketGain s) := by grind [execTokenBucketGain]
local grind_pattern execTokenBucketGain_memWf => execTokenBucketGain s

/-! #### Events of the fabric (Fabric) -/

theorem State.respond_memWf {s : State} (p : Packet) (tag val : Nat) (po : BitVec 4) (hw : s.memWf) :
    OptWf (s.respond p tag val po) := by grind [State.respond]
local grind_pattern State.respond_memWf => s.respond p tag val po

theorem State.setInFlow_memWf {s : State} (f : InFlow) (hw : s.memWf) : (s.setInFlow f).memWf := hw
local grind_pattern State.setInFlow_memWf => s.setInFlow f

theorem State.notePending_memWf {s : State} (p : Packet) (ln : Nat) (hw : s.memWf) :
    (s.notePending p ln).memWf := by grind [State.notePending]
local grind_pattern State.notePending_memWf => s.notePending p ln

theorem State.remoteLoad_memWf {s : State} (p : Packet) (pa size tag : Nat) (hw : s.memWf) :
    OptWf (s.remoteLoad p pa size tag) := by grind [State.remoteLoad]
local grind_pattern State.remoteLoad_memWf => s.remoteLoad p pa size tag

theorem State.remoteStore_memWf {s : State} (p : Packet) (pa : Nat) (bs : List (Option Byte)) (hw : s.memWf) :
    OptWf (s.remoteStore p pa bs) := by grind [State.remoteStore]
local grind_pattern State.remoteStore_memWf => s.remoteStore p pa bs

theorem State.remoteAtomic_memWf {s : State} (p : Packet) (pa : Nat) (op : AtomOp) (size : Nat) (b ex : W128) (tag : Nat)
    (hw : s.memWf) :
    OptWf (s.remoteAtomic p pa op size b ex tag) := by
  grind [State.remoteAtomic]
local grind_pattern State.remoteAtomic_memWf => s.remoteAtomic p pa op size b ex tag

theorem State.remoteRedt_memWf {s : State} (p : Packet) (n : Node) (tag : Nat) (hw : s.memWf) :
    OptWf (s.remoteRedt p n tag) := by grind [State.remoteRedt]
local grind_pattern State.remoteRedt_memWf => s.remoteRedt p n tag

theorem State.remoteWake_memWf {s : State} (tag : Nat) (hw : s.memWf) : (s.remoteWake tag).memWf := by grind [State.remoteWake]
local grind_pattern State.remoteWake_memWf => s.remoteWake tag

theorem State.perform_memWf {s : State} (p : Packet) (hw : s.memWf) : OptWf (s.perform p) := by grind [State.perform]
local grind_pattern State.perform_memWf => s.perform p

theorem execFabricPacketAccept_memWf {s : State} (hw : s.memWf) :
    Out.memWf (execFabricPacketAccept s) := by grind [execFabricPacketAccept]
local grind_pattern execFabricPacketAccept_memWf => execFabricPacketAccept s

theorem State.flushWakes_memWf {s : State} (hw : s.memWf) : (s.flushWakes).memWf := by grind [State.flushWakes]
local grind_pattern State.flushWakes_memWf => s.flushWakes

theorem Bench.perf_memWf {x : Bench} (m : BitVec 14) (p : W32) (hw : x.memWf) : (x.perf m p).memWf := hw

theorem execFabricAckReceive_memWf {s : State} (hw : s.memWf) : Out.memWf (execFabricAckReceive s) := by
  grind -lia [execFabricAckReceive, Bench.perf_memWf]
local grind_pattern execFabricAckReceive_memWf => execFabricAckReceive s

theorem execRouterPacket_memWf {s : State} (hw : s.memWf) : Out.memWf (execRouterPacket s) := by grind [execRouterPacket]
local grind_pattern execRouterPacket_memWf => execRouterPacket s

theorem execRouteVersionInstall_memWf {s : State} (hw : s.memWf) :
    Out.memWf (execRouteVersionInstall s) := by grind [execRouteVersionInstall]
local grind_pattern execRouteVersionInstall_memWf => execRouteVersionInstall s

theorem execReplayTimeout_memWf {s : State} (hw : s.memWf) : Out.memWf (execReplayTimeout s) := hw
local grind_pattern execReplayTimeout_memWf => execReplayTimeout s

theorem State.loseBench_memWf {s : State} (m : BitVec 14) (b : BenchId) (hw : s.memWf) :
    (s.loseBench m b).memWf := by grind [State.loseBench]
local grind_pattern State.loseBench_memWf => s.loseBench m b

theorem State.loseWatches_memWf {s : State} (m : BitVec 14) (b : BenchId) (hw : s.memWf) :
    (s.loseWatches m b).memWf := by grind [State.loseWatches]
local grind_pattern State.loseWatches_memWf => s.loseWatches m b

theorem execModuleLost_memWf {s : State} (hw : s.memWf) : Out.memWf (execModuleLost s) := by
  -- the benches as a variable bound in the proof term, so that nothing runs the fold over them
  obtain ⟨bs, hbs⟩ : ∃ l, l = List.finRange 768 := ⟨_, rfl⟩
  unfold execModuleLost
  rw [← hbs]
  clear hbs
  grind -lia
local grind_pattern execModuleLost_memWf => execModuleLost s

theorem State.raiseLink_memWf {s : State} (l : Nat) (st : BitVec 2) (hw : s.memWf) :
    (s.raiseLink l st).memWf := by grind [State.raiseLink]
local grind_pattern State.raiseLink_memWf => s.raiseLink l st

theorem execLinkStateRise_memWf {s : State} (hw : s.memWf) : Out.memWf (execLinkStateRise s) := by grind [execLinkStateRise]
local grind_pattern execLinkStateRise_memWf => execLinkStateRise s

theorem execLinkDeath_memWf {s : State} (hw : s.memWf) : Out.memWf (execLinkDeath s) := by grind [execLinkDeath]
local grind_pattern execLinkDeath_memWf => execLinkDeath s

theorem execLinkRetrain_memWf {s : State} (hw : s.memWf) : Out.memWf (execLinkRetrain s) := hw
local grind_pattern execLinkRetrain_memWf => execLinkRetrain s

theorem execFabidAssign_memWf {s : State} (hw : s.memWf) : Out.memWf (execFabidAssign s) := by grind [execFabidAssign]
local grind_pattern execFabidAssign_memWf => execFabidAssign s

/-! #### Events of registers, hosts and bring-up (HostEv) -/

theorem State.setOwner_memWf {s : State} (h : Option (BitVec 4)) (hw : s.memWf) : (s.setOwner h).memWf := hw
local grind_pattern State.setOwner_memWf => s.setOwner h

theorem State.submitMail_memWf {s : State} (hw : s.memWf) : (s.submitMail).memWf := by grind [State.submitMail]
local grind_pattern State.submitMail_memWf => s.submitMail

theorem State.hostMail_memWf {s : State} (h : BitVec 4) (o : Nat) (val : W64) (hw : s.memWf) :
    (s.hostMail h o val).memWf := by grind [State.hostMail]
local grind_pattern State.hostMail_memWf => s.hostMail h o val

theorem State.hostRetn_memWf {s : State} (d : Fin 8) (n : Nat) (val : W64) (hw : s.memWf) :
    (s.hostRetn d n val).memWf := by grind [State.hostRetn]
local grind_pattern State.hostRetn_memWf => s.hostRetn d n val

theorem State.hostWrite_memWf {s : State} (h : BitVec 4) (pa : Nat) (val : W64) (hw : s.memWf) :
    (s.hostWrite h pa val).memWf := by grind [State.hostWrite]
local grind_pattern State.hostWrite_memWf => s.hostWrite h pa val

theorem execClaim_memWf {s : State} (hw : s.memWf) : Out.memWf (execClaim s) := by grind [execClaim]
local grind_pattern execClaim_memWf => execClaim s

theorem execOwnerHandover_memWf {s : State} (hw : s.memWf) : Out.memWf (execOwnerHandover s) := by grind [execOwnerHandover]
local grind_pattern execOwnerHandover_memWf => execOwnerHandover s

theorem execOwnerRelease_memWf {s : State} (hw : s.memWf) : Out.memWf (execOwnerRelease s) := by grind [execOwnerRelease]
local grind_pattern execOwnerRelease_memWf => execOwnerRelease s

theorem execOwnerLinkDown_memWf {s : State} (hw : s.memWf) : Out.memWf (execOwnerLinkDown s) := by grind [execOwnerLinkDown]
local grind_pattern execOwnerLinkDown_memWf => execOwnerLinkDown s

theorem execGo_memWf {s : State} (hw : s.memWf) : Out.memWf (execGo s) := by grind [execGo]
local grind_pattern execGo_memWf => execGo s

theorem execNonOwnerWriteDiscard_memWf {s : State} (hw : s.memWf) :
    Out.memWf (execNonOwnerWriteDiscard s) := by grind [execNonOwnerWriteDiscard]
local grind_pattern execNonOwnerWriteDiscard_memWf => execNonOwnerWriteDiscard s

theorem execRetnEnable_memWf {s : State} (hw : s.memWf) : Out.memWf (execRetnEnable s) := by grind [execRetnEnable]
local grind_pattern execRetnEnable_memWf => execRetnEnable s

theorem execRetnDisable_memWf {s : State} (hw : s.memWf) : Out.memWf (execRetnDisable s) := by grind [execRetnDisable]
local grind_pattern execRetnDisable_memWf => execRetnDisable s

theorem execFwinWrite_memWf {s : State} (hw : s.memWf) : Out.memWf (execFwinWrite s) := by grind [execFwinWrite]
local grind_pattern execFwinWrite_memWf => execFwinWrite s

theorem execDcapWrite_memWf {s : State} (hw : s.memWf) : Out.memWf (execDcapWrite s) := by grind [execDcapWrite]
local grind_pattern execDcapWrite_memWf => execDcapWrite s

theorem execRegisterWrite_memWf {s : State} (hw : s.memWf) : Out.memWf (execRegisterWrite s) := by grind [execRegisterWrite]
local grind_pattern execRegisterWrite_memWf => execRegisterWrite s

theorem execPowerCapControl_memWf {s : State} (hw : s.memWf) : Out.memWf (execPowerCapControl s) := by grind [execPowerCapControl]
local grind_pattern execPowerCapControl_memWf => execPowerCapControl s

theorem execTelemetryRefresh_memWf {s : State} (hw : s.memWf) :
    Out.memWf (execTelemetryRefresh s) := by grind [execTelemetryRefresh]
local grind_pattern execTelemetryRefresh_memWf => execTelemetryRefresh s

theorem execAttestationRequest_memWf {s : State} (hw : s.memWf) :
    Out.memWf (execAttestationRequest s) := by grind [execAttestationRequest]
local grind_pattern execAttestationRequest_memWf => execAttestationRequest s

theorem execAttestationReportDone_memWf {s : State} (hw : s.memWf) :
    Out.memWf (execAttestationReportDone s) := by grind [execAttestationReportDone]
local grind_pattern execAttestationReportDone_memWf => execAttestationReportDone s

theorem execBootStageVerify_memWf {s : State} (hw : s.memWf) : Out.memWf (execBootStageVerify s) := by grind [execBootStageVerify]
local grind_pattern execBootStageVerify_memWf => execBootStageVerify s

theorem execColdReset_memWf {s : State} (hw : s.memWf) : Out.memWf (execColdReset s) := by grind [execColdReset]
local grind_pattern execColdReset_memWf => execColdReset s

theorem execWarmReset_memWf {s : State} (hw : s.memWf) : Out.memWf (execWarmReset s) := by grind [execWarmReset]
local grind_pattern execWarmReset_memWf => execWarmReset s

/-! #### The step (Dispatch, Step) -/

/-- Every instruction and every event keeps the memories in the canonical form: the lemma of its function says so. -/
theorem exec_memWf (i : Instr) {s : State} (hw : s.memWf) : Out.memWf (exec i s) := by
  cases i <;> dsimp only [exec] <;> grind -lia

theorem step_memWf {s : State} (hw : s.memWf) : Out.memWf (step s) := by
  have ht : s.turn.1.memWf := State.turn_memWf hw
  unfold step
  split
  next t h =>
    rw [h] at ht
    exact ht
  next t i h =>
    rw [h] at ht
    exact exec_memWf i ht

/-- Settles O7: each turn and each instruction or event keeps the canonical form, by the lemmas of the functions that they are
made of. -/
theorem stepKeepsMemory : Obligations.StepKeepsMemory := by
  intro s t hw ht
  have h := step_memWf hw
  rw [ht] at h
  exact h

end Sys2Proof.Machine
end

