-- ==== Sys2Proof/Proofs/Access.lean ====
section
/-! What an access of a bench to memory leaves as it is, by one lemma for each function on its way, up to the checks of R131 and the fetch
of a word; and so do the gives and flags that an engine pushes. -/

namespace Sys2Proof.Machine

/-! ### What stays

An access that goes to home, and the pushing of what an engine has begun, change caches, counters, TLBs and queues of the engines, but
neither memory nor the turn, nor C or the team of any bench. -/

/-- The part of a bench that an access leaves as it is. -/
def Bench.standing (x : Bench) : CUnit × Option Team := (x.c, x.team)

/-- The part of a state that an access leaves as it is, by the fields that it depends on. -/
def standingOf (m : Mem) (c : Cur) (bs : Vector Bench 768) : Mem × Cur × (Fin 768 → CUnit × Option Team) :=
  (m, c, fun b => bs[b].standing)

/-- The part of a state that an access leaves as it is. -/
def State.standing (s : State) : Mem × Cur × (Fin 768 → CUnit × Option Team) := standingOf s.mem s.cur s.benches

theorem State.standing_def (s : State) : s.standing = standingOf s.mem s.cur s.benches := rfl
local grind_pattern State.standing_def => s.standing

theorem Bench.standing_def (x : Bench) : x.standing = (x.c, x.team) := rfl
local grind_pattern Bench.standing_def => x.standing

theorem State.standing_eq {s t : State} (h : t.standing = s.standing) :
    t.mem = s.mem ∧ t.cur = s.cur ∧ ∀ b, (t.bench b).c = (s.bench b).c ∧ (t.bench b).team = (s.bench b).team := by
  simp only [State.standing, standingOf, Bench.standing, Prod.mk.injEq, funext_iff] at h
  exact h

theorem State.standing_mem {s t : State} (h : t.standing = s.standing) : t.mem = s.mem := (State.standing_eq h).1

theorem State.standing_cur {s t : State} (h : t.standing = s.standing) : t.cur = s.cur := (State.standing_eq h).2.1

theorem State.standing_here {s t : State} (h : t.standing = s.standing) : t.here.c = s.here.c ∧ t.here.team = s.here.team := by
  obtain ⟨-, hcur, hbench⟩ := State.standing_eq h
  rw [State.here, State.here, hcur]
  exact hbench _

theorem State.modBench_standing (s : State) (b : BenchId) (f : Bench → Bench)
    (hf : (f (s.bench b)).standing = (s.bench b).standing) : (s.modBench b f).standing = s.standing := by
  have hbench (c : BenchId) : ((s.modBench b f).bench c).standing = (s.bench c).standing := by
    rw [State.bench_modBench]
    split
    · next h =>
      rw [h]
      exact hf
    · rfl
  exact congrArg (fun g => (s.mem, s.cur, g)) (funext hbench)
local grind_pattern State.modBench_standing => s.modBench b f

theorem State.modDie_standing (s : State) (d : Fin 8) (f : Die → Die) : (s.modDie d f).standing = s.standing := rfl
local grind_pattern State.modDie_standing => s.modDie d f

theorem Bench.modEng_standing (x : Bench) (st : Stream) (f : Eng → Eng) : (x.modEng st f).standing = x.standing := by
  cases st <;> rfl
local grind_pattern Bench.modEng_standing => x.modEng st f

theorem foldl_standing {α : Type} (s : State) (f : State → α → State) (l : List α)
    (hf : ∀ t a, (f t a).standing = t.standing) : (l.foldl f s).standing = s.standing := by
  induction l generalizing s with
  | nil => rfl
  | cons a l ih => rw [List.foldl_cons, ih, hf]
local grind_pattern foldl_standing => l.foldl f s

theorem foldl_benchStanding {α : Type} (x : Bench) (f : Bench → α → Bench) (l : List α)
    (hf : ∀ y a, (f y a).standing = y.standing) : (l.foldl f x).standing = x.standing := by
  induction l generalizing x with
  | nil => rfl
  | cons a l ih => rw [List.foldl_cons, ih, hf]
local grind_pattern foldl_benchStanding => l.foldl f x

theorem State.logErr_standing (s : State) (d : Fin 8) (sect kind ten : Nat) :
    (s.logErr d sect kind ten).standing = s.standing := by
  grind -lia [State.logErr]
local grind_pattern State.logErr_standing => s.logErr d sect kind ten

theorem State.portGain_standing (s : State) (d : Fin 8) (slice : Nat) :
    (s.portGain d slice).standing = s.standing := by
  grind -lia [State.portGain]
local grind_pattern State.portGain_standing => s.portGain d slice

theorem State.portRun_standing (s : State) (d : Fin 8) (slice n : Nat) :
    (s.portRun d slice n).standing = s.standing := by
  induction n generalizing s with
  | zero => grind -lia [State.portRun]
  | succ n ih => grind -lia [State.portRun]
local grind_pattern State.portRun_standing => s.portRun d slice n

theorem State.portTo_standing (s : State) (d : Fin 8) (slice : Nat) :
    (s.portTo d slice).standing = s.standing := by
  grind -lia [State.portTo]
local grind_pattern State.portTo_standing => s.portTo d slice

theorem State.touchChan_standing (s : State) (d : Fin 8) (pa : Nat) (ten : BitVec 6) :
    (s.touchChan d pa ten).standing = s.standing := by
  grind -lia [State.touchChan]
local grind_pattern State.touchChan_standing => s.touchChan d pa ten

theorem State.takeToken_standing (s : State) (d : Fin 8) (slice : Nat) (ten : BitVec 6) :
    (s.takeToken d slice ten).standing = s.standing := by
  grind -lia [State.takeToken]
local grind_pattern State.takeToken_standing => s.takeToken d slice ten

theorem State.writeBack_standing (s : State) (ln : Nat) :
    (s.writeBack ln).standing = s.standing := by
  grind -lia [State.writeBack]
local grind_pattern State.writeBack_standing => s.writeBack ln

theorem State.dropSharers_standing (s : State) (ln : Nat) :
    (s.dropSharers ln).standing = s.standing := by
  grind -lia [State.dropSharers]
local grind_pattern State.dropSharers_standing => s.dropSharers ln

theorem State.evictL2_standing (s : State) (v : L2Line) (ten : BitVec 6) :
    (s.evictL2 v ten).standing = s.standing := by
  grind -lia [State.evictL2]
local grind_pattern State.evictL2_standing => s.evictL2 v ten

theorem State.touchL2_standing (s : State) (pa : Nat) (leaf : Leaf) (pri : BitVec 2) (lru : Bool) (ten : BitVec 6) :
    (s.touchL2 pa leaf pri lru ten).standing = s.standing := by
  grind -lia [State.touchL2]
local grind_pattern State.touchL2_standing => s.touchL2 pa leaf pri lru ten

theorem State.passL2_standing (s : State) (pa : Nat) (leaf : Leaf) (ten : BitVec 6) :
    (s.passL2 pa leaf ten).standing = s.standing := by
  grind -lia [State.passL2]
local grind_pattern State.passL2_standing => s.passL2 pa leaf ten

theorem State.setDir_standing (s : State) (ln : Nat) (m : Option DirMode) :
    (s.setDir ln m).standing = s.standing := rfl
local grind_pattern State.setDir_standing => s.setDir ln m

theorem State.dirRead_standing (s : State) (a : BitVec 6) (ln : Nat) :
    (s.dirRead a ln).standing = s.standing := by
  grind -lia [State.dirRead]
local grind_pattern State.dirRead_standing => s.dirRead a ln

theorem State.dirAnswer_standing (s : State) (a : BitVec 6) (ln : Nat) (v : Bool) :
    (s.dirAnswer a ln v).standing = s.standing := by
  grind -lia [State.dirAnswer]
local grind_pattern State.dirAnswer_standing => s.dirAnswer a ln v

theorem State.noticeFrom_standing (s : State) (a : BitVec 6) (ln : Nat) :
    (s.noticeFrom a ln).standing = s.standing := by
  grind -lia [State.noticeFrom]
local grind_pattern State.noticeFrom_standing => s.noticeFrom a ln

theorem State.fillRdc_standing (s : State) (d : Fin 8) (n : CopyLine) (pri : BitVec 2) :
    (s.fillRdc d n pri).standing = s.standing := by
  grind -lia [State.fillRdc]
local grind_pattern State.fillRdc_standing => s.fillRdc d n pri

theorem State.fetchFor_standing {s : State} (d : Fin 8) (ten : BitVec 6) (leaf : Leaf) (pa : Nat) (sc : Scope) (pri : BitVec 2) (alloc : Bool) {r}
    (h : s.fetchFor d ten leaf pa sc pri alloc = some r) : r.1.standing = s.standing := by
  grind -lia [State.fetchFor]
local grind_pattern State.fetchFor_standing => s.fetchFor d ten leaf pa sc pri alloc, some r

theorem State.readPhys_standing {s : State} (d : Fin 8) (ten : BitVec 6) (pa n : Nat) {r}
    (h : s.readPhys d ten pa n = some r) : r.1.standing = s.standing := by
  grind -lia [State.readPhys]
local grind_pattern State.readPhys_standing => s.readPhys d ten pa n, some r

theorem State.walk_standing (s : State) (d : Fin 8) (owner : BitVec 6) (va lvl tbl : Nat) :
    (s.walk d owner va lvl tbl).1.standing = s.standing := by
  induction lvl generalizing s tbl with
  | zero => grind -lia [State.walk]
  | succ n ih => grind -lia [State.walk]
local grind_pattern State.walk_standing => s.walk d owner va lvl tbl

theorem State.walkTenant_standing (s : State) (d : Fin 8) (ten : BitVec 6) (ent : Option TenEntry) (va : Nat) :
    (s.walkTenant d ten ent va).1.standing = s.standing := by
  cases ent <;> grind -lia [State.walkTenant]
local grind_pattern State.walkTenant_standing => s.walkTenant d ten ent va

theorem State.translate_standing (s : State) (b : BenchId) (ten : BitVec 6) (va : Nat) :
    (s.translate b ten va).1.standing = s.standing := by
  grind -lia [State.translate]
local grind_pattern State.translate_standing => s.translate b ten va

theorem State.setLost_standing (s : State) (w : Nat) :
    (s.setLost w).standing = s.standing := by
  grind -lia [State.setLost]
local grind_pattern State.setLost_standing => s.setLost w

theorem State.checkPage_standing (s : State) (ten : BitVec 6) (va : Nat) (need : Need) (atomic io : Bool) (l : Leaf) :
    (s.checkPage ten va need atomic io l).1.standing = s.standing := by
  grind -lia [State.checkPage]
local grind_pattern State.checkPage_standing => s.checkPage ten va need atomic io l

theorem State.check_standing (s : State) (b : BenchId) (va n : Nat) (need : Need) (atomic io : Bool) :
    (s.check b va n need atomic io).1.standing = s.standing := by
  grind -lia [State.check]
local grind_pattern State.check_standing => s.check b va n need atomic io

theorem State.sendFlow_standing (s : State) (dmod : BitVec 14) (ch : BitVec 2) (ten : BitVec 6) (kind : Byte) (body : Body) :
    (s.sendFlow dmod ch ten kind body).1.standing = s.standing := by
  grind -lia [State.sendFlow]
local grind_pattern State.sendFlow_standing => s.sendFlow dmod ch ten kind body

theorem State.send_standing {s : State} (dmod : BitVec 14) (ten : BitVec 6) (kind : Byte) (body : Body) {r}
    (h : s.send dmod ten kind body = some r) : r.1.standing = s.standing := by
  unfold State.send at h
  grind -lia
local grind_pattern State.send_standing => s.send dmod ten kind body, some r

theorem State.takeResponse_standing (s : State) (tag : Nat) :
    (s.takeResponse tag).standing = s.standing := by
  grind -lia [State.takeResponse]
local grind_pattern State.takeResponse_standing => s.takeResponse tag

theorem State.setAsks_standing (s : State) (w : Asker) (l : List AskIn) :
    (s.setAsks w l).standing = s.standing := by
  cases w <;> grind -lia [State.setAsks]
local grind_pattern State.setAsks_standing => s.setAsks w l

theorem State.askTag_standing (s : State) (w : Asker) :
    (s.askTag w).1.standing = s.standing := by
  cases w <;> grind -lia [State.askTag]
local grind_pattern State.askTag_standing => s.askTag w

theorem State.addAsk_standing (s : State) (w : Asker) (p : Passed) (size tag : Nat) (val : Option (Nat × Byte)) :
    (s.addAsk w p size tag val).standing = s.standing := State.setAsks_standing _ _ _
local grind_pattern State.addAsk_standing => s.addAsk w p size tag val

theorem State.askRemote_standing (s : State) (w : Asker) (ten : BitVec 6) (p : Passed) (size : Nat) :
    (s.askRemote w ten p size).1.standing = s.standing := by
  grind -lia [State.askRemote]
local grind_pattern State.askRemote_standing => s.askRemote w ten p size

theorem State.fetch_standing (s : State) (b : BenchId) (st : Stream) (c : Fin 4) (va : W64) :
    (s.fetch b st c va).1.standing = s.standing := by
  grind -lia [State.fetch]
local grind_pattern State.fetch_standing => s.fetch b st c va

theorem State.fetchHere_standing (s : State) :
    (s.fetchHere).1.standing = s.standing := by
  grind -lia [State.fetchHere]
local grind_pattern State.fetchHere_standing => s.fetchHere

theorem Bench.leave_standing (x : Bench) (i mark : Nat) : (x.leave i mark).standing = x.standing := rfl
local grind_pattern Bench.leave_standing => x.leave i mark

theorem Bench.land_standing (x : Bench) (p : Nat → Stream → Bool) : (x.land p).standing = x.standing := by
  grind -lia [Bench.land]
local grind_pattern Bench.land_standing => x.land p

theorem Bench.landAtomic_standing (x : Bench) (a : VFly) (res : Nat → W32 × Bool) :
    (x.landAtomic a res).standing = x.standing := by
  grind -lia [Bench.landAtomic, Bench.failAtomic]
local grind_pattern Bench.landAtomic_standing => x.landAtomic a res

theorem State.takeLanes_standing (s : State) (b : BenchId) (a : VFly) : (s.takeLanes b a).standing = s.standing := by
  grind -lia [State.takeLanes]
local grind_pattern State.takeLanes_standing => s.takeLanes b a

theorem State.logLane_standing (s : State) (b : BenchId) (a : VFly) (l : Nat × Nat × Leaf) :
    (s.logLane b a l).standing = s.standing := by
  grind -lia [State.logLane, State.logPrep, State.logPrepOf]
local grind_pattern State.logLane_standing => s.logLane b a l

theorem State.landV_standing (s : State) (b : BenchId) (n : Nat) : (s.landV b n).standing = s.standing := by
  induction n generalizing s with
  | zero => rfl
  | succ n ih => grind -lia [State.landV]
local grind_pattern State.landV_standing => s.landV b n

theorem Bench.pushOne_standing {x y : Bench} {st : Stream} (h : x.pushOne st = some y) : y.standing = x.standing := by
  unfold Bench.pushOne Bench.pushFlags Bench.pushGive Bench.giveTokens at h
  grind -lia
local grind_pattern Bench.pushOne_standing => x.pushOne st, some y

theorem Bench.pushAll_standing (x : Bench) (st : Stream) (n : Nat) : (x.pushAll st n).standing = x.standing := by
  induction n generalizing x with
  | zero => rfl
  | succ n ih => grind -lia [Bench.pushAll]
local grind_pattern Bench.pushAll_standing => x.pushAll st n

theorem Bench.settle_standing (x : Bench) (st : Stream) : (x.settle st).standing = x.standing := by
  grind -lia [Bench.settle, Bench.dropRanges]
local grind_pattern Bench.settle_standing => x.settle st

theorem State.pushGives_standing (s : State) (b : BenchId) (st : Stream) : (s.pushGives b st).standing = s.standing := by
  grind -lia [State.pushGives]
local grind_pattern State.pushGives_standing => s.pushGives b st

end Sys2Proof.Machine
end

