-- ==== Sys2Proof/Proofs/StepRuns.lean ====
section
/-! O3: a step runs the word that the stream of the turn fetches. -/

namespace Sys2Proof.Machine

/-! ### The turn of a stream runs the word that it fetches -/

theorem step_of_turn {s u : State} {i : Instr} (h : s.turn = (u, some i)) : step s = exec i u := by
  rw [step, h]

theorem State.turn_of_stream {s : State} {t : Turn} {rest : List Turn} {b : BenchId} {st : Stream} {c : Fin 4}
    (hturns : s.turns = t :: rest) (hwho : t.who = .stream b st c) :
    s.turn = if st == .c then (s.atTurn t rest b st c).turnC else (s.atTurn t rest b st c).turnE := by
  simp only [State.turn, State.nextTurn, hturns, hwho]
  rfl

theorem State.fetchTurn_ok {s u : State} {pc : W64} {w : Nat} {i : Instr} {held : Instr → Bool}
    (hfetch : (s.atPc pc).fetchHere = (u, .ok w)) (hdec : decodeWord (s.cur.stream.word w) = .ok i) (hheld : held i = false) :
    s.fetchTurn pc held = (u.withWord w, some i) := by
  have hstanding : u.standing = (s.atPc pc).standing := by
    rw [← State.fetchHere_standing (s.atPc pc), hfetch]
  have hcur : u.cur = (s.atPc pc).cur := State.standing_cur hstanding
  have hstream : u.cur.stream = s.cur.stream := by rw [hcur, State.atPc]
  rw [← hstream] at hdec
  unfold State.fetchTurn
  unfold State.atPc at hfetch
  simp only [hfetch, hdec, hheld, Bool.false_eq_true, if_false]
  rfl

theorem State.goOn_ok {s : State} {pc : W64} {w : W128} {i : Instr} (hdec : decodeWord (s.cur.stream.word w.toNat) = .ok i) :
    s.goOn pc w = ({ s with cur := { s.cur with pc := pc, word := w } }, some i) := by
  simp only [State.goOn, hdec]

theorem State.turnC_idle {s s1 : State} (hs1 : s1 = s.modMyC fun m => { m with rr := m.rr.issue s.cur.ctx s.clk })
    (hchosen : s.here.chosen s.clk = some s.cur.ctx) (htakes : s1.here.takes = none) (hidle : s1.myCtx.phase = .idle) :
    s.turnC = s1.fetchTurn s1.myCtx.pc s1.holdsBack := by
  unfold State.turnC
  rw [if_neg (by simp [hchosen])]
  simp only [← hs1, htakes, hidle, Option.isSome_none, Bool.false_eq_true, if_false]

theorem Bench.flagWaits_of_no_flags {x : Bench} {st : Stream} (h : (x.eng st).flags = []) : x.flagWaits st = none := by
  rw [Bench.flagWaits, h]
  rfl

theorem State.turnE_turnAt {s s1 : State} (hs1 : s1 = s.pushGives s.cur.bench s.cur.stream) (hteam : s.here.team ≠ none)
    (hheld : s1.myEng.held = none) (hgives : s1.myEng.gives = []) (hflags : s1.myEng.flags = []) (hrdv : s1.myEng.rdv = false)
    (hgo : s1.mayGoOn s.cur.bench s.cur.stream = true) (hreplay : s.cur.stream = .p → s1.here.plane.replay = none) :
    s.turnE = s1.turnAt s1.myEng := by
  have hstanding : s1.standing = s.standing := hs1 ▸ State.pushGives_standing _ _ _
  have hcur : s1.cur = s.cur := State.standing_cur hstanding
  have hteam0 : s.here.team.isNone = false := Option.isNone_eq_false_iff.2 (Option.isSome_iff_ne_none.2 hteam)
  have hteam1 : s1.here.team.isNone = false := by rwa [(State.standing_here hstanding).2]
  have hflag : s1.here.flagWaits s.cur.stream = none :=
    Bench.flagWaits_of_no_flags (hcur ▸ hflags)
  unfold State.turnE
  simp only [← hs1, hteam0, hteam1, hheld, hgives, hrdv, hgo, hflag, List.take_nil, firstWhere, Option.isSome_none, Bool.or_self,
    Bool.not_true, Bool.false_eq_true, if_false]
  split
  · next k hk =>
    rw [if_neg]
    intro hp
    rw [hreplay (by simpa using hp)] at hk
    cases hk
  · rfl

/-- Settles O3: a turn of C ends in `fetchTurn`, a turn of an engine in `turnAt`, and both run the word of the stream. -/
theorem stepRuns : Obligations.StepRuns := by
  intro s u t rest b w i hturns
  constructor
  · intro c hwho s0 s1 hchosen htakes hidle hfetch hdec hheld
    have hturn : s.turn = s0.turnC := State.turn_of_stream hturns hwho
    refine step_of_turn (hturn.trans ?_)
    rw [State.turnC_idle (s1 := s1) rfl hchosen htakes hidle]
    exact State.fetchTurn_ok hfetch hdec hheld
  · intro st c hst hwho hteam s1 e hheld hgives hflags hrdv hgo hreplay
    have hturn : s.turn = (s.atTurn t rest b st c).turnE := by
      rw [State.turn_of_stream hturns hwho, if_neg (by simpa using hst)]
    have hturnAt : (s.atTurn t rest b st c).turnE = s1.turnAt e :=
      State.turnE_turnAt rfl hteam hheld hgives hflags hrdv hgo hreplay
    have hcur : s1.cur = (s.atTurn t rest b st c).cur := State.standing_cur (State.pushGives_standing _ _ _)
    have hstream : s1.cur.stream = st := congrArg Cur.stream hcur
    refine ⟨fun hissued habandon hfetch hdec => ?_, fun v k hissued hcap hdec => ?_⟩
    all_goals refine step_of_turn (hturn.trans (hturnAt.trans ?_))
    · rw [State.turnAt, hissued, habandon]
      exact State.fetchTurn_ok hfetch (hstream ▸ hdec) rfl
    · rw [State.turnAt, hissued, hcap]
      exact State.goOn_ok (hstream ▸ hdec)

end Sys2Proof.Machine
end

