-- ==== Sys2Proof/Proofs/LoadReads.lean ====
section
/-! O19: where the bytes of a load come from. -/

namespace Sys2Proof.Machine

/-! ### Bytes of numbers and of lines (R2, R11) -/

theorem leNat_lt (bs : List Byte) : leNat bs < 256 ^ bs.length := by
  induction bs with
  | nil => simp [leNat]
  | cons b bs ih =>
    have hb : b.toNat < 256 := b.isLt
    rw [leNat, List.length_cons, Nat.pow_succ]
    omega

theorem leNat_div_mod (bs : List Byte) (i : Nat) (h : i < bs.length) : leNat bs / 256 ^ i % 256 = (bs[i]).toNat := by
  induction bs generalizing i with
  | nil => simp at h
  | cons b bs ih =>
    have hb : b.toNat < 256 := b.isLt
    cases i with
    | zero =>
      simp only [leNat, Nat.pow_zero, Nat.div_one, List.getElem_cons_zero]
      omega
    | succ i =>
      rw [Nat.pow_succ', ← Nat.div_div_eq_div_mul, leNat, Nat.add_mul_div_left _ _ (by decide), Nat.div_eq_of_lt hb, Nat.zero_add,
        List.getElem_cons_succ]
      exact ih i (by simpa using h)

theorem lineByte_lineOf (bs : List Byte) (h : bs.length = 128) (i : Nat) (hi : i < 128) :
    lineByte (lineOf bs) i = bs[i] := by
  have hlt : leNat bs < 2 ^ 1024 := by
    have hlen := leNat_lt bs
    rw [h] at hlen
    exact hlen.trans_eq (Nat.pow_mul 2 8 128).symm
  apply BitVec.eq_of_toNat_eq
  rw [lineByte, lineOf, BitVec.extractLsb'_toNat, BitVec.toNat_ofNat, Nat.mod_eq_of_lt hlt, Nat.shiftRight_eq_div_pow, Nat.pow_mul]
  exact leNat_div_mod bs i (by omega)

theorem span_map_get (m : Mem) (a n : Nat) : (span a n).map (Mem.get m) = Mem.read m a n := by
  induction n generalizing a with
  | zero => rfl
  | succ n ih => rw [span, List.map_cons, ih, Mem.read]

theorem mem_span {x a n : Nat} (h : x ∈ span a n) : a ≤ x ∧ x < a + n := by
  induction n generalizing a with
  | zero => simp [span] at h
  | succ n ih =>
    rw [span, List.mem_cons] at h
    obtain rfl | h := h
    · omega
    · have := ih h
      omega

theorem lineByte_line (s : State) (a : Nat) : lineByte (s.line (a / 128)).1 (a % 128) = Mem.get s.mem a := by
  have hlt : a % 128 < 128 := Nat.mod_lt _ (by decide)
  rw [State.line, lineByte_lineOf _ (Mem.read_length _ _ _) _ hlt]
  apply Option.some.inj
  rw [← List.getElem?_eq_getElem, Mem.read_getElem? _ _ _ _ hlt, Nat.div_add_mod]

/-- R69: the bytes that a load takes out of the line that home holds are the bytes of memory. -/
theorem overlay_line (s : State) (pa n : Nat) (h : pa % 128 + n ≤ 128) :
    overlay (s.line (pa / 128)).1 pa n (fun _ => none) = Mem.read s.mem pa n := by
  rw [overlay, ← span_map_get]
  refine List.map_congr_left fun a ha => ?_
  obtain ⟨hlo, hhi⟩ := mem_span ha
  have hline : a / 128 = pa / 128 := by omega
  rw [← hline, Option.getD_none, lineByte_line]

theorem bindsPoison_line {s : State} (h : s.poison = []) (ln pa n : Nat) :
    bindsPoison (s.line ln).2 pa n (fun _ => none) = false := by
  have hzero : (s.line ln).2 = 0 := by
    rw [State.line, h]
    rfl
  rw [bindsPoison, hzero]
  simp

/-! ### A load that finds no copy (R69) -/

theorem State.portRun_trackers (s : State) (d : Fin 8) (slice n : Nat) : (s.portRun d slice n).trackers = s.trackers := by
  induction n generalizing s with
  | zero => rfl
  | succ n ih =>
    rw [State.portRun]
    split
    · rfl
    · rw [ih]
      rfl

theorem State.takeToken_trackers (s : State) (d : Fin 8) (slice : Nat) (ten : BitVec 6) :
    (s.takeToken d slice ten).trackers = s.trackers := by
  grind -lia [State.takeToken, State.portTo, State.portRun_trackers]

theorem State.evictL2_trackers (s : State) (v : L2Line) (ten : BitVec 6) : (s.evictL2 v ten).trackers = s.trackers := by
  grind -lia [State.evictL2, State.dropSharers, State.touchChan, State.writeBack]

theorem State.touchL2_trackers (s : State) (pa : Nat) (leaf : Leaf) (pri : BitVec 2) (lru : Bool) (ten : BitVec 6) :
    (s.touchL2 pa leaf pri lru ten).trackers = s.trackers := by
  grind -lia [State.touchL2, State.takeToken_trackers, State.evictL2_trackers, State.touchChan]

theorem State.passL2_trackers (s : State) (pa : Nat) (leaf : Leaf) (ten : BitVec 6) : (s.passL2 pa leaf ten).trackers = s.trackers := by
  grind -lia [State.passL2, State.takeToken_trackers, State.touchChan]

theorem State.pending_of_no_trackers {s : State} (h : s.trackers = []) (ln : Nat) : s.pending ln = false := by
  rw [State.pending, h]
  rfl

/-- A line that the die's RDC does not hold, and that no invalidation and no release holds up, is fetched as home holds it. -/
theorem State.fetchFor_line {s : State} {d : Fin 8} {pa : Nat} (hrdc : (s.die d).rdc = []) (htr : s.trackers = [])
    (hclose : s.closingRange pa = false) (ten : BitVec 6) (leaf : Leaf) (sc : Scope) (pri : BitVec 2) (alloc : Bool) :
    ∃ t, s.fetchFor d ten leaf pa sc pri alloc = some (t, s.line (pa / 128)) := by
  have hmo : s.pendingMo (pa / 128) = false := by
    rw [State.pendingMo, htr]
    rfl
  have htouch : (if alloc then s.touchL2 pa leaf pri false ten else s.passL2 pa leaf ten).trackers = [] := by
    split
    · rw [State.touchL2_trackers, htr]
    · rw [State.passL2_trackers, htr]
  simp only [State.fetchFor, hrdc, ite_self, firstWhere, hmo, State.pending_of_no_trackers htr, hclose,
    State.pending_of_no_trackers htouch, Bool.and_false, Bool.or_self, Bool.false_eq_true, if_false]
  split <;> split <;> exact ⟨_, rfl⟩

theorem State.oweRead_standing (s : State) (b : BenchId) (sc : Scope) (ln : Nat) : (s.oweRead b sc ln).standing = s.standing := by
  rw [State.oweRead]
  split
  · exact State.modBench_standing _ _ _ (foldl_benchStanding _ _ _ fun _ _ => rfl)
  · rfl

theorem State.loadLine_line {s : State} {b : BenchId} {q : Passed} (hl1 : (s.bench b).l1 = [])
    (hrdc : (s.die (dieOf b)).rdc = []) (htr : s.trackers = []) (hclose : s.closingRange q.pa = false) (sc : Scope) (pri : BitVec 2) :
    ∃ t, s.loadLine b q sc pri = some (t, s.line (q.pa / 128)) ∧ t.mem = s.mem := by
  obtain ⟨u, hu⟩ := State.fetchFor_line hrdc htr hclose (s.bench b).tenant q.leaf sc pri true
  simp only [State.loadLine, hl1, firstWhere, State.fetchLine, hu]
  refine ⟨_, rfl, ?_⟩
  rw [State.modBench_mem, State.standing_mem (State.oweRead_standing u b sc _), State.standing_mem (State.fetchFor_standing _ _ _ _ _ _ _ hu)]

theorem loadReadsMemory_claim : Sys2Proof.Claims.LoadReadsMemory := by
  intro s b q n sc pri d hreg hclose hl1 hrdc htr hpoison hline
  have hgot : ∀ direct : Bool, ∃ t, (if direct then s.fetchLine b q (scopeWiden sc q.leaf.scope) pri false
      else s.loadLine b q (scopeWiden sc q.leaf.scope) pri) = some (t, s.line (q.pa / 128)) ∧ t.mem = s.mem := by
    intro direct
    cases direct with
    | true =>
      obtain ⟨t, ht⟩ := State.fetchFor_line hrdc htr hclose (s.bench b).tenant q.leaf (scopeWiden sc q.leaf.scope) pri false
      exact ⟨t, ht, State.standing_mem (State.fetchFor_standing _ _ _ _ _ _ _ ht)⟩
    | false => exact State.loadLine_line hl1 hrdc htr hclose _ pri
  obtain ⟨t, ht, hmem⟩ := hgot (scopeWiden sc q.leaf.scope == .io || q.leaf.cache != 0)
  have hdev : (Region.mem d == Region.device) = false := rfl
  refine ⟨t, _, ?_, hmem, rfl⟩
  simp only [State.load, State.releasedRange, hreg, hdev, hclose, ht, bindsPoison_line hpoison, overlay_line s q.pa n hline,
    Bool.false_and, Bool.false_eq_true, if_false]

theorem loadForwards_claim : Sys2Proof.Claims.LoadForwards := by
  intro sb e c mark a v hctx hseq hkind hpa hbyte
  simp [forwardByte, List.foldl_append, hctx, hseq, hkind, hpa, hbyte]

/-- Settles O19: the line that the load fetches is the one that home holds, and the youngest store in the buffer is the last that the
fold over it meets. -/
theorem loadReadsMemory : Obligations.LoadReadsMemory := ⟨loadReadsMemory_claim, loadForwards_claim⟩

end Sys2Proof.Machine
end

