-- ==== Sys2Proof/Proofs/StoreWrites.lean ====
section
/-! O21: what a store writes, and its frame. -/

namespace Sys2Proof.Machine

/-! ### Memory under a store that performs (R63) -/

theorem foldl_mem {α : Type} (s : State) (f : State → α → State) (l : List α) (hf : ∀ t a, (f t a).mem = t.mem) :
    (l.foldl f s).mem = s.mem :=
  List.foldlRecOn (motive := fun t => t.mem = s.mem) l f rfl fun t ht a _ => (hf t a).trans ht

theorem State.sendWake_mem (s : State) (m : BitVec 14) (tag : Nat) : (s.sendWake m tag).mem = s.mem := by
  rw [State.sendWake]
  split <;> rfl

theorem State.wakeWatch_mem (s : State) (w : Watch) : (s.wakeWatch w).mem = s.mem := by
  rw [State.wakeWatch]
  split
  · rfl
  · exact State.sendWake_mem _ _ _

theorem State.wakeLine_mem (s : State) (ln : Nat) : (s.wakeLine ln).mem = s.mem := foldl_mem _ _ _ State.wakeWatch_mem

theorem State.makeDirty_mem (s : State) (ln : Nat) : (s.makeDirty ln).mem = s.mem := by
  rw [State.makeDirty]
  split <;> rfl

/-- The bytes that change at home are the bytes that memory holds from then on. -/
theorem State.writeHomeAs_mem (s : State) (die : Option (Fin 8)) (pa : Nat) (bs : List (Option Byte)) (clears : Nat → Bool)
    (direct : Bool) : (s.writeHomeAs die pa bs clears direct).mem = Mem.write s.mem pa bs := by
  unfold State.writeHomeAs
  extract_lets ln s1 s2 s3 patch s4
  have h1 : s1.mem = s.mem := by
    simp only [s1]
    split
    · rfl
    · split
      · exact State.makeDirty_mem _ _
      · rfl
  have h2 : s2.mem = Mem.write s.mem pa bs := by simp only [s2, h1]
  have h3 : s3.mem = s2.mem := foldl_mem _ _ _ fun t sec => by split <;> rfl
  have h4 : s4.mem = s3.mem := by cases die <;> rfl
  rw [State.wakeLine_mem, ← h2, ← h3, ← h4]
  rfl

theorem State.owe_mem (s : State) (b : BenchId) (e : StEntry) : (s.owe b e).mem = s.mem := by
  rw [State.owe]
  split <;> rfl

theorem State.dirStore_unshared {s : State} {ln : Nat} (h : s.sharers ln = []) (home : Nat × Nat) :
    s.dirStore ln home = some (s.setDir ln none) := by
  rw [State.dirStore, h]

/-- R136: a store to conventional memory of a line without copies performs, and memory holds its bytes. -/
theorem State.performStore_mem {s : State} {e : StEntry} {d : Fin 8} (hreg : s.region e.pa = .mem d) (hun : s.unshared e.pa)
    (b : BenchId) (clears : Nat → Bool) : ∃ t, s.performStore b e clears = some t ∧ t.mem = Mem.write s.mem e.pa e.bytes := by
  obtain ⟨hsh, hclose⟩ := hun
  have hdev : (Region.mem d == Region.device) = false := rfl
  simp only [State.performStore, State.releasedRange, hreg, hclose, hdev, State.dirStore_unshared hsh, Bool.and_false,
    Bool.false_eq_true, if_false]
  refine ⟨_, rfl, ?_⟩
  rw [State.modBench_mem, State.owe_mem, State.writeHomeAs_mem]
  congr 1
  split
  · exact State.standing_mem (State.touchL2_standing _ _ _ _ _ _)
  · exact State.standing_mem (State.passL2_standing _ _ _ _)

theorem State.retnCheck_mem (s : State) (d : Fin 8) (n : Nat) (ctl : W64) (ten : BitVec 6) :
    (s.retnCheck d n ctl ten).1.mem = s.mem := by
  unfold State.retnCheck
  extract_lets r va lines ways cnt others reservedSet
  have hwalk := State.standing_mem (State.walkTenant_standing s d ten (s.entOf d ten) va)
  split
  · rfl
  · split <;> next h => rw [h] at hwalk; exact hwalk

theorem State.devWalks_mem (s : State) (pa : Nat) (bs : List (Option Byte)) (ten : BitVec 6) : (s.devWalks pa bs ten).mem = s.mem := by
  rw [State.devWalks]
  split
  · exact foldl_mem _ _ _ fun _ _ => State.retnCheck_mem _ _ _ _ _
  · rfl

theorem State.stuck_mem (s : State) (b : BenchId) (q : Buf) : (s.stuck b q).mem = s.mem := by
  rw [State.stuck]
  split
  · split
    · exact State.devWalks_mem _ _ _ _
    · rfl
  · rfl

/-! ### A store alone in C's buffer (R66, R293) -/

/-- C's buffer holds one store to conventional memory, and nothing else is under way in the bench. -/
structure State.Alone (s : State) (b : BenchId) (e : StEntry) (d : Fin 8) : Prop where
  buffer : (s.bench b).c.sb = [e]
  loads : (s.bench b).c.loads = []
  fab : (s.bench b).fab = []
  orphans : (s.bench b).orphans = []
  kept : (s.bench b).gone .c e = false
  sent : ∀ y ∈ (s.bench b).sq, (s.bench b).gone .s y = false
  store : e.kind = .store
  norel : e.rel = false
  region : s.region e.pa = .mem d

theorem State.Alone.orphansOf {s : State} {b : BenchId} {e : StEntry} {d : Fin 8} (h : s.Alone b e d) (q : Buf) :
    (s.bench b).orphansOf q = [] := by
  rw [Bench.orphansOf, h.orphans]
  rfl

theorem State.Alone.headReady {s : State} {b : BenchId} {e : StEntry} {d : Fin 8} (h : s.Alone b e d) :
    s.headReady b .c e false = .yes := by
  have hleft : (s.bench b).leftStores = [] := by
    have hsq : (s.bench b).sq.filter ((s.bench b).gone .s) = [] := by
      rw [List.filter_eq_nil_iff]
      exact fun y hy => by simp [h.sent y hy]
    simp [Bench.leftStores, h.orphansOf, h.buffer, h.kept, hsq]
  simp [State.headReady, State.behind, State.awayFrom, hleft, h.loads, h.fab, h.norel]

/-- A store that may not merge leaves the buffer, and memory holds its bytes. -/
theorem State.Alone.performHead {s : State} {b : BenchId} {e : StEntry} {d : Fin 8} (h : s.Alone b e d)
    (hcomb : s.combines e = false) (hun : s.unshared e.pa) :
    ∃ t, s.performHead b .c false = some t ∧ t.mem = Mem.write s.mem e.pa e.bytes := by
  have horphan : s.performOrphan b .c = none := by rw [State.performOrphan, h.orphansOf]
  have hqueue : (s.bench b).queue .c = [e] := h.buffer
  have hgroup : s.performGroup b .c = none := by
    simp [State.performGroup, hqueue, State.merging_of_not_combines hcomb]
  let s' := s.modBench b fun x => x.setQueue .c []
  have hreg : s'.region e.pa = .mem d := h.region
  have hun' : s'.unshared e.pa := hun
  obtain ⟨t, ht, hmem⟩ := State.performStore_mem hreg hun' b (clearedBy [e])
  refine ⟨t, ?_, hmem⟩
  have hrun : s.performRun b .c false = some t := by
    simp only [State.performRun, hqueue, h.headReady, State.runNow_of_not_combines hcomb, h.norel, Bool.false_and,
      Bool.false_eq_true, if_false, List.length_nil, List.drop_nil, State.performEntry, h.store, List.foldl_nil]
    change (match s'.region e.pa with | .aperture _ => _ | _ => s'.performStore b e (clearedBy [e])) = some t
    rw [hreg]
    exact ht
  simp [State.performHead, horphan, hgroup, hrun]

theorem State.Alone.drainOn_mem {s : State} {b : BenchId} {e : StEntry} {d : Fin 8} (h : s.Alone b e d)
    (hcomb : s.combines e = false) (hun : s.unshared e.pa) : (s.drainOn b .c).mem = Mem.write s.mem e.pa e.bytes := by
  have hqueue : (s.bench b).queue .c = [e] := h.buffer
  have hlined : (s.bench b).lined .c = 1 := by simp [Bench.lined, h.orphansOf, hqueue]
  obtain ⟨t, ht, hmem⟩ := h.performHead hcomb hun
  rw [State.drainOn, hlined, State.stuck_mem, ← hmem]
  simp [State.drainFree, State.openRun_of_not_combines hqueue hcomb, ht]

/-- A store that may still merge stays. -/
theorem State.Alone.drainOn_open {s : State} {b : BenchId} {e : StEntry} {d : Fin 8} (h : s.Alone b e d)
    (hopen : s.openRun b .c = true) : s.drainOn b .c = s := by
  have hqueue : (s.bench b).queue .c = [e] := h.buffer
  have hlined : (s.bench b).lined .c = 1 := by simp [Bench.lined, h.orphansOf, hqueue]
  have hdev : (Region.mem d == Region.device) = false := rfl
  simp [State.drainOn, hlined, State.drainFree, hopen, State.stuck, hqueue, h.region, hdev]

/-! ### The store instructions (R136) -/

theorem exec_store {p : (CSt → Instr) × Nat} (hp : p ∈ stTable) (o : CSt) (s : State) : exec (p.1 o) s = s.storeC p.2 o := by
  simp only [stTable, List.mem_cons, List.not_mem_nil, or_false] at hp
  obtain rfl | rfl | rfl | rfl := hp <;> rfl

theorem State.storeC_ok {s s1 : State} {o : CSt} {base v : W64} {n : Nat} {q : Passed} (ha : s.gives 0 o.a base)
    (hb : s.gives 0 o.b v)
    (hcheck : s.check s.cur.bench (base + o.off.signExtend 64 * BitVec.ofNat 64 n).toNat n .write false (o.scope == .io) = (s1, .ok q)) :
    ∃ va, s.storeC n o = .next (s1.enterBuffer
      (s1.entry .store n va q ((leBytes n v.toNat).map some) o.scope false o.rel o.pri o.last)).doneC := by
  have hcheck' : s.check s.cur.bench (addrOf base o.off n).toNat n .write false (o.scope == .io) = (s1, .ok q) := hcheck
  refine ⟨addrOf base o.off n, ?_⟩
  simp only [State.storeC, State.withSrc_val ha, State.withSrc_val hb, hcheck']

theorem State.doneC_mem (s : State) : s.doneC.mem = s.mem := rfl

/-- The state in which C's buffer holds one entry more. -/
def State.buffered (s : State) (e : StEntry) : State := (s.modMyC fun u => { u with sb := u.sb ++ [e] }).count

theorem State.enterBuffer_late {s : State} (h : s.cur.late = true) (e : StEntry) : s.enterBuffer e = s.buffered e := by
  have hlate : (s.buffered e).cur.late = true := h
  rw [State.enterBuffer, ← State.buffered, hlate, Bool.true_or, if_pos rfl]

theorem State.enterBuffer_quiet {s : State} (hquiet : s.quiet) (hlate : s.cur.late = false) (e : StEntry) :
    s.enterBuffer e = (s.buffered e).drainOn s.cur.bench .c := by
  have hlate' : (s.buffered e).cur.late = false := hlate
  have hloads : (s.buffered e).here.c.loads = [] := by simpa [State.buffered, State.count] using hquiet.1
  rw [State.enterBuffer, ← State.buffered, hlate', Bench.unsure_of_no_loads hloads]
  rfl

theorem State.buffered_bench (s : State) (e : StEntry) :
    (s.buffered e).bench s.cur.bench = { s.here.modC (fun u => { u with sb := u.sb ++ [e] }) with seq := s.here.seq + 1 } := by
  simp [State.buffered, State.count, State.modMyC, State.here]

theorem State.buffered_here (s : State) (e : StEntry) :
    (s.buffered e).here = { s.here.modC (fun u => { u with sb := u.sb ++ [e] }) with seq := s.here.seq + 1 } :=
  State.buffered_bench s e

theorem State.buffered_myCtx (s : State) (e : StEntry) : (s.buffered e).myCtx = s.myCtx := by
  rw [State.myCtx, State.buffered_here]
  rfl

theorem State.buffered_alone {s : State} (hquiet : s.quiet) {e : StEntry} {d : Fin 8} (hseq : e.seq = s.here.seq)
    (hkind : e.kind = .store) (hrel : e.rel = false) (hreg : s.region e.pa = .mem d) : (s.buffered e).Alone s.cur.bench e d := by
  obtain ⟨hloads, hsb, hfab, horphans, hsq, hleft⟩ := hquiet
  have hkept : s.here.gone .c e = false := by
    have hctx : e.ctx.val < 8 := by omega
    have hle := hleft ⟨e.ctx.val, hctx⟩
    simp only [Fin.getElem_fin] at hle
    simp [Bench.gone, ownerQ, vget, hctx, hseq, hle]
  have hbench := State.buffered_bench s e
  exact {
    buffer := by
      rw [hbench]
      simp [hsb]
    loads := by rwa [hbench]
    fab := by rwa [hbench]
    orphans := by rwa [hbench]
    kept := by rwa [hbench]
    sent := by rwa [hbench]
    store := hkind
    norel := hrel
    region := hreg }

theorem State.combines_of_plain {s : State} {e : StEntry} (h : e.leaf.cache ≠ 1 ∨ e.scope = .io) : s.combines e = false := by
  simp only [State.combines, Bool.and_eq_false_iff, beq_eq_false_iff_ne, bne_eq_false_iff_eq]
  obtain hcache | hio := h
  · exact .inl (.inl (.inl (.inr hcache)))
  · exact .inl (.inl (.inr hio))

/-- Nothing has come that ends the merging of a store of a write-combining page, while the contexts go on (R293). -/
theorem State.Alone.openRun {s : State} {b : BenchId} {e : StEntry} {d : Fin 8} (h : s.Alone b e d) (hcache : e.leaf.cache = 1)
    (hio : e.scope ≠ .io) (hlive : ((s.bench b).ctx 0).live = true)
    (hwait : ∀ c, ((s.bench b).ctx c).live = true → ((s.bench b).ctx c).wait = none) (hteam : (s.bench b).team ≠ none)
    (hstop : (s.bench b).stopping = none) : s.openRun b .c = true := by
  have hqueue : (s.bench b).queue .c = [e] := h.buffer
  have hcomb : s.combines e = true := by simp [State.combines, h.store, hcache, hio, h.norel, h.region]
  have hmove : (s.bench b).c.ctxs.any (fun k => k.live && k.wait.isSome) = false := by
    rw [Vector.any_eq_false]
    intro c hc
    have hw := hwait ⟨c, hc⟩
    simp only [Bench.ctx, Fin.getElem_fin] at hw
    simpa using hw
  have hlive' : (s.bench b).c.ctxs[0].live = true := hlive
  simp [State.openRun, hqueue, hcomb, hmove, hlive', hstop, Option.isSome_iff_ne_none.2 hteam]

/-! ### The bytes of a store -/

theorem leBytes_getElem? (n x k : Nat) (h : k < n) : (leBytes n x)[k]? = some (BitVec.ofNat 8 (x / 256 ^ k)) := by
  induction n generalizing x k with
  | zero => omega
  | succ n ih =>
    cases k with
    | zero => simp [leBytes]
    | succ k =>
      rw [leBytes, List.getElem?_cons_succ, ih _ _ (by omega), Nat.div_div_eq_div_mul, Nat.pow_succ']

theorem leBytes_length (n x : Nat) : (leBytes n x).length = n := by
  induction n generalizing x with
  | zero => rfl
  | succ n ih => rw [leBytes, List.length_cons, ih]

theorem ofNat_div_eq_extractLsb' (v : W64) (k : Nat) : BitVec.ofNat 8 (v.toNat / 256 ^ k) = v.extractLsb' (8 * k) 8 := by
  apply BitVec.eq_of_toNat_eq
  rw [BitVec.extractLsb'_toNat, Nat.shiftRight_eq_div_pow, Nat.pow_mul, BitVec.toNat_ofNat]

/-- R136: after a write of the low bytes of a value they stand there, and every other byte is as it was. -/
theorem Mem.get_write_leBytes {m : Mem} (hwf : Mem.wf m = true) (a n : Nat) (v : W64) :
    (∀ k, k < n → Mem.get (Mem.write m a ((leBytes n v.toNat).map some)) (a + k) = v.extractLsb' (8 * k) 8) ∧
    ∀ b, b < a ∨ a + n ≤ b → Mem.get (Mem.write m a ((leBytes n v.toNat).map some)) b = Mem.get m b := by
  constructor
  · intro k hk
    rw [Mem.get_write _ _ _ _ hwf, if_pos (Nat.le_add_right a k), Nat.add_sub_cancel_left, List.getElem?_map,
      leBytes_getElem? _ _ _ hk, ← ofNat_div_eq_extractLsb']
    rfl
  · intro b hb
    refine Mem.get_write_outside _ _ _ _ hwf ?_
    rwa [List.length_map, leBytes_length]

/-! ### The two claims -/

theorem storeWritesMemory_claim : Sys2Proof.Claims.StoreWritesMemory := by
  intro p hp o s base v s1 q d ha hb hwf hcheck hreg hquiet hun hrel hlate
  obtain ⟨va, hstore⟩ := State.storeC_ok ha hb hcheck
  let e := s1.entry .store p.2 va q ((leBytes p.2 v.toNat).map some) o.scope false o.rel o.pri o.last
  have hexec : exec (p.1 o) s = .next ((s1.buffered e).drainOn s1.cur.bench .c).doneC := by
    rw [exec_store hp, hstore, State.enterBuffer_quiet hquiet hlate]
  have hmem : s1.mem = s.mem := by
    have hstanding := State.check_standing s s.cur.bench (base + o.off.signExtend 64 * BitVec.ofNat 64 p.2).toNat p.2 .write false (o.scope == .io)
    rw [hcheck] at hstanding
    exact State.standing_mem hstanding
  have halone : (s1.buffered e).Alone s1.cur.bench e d := State.buffered_alone hquiet rfl rfl hrel hreg
  constructor
  · intro hplain
    have hcomb : (s1.buffered e).combines e = false := State.combines_of_plain hplain
    have hmem' := halone.drainOn_mem hcomb hun
    have hbuf : (s1.buffered e).mem = s.mem := hmem
    rw [hbuf] at hmem'
    refine ⟨_, hexec, ?_⟩
    rw [State.doneC_mem, hmem']
    exact Mem.get_write_leBytes hwf q.pa p.2 v
  · intro hcache hio hlive hwait hteam hstop
    have hopen : (s1.buffered e).openRun s1.cur.bench .c = true := by
      refine halone.openRun hcache hio ?_ ?_ ?_ ?_ <;> rw [State.buffered_bench]
      · exact hlive
      · exact hwait
      · exact hteam
      · exact hstop
    refine ⟨_, e, hexec, ?_, rfl, rfl, ?_⟩ <;> rw [halone.drainOn_open hopen]
    · simp [State.doneC, Bench.modCtx, State.buffered_here, hquiet.2.1]
    · exact hmem

theorem storeFrame_claim : Sys2Proof.Claims.StoreFrame := by
  intro p hp o s base v s1 q ha hb hcheck hlate
  obtain ⟨va, hstore⟩ := State.storeC_ok ha hb hcheck
  let e := s1.entry .store p.2 va q ((leBytes p.2 v.toNat).map some) o.scope false o.rel o.pri o.last
  have hstanding : s1.standing = s.standing := by
    rw [← State.check_standing s s.cur.bench (base + o.off.signExtend 64 * BitVec.ofNat 64 p.2).toNat p.2 .write false (o.scope == .io),
      hcheck]
  have hc : s1.here.c = s.here.c := (State.standing_here hstanding).1
  have hcur : s1.cur = s.cur := State.standing_cur hstanding
  have hctx : s1.myCtx = s.myCtx := by rw [State.myCtx, State.myCtx, Bench.ctx, Bench.ctx, hc, hcur]
  have hpc : (s1.buffered e).nextPc = s.nextPc := congrArg (fun u : Cur => u.pc + BitVec.ofNat 64 (wordSize u.stream)) hcur
  have hmem : s1.mem = s.mem := State.standing_mem hstanding
  refine ⟨(s1.buffered e).doneC, e, ?_, ?_, rfl, rfl, congrArg Cur.ctx hcur, rfl, hmem, ?_, ?_, ?_, ?_, ?_⟩
  · rw [exec_store hp, hstore, State.enterBuffer_late hlate]
  · simp [State.doneC, Bench.modCtx, State.buffered_here, hc]
  · simp [State.doneC, Bench.modCtx, State.buffered_here, hc]
  · simp [State.doneC, Bench.modCtx, State.buffered_here, hc]
  · simp [State.doneC, Bench.modCtx, State.buffered_here, hc]
  · simp [State.doneC, State.buffered_myCtx, hctx]
  · simp [State.doneC, hpc]

/-- Settles O21: the entry that a store puts into an empty buffer performs as the only one of its bench, or waits there for others to
merge with it. -/
theorem storeWritesMemory : Obligations.StoreWritesMemory := ⟨storeWritesMemory_claim, storeFrame_claim⟩

end Sys2Proof.Machine
end

section
/-! SUPPORT. Tokens: what gives and takes do to the twenty FIFOs (R29, R31 to R33), and GIVE, TAKE and TJOIN (R153, R155). -/

namespace Sys2Proof.Machine

/-! ### Vectors -/

theorem vget_vmod {α : Type} {n : Nat} (v : Vector α n) (i k : Nat) (f : α → α) (d : α) (hk : k < n) :
    vget (vmod v i f) k d = if k = i then f (vget v k d) else vget v k d := by
  by_cases hi : i < n
  · by_cases h : k = i
    · subst h; simp [vget, vmod, hk]
    · simp [vget, vmod, hi, hk, h, Vector.getElem_set_ne, Ne.symm h]
  · have : k ≠ i := by omega
    simp [vmod, hi, this]

/-- Entries changed one after another, at places that are all different, are each changed once. -/
theorem vget_foldl_vmod {α β : Type} {n : Nat} (p : β → Nat) (f : α → α) (d : α) {k : Nat} (hk : k < n) (l : List β) :
    ∀ v : Vector α n, (l.map p).Nodup →
      vget (l.foldl (fun t r => vmod t (p r) f) v) k d = if k ∈ l.map p then f (vget v k d) else vget v k d := by
  induction l with
  | nil => intro v _; simp
  | cons r l ih =>
    intro v h
    obtain ⟨hr, hl⟩ := List.nodup_cons.1 h
    rw [List.foldl_cons, ih _ hl, vget_vmod _ _ _ _ _ hk, List.map_cons]
    by_cases hkr : k = p r
    · subst hkr; simp [hr]
    · simp [hkr]

/-! ### The twenty FIFOs (R29, R31) -/

theorem fifo_lt {x y : Stream} (h : x ≠ y) : fifo x y < 20 := by
  revert h; cases x <;> cases y <;> decide

/-- The FIFOs of a giver lie together. -/
theorem fifo_div {x y : Stream} (h : x ≠ y) : fifo x y / 4 = streamIdx x := by
  revert h; cases x <;> cases y <;> decide

theorem streamAt_streamIdx (x : Stream) : streamAt (streamIdx x) = x := by cases x <;> rfl

theorem fifo_right_inj {x y z : Stream} (hy : x ≠ y) (hz : x ≠ z) (h : fifo x y = fifo x z) : y = z := by
  revert hy hz h; cases x <;> cases y <;> cases z <;> decide

/-- Different pairs of streams have different FIFOs. -/
theorem fifo_inj {x y u w : Stream} (h : x ≠ y) (hu : u ≠ w) : fifo x y = fifo u w ↔ x = u ∧ y = w := by
  refine ⟨fun e => ?_, fun ⟨hx, hy⟩ => by rw [hx, hy]⟩
  have hx : x = u := by rw [← streamAt_streamIdx x, ← streamAt_streamIdx u, ← fifo_div h, ← fifo_div hu, e]
  subst hx
  exact ⟨rfl, fifo_right_inj h hu e⟩

theorem maskStreams_ne (me : Stream) (m : BitVec 4) : ∀ r ∈ maskStreams me m, r ≠ me := by
  cases me <;> revert m <;> decide

theorem maskStreams_nodup (me : Stream) (m : BitVec 4) : (maskStreams me m).Nodup := by
  cases me <;> revert m <;> decide

/-! ### Gives and takes (R29, R32, R33) -/

/-- The FIFOs to which a mask gives, and those from which it takes, are all different. -/
theorem maskStreams_fifo_nodup (me : Stream) (m : BitVec 4) :
    ((maskStreams me m).map fun r => fifo me r).Nodup ∧ ((maskStreams me m).map fun g => fifo g me).Nodup := by
  have hne := maskStreams_ne me m
  constructor <;> refine List.Nodup.map_on (fun a ha b hb h => ?_) (maskStreams_nodup me m)
  · exact ((fifo_inj (hne a ha).symm (hne b hb).symm).1 h).2
  · exact ((fifo_inj (hne a ha) (hne b hb)).1 h).1

/-- Giving raises by one the FIFOs from the giver to the streams of its mask, and no other. -/
theorem Bench.giveTokens_tokens (x : Bench) (me : Stream) {from_ to_ : Stream} (mask : BitVec 4) (acq : Scope) (h : from_ ≠ to_) :
    vget (x.giveTokens me (maskStreams me mask) acq).tokens (fifo from_ to_) 0 =
      vget x.tokens (fifo from_ to_) 0 + (if from_ = me ∧ to_ ∈ maskStreams me mask then 1 else 0) := by
  have hmem : fifo from_ to_ ∈ (maskStreams me mask).map (fun r => fifo me r) ↔ from_ = me ∧ to_ ∈ maskStreams me mask := by
    rw [List.mem_map]
    constructor
    · rintro ⟨r, hr, e⟩
      obtain ⟨rfl, rfl⟩ := (fifo_inj (maskStreams_ne me mask r hr).symm h).1 e
      exact ⟨rfl, hr⟩
    · rintro ⟨rfl, hr⟩
      exact ⟨to_, hr, rfl⟩
  show vget ((maskStreams me mask).foldl _ x.tokens) _ 0 = _
  rw [vget_foldl_vmod _ _ _ (fifo_lt h) _ _ (maskStreams_fifo_nodup me mask).1]
  simp only [hmem]
  split <;> rfl

/-- A field that each step of a fold leaves alone is as it was after it. -/
theorem foldl_keeps {α β γ : Type} (g : β → γ) (f : β → α → β) (h : ∀ y a, g (f y a) = g y) (l : List α) (y : β) :
    g (l.foldl f y) = g y := by
  induction l generalizing y with
  | nil => rfl
  | cons a l ih => rw [List.foldl_cons, ih, h]

theorem Bench.acquire_tokens (x : Bench) (sc : Scope) : (x.acquire sc).tokens = x.tokens := by
  have h : ((scopeAcquires sc).foldl Bench.bumpClass x).tokens = x.tokens := foldl_keeps Bench.tokens Bench.bumpClass (fun _ _ => rfl) _ _
  simp only [Bench.acquire]
  split <;> exact h

theorem Bench.takeV_tokens (x : Bench) (me : Stream) : (x.takeV me).tokens = x.tokens := by
  unfold Bench.takeV
  extract_lets n x'
  have hx : x'.tokens = x.tokens := rfl
  clear_value x'
  split
  · split
    · exact hx
    · rw [Bench.acquire_tokens, hx]
  · exact hx

/-- Of the FIFOs, a take changes those alone that it pops. -/
theorem Bench.takeTokens_tokens_eq (x : Bench) (me : Stream) (c : Fin 4) (from_ : List Stream) :
    (x.takeTokens me c from_).tokens = from_.foldl (fun t g => vmod t (fifo g me) fun n => n - 1) x.tokens := by
  unfold Bench.takeTokens
  extract_lets x0 x1 givers x2
  have h0 : x0.tokens = from_.foldl (fun t g => vmod t (fifo g me) fun n => n - 1) x.tokens := rfl
  have h1 : x1.tokens = x0.tokens := by
    show (if _ then x0.takeV me else x0).tokens = _
    split
    · exact Bench.takeV_tokens _ _
    · rfl
  have h2 : x2.tokens = x1.tokens :=
    foldl_keeps Bench.tokens (fun x i => x.joinDuty i (ownerOf me c)) (fun _ _ => rfl) _ _
  rw [← h0, ← h1, ← h2]
  clear_value x2
  split <;> rfl

/-- Taking lowers by one the FIFOs to the taker from the streams of its mask, and no other. -/
theorem Bench.takeTokens_tokens (x : Bench) (me : Stream) (c : Fin 4) {from_ to_ : Stream} (mask : BitVec 4) (h : from_ ≠ to_) :
    vget (x.takeTokens me c (maskStreams me mask)).tokens (fifo from_ to_) 0 =
      vget x.tokens (fifo from_ to_) 0 - (if to_ = me ∧ from_ ∈ maskStreams me mask then 1 else 0) := by
  have hmem : fifo from_ to_ ∈ (maskStreams me mask).map (fun g => fifo g me) ↔ to_ = me ∧ from_ ∈ maskStreams me mask := by
    rw [List.mem_map]
    constructor
    · rintro ⟨g, hg, e⟩
      obtain ⟨rfl, rfl⟩ := (fifo_inj (maskStreams_ne me mask g hg) h).1 e
      exact ⟨rfl, hg⟩
    · rintro ⟨rfl, hg⟩
      exact ⟨from_, hg, rfl⟩
  rw [Bench.takeTokens_tokens_eq, vget_foldl_vmod _ _ _ (fifo_lt h) _ _ (maskStreams_fifo_nodup me mask).2]
  simp only [hmem]
  split <;> rfl

theorem Bench.canGive_iff (x : Bench) (me : Stream) (dst : List Stream) :
    x.canGive me dst = true ↔ ∀ r ∈ dst, vget x.tokens (fifo me r) 0 < 8 := by
  simp [Bench.canGive]

theorem Bench.canTake_iff (x : Bench) (me : Stream) (from_ : List Stream) :
    x.canTake me from_ = true ↔ ∀ g ∈ from_, 0 < vget x.tokens (fifo g me) 0 := by
  simp [Bench.canTake]

/-! ### GIVE, TAKE and TJOIN (R73, R153, R155) -/

/-- Once the release of the context has taken effect, what follows it runs. -/
theorem State.released_yes {s t : State} {sc : Scope} (h : s.releasesTo sc t) (k : State → Out) : s.released sc k = k t := by
  obtain ⟨hready, ht⟩ := h
  simp only [State.released, hready, ht]
  rfl

theorem State.tailMask_named {s : State} {mask : BitVec 4} (h : s.mayName mask) (r : Out) : s.tailMask mask r = r :=
  if_pos (by simpa [State.mayName] using h)

theorem State.tailMask_ill {s : State} {mask : BitVec 4} (h : ¬s.mayName mask) (r : Out) :
    s.tailMask mask r = .next (s.raiseC cILL 0) :=
  if_neg (by simpa [State.mayName] using h)

theorem exec_give {mask : BitVec 4} {s t : State} (hn : s.mayName mask) (ht : s.releasesTo .en t)
    (hroom : ∀ g ∈ maskStreams .c mask, vget t.here.tokens (fifo .c g) 0 < 8) :
    exec (.give mask) s = .next (t.modHere fun x => x.giveTokens .c (maskStreams .c mask) .en).doneC := by
  show s.tailMask mask (s.released .en _) = _
  rw [State.tailMask_named hn, State.released_yes ht, if_pos ((Bench.canGive_iff _ _ _).2 hroom)]

theorem exec_take {mask : BitVec 4} {s : State} (hn : s.mayName mask)
    (hthere : ∀ g ∈ maskStreams .c mask, 0 < vget s.here.tokens (fifo g .c) 0) :
    exec (.take mask) s = .next (s.takeFrom s.cur.bench .c s.cur.ctx (maskStreams .c mask)).doneC := by
  show s.tailMask mask (if _ then _ else _) = _
  rw [State.tailMask_named hn, if_pos ((Bench.canTake_iff _ _ _).2 hthere)]

theorem tokenResults_claim : Sys2Proof.Claims.TokenResults :=
  ⟨fun _ _ _ hn ht hroom => exec_give hn ht hroom, fun _ _ hn hthere => exec_take hn hthere,
    fun _ _ hn => ⟨State.tailMask_ill hn _, State.tailMask_ill hn _⟩⟩

theorem tokenFifos_claim : Sys2Proof.Claims.TokenFifos :=
  fun x me _ _ c mask acq h => ⟨x.giveTokens_tokens me mask acq h, x.takeTokens_tokens me c mask h⟩

theorem tailJoin_claim : Sys2Proof.Claims.TailJoin := by
  rintro n s t hmain rfl hended
  have hlive : ((List.finRange 4).any fun c => joins n c && (s.settleBuffer.here.ctx c).live) = false := by
    rw [List.any_eq_false]
    intro c _
    cases hj : joins n c
    · simp
    · simp [(hended c hj).1]
  have hleft : (s.settleBuffer.here.c.sb.any fun e => joins n e.ctx) = false := by
    rw [List.any_eq_false]
    intro e he hj
    exact (hended e.ctx hj).2 e he rfl
  show s.mainOnly (if _ then _ else if _ then _ else _) = _
  rw [State.mainOnly_main hmain, if_neg, if_neg]
  · rfl
  · exact Bool.not_eq_true _ ▸ hleft
  · exact Bool.not_eq_true _ ▸ hlive

/-- Settles O28: gives and takes change the FIFOs of their masks and no other, and a join goes on when its tails have ended. -/
theorem tokenResults : Obligations.TokenResults := ⟨tokenResults_claim, tokenFifos_claim, tailJoin_claim⟩

end Sys2Proof.Machine
end

section
/-! SUPPORT. Writes into a bank (R45, R54): the bytes that they put there, and what they leave alone. -/

namespace Sys2Proof.Machine

/-! ### Writing into a bank (R45, R54) -/

theorem Bench.bank_writeBank (x : Bench) (bank off : Nat) (bs : List Byte) {b : Nat} (hb : b < 16) :
    (x.writeBank bank off bs).bank b = if b = bank then Mem.writeAll (x.bank bank) off bs else x.bank b := by
  show vget (vmod x.banks bank fun m => Mem.writeAll m off bs) b [] = _
  rw [vget_vmod _ _ _ _ _ hb]
  by_cases h : b = bank
  · rw [if_pos h, if_pos h, h]; rfl
  · rw [if_neg h, if_neg h]; rfl

/-- A bank that the bench does not have is empty. -/
theorem Bench.bank_of_ge (x : Bench) {b : Nat} (hb : 16 ≤ b) : x.bank b = [] := dif_neg (Nat.not_lt.2 hb)

theorem Bench.bank_writeBank_ne (x : Bench) (bank off : Nat) (bs : List Byte) {b : Nat} (h : b ≠ bank) :
    (x.writeBank bank off bs).bank b = x.bank b := by
  rcases Nat.lt_or_ge b 16 with hb | hb
  · rw [x.bank_writeBank bank off bs hb, if_neg h]
  · rw [Bench.bank_of_ge _ hb, Bench.bank_of_ge _ hb]

/-- The poison that a write into a bank leaves: all but that of the sectors of the bank that it covers whole. -/
theorem Bench.mem_bankPoison_writeBank (x : Bench) (bank off : Nat) (bs : List Byte) (p : Nat × Nat) :
    p ∈ (x.writeBank bank off bs).bankPoison ↔
      p ∈ x.bankPoison ∧ ¬(p.1 = bank ∧ off ≤ 32 * p.2 ∧ 32 * p.2 + 32 ≤ off + bs.length) := by
  simp only [Bench.writeBank, List.mem_filter, Bool.not_eq_true', Bool.and_eq_false_iff, beq_eq_false_iff_ne, decide_eq_false_iff_not,
    not_and_or, ne_eq]

/-- Settles O38: a write puts its bytes into its bank, and nothing else. -/
theorem bankWrites : Obligations.BankWrites := by
  intro x bank off bs hbank hwf
  have hsame := x.bank_writeBank bank off bs hbank
  rw [if_pos rfl, Mem.writeAll] at hsame
  refine ⟨fun k hk => ?_, fun a ha => ?_, fun b hb => x.bank_writeBank_ne bank off bs hb, fun sec h1 h2 hmem => ?_, fun p hp hne => ?_⟩
  · rw [hsame, Mem.get_write _ _ _ _ hwf, if_pos (Nat.le_add_right off k)]
    simp [hk, List.getD]
  · rw [hsame, Mem.get_write_outside _ _ _ _ hwf (by simpa using ha)]
  · exact ((x.mem_bankPoison_writeBank bank off bs _).1 hmem).2 ⟨rfl, h1, h2⟩
  · exact (x.mem_bankPoison_writeBank bank off bs p).2 ⟨hp, fun h => hne h.1⟩

end Sys2Proof.Machine
end

section
/-! SUPPORT. Loop words, stride setters and RDV of L, V and S (R26, R41 to R43): how each retires. -/

namespace Sys2Proof.Machine

/-! ### Loop words, stride setters and RDV (R26, R41 to R43) -/

theorem firstWhere_eq_none {α : Type} {p : α → Bool} {l : List α} : firstWhere p l = none ↔ ∀ x ∈ l, p x = false := by
  induction l with
  | nil => simp [firstWhere]
  | cons x xs ih => cases h : p x <;> simp [firstWhere, h, ih]

theorem State.noOverlap_nil (s : State) : s.noOverlap [] := by
  have hnone : firstWhere (fun r : Range => r.st != s.cur.stream && ([] : List Acc).any fun a =>
      a.bank == r.bank && decide (a.lo < r.hi ∧ r.lo < a.hi) && (a.write || r.write)) s.here.ranges = none :=
    firstWhere_eq_none.2 fun r _ => by simp
  simp only [State.noOverlap, Bench.overlap, hnone, ite_self]

/-- A word of an engine that issues, and whose body is done without an access, retires. -/
theorem State.issue_done_nil {s : State} {h : Hdr} {lw : Bool} {nq : Nat} (hi : s.issues h lw nq) {body : State → List W64 → Eff}
    {t : State} {pc : Option W64} (hb : body (s.atIssue h nq) (s.entriesAt nq) = .done t [] pc) :
    s.issue h lw nq body = .next (t.retire h.give [] pc) := State.issue_done hi hb s.noOverlap_nil

/-- A word of an engine that issues, and whose body raises a fault before it takes effect, is held. -/
theorem State.issue_pre {s : State} {h : Hdr} {lw : Bool} {nq : Nat} (hi : s.issues h lw nq) {body : State → List W64 → Eff}
    {code : Byte} {va : W64} (hb : body (s.atIssue h nq) (s.entriesAt nq) = .pre code va) :
    s.issue h lw nq body = .next (s.hold code va false) := by
  rw [State.issue_body hi, hb]; rfl

theorem exec_loopOf {i : Instr} {h : Hdr} {o : LoopOp} (hi : loopOf i = some (h, o)) (s : State) : exec i s = s.loopWord h o := by
  unfold loopOf at hi; split at hi <;> cases hi <;> rfl

theorem exec_endlOf {i : Instr} {h : Hdr} {n : BitVec 3} (hi : endlOf i = some (h, n)) (s : State) : exec i s = s.endlWord h n := by
  unfold endlOf at hi; split at hi <;> cases hi <;> rfl

theorem exec_strideOf {i : Instr} {h : Hdr} {o : StrideSet} (hi : strideOf i = some (h, o)) (s : State) :
    exec i s = s.strideWord h o := by
  unfold strideOf at hi; split at hi <;> cases hi <;> rfl

theorem exec_rdvOf {i : Instr} {h : Hdr} (hi : rdvOf i = some h) (s : State) : exec i s = s.rdvWord h := by
  unfold rdvOf at hi; split at hi <;> cases hi <;> rfl

/-- A loop that may open and has iterations opens. -/
theorem State.openLoop_ok {s : State} {n : Nat} {count : W32} (hopen : s.myEng.mayOpen n = true) (hcount : count ≠ 0) :
    s.openLoop n count =
      .done (s.modLoop n fun l => { l with active := true, n := count, i := 0, body := s.nextPc }) [] none := by
  simp only [State.openLoop, hopen, hcount, Bool.not_true, Bool.false_eq_true, if_false]

/-- The end of the highest active loop begins the next iteration, or closes the level. -/
theorem State.closeLoop_top {s : State} {n : Nat} (htop : s.myEng.isTop n = true) :
    s.closeLoop n =
      if (s.myEng.loop n).i.toNat + 1 < (s.myEng.loop n).n.toNat
      then .done (s.modLoop n fun l => { l with i := l.i + 1 }) [] (some (s.myEng.loop n).body)
      else .done (s.modLoop n fun l => { l with active := false, i := l.i + 1 }) [] none := by
  simp only [State.closeLoop, htop, Bool.not_true, Bool.false_eq_true, if_false]

theorem State.loopWord_opens {s : State} {h : Hdr} {o : LoopOp} (hi : s.issues h true (if o.csrc then 1 else 0))
    {count : W32} (hc : count = if o.csrc then entryCount ((s.entriesAt (if o.csrc then 1 else 0)).getD 0 0) else o.count)
    (hopen : (s.atIssue h (if o.csrc then 1 else 0)).myEng.mayOpen o.lvl.toNat = true) (hcount : count ≠ 0) :
    s.loopWord h o = .next (((s.atIssue h (if o.csrc then 1 else 0)).modLoop o.lvl.toNat fun l =>
      { l with active := true, n := count, i := 0, body := (s.atIssue h (if o.csrc then 1 else 0)).nextPc }).retire h.give [] none) := by
  subst hc
  exact State.issue_done_nil hi (State.openLoop_ok hopen hcount)

theorem State.endlWord_closes {s : State} {h : Hdr} {n : BitVec 3} (hi : s.issues h true 0)
    (htop : (s.atIssue h 0).myEng.isTop n.toNat = true) :
    s.endlWord h n = .next (if ((s.atIssue h 0).myEng.loop n.toNat).i.toNat + 1 < ((s.atIssue h 0).myEng.loop n.toNat).n.toNat
      then ((s.atIssue h 0).modLoop n.toNat fun l => { l with i := l.i + 1 }).retire h.give []
        (some ((s.atIssue h 0).myEng.loop n.toNat).body)
      else ((s.atIssue h 0).modLoop n.toNat fun l => { l with active := false, i := l.i + 1 }).retire h.give [] none) := by
  have hclose := State.closeLoop_top htop
  split at hclose
  · next hlt => rw [if_pos hlt]; exact State.issue_done_nil hi hclose
  · next hge => rw [if_neg hge]; exact State.issue_done_nil hi hclose

theorem State.rdvWord_ends {s : State} {h : Hdr} (hi : s.issues h false 0) :
    s.rdvWord h = .next ((((s.atIssue h 0).modMyEng fun e => { e with rdv := true }).retire h.give [] none).tryRetire s.cur.bench) := by
  rw [State.rdvWord, State.issue_done_nil hi rfl]

/-- Settles O37: each word's body on the state in which it issues, and its retirement. -/
theorem loopResults : Obligations.LoopResults := by
  refine ⟨fun i h o s hi => ?_, fun i h n s hi => ?_, fun i h o s hi => ?_, fun i h s hi => ?_⟩
  · intro nq s1 count hissues hopen hcount
    rw [exec_loopOf hi]
    exact State.loopWord_opens hissues rfl hopen hcount
  · intro s1 l hissues htop
    rw [exec_endlOf hi]
    exact State.endlWord_closes hissues htop
  · intro hissues
    rw [exec_strideOf hi]
    exact State.issue_done_nil hissues rfl
  · intro hissues
    rw [exec_rdvOf hi]
    exact State.rdvWord_ends hissues

end Sys2Proof.Machine
end

section
/-! SUPPORT. The store engine S: requantising, frames, its mode and control, and SREL (R371, R374 to R380). -/

namespace Sys2Proof.Machine

/-! ### The store engine (R374 to R380) -/

/-- Requantising between two runs, the first without poison, is done at once. -/
theorem State.requant_ok {s : State} {rs rd : Run}
    (hclean : s.here.bankPoisoned rs.bank rs.off (rs.bytes (s.here.scvc.nm1.toNat + 1)) = false) :
    s.requant (.ok rs) (.ok rd) =
      .done (s.modHere fun y => y.writeVals rd (smodeOf s.here.scvc.exm s.here.scvc.rm s.here.smode)
          (s.here.runVals rs (s.here.scvc.nm1.toNat + 1)))
        [rs.acc (s.here.scvc.nm1.toNat + 1) false, rd.acc (s.here.scvc.nm1.toNat + 1) true] none := by
  simp only [State.requant, hclean, Bool.false_eq_true, if_false]

/-- The entry that SREL puts into the S store queue (R380). -/
def State.srelEntry (s : State) (sc : Scope) : StEntry :=
  ⟨s.here.seq, 0, .release, 0, s.cur.pc, 0, [], sc, false, true, 1, false, false, leafPhys, 0, s.cur.word, none, [7]⟩

/-- The state in which SREL stands in the S store queue. -/
def State.srelQueued (s : State) (sc : Scope) : State :=
  s.modHere fun x => { x with sq := x.sq ++ [s.srelEntry sc], seq := s.here.seq + 1 }

theorem exec_srel {h : Hdr} {s : State} (hi : s.issues h false 0) (sc : Scope) :
    exec (.srel h sc) s = .next (((s.atIssue h 0).srelQueued sc).drainS.retire h.give [] none) := by
  change execSrel h sc s = _
  rw [execSrel]
  exact State.issue_done_nil hi rfl

theorem exec_qstore {h : Hdr} {s : State} (hi : s.issues h false 0) {o : SQst} {rs rd : Run} :
    let x := (s.atIssue h 0).here
    let n := x.scvc.nm1.toNat + 1
    x.run o.sbank.toNat ((512 * o.soff.toNat : Nat) + loopTerm x.s.loops o.bop.sl) n = .ok rs →
    x.namedRun o.bop.bank.toNat o.frame.toNat (bopOffset x.s.loops o.bop) n = .ok rd →
    x.bankPoisoned rs.bank rs.off (rs.bytes n) = false → s.noOverlap [rs.acc n false, rd.acc n true] →
    exec (.qstore h o) s = .next (((s.atIssue h 0).modHere fun y =>
      y.writeVals rd (smodeOf x.scvc.exm x.scvc.rm x.smode) (x.runVals rs n)).retire h.give [rs.acc n false, rd.acc n true] none) := by
  intro x n hsrc hdst hclean hover
  change execQstore h o s = _
  rw [execQstore]
  refine State.issue_done hi ?_ hover
  dsimp only
  rw [hsrc, hdst]
  exact State.requant_ok hclean

theorem exec_req {h : Hdr} {s : State} (hi : s.issues h false 0) {o : SReq} {rs rd : Run} :
    let x := (s.atIssue h 0).here
    let n := x.scvc.nm1.toNat + 1
    x.namedRun o.sbank.toNat o.sframe.toNat ((frameBase (x.frame o.sframe.toNat) : Nat) + loopTerm x.s.loops o.bop.sl) n = .ok rs →
    x.namedRun o.bop.bank.toNat o.dframe.toNat (bopOffset x.s.loops o.bop) n = .ok rd →
    x.bankPoisoned rs.bank rs.off (rs.bytes n) = false → s.noOverlap [rs.acc n false, rd.acc n true] →
    exec (.req h o) s = .next (((s.atIssue h 0).modHere fun y =>
      y.writeVals rd (smodeOf x.scvc.exm x.scvc.rm x.smode) (x.runVals rs n)).retire h.give [rs.acc n false, rd.acc n true] none) := by
  intro x n hsrc hdst hclean hover
  change execReq h o s = _
  rw [execReq]
  refine State.issue_done hi ?_ hover
  dsimp only
  rw [hsrc, hdst]
  exact State.requant_ok hclean

theorem exec_smode {h : Hdr} {s : State} (hi : s.issues h false 0) {m : BitVec 3} (hm : m.toNat < 6) :
    exec (.smode h m) s = .next (((s.atIssue h 0).modHere fun y => { y with smode := m }).retire h.give [] none) := by
  change execSmode h m s = _
  rw [execSmode]
  exact State.issue_done_nil hi (if_neg (Nat.not_le.2 hm))

theorem exec_smode_ill {h : Hdr} {s : State} (hi : s.issues h false 0) {m : BitVec 3} (hm : 6 ≤ m.toNat) :
    exec (.smode h m) s = .next (s.hold cILL 0 false) := by
  change execSmode h m s = _
  rw [execSmode]
  exact State.issue_pre hi (if_pos hm)

theorem exec_slsetCvc {h : Hdr} {s : State} (hi : s.issues h false 0) (o : Cvc) :
    exec (.slsetCvc h o) s =
      .next (((s.atIssue h 0).modHere fun y => { y with scvc := ⟨o.exm, o.rm, o.nm1⟩ }).retire h.give [] none) := by
  change execSlsetCvc h o s = _
  rw [execSlsetCvc]
  exact State.issue_done_nil hi rfl

theorem exec_grain {h : Hdr} {s : State} {o : SGrain} (hi : s.issues h false (bitsOf o.wmask).length) :
    let x := (s.atIssue h (bitsOf o.wmask).length).here
    let new := grainWords (x.frame o.frame.toNat) o.wmask (s.entriesAt (bitsOf o.wmask).length)
    let locked := (upTo 16).any fun k => bfLock (x.bf k) && bfDith (x.bf k) && bfFrame (x.bf k) == o.frame.toNat
    o.wmask ≠ 0 → frameOk new = true → (locked = false ∨ grainLocked (x.frame o.frame.toNat) new = false) →
    exec (.grain h o) s = .next (((s.atIssue h (bitsOf o.wmask).length).modHere fun y =>
      { y with frames := vset y.frames o.frame.toNat new }).retire h.give [] none) := by
  intro x new locked hmask hok hlock
  have hgrain : ¬(!frameOk new || (locked && grainLocked (x.frame o.frame.toNat) new)) = true := by
    rcases hlock with h | h <;> simp [hok, h]
  change execGrain h o s = _
  rw [execGrain]
  refine State.issue_done_nil hi ?_
  dsimp only
  rw [if_neg hmask, if_neg hgrain]

theorem exec_grain_ill {h : Hdr} {s : State} {o : SGrain} (hi : s.issues h false (bitsOf o.wmask).length) (hmask : o.wmask = 0) :
    exec (.grain h o) s = .next (s.hold cILL 0 false) := by
  change execGrain h o s = _
  rw [execGrain]
  exact State.issue_pre hi (if_pos hmask)

/-! ### What an issue leaves as it was -/

theorem State.dutyAll_mem (s : State) (b : BenchId) (i : Nat) (sc : Scope) : (s.dutyAll b i sc).mem = s.mem := by
  unfold State.dutyAll; split <;> rfl

theorem State.takeFrom_mem (s : State) (b : BenchId) (me : Stream) (c : Fin 4) (from_ : List Stream) :
    (s.takeFrom b me c from_).mem = s.mem := by
  unfold State.takeFrom
  extract_lets sc s1
  split
  · rfl
  · rw [State.dutyAll_mem]; rfl

theorem State.atIssue_mem (s : State) (h : Hdr) (nq : Nat) : (s.atIssue h nq).mem = s.mem := by
  unfold State.atIssue
  split
  · rfl
  · exact s.takeFrom_mem _ _ _ _

/-- Settles O51: each word's body in the state in which it issues, and its retirement. -/
theorem storeEngineResults : Obligations.StoreEngineResults := by
  intro h s
  constructor
  · intro hi s1 x n md
    refine ⟨fun o rs rd => exec_qstore hi, fun o rs rd => exec_req hi, fun m => ⟨exec_smode hi, exec_smode_ill hi⟩, exec_slsetCvc hi, ?_⟩
    intro sc
    refine ⟨s1.srelQueued sc, s1.srelEntry sc, exec_srel hi sc, ?_, rfl, rfl, rfl, ?_, s.atIssue_mem h 0, ?_⟩ <;>
      simp [State.srelQueued, x]
  · intro o nq s1 x new locked hi
    exact ⟨exec_grain hi, exec_grain_ill hi⟩

end Sys2Proof.Machine
end

section
/-! SUPPORT. Errors of memory and of banks (R54, R419, R422): what an uncorrectable one poisons or drops, and that it is logged. -/

namespace Sys2Proof.Machine

/-! ### The error log (R422) -/

@[simp] theorem State.logErr_bench (s : State) (d : Fin 8) (sect kind ten : Nat) (b : BenchId) :
    (s.logErr d sect kind ten).bench b = s.bench b := rfl

@[simp] theorem State.logErr_ecnt (s : State) (d : Fin 8) (sect kind ten : Nat) :
    ((s.logErr d sect kind ten).die d).ecnt = (s.die d).ecnt + 1 := by
  simp [State.logErr, Die.log]

@[simp] theorem State.logErr_rdc (s : State) (d e : Fin 8) (sect kind ten : Nat) :
    ((s.logErr d sect kind ten).die e).rdc = (s.die e).rdc := by
  by_cases h : e = d <;> simp [State.logErr, Die.log, h]

@[simp] theorem State.die_modBench (s : State) (b : BenchId) (f : Bench → Bench) (d : Fin 8) : (s.modBench b f).die d = s.die d := rfl

/-! ### Errors (R54, R419) -/

/-- A sector of a bank is poisoned (R54). -/
def Bench.poisonSector (p : Nat × Nat) (x : Bench) : Bench :=
  { x with bankPoison := if x.bankPoison.contains p then x.bankPoison else p :: x.bankPoison }

theorem Bench.mem_poisonSector (p : Nat × Nat) (x : Bench) : p ∈ (x.poisonSector p).bankPoison := by
  by_cases h : p ∈ x.bankPoison <;> simp [Bench.poisonSector, h]

/-- The state after an error in a bank, before it is logged: an uncorrectable one has poisoned its sector. -/
def State.sramHit (s : State) : State :=
  if s.cur.bring.hi then s
  else s.modBench s.cur.bring.bench (Bench.poisonSector (s.cur.bring.n % 16, s.cur.bring.pa % 4096))

theorem exec_sramUncorrectableError (s : State) :
    exec .sramUncorrectableError s = .next (s.sramHit.logErr (dieOf s.cur.bring.bench) 0 2
      (s.sramHit.bench s.cur.bring.bench).tenant.toNat) := rfl

theorem State.mem_setPoison (s : State) (sec : Nat) : sec ∈ (s.setPoison sec true).poison := by
  by_cases h : sec ∈ s.poison <;> simp [State.setPoison, h]

theorem State.dropSharers_ecnt (s : State) (ln : Nat) (d : Fin 8) : ((s.dropSharers ln).die d).ecnt = (s.die d).ecnt := by
  simp [State.dropSharers, State.die]

/-- A line that has left its home is in no L2 slice and in no MSC. -/
theorem State.dropHome_isCached (s : State) (ln : Nat) : (s.dropHome ln).isCached ln = false := by
  simp [State.dropHome, State.isCached]

/-- A copy of a line in a bench's L1 or constant cache, or in its die's RDC. -/
def State.copied (s : State) (b : BenchId) (ln : Nat) : Bool :=
  (s.bench b).l1.any (fun c => c.line == ln) || (s.bench b).cc.any (fun c => c.line == ln) ||
    (s.die (dieOf b)).rdc.any fun c => c.line == ln

theorem State.copied_iff (s : State) (b : BenchId) (ln : Nat) :
    s.copied b ln = true ↔
      (∃ l ∈ (s.bench b).l1, l.line = ln) ∨ (∃ l ∈ (s.bench b).cc, l.line = ln) ∨ ∃ c ∈ (s.die (dieOf b)).rdc, c.line = ln := by
  simp [State.copied, or_assoc]

/-- The copies of a line in a bench and in its die's RDC go. -/
def State.dropCopies (s : State) (b : BenchId) (ln : Nat) : State :=
  (s.modBench b (Bench.dropCopy ln)).modDie (dieOf b) fun x => { x with rdc := x.rdc.filter fun c => c.line != ln }

theorem State.dropCopies_spec (s : State) (b : BenchId) (ln : Nat) :
    (∀ l ∈ ((s.dropCopies b ln).bench b).l1, l.line ≠ ln) ∧ (∀ l ∈ ((s.dropCopies b ln).bench b).cc, l.line ≠ ln) ∧
    (∀ c ∈ ((s.dropCopies b ln).die (dieOf b)).rdc, c.line ≠ ln) ∧
    ((s.dropCopies b ln).die (dieOf b)).ecnt = (s.die (dieOf b)).ecnt := by
  refine ⟨?_, ?_, ?_, ?_⟩ <;> simp [State.dropCopies, Bench.dropCopy, Bench.dropL1]

/-- An error in a clean copy: it is dropped and logged, or there is none. -/
theorem exec_memoryUncorrectableError_copy {s : State} (hn : s.cur.bring.n % 4 = 3) :
    exec .memoryUncorrectableError s = .next (if s.copied s.cur.bring.bench (s.cur.bring.pa / 128) then
      (s.dropCopies s.cur.bring.bench (s.cur.bring.pa / 128)).logErr (dieOf s.cur.bring.bench) s.cur.bring.pa 2 s.cur.bring.tenant.toNat
    else s) := if_pos hn

/-- An error at the home of an address. -/
theorem exec_memoryUncorrectableError_home {s : State} {d : Fin 8} (hn : s.cur.bring.n % 4 ≠ 3) (hd : s.homeDie s.cur.bring.pa = some d) :
    let br := s.cur.bring
    let poisons (kind : Nat) : Out := .next ((s.setPoison (br.pa / 32) true).logErr d br.pa kind br.tenant.toNat)
    exec .memoryUncorrectableError s = match br.n % 4 with
      | 0 => if s.isCached (br.pa / 128) then .next s else poisons 1
      | 1 => if !s.isCached (br.pa / 128) then .next s else if s.dirty (br.pa / 128) then poisons 2
        else .next ((s.dropHome (br.pa / 128)).logErr d br.pa 2 br.tenant.toNat)
      | _ => poisons 2 := by
  intro br poisons
  change execMemoryUncorrectableError s = _
  unfold execMemoryUncorrectableError
  dsimp only
  rw [if_neg hn, hd]
  rfl

theorem State.sramHit_spec (s : State) :
    (s.cur.bring.hi = false →
      (s.cur.bring.n % 16, s.cur.bring.pa % 4096) ∈ (s.sramHit.bench s.cur.bring.bench).bankPoison) ∧
    (s.cur.bring.hi = true → s.sramHit = s) ∧
    (∀ d, s.sramHit.die d = s.die d) ∧ (s.sramHit.bench s.cur.bring.bench).banks = (s.bench s.cur.bring.bench).banks := by
  cases h : s.cur.bring.hi
  · have he : s.sramHit = s.modBench s.cur.bring.bench
        (Bench.poisonSector (s.cur.bring.n % 16, s.cur.bring.pa % 4096)) := by simp [State.sramHit, h]
    rw [he]
    refine ⟨fun _ => ?_, fun h => (Bool.false_ne_true h).elim, fun d => rfl, ?_⟩ <;> rw [State.bench_modBench, if_pos rfl]
    · exact Bench.mem_poisonSector _ _
    · rfl
  · have he : s.sramHit = s := by simp [State.sramHit, h]
    rw [he]
    exact ⟨fun h => (Bool.false_ne_true h.symm).elim, fun _ => rfl, fun d => rfl, rfl⟩

theorem errorEvents_claim : Sys2Proof.Claims.ErrorEvents := by
  intro s br b ln copied
  refine ⟨?_, fun hn => ⟨fun hno => ?_, fun hyes => ?_⟩, fun d hd => ⟨fun hcase => ?_, fun hn hc hclean => ?_⟩⟩
  · obtain ⟨hpoison, hsame, hdie, hbanks⟩ := s.sramHit_spec
    refine ⟨_, exec_sramUncorrectableError s, hpoison, fun hhi => ?_, ?_, hbanks⟩
    · rw [hsame hhi]; rfl
    · rw [State.logErr_ecnt, hdie]
  · rw [exec_memoryUncorrectableError_copy hn, if_neg (mt (s.copied_iff _ _).1 hno)]
  · rw [exec_memoryUncorrectableError_copy hn, if_pos ((s.copied_iff _ _).2 hyes)]
    obtain ⟨hl1, hcc, hrdc, hcnt⟩ := s.dropCopies_spec b ln
    refine ⟨_, rfl, rfl, rfl, hl1, hcc, ?_, ?_⟩
    · rw [State.logErr_rdc]; exact hrdc
    · rw [State.logErr_ecnt, hcnt]
  · have hpoisons (kind : Nat) : let t := (s.setPoison (br.pa / 32) true).logErr d br.pa kind br.tenant.toNat
        t.mem = s.mem ∧ br.pa / 32 ∈ t.poison ∧ (t.die d).ecnt = (s.die d).ecnt + 1 :=
      ⟨rfl, s.mem_setPoison _, State.logErr_ecnt _ _ _ _ _⟩
    rcases hcase with ⟨hn, hc⟩ | ⟨hn, hc, hdirty⟩ | hn <;>
      rw [exec_memoryUncorrectableError_home (fun h3 => by rw [h3] at hn; exact absurd hn (by decide)) hd] <;> dsimp only <;> rw [hn]
    · exact ⟨_, if_neg (Bool.eq_false_iff.1 hc), hpoisons 1⟩
    · refine ⟨_, ?_, hpoisons 2⟩
      rw [show s.isCached (s.cur.bring.pa / 128) = true from hc, show s.dirty (s.cur.bring.pa / 128) = true from hdirty]
      rfl
    · exact ⟨_, rfl, hpoisons 2⟩
  · refine ⟨(s.dropHome ln).logErr d br.pa 2 br.tenant.toNat, ?_, rfl, rfl, s.dropHome_isCached ln, ?_⟩
    · rw [exec_memoryUncorrectableError_home (fun h3 => by rw [h3] at hn; exact absurd hn (by decide)) hd]
      dsimp only
      rw [hn, show s.isCached (s.cur.bring.pa / 128) = true from hc, show s.dirty (s.cur.bring.pa / 128) = false from hclean]
      rfl
    · rw [State.logErr_ecnt]
      exact congrArg (· + 1) (s.dropSharers_ecnt ln d)

end Sys2Proof.Machine
end

section
/-! SUPPORT. Extents, channels and hot rows (R301, R303, R423): the equations of their events. -/

namespace Sys2Proof.Machine

theorem firstWhere_spec {α : Type} {p : α → Bool} {l : List α} {x : α} (h : firstWhere p l = some x) : p x = true := by
  induction l with
  | nil => simp [firstWhere] at h
  | cons y ys ih =>
    cases hy : p y <;> simp only [firstWhere, hy, Bool.false_eq_true, if_false, if_true, Option.some.injEq] at h
    · exact ih h
    · exact h ▸ hy

/-! ### Extents (R423) -/

theorem exec_dcExtentAdd {s : State} (hlo : 0x10000000000 ≤ s.cur.bring.pa / 128 * 128)
    (hhi : s.cur.bring.pa / 128 * 128 + s.cur.bring.len / 128 * 128 ≤ 0x400000000000) (hlen : 0 < s.cur.bring.len / 128 * 128)
    (hfree : ∀ x ∈ s.extents, x.released = false →
      ¬(s.cur.bring.pa / 128 * 128 < x.base + x.len ∧ x.base < s.cur.bring.pa / 128 * 128 + s.cur.bring.len / 128 * 128)) :
    exec .dcExtentAdd s = .next { s with
      extents := ⟨s.cur.bring.pa / 128 * 128, s.cur.bring.len / 128 * 128, s.cur.bring.die.val, false, false⟩ ::
        s.extents.flatMap fun x => x.outside (s.cur.bring.pa / 128 * 128) (s.cur.bring.len / 128 * 128)
      poison := s.poison.filter fun x => !meets (s.cur.bring.pa / 128 * 128) (s.cur.bring.len / 128 * 128) (32 * x) 32 } := by
  refine if_neg ?_
  have hmeets : (s.extents.any fun x =>
      meets (s.cur.bring.pa / 128 * 128) (s.cur.bring.len / 128 * 128) x.base x.len && !x.released) = false := by
    rw [List.any_eq_false]
    intro x hx hm
    simp only [meets, Bool.and_eq_true, decide_eq_true_eq, Bool.not_eq_true'] at hm
    exact hfree x hx hm.2 hm.1
  simp only [hmeets, hlo, hhi, hlen, and_self, decide_true, Bool.not_true, Bool.or_self, Bool.false_eq_true, not_false_eq_true]

/-- Releasing an extent closes it first. -/
def State.closeExtent (s : State) (x : Extent) : State :=
  { s with extents := s.extents.map fun y => if y == x then { y with closing := true } else y }

/-- The dirty lines of an extent are dropped on a forced release. -/
def State.dropDirtyOf (s : State) (x : Extent) : State :=
  (s.backing.filter fun l => x.holds l.line).foldl (State.dropDirty (dieAt x.die)) s

/-- The release of an extent is complete: its lines leave the caches, and the range goes, or stays released. -/
def State.endRelease (s : State) (x : Extent) (forced : Bool) : State :=
  { s with
    backing := s.backing.filter fun l => !x.holds l.line
    l2 := s.l2.filter fun l => !x.holds l.line
    msc := s.msc.filter fun l => !x.holds l.line
    extents := if forced then { x with closing := false, released := true } :: s.extents.filter fun y => y.base != x.base
      else s.extents.filter fun y => y.base != x.base }

/-- The sharers of an extent have been asked to give its lines back. -/
def State.recallExtent (s : State) (x : Extent) : State :=
  ((s.dir.map Prod.fst).filter x.holds).foldl State.recallLine (s.closeExtent x)

/-- A release closes its extent, recalls the sharers, and ends once no line of the extent has one. -/
theorem execDcExtentRelease_eq {s : State} {x : Extent}
    (hx : firstWhere (fun x => x.base == s.cur.bring.pa && !x.released) s.extents = some x) :
    execDcExtentRelease s =
      if ((s.recallExtent x).trackers.any fun t => x.holds t.line) || ((s.recallExtent x).dir.any fun e => x.holds e.1) then
        .next (s.recallExtent x)
      else .next ((if s.cur.bring.hi then (s.recallExtent x).dropDirtyOf x else s.recallExtent x).endRelease x s.cur.bring.hi) := by
  unfold execDcExtentRelease
  rw [hx]
  rfl

/-- An extent whose lines nothing shares is released at once. -/
theorem exec_dcExtentRelease {s : State} {x : Extent}
    (hx : firstWhere (fun x => x.base == s.cur.bring.pa && !x.released) s.extents = some x)
    (hdir : ∀ e ∈ s.dir, x.holds e.1 = false) (htr : ∀ e ∈ s.trackers, x.holds e.line = false) :
    exec .dcExtentRelease s =
      .next ((if s.cur.bring.hi then (s.closeExtent x).dropDirtyOf x else s.closeExtent x).endRelease x s.cur.bring.hi) := by
  have hnone : (s.dir.map Prod.fst).filter x.holds = [] := by
    rw [List.filter_eq_nil_iff]
    simpa using fun a b h => hdir (a, b) h
  have hrecall : s.recallExtent x = s.closeExtent x := by rw [State.recallExtent, hnone, List.foldl_nil]
  change execDcExtentRelease s = _
  rw [execDcExtentRelease_eq hx, hrecall, if_neg]
  simpa [State.closeExtent] using ⟨htr, fun a b h => hdir (a, b) h⟩

theorem State.restoreLine_mem (s : State) (ln : Nat) (d : LineData) (po : BitVec 4) :
    (s.restoreLine ln d po).mem = Mem.writeAll s.mem (128 * ln) (lineBytes d) := by
  unfold State.restoreLine
  generalize lineBytes d = bs
  exact foldl_keeps State.mem (fun s i => s.setPoison (4 * ln + i) (po.getLsbD i)) (fun _ _ => rfl) (upTo 4)
    { s with mem := Mem.writeAll s.mem (128 * ln) bs }

/-- A line that is put back changes no byte outside it. -/
theorem State.restoreLine_get (s : State) (hw : Mem.wf s.mem = true) {ln p : Nat} (d : LineData) (po : BitVec 4) (h : p / 128 ≠ ln) :
    Mem.get (s.restoreLine ln d po).mem p = Mem.get s.mem p := by
  rw [State.restoreLine_mem, Mem.writeAll, Mem.get_write_outside _ _ _ _ hw]
  simp only [List.length_map, lineBytes, leBytes_length]
  omega

theorem State.dropDirty_mem (d : Fin 8) (s : State) (l : Backing) :
    (State.dropDirty d s l).mem = (s.restoreLine l.line l.data l.poison).mem := by
  rw [State.dropDirty, State.logErr, State.modDie_mem]

/-- Dirty lines that are dropped change no byte of another line. -/
theorem foldl_dropDirty_get (d : Fin 8) (p : Nat) (ls : List Backing) :
    ∀ s : State, Mem.wf s.mem = true → (∀ l ∈ ls, p / 128 ≠ l.line) →
      Mem.get (ls.foldl (State.dropDirty d) s).mem p = Mem.get s.mem p := by
  induction ls with
  | nil => intro s _ _; rfl
  | cons l ls ih =>
    intro s hw h
    have hw' : Mem.wf (State.dropDirty d s l).mem = true := by
      rw [State.dropDirty_mem, State.restoreLine_mem]; exact Mem.wf_writeAll _ _ _ hw
    rw [List.foldl_cons, ih _ hw' fun k hk => h k (List.mem_cons_of_mem _ hk), State.dropDirty_mem,
      State.restoreLine_get _ hw _ _ (h l List.mem_cons_self)]

theorem State.dropDirtyOf_get (s : State) (x : Extent) (hw : Mem.wf s.mem = true) {p : Nat} (h : x.holds (p / 128) = false) :
    Mem.get (s.dropDirtyOf x).mem p = Mem.get s.mem p := by
  refine foldl_dropDirty_get _ p _ s hw fun l hl e => ?_
  rw [e, (List.mem_filter.1 hl).2] at h
  exact Bool.noConfusion h

theorem State.endRelease_spec (s : State) (x : Extent) (forced : Bool) :
    (s.endRelease x forced).mem = s.mem ∧ (∀ l ∈ (s.endRelease x forced).backing, x.holds l.line = false) ∧
    (∀ l ∈ (s.endRelease x forced).l2, x.holds l.line = false) ∧
    (if forced then { x with closing := false, released := true } ∈ (s.endRelease x forced).extents
      else ∀ y ∈ (s.endRelease x forced).extents, y.base ≠ x.base) := by
  refine ⟨rfl, ?_, ?_, ?_⟩
  · simp [State.endRelease]
  · simp [State.endRelease]
  · cases forced <;> simp [State.endRelease]

/-! ### Channels and hot rows (R301, R303) -/

theorem State.rest_due {s : State} {d : Fin 8} {c idle : Nat} {st : BitVec 2} (h : (s.chan d c).state.toNat < st.toNat)
    (hidle : (s.chan d c).last + idle ≤ s.clk) :
    s.rest d c idle st =
      { s with chans := { s.chan d c with state := st } :: s.chans.filter fun y => !(y.die == d.val && y.chan == c) } := by
  simp only [State.rest, h, hidle, decide_true, Bool.and_self, if_true]

/-- The channel that is found at a place is that place's. -/
theorem State.chan_place (s : State) (d : Fin 8) (c : Nat) : (s.chan d c).die = d.val ∧ (s.chan d c).chan = c := by
  cases h : firstWhere (fun x : Chan => x.die == d.val && x.chan == c) s.chans with
  | none => simp [State.chan, h]
  | some x => simpa [State.chan, h] using firstWhere_spec h

/-- A channel that has been idle long enough is in the new state. -/
theorem State.chan_rest {s : State} {d : Fin 8} {c idle : Nat} {st : BitVec 2} (h : (s.chan d c).state.toNat < st.toNat)
    (hidle : (s.chan d c).last + idle ≤ s.clk) : (s.rest d c idle st).chan d c = { s.chan d c with state := st } := by
  obtain ⟨hd, hc⟩ := s.chan_place d c
  rw [State.rest_due h hidle]
  generalize s.chan d c = y at hd hc
  simp [State.chan, firstWhere, hd, hc]

end Sys2Proof.Machine
end

section
/-! SUPPORT. Token buckets (R302) and the memory events. -/

namespace Sys2Proof.Machine

/-! ### Token buckets (R302) -/

theorem mem_upTo {m n : Nat} : m ∈ upTo n ↔ m < n := by
  induction n with
  | zero => simp [upTo]
  | succ n ih => rw [upTo, List.mem_append, ih, List.mem_singleton]; omega

/-- A test that one number alone meets picks that one out of those below a bound. -/
theorem filterMap_upTo_single {β : Type} {f : Nat → Option β} {k n : Nat} {y : β} (hk : k < n)
    (hf : ∀ m, f m = if m = k then some y else none) :
    (upTo n).filterMap f = [y] := by
  induction n with
  | zero => omega
  | succ n ih =>
    rw [upTo, List.filterMap_append]
    rcases Nat.lt_or_eq_of_le (Nat.le_of_lt_succ hk) with h | h
    · rw [ih h]
      simp [hf, Nat.ne_of_gt h]
    · subst h
      have hnone : (upTo k).filterMap f = [] :=
        List.filterMap_eq_nil_iff.2 fun m hm => by rw [hf, if_neg (Nat.ne_of_lt (mem_upTo.1 hm))]
      rw [hnone]; simp [hf]

/-- A port with one bucket at which nothing waits: whose it is, and by which entry its tenant is served. -/
structure State.LoneBucket (s : State) (d : Fin 8) (slice : Nat) (x : Bucket) (e : TenEntry) : Prop where
  buckets : s.buckets = [x]
  die : x.die = d.val
  slice : x.slice = slice
  waiting : x.waiting = 0
  ent : s.entOf d x.tenant = some e

/-- The bucket after it has gained for some clk. -/
def Bucket.gained (x : Bucket) (e : TenEntry) (k : Nat) : Bucket := { x with tokens := min (x.tokens + k * e.rate) (1024 * e.depth) }

theorem Bucket.gain_serve {x : Bucket} (h : x.waiting = 0) (e : TenEntry) : (x.gain e).1.serve = x.gained e 1 := by
  simp [Bucket.gain, Bucket.serve, Bucket.gained, h]

theorem Bucket.borrow_none {x : Bucket} (h : x.waiting = 0) (o : Nat) : (x.borrow o).1 = x := by
  cases x; cases h; simp [Bucket.borrow]

section
variable {s : State} {d : Fin 8} {slice : Nat} {x : Bucket} {e : TenEntry}

theorem State.LoneBucket.portGain (h : s.LoneBucket d slice x e) : s.portGain d slice = { s with buckets := [x.gained e 1] } := by
  unfold State.portGain
  extract_lets mine gained lend
  have hg : gained.filterMap Prod.fst = [x.gained e 1] := by
    change (List.map _ _).filterMap _ = _
    rw [List.filterMap_map]
    refine filterMap_upTo_single x.tenant.isLt fun m => ?_
    by_cases hm : m = x.tenant.toNat
    · subst hm
      simp [mine, h.buckets, firstWhere, h.die, h.slice, h.ent, Bucket.gain_serve h.waiting]
    · cases hm' : s.entOf d (BitVec.ofNat 6 m) <;> simp [mine, h.buckets, firstWhere, Ne.symm hm, hm, hm']
  have hl : ∀ o, (lend ([], o) (x.gained e 1)).1 = [x.gained e 1] := fun o =>
    congrArg (fun y => [y]) (Bucket.borrow_none (x := x.gained e 1) h.waiting o)
  rw [hg, List.foldl_cons, List.foldl_nil]
  simp [hl, h.buckets, h.die, h.slice]

/-- The bucket that has gained is still the port's only one. -/
theorem State.LoneBucket.gained (h : s.LoneBucket d slice x e) (k : Nat) :
    ({ s with buckets := [x.gained e k] } : State).LoneBucket d slice (x.gained e k) e :=
  ⟨rfl, h.die, h.slice, h.waiting, h.ent⟩

theorem State.LoneBucket.steady_iff (h : s.LoneBucket d slice x e) : s.portSteady d slice = true ↔ x.tokens = 1024 * e.depth := by
  simp [State.portSteady, h.buckets, h.die, h.slice, h.waiting, h.ent]

theorem Bucket.gained_full (h : x.tokens = 1024 * e.depth) (k : Nat) : x.gained e k = x := by
  cases x
  cases h
  simp [Bucket.gained]

theorem Bucket.gained_gained (x : Bucket) (e : TenEntry) (k : Nat) : (x.gained e 1).gained e k = x.gained e (k + 1) := by
  simp only [Bucket.gained, Bucket.mk.injEq, true_and, and_true, Nat.add_mul]
  omega

/-- In each clk of a run the bucket gains its rate, up to its depth. -/
theorem State.LoneBucket.portRun (k : Nat) : ∀ {s : State} {x : Bucket}, s.LoneBucket d slice x e → x.tokens ≤ 1024 * e.depth →
    s.portRun d slice k = { s with buckets := [x.gained e k] } := by
  induction k with
  | zero =>
    intro s x h hle
    have hx : x.gained e 0 = x := by cases x; simpa [Bucket.gained] using hle
    rw [State.portRun, hx, ← h.buckets]
  | succ k ih =>
    intro s x h hle
    by_cases hfull : x.tokens = 1024 * e.depth
    · rw [State.portRun, if_pos (h.steady_iff.2 hfull), Bucket.gained_full hfull, ← h.buckets]
    · rw [State.portRun, if_neg (mt h.steady_iff.1 hfull), h.portGain, ih (h.gained 1) (Nat.min_le_right _ _), Bucket.gained_gained]

theorem State.LoneBucket.portTo (h : s.LoneBucket d slice x e) (hle : x.tokens ≤ 1024 * e.depth) :
    (s.portTo d slice).buckets = [{ x.gained e (s.clk - x.till) with till := s.clk }] := by
  have hmine : firstWhere (fun x : Bucket => x.die == d.val && x.slice == slice) s.buckets = some x := by
    simp [h.buckets, firstWhere, h.die, h.slice]
  unfold State.portTo
  extract_lets mine
  have hm : mine (x.gained e (s.clk - x.till)) = true := by simp [mine, Bucket.gained, h.die, h.slice]
  rw [hmine]
  change List.map _ (s.portRun d slice (s.clk - x.till)).buckets = _
  rw [h.portRun _ hle]
  exact congrArg (fun y => [y]) (if_pos hm)

end

/-! ### The events (R301 to R303, R423) -/

/-- Closing an extent changes no byte. -/
theorem State.closeExtent_mem (s : State) (x : Extent) : (s.closeExtent x).mem = s.mem := rfl

theorem dcExtentAdd_clears (base len : Nat) (poison : List Nat) :
    ∀ sec ∈ poison.filter fun x => !meets base len (32 * x) 32, ¬(base < 32 * sec + 32 ∧ 32 * sec < base + len) := by
  intro sec h hm
  simpa [meets, hm] using (List.mem_filter.1 h).2

theorem memoryEvents_claim : Sys2Proof.Claims.MemoryEvents := by
  intro s br base len
  refine ⟨fun hlo hhi hlen hfree => ?_, fun x hx hdir htr => ?_, ⟨fun hst hidle => ?_, fun hst hidle => ?_⟩, fun hhot => ?_, ?_,
    fun x e hb hd hs hw he hle => ?_⟩
  · exact ⟨_, exec_dcExtentAdd hlo hhi hlen hfree, List.mem_cons_self, rfl, dcExtentAdd_clears _ _ _⟩
  · obtain ⟨hmem, hback, hl2, hext⟩ := State.endRelease_spec
      (if s.cur.bring.hi then (s.closeExtent x).dropDirtyOf x else s.closeExtent x) x s.cur.bring.hi
    refine ⟨_, exec_dcExtentRelease hx hdir htr, fun h => ?_, fun h hwf p hp => ?_, hback, hl2, hext⟩
    · rw [hmem, if_neg (by rw [h]; decide), State.closeExtent_mem]
    · rw [hmem, if_pos h, State.dropDirtyOf_get (s.closeExtent x) x hwf hp, State.closeExtent_mem]
  · exact ⟨_, rfl, State.chan_rest (by rw [hst]; decide) hidle⟩
  · exact ⟨_, rfl, State.chan_rest hst hidle⟩
  · exact ⟨_, congrArg Host.Outcome.next (if_pos hhot), List.mem_cons_self⟩
  · exact ⟨_, rfl, fun r => by simp⟩
  · exact ⟨_, rfl, State.LoneBucket.portTo ⟨hb, hd, hs, hw, he⟩ hle⟩

/-- Settles O56: errors (R54, R419, R422) event by event; extents, channels and rows each by the equation of its event; and a bucket by
induction on the clk that have passed. -/
theorem memoryEvents : Obligations.MemoryEvents := ⟨errorEvents_claim, memoryEvents_claim⟩

end Sys2Proof.Machine
end

section
/-! SUPPORT. Engine words (R30, R32, R44): the words of L, V and S come to an issue, and what keeps a word from issuing. -/

namespace Sys2Proof.Machine

/-! ### The words of L, V and S come to an issue (R30) -/

/-- A turn that comes to the issue of a word with header `h` which pops at most four entries. -/
def State.IssuesAs (s : State) (h : Hdr) (lw : Bool) (r : Out) : Prop :=
  ∃ nq body, r = s.issue h lw nq body ∧ nq ≤ 4

section
variable (s : State) (h : Hdr)

theorem State.issue_issuesAs {nq : Nat} (hn : nq ≤ 4) (lw : Bool) (body : State → List W64 → Eff) :
    s.IssuesAs h lw (s.issue h lw nq body) := ⟨nq, body, rfl, hn⟩

theorem State.vIssue_issuesAs {nq : Nat} (hn : nq ≤ 4) (regs : List Nat) (body : State → List W64 → Eff) :
    s.IssuesAs h false (s.vIssue h nq regs body) := s.issue_issuesAs h hn _ _

theorem State.vWord_issuesAs (more : List Nat) {srcs : List (BitVec 6 × BitVec 3)} (hn : srcs.length ≤ 4)
    (body : State → List VReg → Eff) : s.IssuesAs h false (s.vWord h more srcs body) :=
  s.vIssue_issuesAs h (List.countP_le_length.trans hn) _ _

theorem State.vComp_issuesAs (o : VOp) {srcs : List (BitVec 6 × BitVec 3)} (hn : srcs.length ≤ 4)
    (f : RMode → List VReg → VReg → VReg) : s.IssuesAs h false (s.vComp h o srcs f) := s.vWord_issuesAs h _ hn _

theorem State.vCompOld_issuesAs (o : VOp) {srcs : List (BitVec 6 × BitVec 3)} (hn : srcs.length ≤ 4)
    (f : RMode → List VReg → VReg → VReg) : s.IssuesAs h false (s.vCompOld h o srcs f) := s.vWord_issuesAs h _ hn _

theorem State.vEl1_issuesAs (o : VOp) (f : RMode → Nat → Nat) : s.IssuesAs h false (s.vEl1 h o f) :=
  s.vComp_issuesAs h o (Nat.le_of_ble_eq_true rfl) _

theorem State.vEl2_issuesAs (o : VOp) (f : RMode → Nat → Nat → Nat) : s.IssuesAs h false (s.vEl2 h o f) :=
  s.vComp_issuesAs h o (Nat.le_of_ble_eq_true rfl) _

theorem State.vEl3_issuesAs (o : VOp) (f : RMode → Nat → Nat → Nat → Nat) : s.IssuesAs h false (s.vEl3 h o f) :=
  s.vComp_issuesAs h o (Nat.le_of_ble_eq_true rfl) _

theorem State.vLanes_issuesAs (o : VOp) (f : VReg → VReg → Nat → W32) : s.IssuesAs h false (s.vLanes h o f) :=
  s.vComp_issuesAs h o (Nat.le_of_ble_eq_true rfl) _

theorem State.vF1_issuesAs (o : VOp) (f : RMode → Val → Val) : s.IssuesAs h false (s.vF1 h o f) := s.vEl1_issuesAs h o _

theorem State.vF2_issuesAs (o : VOp) (f : RMode → Val → Val → Val) : s.IssuesAs h false (s.vF2 h o f) := s.vEl2_issuesAs h o _

theorem State.vF3_issuesAs (o : VOp) (f : RMode → Val → Val → Val → Val) : s.IssuesAs h false (s.vF3 h o f) := s.vEl3_issuesAs h o _

theorem State.vCmp_issuesAs (c : VCmp) (p : Nat → Nat → Bool) : s.IssuesAs h false (s.vCmp h c p) := by
  unfold State.vCmp
  exact s.vWord_issuesAs h _ (Nat.le_of_ble_eq_true rfl) _

theorem State.vMaskOp_issuesAs (o : MOp) (f : Mask → Mask → Mask) : s.IssuesAs h false (s.vMaskOp h o f) :=
  s.vIssue_issuesAs h (Nat.zero_le _) _ _

theorem State.vReduce_issuesAs (o : VOp) (fnode inode : W32 → W32 → W32) (fid iid : W32) :
    s.IssuesAs h false (s.vReduce h o fnode inode fid iid) := s.vWord_issuesAs h _ (Nat.le_of_ble_eq_true rfl) _

theorem State.loopWord_issuesAs (o : LoopOp) : s.IssuesAs h true (s.loopWord h o) :=
  s.issue_issuesAs h (by split <;> decide) _ _

theorem State.endlWord_issuesAs (n : BitVec 3) : s.IssuesAs h true (s.endlWord h n) := s.issue_issuesAs h (Nat.zero_le _) _ _

theorem State.strideWord_issuesAs (o : StrideSet) : s.IssuesAs h false (s.strideWord h o) := s.issue_issuesAs h (Nat.zero_le _) _ _

end

theorem execFbind_issuesAs (s : State) (h : Hdr) (o : LBind) : s.IssuesAs h false (execFbind h o s) := by
  unfold execFbind
  exact s.issue_issuesAs h (by split <;> decide) _ _

theorem execVsel_issuesAs (s : State) (h : Hdr) (o : VOp) : s.IssuesAs h false (execVsel h o s) := by
  unfold execVsel
  exact s.vWord_issuesAs h _ (Nat.le_of_ble_eq_true rfl) _

theorem bitsOf_length_le (m : BitVec 4) : (bitsOf m).length ≤ 4 := by revert m; decide

theorem execGrain_issuesAs (s : State) (h : Hdr) (o : SGrain) : s.IssuesAs h false (execGrain h o s) :=
  s.issue_issuesAs h (bitsOf_length_le o.wmask) _ _

/-- Each word of L, V and S is of one of the families above, or begins with its issue. -/
theorem exec_headed {i : Instr} {h : Hdr} {lw : Bool} (hi : headed i = some (h, lw)) (s : State) : s.IssuesAs h lw (exec i s) := by
  unfold headed at hi
  split at hi <;> cases hi <;>
    simp -zeta only [
      exec, execFload, execFgath, execMovb, execFpref, execBfset, execLset, execLsetCvc, execLLoop, execLEndl, execVaddInt,
      execVsubInt, execVmulInt, execVmulh, execVmulhu, execVadds, execVsubs, execVaddsu, execVsubsu, execVand, execVor,
      execVxor, execVandn, execVshl, execVshr, execVsar, execVminInt, execVmaxInt, execVminu, execVmaxu, execVabsInt,
      execVnegInt, execVpopc, execVclz, execVaddFloat, execVsubFloat, execVmulFloat, execVdiv, execVsqrt, execVminFloat,
      execVmaxFloat, execVabsFloat, execVnegFloat, execVrint, execVfma, execVfms, execVfnma, execVmad, execVdot, execVcmpeq,
      execVcmpne, execVcmplt, execVcmple, execVcmpltu, execVcmpleu, execVcmpun, execVbsel, execVcvt, execVcvtu, execVexp2,
      execVlog2, execVrcp, execVrsq, execVmov, execVbcst, execVperm, execVrot, execVxch, execVidx, execVli, execRsum,
      execRmax, execRmin, execRndcV, execMand, execMor, execMxor, execMandn, execMnot, execMset, execMclr, execVmode,
      execVld, execVst, execVgath, execVscat, execPart, execVatom, execRedm, execRedt, execVLoop, execVEndl, execVlset,
      execFstore, execQstore, execReq, execSmode, execSscat, execSrel, execSLoop, execSEndl, execSlset, execSlsetCvc,
      execFbind_issuesAs, execVsel_issuesAs, execGrain_issuesAs, State.issue_issuesAs, State.vIssue_issuesAs,
      State.vComp_issuesAs, State.vCompOld_issuesAs, State.vEl1_issuesAs, State.vEl2_issuesAs, State.vEl3_issuesAs,
      State.vLanes_issuesAs, State.vF1_issuesAs, State.vF2_issuesAs, State.vF3_issuesAs, State.vCmp_issuesAs,
      State.vMaskOp_issuesAs, State.vReduce_issuesAs, State.loopWord_issuesAs, State.endlWord_issuesAs,
      State.strideWord_issuesAs, Nat.zero_le, Nat.reduceLeDiff, List.length_cons, List.length_nil, Nat.reduceAdd]

/-! ### What keeps a word from issuing (R30, R32, R44) -/

theorem hdrOk_iff (h : Hdr) (e : Eng) (lw : Bool) : hdrOk h e lw = true ↔ headFits h e lw := by
  unfold hdrOk headFits
  cases h.first <;> cases h.last <;> simp

theorem hdrSelected_iff (h : Hdr) (e : Eng) : hdrSelected h e = true ↔ headSelects h e := by
  simp [hdrSelected, headSelects, ← Bool.not_eq_true, imp_iff_not_or]

theorem hdrSkips_iff (h : Hdr) (e : Eng) : hdrSkips h e = true ↔ headSkips h e := by
  rw [hdrSkips, headSkips, Bool.and_eq_true, Bool.not_eq_true', ← hdrSelected_iff, Bool.not_eq_true]
  refine and_congr_left fun hs => ?_
  cases hf : h.first <;> cases hl : h.last <;> simp [hdrOk, hf, hl, hdrSelected] at hs ⊢

theorem State.issue_waits {s : State} {h : Hdr} (h0 : s.myEng.issued = false) (hs : hdrSkips h s.myEng = false)
    (ht : s.myEng.taken = false) (hc : s.here.canTake s.cur.stream (maskStreams s.cur.stream h.take) = false) (lw : Bool) (nq : Nat)
    (body : State → List W64 → Eff) : s.issue h lw nq body = .next (s.waitEng .take h.take.toNat 1) := by
  simp [State.issue, h0, hs, ht, hc]

/-- What the issue of a word comes to when its header keeps it from issuing, before what follows the turn. -/
theorem State.issue_headCases {s : State} (h0 : s.myEng.issued = false) (h : Hdr) (lw : Bool) {nq : Nat} (hn : nq ≤ 4)
    (body : State → List W64 → Eff) :
    (¬headFits h s.myEng lw → ¬headSkips h s.myEng → s.supplied h → s.issue h lw nq body = .next (s.hold 0x01 0 false)) ∧
    (headSkips h s.myEng → s.issue h lw nq body = .next (s.modMyEng fun e => { e with pc := s.nextPc, wait := none })) ∧
    (¬headSkips h s.myEng → s.myEng.taken = false →
      (∃ g ∈ maskStreams s.cur.stream h.take, vget s.here.tokens (fifo g s.cur.stream) 0 = 0) →
      s.issue h lw nq body = .next (s.waitEng .take h.take.toNat 1)) := by
  simp only [← hdrOk_iff, ← hdrSkips_iff, Bool.not_eq_true]
  refine ⟨fun hok hskip ⟨htok, hq⟩ => ?_, fun hskip => State.issue_skipped h0 hskip lw nq body, fun hskip ht ⟨g, hg, hg0⟩ => ?_⟩
  · exact State.issue_ill h0 hok hskip ((Bench.canTake_iff _ _ _).2 htok) (hn.trans hq) body
  · refine State.issue_waits h0 hskip ht ?_ lw nq body
    rw [← Bool.not_eq_true, Bench.canTake_iff]
    exact fun hall => absurd (hall g hg) (by omega)

end Sys2Proof.Machine
end

section
/-! SUPPORT. Engine words of P (R242, R261): what comes to an issue, and the end of a segment; then every word that carries a header. -/

namespace Sys2Proof.Machine

/-! ### The words of P come to an issue (R242, R261) -/

/-- A turn that comes to that of a word of P with header `h` which pops at most four entries. -/
def State.PlaneAs (s : State) (h : Hdr) (ends lw : Bool) (r : Out) : Prop :=
  ∃ i place nq body, r = s.pWord h i place ends lw nq body ∧ nq ≤ 4

theorem State.pWord_planeAs (s : State) (h : Hdr) (i : Instr) (place : Place) (ends lw : Bool) {nq : Nat} (hn : nq ≤ 4)
    (body : PCap → State → List W64 → Eff) : s.PlaneAs h ends lw (s.pWord h i place ends lw nq body) := ⟨i, place, nq, body, rfl, hn⟩

theorem execPloop_planeAs (s : State) (h : Hdr) (o : PLoopOp) : s.PlaneAs h true true (execPloop h o s) :=
  s.pWord_planeAs h _ _ _ _ (by split <;> decide) _

theorem exec_planeHead {i : Instr} {h : Hdr} {ends lw : Bool} (hi : planeHead i = some (h, ends, lw)) (s : State) :
    s.PlaneAs h ends lw (exec i s) := by
  unfold planeHead at hi
  split at hi <;> cases hi <;>
    simp -zeta only [exec, execPtile, execPcommit, execPsheet, execPwgt, execPcorr, execPmm, execPshift, execPshiftRel, execPzero,
      execPhsend, execPhrecv, execPdrain, execPchk, execPfwd, execPfwdRx, execPmode, execPseg, execPendl, execPloop_planeAs,
      State.pWord_planeAs, Nat.zero_le]

theorem State.modPlane_here (s : State) (f : Plane → Plane) : (s.modPlane f).here = s.here.modPlane f := by
  simp [State.modPlane, State.here]

/-- A change of the plane leaves the engine of the turn as it was. -/
theorem State.modPlane_myEng (s : State) (f : Plane → Plane) : (s.modPlane f).myEng = s.myEng := by
  have hcur : (s.modPlane f).cur = s.cur := rfl
  rw [State.myEng, State.modPlane_here, hcur, State.myEng]
  cases s.cur.stream <;> rfl

theorem State.modPlane_supplied (s : State) (f : Plane → Plane) (h : Hdr) : (s.modPlane f).supplied h ↔ s.supplied h := by
  rw [State.supplied, State.modPlane_here]
  exact Iff.rfl

/-- The state in which a word of P issues: one that ends a segment has ended it. -/
def State.reaches (s : State) (ends : Bool) : State := if ends then s.endSeg else s

theorem State.reaches_myEng (s : State) (ends : Bool) : (s.reaches ends).myEng = s.myEng := by
  cases ends
  · rfl
  · exact s.modPlane_myEng _

theorem State.reaches_supplied (s : State) (ends : Bool) (h : Hdr) : (s.reaches ends).supplied h ↔ s.supplied h := by
  cases ends
  · exact Iff.rfl
  · exact s.modPlane_supplied _ h

theorem State.reaches_cur (s : State) (ends : Bool) : (s.reaches ends).cur = s.cur := by cases ends <;> rfl

theorem State.reaches_nextPc (s : State) (ends : Bool) : (s.reaches ends).nextPc = s.nextPc := by cases ends <;> rfl

theorem State.reaches_tokens (s : State) (ends : Bool) : (s.reaches ends).here.tokens = s.here.tokens := by
  cases ends
  · rfl
  · change (s.modPlane _).here.tokens = _
    rw [State.modPlane_here]; rfl

/-- The segment that is open, if one is, may end. -/
theorem State.segOk_iff (s : State) : s.segOk ↔ (match s.plane.regs.seg with | some q => q.ok | none => true) = true := by
  unfold State.segOk
  cases s.plane.regs.seg <;> simp

theorem State.pWord_badSeg {s : State} (hseg : ¬s.segOk) (h : Hdr) (i : Instr) (place : Place) (lw : Bool) (nq : Nat)
    (body : PCap → State → List W64 → Eff) : s.pWord h i place true lw nq body = .next s.badSeg := by
  rw [State.segOk_iff, Bool.not_eq_true] at hseg
  unfold State.pWord
  rw [if_pos]
  · rfl
  · rw [Bool.true_and, Bool.not_eq_true']
    exact hseg

theorem State.pWord_issues {s : State} {ends : Bool} (hseg : ends = false ∨ s.segOk) (h : Hdr) (i : Instr) (place : Place) (lw : Bool)
    (nq : Nat) (body : PCap → State → List W64 → Eff) :
    ∃ body', s.pWord h i place ends lw nq body = ((s.reaches ends).reachWord h).issue h lw nq body' := by
  rw [State.segOk_iff] at hseg
  unfold State.pWord
  rw [if_neg]
  · exact ⟨_, rfl⟩
  · rcases hseg with he | hok
    · simp [he]
    · rw [Bool.and_eq_true, Bool.not_eq_true', not_and, Bool.not_eq_false]
      exact fun _ => hok

/-- What the turn of a word of P comes to when its header keeps it from issuing, before what follows the turn. -/
theorem State.reachWord_headCases {s : State} (h0 : s.myEng.issued = false) (h : Hdr) (lw : Bool) {nq : Nat} (hn : nq ≤ 4)
    (body : State → List W64 → Eff) :
    (¬headFits h s.myEng lw → ¬headSkips h s.myEng → s.supplied h →
      (s.reachWord h).issue h lw nq body = .next (s.hold 0x01 0 false)) ∧
    (headSkips h s.myEng → (s.reachWord h).issue h lw nq body =
      .next (s.skipWord.modMyEng fun e => { e with pc := s.nextPc, wait := none })) ∧
    (¬headSkips h s.myEng → s.myEng.taken = false →
      (∃ g ∈ maskStreams s.cur.stream h.take, vget s.here.tokens (fifo g s.cur.stream) 0 = 0) →
      (s.reachWord h).issue h lw nq body = .next (s.waitEng .take h.take.toNat 1)) := by
  by_cases hskip : headSkips h s.myEng
  · have hreach : s.reachWord h = s.skipWord := by rw [State.reachWord, h0, (hdrSkips_iff _ _).2 hskip]; rfl
    have heng : s.skipWord.myEng = s.myEng := (s.crcWord s.cur.word).modPlane_myEng _ |>.trans (s.modPlane_myEng _)
    refine ⟨fun _ hno => absurd hskip hno, fun _ => ?_, fun hno => absurd hskip hno⟩
    rw [hreach]
    exact (State.issue_headCases (s := s.skipWord) (heng ▸ h0) h lw hn body).2.1 (heng ▸ hskip)
  · have hreach : s.reachWord h = s := by
      rw [State.reachWord, Bool.eq_false_iff.2 (mt (hdrSkips_iff _ _).1 hskip), Bool.and_false]; rfl
    obtain ⟨hill, _, hwait⟩ := State.issue_headCases h0 h lw hn body
    rw [hreach]
    exact ⟨hill, fun hs => absurd hs hskip, hwait⟩

/-- The same of the word itself, whose tokens and loops the end of a segment leaves alone. -/
theorem State.pWord_headCases {s : State} (h0 : s.myEng.issued = false) {ends : Bool} (hseg : ends = false ∨ s.segOk) (h : Hdr)
    (i : Instr) (place : Place) (lw : Bool) {nq : Nat} (hn : nq ≤ 4) (body : PCap → State → List W64 → Eff) :
    (¬headFits h s.myEng lw → ¬headSkips h s.myEng → s.supplied h →
      s.pWord h i place ends lw nq body = .next ((s.reaches ends).hold 0x01 0 false)) ∧
    (headSkips h s.myEng → s.pWord h i place ends lw nq body =
      .next ((s.reaches ends).skipWord.modMyEng fun e => { e with pc := s.nextPc, wait := none })) ∧
    (¬headSkips h s.myEng → s.myEng.taken = false →
      (∃ g ∈ maskStreams s.cur.stream h.take, vget s.here.tokens (fifo g s.cur.stream) 0 = 0) →
      s.pWord h i place ends lw nq body = .next ((s.reaches ends).waitEng .take h.take.toNat 1)) := by
  obtain ⟨body', hbody⟩ := State.pWord_issues hseg h i place lw nq body
  have hcases := State.reachWord_headCases (s := s.reaches ends) (by rw [State.reaches_myEng]; exact h0) h lw hn body'
  rw [hbody]
  rwa [State.reaches_myEng, State.reaches_supplied, State.reaches_cur, State.reaches_nextPc, State.reaches_tokens] at hcases

/-! ### Every word that carries a header (R30, R44, R261) -/

theorem headed_headCases {i : Instr} {h : Hdr} {lw : Bool} {s : State} (hi : headed i = some (h, lw)) (h0 : s.myEng.issued = false) :
    s.headCases i h lw s s id := by
  obtain ⟨nq, body, he, hn⟩ := exec_headed hi s
  rw [State.headCases, he]
  exact State.issue_headCases h0 h lw hn body

/-- What follows the turn follows each of its ends. -/
theorem rdvOf_headCases {i : Instr} {h : Hdr} {s : State} (hi : rdvOf i = some h) (h0 : s.myEng.issued = false) :
    s.headCases i h false s s fun t => t.tryRetire s.cur.bench := by
  obtain ⟨hill, hskip, hwait⟩ := State.issue_headCases h0 h false (Nat.zero_le 4)
    fun s _ => .done (s.modMyEng fun e => { e with rdv := true }) [] none
  rw [State.headCases, exec_rdvOf hi, State.rdvWord]
  refine ⟨fun a b c => ?_, fun a => ?_, fun a b c => ?_⟩
  · rw [hill a b c]
  · rw [hskip a]
  · rw [hwait a b c]

theorem planeHead_headCases {i : Instr} {h : Hdr} {ends lw : Bool} {s : State} (hi : planeHead i = some (h, ends, lw))
    (h0 : s.myEng.issued = false) (hseg : ends = false ∨ s.segOk) :
    s.headCases i h lw (s.reaches ends) (s.reaches ends).skipWord id := by
  obtain ⟨j, place, nq, body, he, hn⟩ := exec_planeHead hi s
  rw [State.headCases, he]
  exact State.pWord_headCases h0 hseg h j place lw hn body

theorem planeHead_badSeg {i : Instr} {h : Hdr} {lw : Bool} {s : State} (hi : planeHead i = some (h, true, lw)) (hseg : ¬s.segOk) :
    exec i s = .next s.badSeg := by
  obtain ⟨j, place, nq, body, he, _⟩ := exec_planeHead hi s
  rw [he, State.pWord_badSeg hseg]

theorem pRdv_headCases (h : Hdr) {s : State} (h0 : s.myEng.issued = false) (hseg : s.segOk) :
    s.headCases (.pRdv h) h false s.endSeg s.endSeg.skipWord fun t => t.tryRetire s.cur.bench := by
  obtain ⟨hill, hskip, hwait⟩ := State.pWord_headCases h0 (.inr hseg) h (.pRdv h) .outside false (Nat.zero_le 4)
    fun _ s _ => .done (s.modMyEng fun e => { e with rdv := true }) [] none
  have hexec : exec (.pRdv h) s = execPRdv h s := rfl
  rw [State.headCases, hexec, execPRdv]
  refine ⟨fun a b c => ?_, fun a => ?_, fun a b c => ?_⟩
  · rw [hill a b c]; rfl
  · rw [hskip a]; rfl
  · rw [hwait a b c]; rfl

theorem pRdv_badSeg (h : Hdr) {s : State} (hseg : ¬s.segOk) : exec (.pRdv h) s = .next (s.badSeg.tryRetire s.cur.bench) := by
  change execPRdv h s = _
  rw [execPRdv, State.pWord_badSeg hseg]

theorem engineHeaders_claim : Sys2Proof.Claims.EngineHeaders := by
  refine ⟨fun i h lw s hi h0 => headed_headCases hi h0, fun i h s hi h0 => rdvOf_headCases hi h0,
    fun i h ends lw s hi _ h0 => ⟨planeHead_headCases hi h0, ?_⟩, fun h s _ h0 => ⟨pRdv_headCases h h0, pRdv_badSeg h⟩⟩
  rintro rfl hseg
  exact planeHead_badSeg hi hseg

end Sys2Proof.Machine
end

section
/-! SUPPORT. Retirement (R33, R34): which gives a stream pushes when it settles. -/

namespace Sys2Proof.Machine

/-! ### What settling a stream pushes (R33) -/

section
variable (x : Bench) (p : Nat → Stream → Bool) (st u : Stream)

@[simp] theorem Bench.land_eng : (x.land p).eng st = x.eng st := by unfold Bench.land; split <;> cases st <;> rfl
@[simp] theorem Bench.land_tokens : (x.land p).tokens = x.tokens := by unfold Bench.land; split <;> rfl
@[simp] theorem Bench.land_sq : (x.land p).sq = x.sq := by unfold Bench.land; split <;> rfl
@[simp] theorem Bench.land_vfly : (x.land p).vfly = x.vfly := by unfold Bench.land; split <;> rfl
@[simp] theorem Bench.dropRanges_eng : (x.dropRanges u).eng st = x.eng st := by cases st <;> rfl
@[simp] theorem Bench.dropRanges_tokens : (x.dropRanges u).tokens = x.tokens := rfl
@[simp] theorem Bench.dropRanges_vfly : (x.dropRanges u).vfly = x.vfly := rfl
@[simp] theorem Bench.giveTokens_eng (me : Stream) (dst : List Stream) (acq : Scope) : (x.giveTokens me dst acq).eng st = x.eng st := by
  cases st <;> rfl

end

/-- The bytes of a stream land when it settles. -/
def Bench.landed (x : Bench) (st : Stream) : Bench := x.land fun _ t => t == st

theorem Bench.pushOne_of_flags_nil {x : Bench} {st : Stream} (h : (x.eng st).flags = []) : x.pushOne st = x.pushGive st := by
  simp [Bench.pushOne, Bench.pushFlags, h]

theorem Bench.pushAll_none {x : Bench} {st : Stream} (h : x.pushOne st = none) (k : Nat) : x.pushAll st k = x := by
  cases k <;> simp [Bench.pushAll, h]

/-- A stream that may push nothing keeps its gives. -/
theorem Bench.settle_keeps {x : Bench} {st : Stream} (hf : (x.eng st).flags = []) (hg : (x.landed st).pushGive st = none) :
    x.settle st = (x.landed st).dropRanges st := by
  have hone : (x.landed st).pushOne st = none := by
    rw [Bench.pushOne_of_flags_nil, hg]
    rw [Bench.landed, Bench.land_eng, hf]
  exact congrArg (Bench.dropRanges · st) (Bench.pushAll_none hone _)

/-- A stream with one give that it may push pushes it. -/
theorem Bench.settle_pushes {x y : Bench} {st : Stream} {g : Give} (hf : (x.eng st).flags = []) (hgives : (x.eng st).gives = [g])
    (hy : (x.landed st).pushGive st = some y) : x.settle st = y.dropRanges st := by
  have hone : (x.landed st).pushOne st = some y := by
    rw [Bench.pushOne_of_flags_nil, hy]
    rw [Bench.landed, Bench.land_eng, hf]
  have hfuel : ((x.landed st).eng st).flags.length + ((x.landed st).eng st).gives.length = 1 := by
    rw [Bench.landed, Bench.land_eng, hf, hgives]; rfl
  change ((x.landed st).pushAll st (((x.landed st).eng st).flags.length + ((x.landed st).eng st).gives.length)).dropRanges st = _
  rw [hfuel]
  simp only [Bench.pushAll, hone]

theorem Bench.pushGive_nil {x : Bench} {st : Stream} (h : (x.eng st).gives = []) : x.pushGive st = none := by
  simp [Bench.pushGive, h]

theorem Bench.pushGive_full {x : Bench} {st : Stream} {g : Give} {gs : List Give} (h : (x.eng st).gives = g :: gs)
    (hfull : x.canGive st (maskStreams st g.mask) = false) : x.pushGive st = none := by
  simp [Bench.pushGive, h, hfull]

/-- A give before which nothing waits is pushed when there is room; one of S lets its stores leave the bench first. -/
theorem Bench.pushGive_goes {x : Bench} {st : Stream} {g : Give} {gs : List Give} (h : (x.eng st).gives = g :: gs)
    (hearly : x.giveEarly st g = false) (hroom : x.canGive st (maskStreams st g.mask) = true) :
    x.pushGive st = some (((if st == .s then x.leave 7 g.mark else x).giveTokens st (maskStreams st g.mask) g.acq).modEng st
      fun e => { (e.calm .give) with gives := gs }) := by
  simp [Bench.pushGive, h, hearly, hroom]

/-- Nothing waits before a give that has no flags of its stream, no release of S and no atomic of V to wait for. -/
theorem Bench.giveEarly_eq_false {x : Bench} {st : Stream} {g : Give} (hflags : g.flags = 0) (hv : st = .v → x.vfly = [])
    (hs : st = .s → ∀ e ∈ x.sq, g.mark ≤ e.seq ∨ e.plain = true) : x.giveEarly st g = false := by
  have h2 : (st == .s && x.sq.any fun e => decide (e.seq < g.mark) && !e.plain) = false := by
    by_cases h : st = .s
    · rw [List.any_eq_false.2, Bool.and_false]
      intro e he
      rcases hs h e he with hle | hplain
      · simp [Nat.not_lt.2 hle]
      · simp [hplain]
    · simp [h]
  have h3 : (st == .v && x.vfly.any fun a => decide (a.k < g.mark)) = false := by
    by_cases h : st = .v
    · simp [hv h]
    · simp [h]
  simp [Bench.giveEarly, hflags, h2, h3]

/-! ### Retirement (R33, R34) -/

/-- The give of the instruction of the turn. -/
def State.giveAt (s : State) (give : BitVec 4) : Give :=
  ⟨give, s.here.seq, if s.cur.stream == .v then s.here.vscope.getD .en else .en, s.cur.word, s.cur.pc, s.myEng.flags.length⟩

/-- An engine whose instruction has retired and goes on at `pc`, with the gives that wait. -/
def Eng.retired (e : Eng) (pc : W64) (gives : List Give) : Eng :=
  { e with pc := pc, taken := false, popped := [], issued := false, step := 0, wait := none, cap := none, gives := gives }

/-- A state in which the gives of the turn's instruction wait: it has retired, and has pushed nothing. -/
structure State.Retired (s : State) (give : BitVec 4) (pc : Option W64) (r : State) : Prop where
  cur : r.cur = s.cur
  eng : r.myEng = s.myEng.retired (pc.getD s.nextPc) (if give = 0 then s.myEng.gives else s.myEng.gives ++ [s.giveAt give])
  tokens : r.here.tokens = s.here.tokens
  vfly : r.here.vfly = s.here.vfly

/-- Two benches that agree in the engine of a stream, in the tokens and in V's atomics. -/
structure Bench.GivesAs (st : Stream) (x y : Bench) : Prop where
  eng : x.eng st = y.eng st
  tokens : x.tokens = y.tokens
  vfly : x.vfly = y.vfly

theorem Bench.GivesAs.trans {st : Stream} {x y z : Bench} (h : x.GivesAs st y) (h' : y.GivesAs st z) : x.GivesAs st z :=
  ⟨h.eng.trans h'.eng, h.tokens.trans h'.tokens, h.vfly.trans h'.vfly⟩

theorem Bench.GivesAs.ite {st : Stream} {x y : Bench} (c : Bool) (h : x.GivesAs st y) : Bench.GivesAs st (if c then x else y) y := by
  cases c
  · exact ⟨rfl, rfl, rfl⟩
  · exact h

theorem Bench.leave_givesAs (st : Stream) (x : Bench) (i mark : Nat) : (x.leave i mark).GivesAs st x :=
  ⟨by cases st <;> rfl, rfl, rfl⟩

theorem Bench.vscope_givesAs (st : Stream) (x : Bench) (o : Option Scope) : Bench.GivesAs st { x with vscope := o } x :=
  ⟨by cases st <;> rfl, rfl, rfl⟩

theorem State.record_givesAs (st : Stream) (s : State) (acc : List Acc) : (s.record acc).here.GivesAs st s.here := by
  rw [State.record, State.here_modHere]
  exact .ite _ ⟨by cases st <;> rfl, rfl, rfl⟩

theorem State.retire_eq {s : State} (hst : s.cur.stream = .l ∨ s.cur.stream = .v) (give : BitVec 4) (pc : Option W64) :
    ∃ r, s.Retired give pc r ∧ s.retire give [] pc =
      if s.cur.late then r.modHere fun x => x.lift s.cur.stream s.cur.base [] else r.pushGives s.cur.bench s.cur.stream := by
  have htile : (s.cur.stream == .p && s.here.plane.tile) = false := by rcases hst with h | h <;> rw [h] <;> rfl
  have hc : s.cur.stream ≠ .c := by rcases hst with h | h <;> rw [h] <;> decide
  unfold State.retire
  extract_lets st tile s1 s2 s3
  have htile : tile = false := htile
  have h2 : s2.here.GivesAs st s1.here ∧ s2.cur = s.cur := by
    unfold s2
    split
    · rw [State.here_modHere]
      exact ⟨Bench.vscope_givesAs st _ _, rfl⟩
    · exact ⟨⟨rfl, rfl, rfl⟩, rfl⟩
  have h3 : s3.here.GivesAs st s1.here ∧ s3.cur = s.cur := by
    unfold s3
    rw [if_neg (by rw [htile]; decide)]
    have hdrop : (s2.modHere fun x => x.dropRanges st).here.GivesAs st s2.here := by
      rw [State.here_modHere]
      exact ⟨Bench.dropRanges_eng _ _ _, rfl, rfl⟩
    exact ⟨(State.record_givesAs st _ []).trans (hdrop.trans h2.1), h2.2⟩
  have h1 : s1.here = s.here.modEng st fun e => e.retired (pc.getD s.nextPc)
      (if give = 0 || tile then e.gives else e.gives ++
        [⟨give, s.here.seq, if st == .v then s.here.vscope.getD .en else .en, s.cur.word, s.cur.pc, e.flags.length⟩]) :=
    State.here_modHere _ _
  obtain ⟨⟨heng, htok, hfly⟩, hcur⟩ := h3
  refine ⟨s3, ⟨hcur, ?_, ?_, ?_⟩, by rw [hcur]⟩
  · rw [State.myEng, hcur, heng, h1, Bench.eng_modEng _ _ _ hc, htile]
    simp only [Bool.or_false, decide_eq_true_eq]
    rfl
  · rw [htok, h1, Bench.modEng_tokens]
  · rw [hfly, h1, Bench.modEng_vfly]

/-- What may be pushed of a stream whose atomics have returned. -/
theorem State.bench_pushGives {s : State} {b : BenchId} {st : Stream} (hv : st = .v → (s.bench b).vfly = []) :
    s.pushGives b st = s.modBench b fun x => x.settle st := by
  unfold State.pushGives
  by_cases h : st = .v
  · rw [if_pos h, hv h]; rfl
  · rw [if_neg h]

theorem Bench.canGive_congr {x y : Bench} (h : x.tokens = y.tokens) (st : Stream) (dst : List Stream) :
    x.canGive st dst = y.canGive st dst := by simp [Bench.canGive, h]

theorem Bench.lift_givesAs (x : Bench) (st : Stream) (base : Vector Mem 16) (acc : List Acc) : (x.lift st base acc).GivesAs st x :=
  ⟨by cases st <;> rfl, rfl, rfl⟩

/-- The gives that wait when an instruction has retired and no other give of its stream waits. -/
def State.waitingGives (s : State) (give : BitVec 4) : List Give := if give = 0 then [] else [s.giveAt give]

theorem State.waitingGives_mask (s : State) {give : BitVec 4} (h : give ≠ 0) : (s.waitingGives give).map Give.mask = [give] := by
  rw [State.waitingGives, if_neg h]; rfl

theorem Bench.settle_keeps_givesAs {x : Bench} {st : Stream} (hf : (x.eng st).flags = []) (hg : (x.landed st).pushGive st = none) :
    (x.settle st).GivesAs st x := by
  rw [Bench.settle_keeps hf hg]
  exact ⟨by simp [Bench.landed], by simp [Bench.landed], by simp [Bench.landed]⟩

section
variable {x : Bench} {st : Stream} {g : Give} (hf : (x.eng st).flags = []) (hg : (x.eng st).gives = [g])
  (hearly : x.giveEarly st g = false) (hroom : x.canGive st (maskStreams st g.mask) = true)
include hf hg hearly hroom

/-- What a bench comes to when a stream pushes its one give. -/
theorem Bench.settle_goes : x.settle st =
    ((((if st == .s then (x.landed st).leave 7 g.mark else x.landed st).giveTokens st (maskStreams st g.mask) g.acq).modEng st
      fun e => { (e.calm .give) with gives := [] }).dropRanges st) := by
  refine Bench.settle_pushes hf hg (Bench.pushGive_goes ?_ ?_ ((Bench.canGive_congr (Bench.land_tokens _ _) _ _).trans hroom))
  · rw [Bench.landed, Bench.land_eng, hg]
  · rw [← hearly, Bench.giveEarly, Bench.giveEarly, Bench.landed, Bench.land_vfly, Bench.land_sq]

/-- A give that is pushed leaves the stream, and raises the FIFOs of its mask. -/
theorem Bench.settle_room (hst : st ≠ .c) :
    (x.settle st).eng st = { ((x.eng st).calm .give) with gives := [] } ∧
    ∀ r : Stream, r ≠ st → vget (x.settle st).tokens (fifo st r) 0 =
      vget x.tokens (fifo st r) 0 + (if r ∈ maskStreams st g.mask then 1 else 0) := by
  have hleave : Bench.GivesAs st (if st == .s then (x.landed st).leave 7 g.mark else x.landed st) x :=
    (Bench.GivesAs.ite _ (Bench.leave_givesAs st _ _ _)).trans ⟨Bench.land_eng _ _ _, Bench.land_tokens _ _, Bench.land_vfly _ _⟩
  rw [Bench.settle_goes hf hg hearly hroom]
  refine ⟨?_, fun r hr => ?_⟩
  · rw [Bench.dropRanges_eng, Bench.eng_modEng _ _ _ hst, Bench.giveTokens_eng, hleave.eng]
  · rw [Bench.dropRanges_tokens, Bench.modEng_tokens, Bench.giveTokens_tokens _ _ _ _ hr.symm, hleave.tokens]
    simp

end

theorem maskStreams_zero (me : Stream) : maskStreams me 0 = [] := by cases me <;> rfl

section
variable {s : State} {give : BitVec 4} {pc : Option W64} (hst : s.cur.stream = .l ∨ s.cur.stream = .v) (hg : s.myEng.gives = [])
  (hf : s.myEng.flags = []) (hfly : s.here.vfly = [])
include hst hg hfly

/-- What retires comes to a state of the turn in which its give is to be pushed. -/
theorem State.retire_waiting : ∃ r : State, r.cur = s.cur ∧
    r.here.eng s.cur.stream = s.myEng.retired (pc.getD s.nextPc) (s.waitingGives give) ∧ r.here.tokens = s.here.tokens ∧
    r.here.vfly = [] ∧ s.retire give [] pc = r.modHere fun x =>
      if s.cur.late then x.lift s.cur.stream s.cur.base [] else x.settle s.cur.stream := by
  obtain ⟨r, ⟨hcur, heng, htok, hvfly⟩, hretire⟩ := State.retire_eq hst give pc
  rw [hg, List.nil_append, State.myEng, hcur] at heng
  refine ⟨r, hcur, heng, htok, hvfly.trans hfly, ?_⟩
  rw [hretire]
  cases s.cur.late
  · have hempty : (r.bench s.cur.bench).vfly = [] := by rw [← hcur]; exact hvfly.trans hfly
    rw [if_neg (by decide), State.bench_pushGives fun _ => hempty, ← hcur]; rfl
  · rfl

include hf

/-- A turn that is late, or one for whose gives there is no room, leaves them in the stream. -/
theorem State.retire_keeps (h : s.cur.late = true ∨ s.here.canGive s.cur.stream (maskStreams s.cur.stream give) = false) :
    (s.retire give [] pc).myEng = s.myEng.retired (pc.getD s.nextPc) (s.waitingGives give) ∧
    (s.retire give [] pc).here.tokens = s.here.tokens := by
  obtain ⟨r, hcur, heng, htok, _, hretire⟩ := State.retire_waiting (give := give) (pc := pc) hst hg hfly
  have hkeep : (s.retire give [] pc).here.GivesAs s.cur.stream r.here := by
    rw [hretire, State.here_modHere]
    cases hlate : s.cur.late
    · have hfull := h.resolve_left (by simp [hlate])
      have hgive : give ≠ 0 := by rintro rfl; rw [maskStreams_zero] at hfull; exact Bool.noConfusion hfull
      refine Bench.settle_keeps_givesAs (by rw [heng]; exact hf) (Bench.pushGive_full (g := s.giveAt give) (gs := []) ?_ ?_)
      · rw [Bench.landed, Bench.land_eng, heng, State.waitingGives, if_neg hgive]; rfl
      · exact (Bench.canGive_congr ((Bench.land_tokens _ _).trans htok) _ _).trans hfull
    · exact Bench.lift_givesAs _ _ _ _
  have hcur' : (s.retire give [] pc).cur = s.cur := by rw [hretire]; exact hcur
  exact ⟨by rw [State.myEng, hcur', hkeep.eng, heng], hkeep.tokens.trans htok⟩

/-- A turn that is not late pushes the give of what retires when there is room. -/
theorem State.retire_pushes (hlate : s.cur.late = false)
    (hroom : s.here.canGive s.cur.stream (maskStreams s.cur.stream give) = true) :
    (s.retire give [] pc).myEng = s.myEng.retired (pc.getD s.nextPc) [] ∧
    ∀ r : Stream, r ≠ s.cur.stream → vget (s.retire give [] pc).here.tokens (fifo s.cur.stream r) 0 =
      vget s.here.tokens (fifo s.cur.stream r) 0 + (if r ∈ maskStreams s.cur.stream give then 1 else 0) := by
  obtain ⟨r, hcur, heng, htok, hvfly, hretire⟩ := State.retire_waiting (give := give) (pc := pc) hst hg hfly
  have hcur' : (s.retire give [] pc).cur = s.cur := by rw [hretire]; exact hcur
  rw [State.myEng, hcur', hretire, State.here_modHere, hlate, if_neg (by decide), ← htok]
  have hflags : (r.here.eng s.cur.stream).flags = [] := by rw [heng]; exact hf
  by_cases hgive : give = 0
  · have hnil : (r.here.eng s.cur.stream).gives = [] := by rw [heng, State.waitingGives, if_pos hgive]; rfl
    obtain ⟨heng', htok', _⟩ := Bench.settle_keeps_givesAs hflags (Bench.pushGive_nil (by rw [Bench.landed, Bench.land_eng, hnil]))
    refine ⟨by rw [heng', heng, State.waitingGives, if_pos hgive], fun q hq => ?_⟩
    rw [htok', hgive, maskStreams_zero, if_neg List.not_mem_nil, Nat.add_zero]
  · have hone : (r.here.eng s.cur.stream).gives = [s.giveAt give] := by rw [heng, State.waitingGives, if_neg hgive]; rfl
    have hs : s.cur.stream ≠ .s := by rcases hst with h | h <;> rw [h] <;> decide
    have hc : s.cur.stream ≠ .c := by rcases hst with h | h <;> rw [h] <;> decide
    obtain ⟨heng', htok'⟩ := Bench.settle_room hflags hone
      (Bench.giveEarly_eq_false (congrArg List.length hf) (fun _ => hvfly) fun h => absurd h hs)
      ((Bench.canGive_congr htok _ _).trans hroom) hc
    exact ⟨by rw [heng', heng]; rfl, htok'⟩

end

theorem engineRetires_claim : Sys2Proof.Claims.EngineRetires := by
  intro s give pc hst hg hf hfly t room
  by_cases h : s.cur.late = true ∨ room = false
  · obtain ⟨heng, htok⟩ := State.retire_keeps (pc := pc) hst hg hf hfly h
    have hno : ¬(s.cur.late = false ∧ room = true) := by rcases h with h | h <;> simp [h]
    refine ⟨by rw [heng]; rfl, by rw [heng]; rfl, by rw [heng]; rfl, by rw [heng]; rfl, by rw [heng]; rfl,
      fun hl hr => absurd ⟨hl, hr⟩ hno, fun _ => ⟨htok, fun hgive => ?_⟩⟩
    rw [heng]
    exact s.waitingGives_mask hgive
  · rw [not_or, Bool.not_eq_true, Bool.not_eq_false] at h
    obtain ⟨heng, htok⟩ := State.retire_pushes (pc := pc) hst hg hf hfly h.1 h.2
    exact ⟨by rw [heng]; rfl, by rw [heng]; rfl, by rw [heng]; rfl, by rw [heng]; rfl, by rw [heng]; rfl,
      fun _ _ => ⟨by rw [heng]; rfl, htok⟩, fun hk => absurd hk (by simp [h])⟩

/-- Settles O36: what the issue of a word comes to when its header keeps it from issuing, for every word that carries a header; and
retirement, by what settling the stream pushes. -/
theorem engineIssue : Obligations.EngineIssue := ⟨engineHeaders_claim, engineRetires_claim⟩

end Sys2Proof.Machine
end

section
/-! SUPPORT. Trap entry (R177 to R179), wakes of a watch (R144) and the answers of firmware (R162). -/

namespace Sys2Proof.Machine

/-! ### Trap entry (R178) -/

/-- What a trap leaves as it was: the registers, the trap vector and the engines. -/
structure Bench.SameFiles (x y : Bench) : Prop where
  file : x.c.file = y.c.file
  globals : x.c.globals = y.c.globals
  trap : x.c.trap = y.c.trap
  eng : ∀ st, x.eng st = y.eng st

theorem Bench.SameFiles.trans {x y z : Bench} (h : x.SameFiles y) (h' : y.SameFiles z) : x.SameFiles z :=
  ⟨h.file.trans h'.file, h.globals.trans h'.globals, h.trap.trans h'.trap, fun st => (h.eng st).trans (h'.eng st)⟩

theorem Bench.modCtx_sameFiles (x : Bench) (c : Fin 4) (f : Ctx → Ctx) : (x.modCtx c f).SameFiles x :=
  ⟨rfl, rfl, rfl, fun st => by cases st <;> rfl⟩

theorem Bench.clearShadows_sameFiles (x : Bench) (c : Fin 4) : (x.clearShadows c).SameFiles x :=
  ⟨rfl, rfl, rfl, fun st => by cases st <;> rfl⟩

theorem Bench.asks_sameFiles (x : Bench) (as : List AskIn) : Bench.SameFiles { x with asks := as } x :=
  ⟨rfl, rfl, rfl, fun st => by cases st <;> rfl⟩

theorem State.dropWatch_sameFiles (s : State) (b : BenchId) (c : Fin 4) : ((s.dropWatch b c).bench b).SameFiles (s.bench b) := by
  unfold State.dropWatch
  split
  · change ((s.wakeCtx b c).bench b).SameFiles _
    rw [State.wakeCtx, State.bench_modBench, if_pos rfl]
    exact Bench.modCtx_sameFiles _ _ _
  · exact ⟨rfl, rfl, rfl, fun _ => rfl⟩

/-- A bench whose trap vector is set enters the handler, and keeps its registers and its engines. -/
theorem State.enterTrap_entered {s : State} {b : BenchId} (h : (s.bench b).c.trap ≠ 0) (c : Fin 4) (code : Byte) (src : BitVec 3)
    (deferred : Bool) (w : W32) (epc tval : W64) :
    (s.bench b).entered ((s.enterTrap b c code src deferred w epc tval).bench b) c (causeWord code src deferred w) epc tval ∧
    ∀ st, ((s.enterTrap b c code src deferred w epc tval).bench b).eng st = (s.bench b).eng st := by
  unfold State.enterTrap
  rw [if_neg h]
  extract_lets s1 s2
  have h1 : (s1.bench b).SameFiles (s.bench b) := by
    unfold s1
    rw [State.bench_modBench, if_pos rfl]
    exact (Bench.clearShadows_sameFiles _ _).trans (s.dropWatch_sameFiles b c)
  have h2 : (s2.bench b).SameFiles (s.bench b) := by
    unfold s2
    rw [State.bench_modBench, if_pos rfl]
    exact (Bench.asks_sameFiles _ _).trans h1
  clear_value s2
  rw [State.bench_modBench, if_pos rfl]
  refine ⟨⟨rfl, rfl, rfl, rfl, ?_, h2.file, h2.globals⟩, fun st => ?_⟩
  · simp [Bench.ctx, Bench.modC, h2.trap]
  · rw [← h2.eng st]; cases st <;> rfl

/-! ### Which event is taken (R177, R179) -/

theorem Bench.firstSome_mem {l : List (Option Pending)} {p : Pending} (h : Bench.pending.firstSome l = some p) : some p ∈ l := by
  induction l with
  | nil => simp [Bench.pending.firstSome] at h
  | cons o os ih =>
    cases o with
    | none => exact List.mem_cons_of_mem _ (ih h)
    | some q => cases h; exact List.mem_cons_self

theorem Bench.lostOf_ne_engine {x : Bench} {c : Fin 4} {st : Stream} {h : Held} : x.lostOf c ≠ some (.engine st h) := by
  unfold Bench.lostOf
  cases firstWhere (fun l => l.1 == c) x.c.lost <;> simp

/-- The engine of a held fault that is taken is one of the four. -/
theorem Bench.takes_engine {x : Bench} {st : Stream} {h : Held} (ht : x.takes = some (.engine st h)) : st ≠ .c := by
  unfold Bench.takes at ht
  split at ht
  · cases ht
  · split at ht
    · next p hp =>
      split at ht
      · cases ht
        split at hp
        · exact absurd hp Bench.lostOf_ne_engine
        · have hmem := Bench.firstSome_mem hp
          rintro rfl
          simp [Bench.lostOf_ne_engine.symm] at hmem
      · cases ht
    · cases ht

theorem exec_trapEntry {s : State} {p : Pending} (h : (s.bench s.cur.bring.bench).takes = some p) :
    exec .trapEntry s = .next (s.takePending s.cur.bring.bench p) := by
  change execTrapEntry s = _
  simp only [execTrapEntry, h]

/-- A trap of a bench that differs in what a trap replaces alone. -/
theorem Bench.entered_congr {x x' y : Bench} (h : x'.SameFiles x) {c : Fin 4} {cause epc tval : W64} (he : x'.entered y c cause epc tval) :
    x.entered y c cause epc tval := by
  obtain ⟨hcause, hepc, htval, hhandler, hpc, hfile, hglobals⟩ := he
  exact ⟨hcause, hepc, htval, hhandler, hpc.trans h.trap, hfile.trans h.file, hglobals.trans h.globals⟩

/-- The held fault of an engine has been reported. -/
def State.reportHeld (s : State) (b : BenchId) (st : Stream) (h : Held) : State :=
  s.modBench b fun x => x.modEng st fun e => { e with held := some { h with reported := true } }

/-- The first lost release of a context has been taken. -/
def State.takeLost (s : State) (b : BenchId) (c : Fin 4) : State :=
  s.modBench b fun x => x.modC fun u =>
    { u with lost := match placeOf c.val (u.lost.map fun l => l.1.val) 0 with
        | some i => u.lost.eraseIdx i
        | none => u.lost }

theorem State.takePending_engine_eq (s : State) (b : BenchId) (st : Stream) (h : Held) :
    s.takePending b (.engine st h) =
      (s.reportHeld b st h).enterTrap b 0 h.code (BitVec.ofNat 3 (3 + streamIdx st)) false 0 ((s.bench b).ctx 0).pc h.va := rfl

theorem State.takePending_lost_eq (s : State) (b : BenchId) (c : Fin 4) (code : Byte) (va : W64) (w : W32) :
    s.takePending b (.lost c code va w) =
      if ((s.takeLost b c).bench b).c.handler.isSome then (s.takeLost b c).doubleFault b c code w
      else (s.takeLost b c).enterTrap b c code (BitVec.ofNat 3 c.val) false w ((s.bench b).ctx c).pc va := rfl

/-- An engine's held fault is reported, and the main context runs the handler. -/
theorem State.takePending_engine {s : State} {b : BenchId} (htrap : (s.bench b).c.trap ≠ 0) {st : Stream} (hst : st ≠ .c) (h : Held) :
    (s.bench b).entered ((s.takePending b (.engine st h)).bench b) 0 (causeWord h.code (BitVec.ofNat 3 (3 + streamIdx st)) false 0)
      ((s.bench b).ctx 0).pc h.va ∧
    (((s.takePending b (.engine st h)).bench b).eng st).held = some { h with reported := true } := by
  have hs1 : (s.reportHeld b st h).bench b = (s.bench b).modEng st fun e => { e with held := some { h with reported := true } } := by
    rw [State.reportHeld, State.bench_modBench, if_pos rfl]
  have hc : ((s.reportHeld b st h).bench b).c = (s.bench b).c := by rw [hs1]; cases st <;> rfl
  rw [State.takePending_engine_eq]
  generalize s.reportHeld b st h = s1 at hs1 hc
  obtain ⟨⟨hcause, hepc, htval, hhandler, hpc, hfile, hglobals⟩, heng⟩ := State.enterTrap_entered (s := s1) (b := b) (hc ▸ htrap) 0
    h.code (BitVec.ofNat 3 (3 + streamIdx st)) false 0 ((s.bench b).ctx 0).pc h.va
  rw [hc] at hpc hfile hglobals
  exact ⟨⟨hcause, hepc, htval, hhandler, hpc, hfile, hglobals⟩, by rw [heng, hs1, Bench.eng_modEng _ _ _ hst]⟩

/-- A lost release enters the handler in its own context, when none runs. -/
theorem State.takePending_lost {s : State} {b : BenchId} (htrap : (s.bench b).c.trap ≠ 0) (hh : (s.bench b).c.handler = none) (c : Fin 4)
    (code : Byte) (va : W64) (w : W32) :
    (s.bench b).entered ((s.takePending b (.lost c code va w)).bench b) c (causeWord code (BitVec.ofNat 3 c.val) false w)
      ((s.bench b).ctx c).pc va := by
  have hs1 : ((s.takeLost b c).bench b).SameFiles (s.bench b) ∧ ((s.takeLost b c).bench b).c.handler = none := by
    rw [State.takeLost, State.bench_modBench, if_pos rfl]
    exact ⟨⟨rfl, rfl, rfl, fun st => by cases st <;> rfl⟩, hh⟩
  rw [State.takePending_lost_eq]
  generalize s.takeLost b c = s1 at hs1
  obtain ⟨hsame, hnone⟩ := hs1
  rw [hnone, if_neg (by decide)]
  exact Bench.entered_congr hsame (State.enterTrap_entered (hsame.trap ▸ htrap) c code _ false w _ va).1

theorem handlerEvents_claim : Sys2Proof.Claims.HandlerEvents := by
  intro s b x htrap
  refine ⟨fun st h ht => ⟨_, exec_trapEntry ht, ?_⟩, fun c code va w hh ht => ⟨_, exec_trapEntry ht, ?_⟩⟩
  · exact State.takePending_engine htrap (Bench.takes_engine ht) h
  · exact State.takePending_lost htrap hh c code va w

/-! ### Contexts (R144, R162) -/

/-- A watch that is dropped wakes its context, and its registration goes. -/
theorem State.dropWatch_watching {s : State} {b : BenchId} {c : Fin 4} (h : ((s.bench b).ctx c).watch ≠ none) :
    ((s.dropWatch b c).bench b).ctx c = { (s.bench b).ctx c with watch := none, wtag := none, wake := true } ∧
    ∀ w ∈ (s.dropWatch b c).watches, ¬(w.bench = b ∧ w.ctx = c ∧ w.remote = none) := by
  have hsome : ((s.bench b).ctx c).watch.isSome = true := Option.isSome_iff_ne_none.2 h
  unfold State.dropWatch
  rw [if_pos hsome]
  refine ⟨?_, fun w hw ⟨hb, hc, hr⟩ => ?_⟩
  · change ((s.wakeCtx b c).bench b).ctx c = _
    rw [State.wakeCtx, State.bench_modBench, if_pos rfl]
    simp [Bench.ctx, Bench.modCtx]
  · simpa [hb, hc, hr] using (List.mem_filter.1 hw).2

/-- A place of the registers holds a value, and no load in flight writes it. -/
def CUnit.ready (u : CUnit) (d : Dst) (v : W64) : Prop := u.pendingAt d = false ∧ u.at_ (some d) = v

/-- A load in flight to the place does not write it once it has been written. -/
theorem CUnit.write_phys_ready (u : CUnit) (i : Fin 64) (v : W64) : (u.write (some (.phys i)) v).ready (.phys i) v := by
  constructor
  · simp only [CUnit.pendingAt, CUnit.write, List.any_map, List.any_eq_false, Function.comp]
    intro l _
    split <;> simp_all
  · simp [CUnit.write, CUnit.at_]

theorem CUnit.ready.write_phys_keeps {u : CUnit} {i j : Fin 64} {v : W64} (h : u.ready (.phys i) v) (hij : i ≠ j) (v' : W64) :
    (u.write (some (.phys j)) v').ready (.phys i) v := by
  obtain ⟨hpend, hat⟩ := h
  constructor
  · simp only [CUnit.pendingAt, CUnit.write, List.any_map, List.any_eq_false, Function.comp] at hpend ⊢
    intro l hl
    split
    · simp
    · exact hpend l hl
  · rw [← hat]
    simp [CUnit.write, CUnit.at_, Fin.val_ne_of_ne hij.symm]

/-- k8 to k11 of a window lie in the register file (R87). -/
theorem regDst_file {w k : BitVec 4} (h : 8 ≤ k.toNat ∧ k.toNat < 12) : ∃ i, regDst w k = some (.phys i) := by
  have h0 : k ≠ 0 := by rintro rfl; simp at h
  exact ⟨_, by rw [regDst, if_neg h0, if_neg (by omega), if_pos h.2]⟩

/-- The four values of firmware are written into a window. -/
def CUnit.writeFour (u : CUnit) (w : BitVec 4) (v8 v9 v10 v11 : W64) : CUnit :=
  (((u.write (regDst w 8) v8).write (regDst w 9) v9).write (regDst w 10) v10).write (regDst w 11) v11

section
variable (u : CUnit) (w : BitVec 4) (v8 v9 v10 v11 : W64)

theorem CUnit.writeFour_kept : (u.writeFour w v8 v9 v10 v11).ctxs = u.ctxs ∧ (u.writeFour w v8 v9 v10 v11).globals = u.globals := by
  obtain ⟨i, hi⟩ := regDst_file (w := w) (k := 8) (by decide)
  obtain ⟨j, hj⟩ := regDst_file (w := w) (k := 9) (by decide)
  obtain ⟨m, hm⟩ := regDst_file (w := w) (k := 10) (by decide)
  obtain ⟨n, hn⟩ := regDst_file (w := w) (k := 11) (by decide)
  rw [CUnit.writeFour, hi, hj, hm, hn]
  exact ⟨rfl, rfl⟩

theorem CUnit.writeFour_ready {p : BitVec 4 × W64} (hp : p ∈ [((8 : BitVec 4), v8), (9, v9), (10, v10), (11, v11)]) :
    ∃ d, regDst w p.1 = some d ∧ (u.writeFour w v8 v9 v10 v11).ready d p.2 := by
  obtain ⟨i, hi⟩ := regDst_file (w := w) (k := 8) (by decide)
  obtain ⟨j, hj⟩ := regDst_file (w := w) (k := 9) (by decide)
  obtain ⟨m, hm⟩ := regDst_file (w := w) (k := 10) (by decide)
  obtain ⟨n, hn⟩ := regDst_file (w := w) (k := 11) (by decide)
  have hne {a b : BitVec 4} {x y : Fin 64} (ha : regDst w a = some (.phys x)) (hb : regDst w b = some (.phys y)) (hab : a ≠ b) :
      x ≠ y := by
    rintro rfl
    exact hab (regDst_inj (ha.trans hb.symm))
  rw [CUnit.writeFour, hi, hj, hm, hn]
  simp only [List.mem_cons, List.not_mem_nil, or_false] at hp
  rcases hp with rfl | rfl | rfl | rfl
  · exact ⟨_, hi, (((CUnit.write_phys_ready _ _ _).write_phys_keeps (hne hi hj (by decide)) _).write_phys_keeps
      (hne hi hm (by decide)) _).write_phys_keeps (hne hi hn (by decide)) _⟩
  · exact ⟨_, hj, ((CUnit.write_phys_ready _ _ _).write_phys_keeps (hne hj hm (by decide)) _).write_phys_keeps (hne hj hn (by decide)) _⟩
  · exact ⟨_, hm, (CUnit.write_phys_ready _ _ _).write_phys_keeps (hne hm hn (by decide)) _⟩
  · exact ⟨_, hn, CUnit.write_phys_ready _ _ _⟩

end

theorem exec_syscComplete {s : State} {n : Byte} (h : ((s.bench s.cur.bring.bench).ctx s.cur.bring.ctx).phase = .sysc n false) :
    exec .syscComplete s = .next (s.modBench s.cur.bring.bench fun x =>
      (x.modC fun u => u.writeFour ((s.bench s.cur.bring.bench).ctx s.cur.bring.ctx).w s.cur.bring.val s.cur.bring.val2
        s.cur.bring.val3 s.cur.bring.val4).modCtx s.cur.bring.ctx fun k => { k with phase := .sysc n true }) := by
  change execSyscComplete s = _
  simp only [execSyscComplete, h]
  rfl

/-- A register of the unboosted level reads as its place holds it. -/
theorem Bench.readReg_ready {x : Bench} {c : Fin 4} {k : BitVec 4} {d : Dst} {v : W64} (hd : regDst (x.ctx c).w k = some d)
    (h : x.c.ready d v) : x.readReg c 0 k = .val v := by
  have hk : k ≠ 0 := fun e => by rw [regDst_none.2 e] at hd; cases hd
  obtain ⟨hpend, hat⟩ := h
  unfold Bench.readReg
  rw [if_neg hk, if_neg (by decide), if_pos rfl]
  simp only [hd, hpend, hat, Bool.false_eq_true, if_false]

theorem contextEvents_claim : Sys2Proof.Claims.ContextEvents := by
  intro s b c k
  refine ⟨fun hwatch => ?_, fun n hphase => ⟨_, exec_syscComplete hphase, ?_⟩⟩
  · obtain ⟨hctx, hgone⟩ := State.dropWatch_watching hwatch
    exact ⟨_, congrArg Host.Outcome.next (if_pos (Option.isSome_iff_ne_none.2 hwatch)), hctx, hgone⟩
  · obtain ⟨hctxs, hglobals⟩ := CUnit.writeFour_kept (s.bench b).c k.w s.cur.bring.val s.cur.bring.val2 s.cur.bring.val3 s.cur.bring.val4
    rw [State.bench_modBench, if_pos rfl]
    have hctx : ((((s.bench b).modC fun u => u.writeFour k.w s.cur.bring.val s.cur.bring.val2 s.cur.bring.val3
        s.cur.bring.val4).modCtx c fun k => { k with phase := .sysc n true }).ctx c) = { k with phase := .sysc n true } := by
      have hc : ((s.bench b).modC fun u => u.writeFour k.w s.cur.bring.val s.cur.bring.val2 s.cur.bring.val3
          s.cur.bring.val4).ctx c = k := by rw [Bench.ctx, Bench.modC_c, hctxs]; rfl
      rw [Bench.ctx_modCtx, if_pos rfl, hc]
    refine ⟨hctx, hglobals, rfl, fun p hp => ?_⟩
    obtain ⟨d, hd, hready⟩ := (s.bench b).c.writeFour_ready k.w _ _ _ _ hp
    exact Bench.readReg_ready (by rw [hctx]; exact hd) hready

end Sys2Proof.Machine
end

section
/-! SUPPORT. Landings of an abandoned engine, words that are no instruction, and fetches that fail (R20, R44, R46, R119, R463). -/

namespace Sys2Proof.Machine

/-! ### Landings (R46) -/

section
variable {s v : State} (habandon : ((s.bench s.cur.bring.bench).eng s.cur.bring.stream).abandon = true)
  (hheld : ((s.bench s.cur.bring.bench).eng s.cur.bring.stream).held = none)
  (hquiet : (s.bench s.cur.bring.bench).quiet s.cur.bring.stream = true)
include habandon hheld hquiet

theorem exec_abandonLand_at {pc : W64}
    (h : (s.asEngine s.cur.bring.bench s.cur.bring.stream ((s.bench s.cur.bring.bench).eng s.cur.bring.stream).pc).search
      s.cur.bring.bench s.cur.bring.stream (fun w => w.testBit 13) searchFuel
      ((s.bench s.cur.bring.bench).eng s.cur.bring.stream).pc = (v, .at_ pc)) :
    exec .abandonLand s = .next (v.modMyEng fun e => { e with abandon := false, pc := pc }) := by
  change execAbandonLand s = _
  unfold execAbandonLand
  rw [if_neg (by simp [habandon, hheld, hquiet])]
  unfold State.asEngine at h
  simp only [h]

theorem exec_abandonLand_terminator
    (h : (s.asEngine s.cur.bring.bench s.cur.bring.stream ((s.bench s.cur.bring.bench).eng s.cur.bring.stream).pc).search
      s.cur.bring.bench s.cur.bring.stream (fun w => w.testBit 13) searchFuel
      ((s.bench s.cur.bring.bench).eng s.cur.bring.stream).pc = (v, .terminator)) :
    exec .abandonLand s = .next ((v.modMyEng fun e => { e with abandon := false }).hold 0x01 0 false) := by
  change execAbandonLand s = _
  unfold execAbandonLand
  rw [if_neg (by simp [habandon, hheld, hquiet])]
  unfold State.asEngine at h
  simp only [h]
  rfl

end

/-! ### Words that are no instruction, and fetches that fail (R20, R44, R119, R463) -/

theorem exec_reservedOpcodeWord {s t : State} {w : Nat} {er : DecodeError} (hfetch : s.fetchHere = (t, .ok w))
    (hdec : decodeWord (t.cur.stream.word w) = .error er) : exec .reservedOpcodeWord s = (t.withWord w).illegalWord w := by
  change execReservedOpcodeWord s = _
  simp only [execReservedOpcodeWord, hfetch, hdec]
  rfl

theorem State.illegalWord_c {s : State} (h : s.cur.stream = .c) (w : Nat) : s.illegalWord w = .next (s.raiseC 0x01 0) := by
  simp only [State.illegalWord, h]
  rfl

/-- An engine's word that is no instruction comes to an issue, whose body is a fault. -/
theorem State.illegalWord_engine {s : State} (h : s.cur.stream ≠ .c) (hp : s.cur.stream ≠ .p) (w : Nat) :
    s.illegalWord w = s.issue (hdrOf (BitVec.ofNat 16 w)) false 0 fun _ _ => .pre cILL 0 := by
  unfold State.illegalWord
  cases hs : s.cur.stream
  · exact absurd hs h
  · rfl
  · exact absurd hs hp
  · rfl
  · rfl

theorem State.illegalWord_plane {s : State} (h : s.cur.stream = .p) (w : Nat) :
    s.illegalWord w = (s.reachWord (hdrOf (BitVec.ofNat 16 w))).issue (hdrOf (BitVec.ofNat 16 w)) false 0 fun _ _ => .pre cILL 0 := by
  simp only [State.illegalWord, h]

/-- A word whose header lets it issue does not enter the signature of a segment as a skipped one. -/
theorem State.reachWord_of_issues {s : State} {h : Hdr} {lw : Bool} {nq : Nat} (hi : s.issues h lw nq) : s.reachWord h = s := by
  obtain ⟨h0, _, hsel, _⟩ := hi
  simp [State.reachWord, hdrSkips, hsel]

theorem State.illegalWord_issues {s : State} (h : s.cur.stream ≠ .c) {w : Nat} (hi : s.issues (hdrOf (BitVec.ofNat 16 w)) false 0) :
    s.illegalWord w = .next (s.hold 0x01 0 false) := by
  by_cases hp : s.cur.stream = .p
  · rw [State.illegalWord_plane hp, State.reachWord_of_issues hi, State.issue_pre hi rfl]
    rfl
  · rw [State.illegalWord_engine h hp, State.issue_pre hi rfl]
    rfl

theorem exec_instructionFetchFault {s t : State} {code : Byte} (hfetch : s.fetchHere = (t, .fault code)) :
    exec .instructionFetchFault s = .next (t.fetchFault code t.cur.pc) := by
  change execInstructionFetchFault s = _
  simp only [execInstructionFetchFault, hfetch]

theorem streamEvents_claim : Sys2Proof.Claims.StreamEvents := by
  refine ⟨fun s v habandon hheld hquiet => ⟨fun pc h => ?_, fun h => ?_⟩,
    fun s t => ⟨fun w er hfetch hdec => ?_, fun code hfetch => ?_⟩⟩
  · exact exec_abandonLand_at habandon hheld hquiet h
  · exact exec_abandonLand_terminator habandon hheld hquiet h
  · rw [exec_reservedOpcodeWord hfetch hdec]
    have hst : (t.withWord w).cur.stream = t.cur.stream := rfl
    rw [← hst]
    refine ⟨fun hc => State.illegalWord_c hc w, fun hc hi => State.illegalWord_issues hc hi, fun hc hp h0 hskip => ?_⟩
    rw [State.illegalWord_engine hc hp, State.issue_skipped h0 hskip]
  · rw [exec_instructionFetchFault hfetch]
    rfl

/-- Settles O53: the trap entry of the event that is taken; wakes and answers by what they change in their context; landings, words
that are no instruction and failed fetches each by the turn of their stream. -/
theorem handlerEvents : Obligations.HandlerEvents := ⟨handlerEvents_claim, contextEvents_claim, streamEvents_claim⟩

end Sys2Proof.Machine
end

section
/-! SUPPORT. Loads, stores and atomics in flight (R27, R63, R64, R85): what a load binds, and which entry performs. -/

namespace Sys2Proof.Machine

/-! ### The value that a load binds (R85, R132) -/

theorem signedNat_eq_toInt (n x : Nat) : signedNat n x = (BitVec.ofNat n x).toInt := by
  rw [signedNat, BitVec.toInt_eq_toNat_cond, BitVec.toNat_ofNat]
  cases n with
  | zero => simp [Nat.mod_one]
  | succ n => rw [Nat.add_sub_cancel, Nat.pow_succ, Nat.mul_comm 2 (x % _)]; simp only [Nat.mul_lt_mul_right (a := 2) (by decide : 0 < 2)]

theorem extend_eq_extended {n : Nat} {bs : List Byte} (h : bs.length ≤ n) (sext : Bool) : extend n sext bs = extended n sext bs := by
  have hlt : leNat bs < 2 ^ (8 * n) := by
    rw [Nat.pow_mul]
    exact (leNat_lt bs).trans_le (Nat.pow_le_pow_right (by decide) h)
  cases sext
  · apply BitVec.eq_of_toNat_eq
    simp [extend, extended, Nat.mod_eq_of_lt hlt]
  · simp only [extend, extended, if_true, signedNat_eq_toInt]
    rfl

theorem upTo_length (n : Nat) : (upTo n).length = n := by
  induction n with
  | zero => rfl
  | succ n ih => rw [upTo, List.length_append, ih, List.length_singleton]

theorem span_length (a n : Nat) : (span a n).length = n := by
  induction n generalizing a with
  | zero => rfl
  | succ n ih => rw [span, List.length_cons, ih]

theorem State.devBytes_length_le (s : State) (pa n : Nat) : (s.devBytes pa n).length ≤ n := by
  rw [State.devBytes, List.length_flatMap]
  simp only [leBytes_length, List.map_const', List.sum_replicate, upTo_length, smul_eq_mul]
  omega

/-- A load gives no more bytes than it asks for. -/
theorem State.load_length_le {s t : State} {b : BenchId} {p : Passed} {n : Nat} {sc : Scope} {pri : BitVec 2} {last : Bool}
    {fwd : Nat → Option Byte} {bs : List Byte} (h : s.load b p n sc pri last fwd = .ok t bs) : bs.length ≤ n := by
  unfold State.load at h
  extract_lets region sc' direct got at h
  clear_value region got
  split at h
  · cases h
    split
    · rw [leBytes_length]
    · exact s.devBytes_length_le _ _
  · repeat' split at h
    all_goals simp only [reduceCtorEq, LoadRes.ok.injEq] at h
    all_goals rw [← h.2, overlay, List.length_map, span_length]

/-! ### Loads that arrive (R85, R131) -/

theorem exec_resultArrival {s : State} {l : PendLoad}
    (h : firstWhere (fun l => l.tag == s.cur.bring.tag) (s.bench s.cur.bring.bench).c.loads = some l) :
    exec .resultArrival s = .next (s.arrive s.cur.bring.bench l) := by
  change execResultArrival s = _
  simp only [execResultArrival, State.arriveTag, h]

theorem State.arrive_here {s t : State} {b : BenchId} {l : PendLoad} {bs : List Byte} (hatom : l.atom = none) (haway : l.away = false)
    (hbehind : s.behind b l.seq ⟨l.leaf, l.pa⟩ = false)
    (hload : s.load b ⟨l.leaf, l.pa⟩ l.size l.scope l.pri l.last (forwardByte (s.bench b).c.sb l.ctx l.seq) = .ok t bs) :
    s.arrive b l = t.modBench b fun y => y.arriveVal l (extended l.size l.sext bs) := by
  simp only [State.arrive, hatom, haway, hbehind, hload, Option.isSome_none, Bool.or_self, Bool.false_eq_true, if_false,
    extend_eq_extended (State.load_length_le hload)]

theorem State.arrive_away {s : State} {b : BenchId} {l : PendLoad} {r : Response} (hatom : l.atom = none) (haway : l.away = true)
    (hr : s.response l.tag = some r) (hcode : r.code = 0) :
    s.arrive b l = (s.takeResponse l.tag).modBench b fun y =>
      y.arriveVal l (extended l.size l.sext (leBytes l.size r.val.toNat)) := by
  have hbytes := extend_eq_extended (Nat.le_of_eq (leBytes_length l.size r.val.toNat)) l.sext
  simp only [State.arrive, haway, Bool.true_or, if_true, State.arriveAway_ok hatom hr hcode, Bench.loadAnswer_ok hcode, hbytes]

/-! ### Stores, atomics and partials that perform (R27, R63, R64) -/

section
variable {s : State} {e : StEntry} {rest : List StEntry}

theorem State.performOrphan_none {b : BenchId} {q : Buf} (h : (s.bench b).orphansOf q = []) : s.performOrphan b q = none := by
  simp only [State.performOrphan, h]

theorem exec_storePerform_own (h : (s.bench s.cur.bring.bench).orphansOf s.cur.bring.buf = []) :
    exec .storePerform s =
      .next (if s.openRun s.cur.bring.bench s.cur.bring.buf && !s.tlbiWaits then s else s.performKind 0) := by
  change execStorePerform s = _
  simp only [execStorePerform, State.performOrphan_none h]

theorem State.performOne_live {t : State} {b : BenchId} {q : Buf}
    (hlive : ∀ h, s.hitch (s.bench b).seqNo = some h → h.state ≠ .dying) (hp : s.performHead b q false = some t) :
    s.performOne b q = (t.tryRetire b).tryReset := by
  have hdying : (match s.hitch (s.bench b).seqNo with | some h => h.state == .dying | none => false) = false := by
    cases hh : s.hitch (s.bench b).seqNo with
    | none => rfl
    | some h => simpa using hlive h hh
  unfold State.performOne
  extract_lets dying
  have hd : dying = false := hdying
  rw [hd, hp]
  rfl

/-- The entry at the head of a queue performs in the event of its kind. -/
theorem State.performKind_head {t : State} {k : Nat} (hq : (s.bench s.cur.bring.bench).queue s.cur.bring.buf = e :: rest)
    (hk : e.kind.event = k) (hlive : ∀ h, s.hitch (s.bench s.cur.bring.bench).seqNo = some h → h.state ≠ .dying)
    (hp : s.performHead s.cur.bring.bench s.cur.bring.buf false = some t) :
    s.performKind k = (t.tryRetire s.cur.bring.bench).tryReset := by
  simp only [State.performKind, hq, hk, if_true, State.performOne_live hlive hp]

theorem clearedBy_single (e : StEntry) : clearedBy [e] = coversSector e.pa e.bytes := by
  funext sec
  simp [clearedBy]

/-- The oldest store that a retired team has left performs first. -/
theorem State.performOrphan_mem {b : BenchId} {q : Buf} {d : Fin 8} (h : (s.bench b).orphansOf q = e :: rest) (hd : s.region e.pa = .mem d)
    (hbehind : s.behind b e.seq ⟨e.leaf, e.pa⟩ = false) (haway : s.awayFrom (s.bench b).orphans q e = false) :
    s.performOrphan b q =
      (s.modBench b fun y => { y with orphans := y.orphans.erase (q, e) }).performStore b e (coversSector e.pa e.bytes) := by
  simp only [State.performOrphan, h, hd, hbehind, haway, Bool.or_self, Bool.false_eq_true, if_false, clearedBy_single]

/-- An entry that waits for an older store of the bench to the same home performs not. -/
theorem State.performHead_behind {b : BenchId} {q : Buf} (ho : (s.bench b).orphansOf q = []) (hq : (s.bench b).queue q = e :: rest)
    (hbehind : s.behind b e.seq ⟨e.leaf, e.pa⟩ = true) (force : Bool) : s.performHead b q force = none := by
  have hgroup : s.performGroup b q = none := by
    simp only [State.performGroup, hq, State.headReady_behind hbehind]
    exact if_pos (by simp)
  have hrun : s.performRun b q force = none := by
    simp only [State.performRun, hq, State.headReady_behind hbehind]
  simp only [State.performHead, State.performOrphan_none ho, hgroup, hrun, ite_self]

theorem State.stuck_behind {b : BenchId} {q : Buf} (hq : (s.bench b).queue q = e :: rest)
    (hbehind : s.behind b e.seq ⟨e.leaf, e.pa⟩ = true) : s.stuck b q = s := by
  simp only [State.stuck, hq, State.headReady_behind hbehind]
  exact if_neg (by simp)

theorem State.performKind_behind {k : Nat} (ho : (s.bench s.cur.bring.bench).orphansOf s.cur.bring.buf = [])
    (hq : (s.bench s.cur.bring.bench).queue s.cur.bring.buf = e :: rest)
    (hbehind : s.behind s.cur.bring.bench e.seq ⟨e.leaf, e.pa⟩ = true) : s.performKind k = s := by
  simp only [State.performKind, hq, State.performOne, State.performHead_behind ho hq hbehind, State.stuck_behind hq hbehind, ite_self]

end

end Sys2Proof.Machine
end

section
/-! SUPPORT. Gives that are pushed (R33, R77), and the events that complete. -/

namespace Sys2Proof.Machine

/-! ### Gives that are pushed (R33, R77) -/

/-- A settled bench holds the entries of S that it held, and those before the mark of the give that S pushes have left it. -/
theorem Bench.settle_left {x : Bench} {st : Stream} (hst : st = .s) {g : Give} (hf : (x.eng st).flags = []) (hg : (x.eng st).gives = [g])
    (hearly : x.giveEarly st g = false) (hroom : x.canGive st (maskStreams st g.mask) = true) {e : StEntry} (he : e ∈ x.sq)
    (hseq : e.seq < g.mark) : e ∈ (x.settle st).leftStores := by
  rw [Bench.settle_goes hf hg hearly hroom, if_pos (by rw [hst]; rfl)]
  generalize hz : ((x.landed st).leave 7 g.mark).giveTokens st (maskStreams st g.mask) g.acq = z
  have hsq : z.sq = x.sq := by rw [← hz]; exact Bench.land_sq x _
  have hleft : z.left = vmod (x.landed st).left 7 (max g.mark) := by rw [← hz]; rfl
  generalize hy : (z.modEng st fun e => { (e.calm .give) with gives := [] }).dropRanges st = y
  have hysq : y.sq = x.sq := by rw [← hy, ← hsq]; exact Bench.modEng_sq _ _ _
  have hyleft : y.left = z.left := by rw [← hy]; exact Bench.modEng_left _ _ _
  refine List.mem_append_right _ (List.mem_filter.2 ⟨hysq ▸ he, ?_⟩)
  rw [Bench.gone, hyleft, hleft, ownerQ, vget_vmod _ _ _ _ _ (by decide), if_pos rfl, decide_eq_true_eq]
  exact hseq.trans_le (Nat.le_max_left _ _)

theorem completionEvents_claim : Sys2Proof.Claims.CompletionEvents := by
  intro s b st x
  refine ⟨fun l t bs hl hatom haway hbehind hload => ?_, fun l r hl hatom haway hr hcode => ?_,
    fun e rest t hq hlive hp => ⟨?_, ?_, ?_, ?_⟩,
    fun e rest d ho hd hbehind haway t ht => ?_, fun e rest ho hq hbehind => ?_, fun g hst hf hflags hg hv hs hroom => ?_⟩
  · rw [exec_resultArrival hl, State.arrive_here hatom haway hbehind hload]
  · rw [exec_resultArrival hl, State.arrive_away hatom haway hr hcode]
  · intro hkind ho hopen
    have hk : e.kind.event = 0 := by rcases hkind with h | h <;> rw [h] <;> rfl
    rw [exec_storePerform_own ho, hopen, State.performKind_head hq hk hlive hp]
    rfl
  · intro ho hopen hwaits
    rw [exec_storePerform_own ho, hopen, hwaits]
    rfl
  · rintro ⟨op, v, ex, hkind⟩
    exact congrArg Host.Outcome.next (State.performKind_head hq (by rw [hkind]; rfl) hlive hp)
  · rintro ⟨lo, lg, v, hkind⟩
    exact congrArg Host.Outcome.next (State.performKind_head hq (by rw [hkind]; rfl) hlive hp)
  · change execStorePerform s = _
    simp only [execStorePerform, State.performOrphan_mem ho hd hbehind haway, ht, b]
  · rw [exec_storePerform_own ho, State.performKind_behind ho hq hbehind, ite_self]
  · have hearly : x.giveEarly st g = false := Bench.giveEarly_eq_false hflags hv hs
    have hcan : x.canGive st (maskStreams st g.mask) = true := (Bench.canGive_iff _ _ _).2 hroom
    obtain ⟨heng, htok⟩ := Bench.settle_room hf hg hearly hcan hst
    have hb : (s.pushGives b st).bench b = x.settle st := by rw [State.bench_pushGives hv, State.bench_modBench, if_pos rfl]
    refine ⟨s.pushGives b st, rfl, by rw [hb, heng], by rw [State.bench_pushGives hv]; rfl, fun h e he hseq => ?_, by rw [hb]; exact htok⟩
    rw [hb]
    exact Bench.settle_left h hf hg hearly hcan he hseq

end Sys2Proof.Machine
end

section
/-! SUPPORT. Feed blocks and halo bands that arrive (R232, R233, R288, R290). -/

namespace Sys2Proof.Machine

/-! ### Feed blocks and halo bands that arrive (R232, R233, R288, R290) -/

/-- A block that has been fetched is the feed's next one, with its bytes or with its fault. -/
theorem State.fetchBlock_next {s t : State} {b : BenchId} {f : Feed} {asker : Option Stream} {k : FBlock} {tr : Option Leaf}
    (h : s.fetchBlock b f asker = .ok t k tr) : k.seq0 = f.nextBlock.seq0 ∧ k.n = f.nextBlock.n ∧ k.nextIdx = f.nextBlock.nextIdx := by
  unfold State.fetchBlock at h
  extract_lets k0 next at h
  split at h
  · split at h <;> cases h
    exact ⟨rfl, rfl, rfl⟩
  · cases h
    exact ⟨rfl, rfl, rfl⟩
  · cases h
  · cases h

theorem exec_feedBlockArrival {s t : State} {k : FBlock} {tr : Option Leaf} (hteam : (s.bench s.cur.bring.bench).team ≠ none)
    (hmay : ((s.bench s.cur.bring.bench).feed s.cur.bring.n).mayFetch = true)
    (h : s.fetchBlock s.cur.bring.bench ((s.bench s.cur.bring.bench).feed s.cur.bring.n) none = .ok t k tr) :
    exec .feedBlockArrival s = .next (t.modBench s.cur.bring.bench fun x => x.modFeed s.cur.bring.n fun g =>
      { g with ahead := g.ahead ++ [k], trans := tr }) := by
  have hcond : ¬((s.bench s.cur.bring.bench).team.isNone || !((s.bench s.cur.bring.bench).feed s.cur.bring.n).mayFetch) = true := by
    simp [hmay, Option.isNone_iff_eq_none, hteam]
  change execFeedBlockArrival s = _
  simp only [execFeedBlockArrival, if_neg hcond, h]

/-- The first element that a test accepts, where none before it is accepted. -/
theorem firstWhere_append {α : Type} {p : α → Bool} {front rest : List α} {y : α}
    (hfront : ∀ x ∈ front, p x = false) (hy : p y = true) :
    firstWhere p (front ++ y :: rest) = some y ∧ (front ++ y :: rest).eraseP p = front ++ rest := by
  refine ⟨?_, ?_⟩
  · induction front with
    | nil => simp [firstWhere, hy]
    | cons x xs ih =>
      rw [List.cons_append, firstWhere, hfront x List.mem_cons_self, if_neg (by decide)]
      exact ih fun z hz => hfront z (List.mem_cons_of_mem _ hz)
  · rw [List.eraseP_append_right _ fun x hx => by rw [hfront x hx]; decide, List.eraseP_cons_of_pos hy]

theorem Bench.landBand_receives (x : Bench) (hi : Bool) (band : Band) :
    (if hi then (x.landBand hi band).plane.rxHi else (x.landBand hi band).plane.rxLo) = some band ∧
    (x.landBand hi band).plane.regs = x.plane.regs := by
  cases hi <;> exact ⟨rfl, rfl⟩

theorem exec_haloBandArrival {s : State} {band : Band} {front rest : List (BenchId × Bool × Band)}
    (hbands : s.bands = front ++ (s.cur.bring.bench, s.cur.bring.hi, band) :: rest)
    (hfront : ∀ r ∈ front, ¬(r.1 = s.cur.bring.bench ∧ r.2.1 = s.cur.bring.hi)) :
    exec .haloBandArrival s =
      .next { (s.modBench s.cur.bring.bench fun x => x.landBand s.cur.bring.hi band) with bands := front ++ rest } := by
  obtain ⟨hfirst, herase⟩ := firstWhere_append (rest := rest)
    (p := fun r : BenchId × Bool × Band => r.1 == s.cur.bring.bench && r.2.1 == s.cur.bring.hi)
    (y := (s.cur.bring.bench, s.cur.bring.hi, band)) (fun r hr => by simpa using hfront r hr) (by simp)
  rw [← hbands] at hfirst herase
  change execHaloBandArrival s = _
  simp only [execHaloBandArrival, hfirst]
  rw [State.modBench_bands, herase]

theorem arrivalEvents_claim : Sys2Proof.Claims.ArrivalEvents := by
  intro s b n f
  refine ⟨fun hteam hmay t k tr h => ⟨exec_feedBlockArrival hteam hmay h, State.fetchBlock_next h⟩,
    fun band front rest hbands hfront => ?_⟩
  have hland : ((s.modBench b fun x => x.landBand s.cur.bring.hi band).bench b) = (s.bench b).landBand s.cur.bring.hi band := by
    rw [State.bench_modBench, if_pos rfl]
  obtain ⟨hrx, hregs⟩ := (s.bench b).landBand_receives s.cur.bring.hi band
  rw [← hland] at hrx hregs
  exact ⟨_, exec_haloBandArrival hbands hfront, rfl, hrx, hregs⟩

end Sys2Proof.Machine
end

section
/-! SUPPORT. Waits that end in a fault (R60, R168, R171). -/

namespace Sys2Proof.Machine

/-! ### What pushing leaves: the clock, and what has stopped the engine -/

theorem State.logLane_clk (s : State) (b : BenchId) (a : VFly) (l : Nat × Nat × Leaf) : (s.logLane b a l).clk = s.clk := by
  unfold State.logLane State.logPrep State.logPrepOf
  repeat' split
  all_goals rfl

theorem State.landV_clk (s : State) (b : BenchId) (n : Nat) : (s.landV b n).clk = s.clk := by
  induction n generalizing s with
  | zero => rfl
  | succ n ih =>
    unfold State.landV
    split
    · rfl
    · next a rest _ =>
      split
      · rw [ih]
        exact foldl_keeps State.clk (fun s l => s.logLane b a l) (fun s l => s.logLane_clk b a l) a.preps s
      · rfl

theorem State.pushGives_clk (s : State) (b : BenchId) (st : Stream) : (s.pushGives b st).clk = s.clk := by
  unfold State.pushGives
  split
  · exact s.landV_clk b _
  · rfl

/-- What stops an engine: its held fault, and that its instruction has issued. -/
def Eng.heldState (e : Eng) : Option Held × Bool := (e.held, e.issued)

theorem Bench.modEng_heldState (x : Bench) (st : Stream) {f : Eng → Eng} (hf : ∀ e, (f e).heldState = e.heldState) :
    ((x.modEng st f).eng st).heldState = (x.eng st).heldState := by
  cases st
  · rfl
  all_goals exact hf _

theorem Bench.pushOne_heldState {x y : Bench} {st : Stream} (h : x.pushOne st = some y) : (y.eng st).heldState = (x.eng st).heldState := by
  unfold Bench.pushOne at h
  split at h
  · next z hz =>
    cases h
    unfold Bench.pushFlags at hz
    split at hz
    · split at hz
      · cases hz
        rw [Bench.modEng_heldState _ st (f := fun e => e.flagsGone 0) fun _ => rfl]
        cases st <;> rfl
      · cases hz
    · cases hz
  · unfold Bench.pushGive at h
    split at h
    · next g gs _ =>
      extract_lets dst x' at h
      split at h
      · cases h
        rw [Bench.modEng_heldState _ st (f := fun e => { (e.calm .give) with gives := gs }) fun _ => rfl, Bench.giveTokens_eng]
        unfold x'
        split <;> cases st <;> rfl
      · cases h
    · cases h

theorem Bench.settle_heldState (x : Bench) (st : Stream) : ((x.settle st).eng st).heldState = (x.eng st).heldState := by
  have hall (k : Nat) : ∀ y : Bench, ((y.pushAll st k).eng st).heldState = (y.eng st).heldState := by
    induction k with
    | zero => intro y; rfl
    | succ k ih =>
      intro y
      unfold Bench.pushAll
      split
      · next z hz => rw [ih, Bench.pushOne_heldState hz]
      · rfl
  exact (congrArg Eng.heldState (Bench.dropRanges_eng _ _ _)).trans ((hall _ _).trans (congrArg Eng.heldState (Bench.land_eng _ _ _)))

/-! ### Waits that end in a fault (R60, R168, R171) -/

theorem State.overdue_of_le {s : State} {w : Wait} (h : w.since + 2 ^ 30 ≤ s.clk) : s.overdue w = true := decide_eq_true h

/-- The forwards of a bench that P sends are given up when P stops. -/
def State.dropForwards (s : State) (b : BenchId) (st : Stream) : State :=
  if st = .p then { s with forwards := s.forwards.filter fun f => f.src != b } else s

theorem State.dropForwards_mem (s : State) (b : BenchId) (st : Stream) : (s.dropForwards b st).mem = s.mem := by
  unfold State.dropForwards; split <;> rfl

section
variable {s : State} {w : Wait} (hdue : w.since + 2 ^ 30 ≤ s.clk)
include hdue

theorem exec_qdead_context (hcounts : w.counts = true) (hst : s.cur.bring.stream = .c)
    (hw : ((s.bench s.cur.bring.bench).ctx s.cur.bring.ctx).wait = some w) (hstop : (s.bench s.cur.bring.bench).stopping = none) :
    exec .qdead s = .next (if (s.bench s.cur.bring.bench).overC w = true then s
      else (s.asContext s.cur.bring.bench s.cur.bring.ctx w.word).raiseC 0x0B 0) := by
  change execQdead s = _
  unfold execQdead
  rw [if_pos hst]
  simp only [hw, hcounts, State.overdue_of_le hdue, hstop]
  cases (s.bench s.cur.bring.bench).overC w <;> rfl

/-- The engine that waits too long is held. -/
theorem exec_qdead_engine (hcounts : w.counts = true) (hst : s.cur.bring.stream ≠ .c)
    (hw : (((s.pushGives s.cur.bring.bench s.cur.bring.stream).bench s.cur.bring.bench).eng s.cur.bring.stream).wait = some w)
    (hstop : ((s.pushGives s.cur.bring.bench s.cur.bring.stream).bench s.cur.bring.bench).stopping = none) :
    exec .qdead s = .next (if (s.pushGives s.cur.bring.bench s.cur.bring.stream).overE s.cur.bring.bench s.cur.bring.stream w = true
      then s.pushGives s.cur.bring.bench s.cur.bring.stream
      else ((s.pushGives s.cur.bring.bench s.cur.bring.stream).dropForwards s.cur.bring.bench s.cur.bring.stream).modBench
        s.cur.bring.bench fun x => x.qdead s.cur.bring.stream w) := by
  have hover : (s.pushGives s.cur.bring.bench s.cur.bring.stream).overdue w = true :=
    State.overdue_of_le (by rw [State.pushGives_clk]; exact hdue)
  change execQdead s = _
  unfold execQdead
  rw [if_neg hst]
  generalize s.pushGives s.cur.bring.bench s.cur.bring.stream = u at hw hstop hover
  simp only [hw, hcounts, hover, hstop]
  cases u.overE s.cur.bring.bench s.cur.bring.stream w <;> rfl

theorem exec_claimStallTimeout (hk : w.kind = .claim) (hw : ((s.bench s.cur.bring.bench).ctx s.cur.bring.ctx).wait = some w) :
    exec .claimStallTimeout s = .next ((s.asContext s.cur.bring.bench s.cur.bring.ctx w.word).raiseC 0x0E 0) := by
  change execClaimStallTimeout s = _
  simp only [execClaimStallTimeout, hw, hk, State.overdue_of_le hdue]
  rfl

theorem exec_fillStallTimeout (hk : w.kind = .fill) (hw : ((s.bench s.cur.bring.bench).ctx s.cur.bring.ctx).wait = some w) :
    exec .fillStallTimeout s = .next ((s.asContext s.cur.bring.bench s.cur.bring.ctx w.word).raiseC 0x0E
      ((s.bench s.cur.bring.bench).c.spill + BitVec.ofNat 64
        (s.cur.bring.ctx.val * 0x4000 + (((s.bench s.cur.bring.bench).ctx s.cur.bring.ctx).spilled - 1) * 0x40))) := by
  change execFillStallTimeout s = _
  simp only [execFillStallTimeout, hw, hk, State.overdue_of_le hdue]
  rfl

end

/-- An engine that stops with QDEAD names the word that waits, and what it waits on. -/
theorem Bench.qdead_held (x : Bench) {st : Stream} (hst : st ≠ .c) (w : Wait) : ∃ pc : W64,
    ((x.qdead st w).eng st).held = some ⟨0x0B, 0, w.word, pc, false, false, none, w.what⟩ ∧ ((x.qdead st w).eng st).issued = false := by
  unfold Bench.qdead
  extract_lets e k out pc x' own stop
  have hstop : (((x'.modEng st stop).modEng st fun e => if out.isSome then e.flagsGone k else e).eng st).heldState =
      (some ⟨0x0B, 0, w.word, pc, false, false, none, w.what⟩, false) := by
    rw [Bench.modEng_heldState _ st (f := fun e => if out.isSome then e.flagsGone k else e) fun e => by split <;> rfl,
      Bench.eng_modEng _ _ _ hst]
    rfl
  rw [← Bench.settle_heldState] at hstop
  exact ⟨pc, congrArg Prod.fst hstop, congrArg Prod.snd hstop⟩

theorem watchdogEvents_claim : Sys2Proof.Claims.WatchdogEvents := by
  intro s w hdue b c st x k
  refine ⟨fun hcounts => ⟨fun hst hw hstop => exec_qdead_context hdue hcounts hst hw hstop, fun hst hw hstop =>
    ⟨fun hover => ?_, fun hover => ?_⟩⟩,
    fun hk hw => exec_claimStallTimeout hdue hk hw, fun hk hw => exec_fillStallTimeout hdue hk hw⟩
  · rw [exec_qdead_engine hdue hcounts hst hw hstop, if_pos hover]
  · obtain ⟨pc, hheld, hissued⟩ := Bench.qdead_held (((s.pushGives b st).dropForwards b st).bench b) hst w
    rw [exec_qdead_engine hdue hcounts hst hw hstop, if_neg (by rw [hover]; decide)]
    refine ⟨_, pc, rfl, ?_, ?_, State.dropForwards_mem _ _ _⟩
    all_goals rw [State.bench_modBench, if_pos rfl]
    · exact hheld
    · exact hissued

end Sys2Proof.Machine
end

section
/-! SUPPORT. The spill engine (R169 to R171): what its store and its load leave of a bench. -/

namespace Sys2Proof.Machine

/-! ### What a store of the spill engine leaves as it was -/

/-- The part of a bench that a store to memory leaves as it is: its registers, and how many groups each context has spilled. -/
def Bench.regs (x : Bench) : Vector W64 64 × Vector W64 8 × (Fin 4 → Nat) := (x.c.file, x.c.globals, fun c => (x.ctx c).spilled)

/-- That part of every bench. -/
def State.regs (s : State) : BenchId → Vector W64 64 × Vector W64 8 × (Fin 4 → Nat) := fun b => (s.bench b).regs

theorem State.regs_of_standing {s t : State} (h : t.standing = s.standing) : t.regs = s.regs := by
  funext b
  rw [State.regs, State.regs, Bench.regs, Bench.regs]
  simp only [Bench.ctx, ((State.standing_eq h).2.2 b).1]

theorem State.modBench_regs (s : State) (b : BenchId) {f : Bench → Bench} (hf : ∀ x, (f x).regs = x.regs) :
    (s.modBench b f).regs = s.regs := by
  funext c
  rw [State.regs, State.bench_modBench]
  split
  · next h => rw [hf, ← h]; rfl
  · rfl

theorem State.sendWake_standing (s : State) (m : BitVec 14) (tag : Nat) : (s.sendWake m tag).standing = s.standing := by
  unfold State.sendWake
  split
  · exact s.sendFlow_standing _ _ _ _ _
  · rfl

theorem State.wakeCtx_regs (s : State) (b : BenchId) (c : Fin 4) : (s.wakeCtx b c).regs = s.regs := by
  refine s.modBench_regs b fun x => ?_
  rw [Bench.regs, Bench.regs]
  refine congrArg (fun f => (x.c.file, x.c.globals, f)) (funext fun d => ?_)
  rw [Bench.ctx_modCtx]
  split
  · next h => rw [h]
  · rfl

theorem State.wakeWatch_regs (s : State) (w : Watch) : (s.wakeWatch w).regs = s.regs := by
  unfold State.wakeWatch
  split
  · exact s.wakeCtx_regs _ _
  · exact State.regs_of_standing (s.sendWake_standing _ _)

theorem State.wakeLine_regs (s : State) (ln : Nat) : (s.wakeLine ln).regs = s.regs :=
  foldl_keeps State.regs State.wakeWatch State.wakeWatch_regs _ { s with watches := s.watches.filter fun w => w.line != ln }

theorem State.makeDirty_regs (s : State) (ln : Nat) : (s.makeDirty ln).regs = s.regs := by
  unfold State.makeDirty; split <;> rfl

/-- A write to home changes memory, caches and watches, and no register. -/
theorem State.writeHomeAs_regs (s : State) (die : Option (Fin 8)) (pa : Nat) (bs : List (Option Byte)) (clears : Nat → Bool)
    (direct : Bool) : (s.writeHomeAs die pa bs clears direct).regs = s.regs := by
  unfold State.writeHomeAs
  extract_lets ln s1 s2 s3 patch s4
  have h1 : s1.regs = s.regs := by
    unfold s1
    split
    · rfl
    · split
      · exact s.makeDirty_regs ln
      · rfl
  have h3 : s3.regs = s2.regs :=
    foldl_keeps State.regs (fun s sec => if clears sec then s.setPoison sec false else s) (fun s sec => by split <;> rfl) _ s2
  have h4 : s4.regs = s3.regs := by
    unfold s4
    split <;> rfl
  have h2 : s2.regs = s1.regs := rfl
  rw [State.wakeLine_regs, ← h1, ← h2, ← h3, ← h4]
  rfl

theorem State.dirStore_standing {s t : State} {ln : Nat} {home : Nat × Nat} (h : s.dirStore ln home = some t) :
    t.standing = s.standing := by
  unfold State.dirStore at h
  repeat' split at h
  all_goals cases h
  all_goals rfl

theorem State.storeHome_regs {s t : State} {die : Fin 8} {ten : BitVec 6} {leaf : Leaf} {pa : Nat} {bs : List Byte}
    (h : s.storeHome die ten leaf pa bs = some t) : t.regs = s.regs := by
  unfold State.storeHome at h
  split at h
  · cases h
    exact State.regs_of_standing (s.logErr_standing _ _ _ _)
  · split at h
    · cases h
    · cases hu : s.dirStore (pa / 128) (s.homeOf leaf (pa / 128)) with
      | none => simp only [hu, reduceCtorEq] at h
      | some u =>
        simp only [hu, Option.some.injEq] at h
        rw [← h, State.writeHomeAs_regs, ← State.regs_of_standing (State.dirStore_standing hu)]
        split
        · exact State.regs_of_standing (u.touchL2_standing _ _ _ _ _)
        · exact State.regs_of_standing (u.passL2_standing _ _ _)

/-! ### What a store to a register of the machine leaves as it was -/

theorem State.retnCheck_standing (s : State) (d : Fin 8) (n : Nat) (ctl : W64) (ten : BitVec 6) :
    (s.retnCheck d n ctl ten).1.standing = s.standing := by
  unfold State.retnCheck
  extract_lets r va lines ways cnt others reservedSet
  split
  · rfl
  · have hwalk := s.walkTenant_standing d ten (s.entOf d ten) va
    split
    all_goals next hw => rw [hw] at hwalk; exact hwalk

theorem State.retnSet_standing (s : State) (d : Fin 8) (n : Nat) (ctl : W64) (ten : BitVec 6) :
    (s.retnSet d n ctl ten).standing = s.standing := by
  have hcheck := s.retnCheck_standing d n ctl ten
  unfold State.retnSet
  split
  all_goals next hc => rw [hc] at hcheck; exact hcheck

theorem State.pageWrite_standing (s : State) (d : Fin 8) (o : Nat) (val : W64) (ten : BitVec 6) :
    (s.pageWrite d o val ten).standing = s.standing := by
  unfold State.pageWrite
  split
  · unfold State.retnCtl
    extract_lets en
    split
    · split
      · rfl
      · exact s.retnSet_standing d _ val ten
    · rfl
  · split
    · rfl
    · split
      · rfl
      · unfold State.plainWrite
        repeat' split
        all_goals rfl

theorem State.mailbox_standing (s : State) (m : Mailbox) : State.standing { s with mailbox := m } = s.standing := rfl

theorem State.mailWrite_standing (s : State) (o : Nat) (val : W64) : (s.mailWrite o val).standing = s.standing := by
  unfold State.mailWrite
  extract_lets m ten die
  split
  · exact s.mailbox_standing _
  · split
    · exact s.mailbox_standing _
    · rfl

theorem State.devStore_standing (s : State) (pa : Nat) (bs : List (Option Byte)) (ten : BitVec 6) :
    (s.devStore pa bs ten).standing = s.standing := by
  refine foldl_standing s _ _ fun t w => ?_
  unfold State.devWrite
  split
  · rfl
  · split
    · exact t.mailWrite_standing _ _
    · exact t.pageWrite_standing _ _ _ _

/-! ### The spill engine (R169 to R171) -/

theorem Bench.updateL1_regs (x : Bench) (pa : Nat) (bs : List (Option Byte)) (clears : Nat → Bool) (pri : BitVec 2) (last : Bool) :
    (x.updateL1 pa bs clears pri last).regs = x.regs := by
  unfold Bench.updateL1
  extract_lets ln rest
  split
  · rfl
  · extract_lets c
    repeat' split
    all_goals rfl

/-- The store of a group changes memory and caches, and no register. -/
theorem State.spillStore_regs {s t : State} {b : BenchId} {c : Fin 4} {va : W64} {p : Passed} {bs : List Byte}
    (h : s.spillStore b c va p bs = some t) : t.regs = s.regs := by
  unfold State.spillStore at h
  extract_lets ten at h
  split at h
  · split at h
    · cases h
    · cases h
      exact State.regs_of_standing (s.devStore_standing _ _ _)
  · cases hs : s.send (s.moduleOf p.pa) ten 2 (.store (p.pa % 2 ^ 40) (bs.map some)) with
    | none => simp only [hs, Option.map_none, reduceCtorEq] at h
    | some r =>
      simp only [hs, Option.map_some, Option.some.injEq] at h
      rw [← h]
      refine (State.modBench_regs r.1 b ?_).trans (State.regs_of_standing (State.send_standing _ _ _ _ hs))
      exact fun x => rfl
  · cases hs : s.storeHome (dieOf b) ten p.leaf p.pa bs with
    | none => simp only [hs, Option.map_none, reduceCtorEq] at h
    | some u =>
      simp only [hs, Option.map_some, Option.some.injEq] at h
      rw [← h, State.modBench_regs _ _ fun x => x.updateL1_regs _ _ _ _ _, ← State.storeHome_regs hs]
      split
      · exact State.modBench_regs _ _ fun x => rfl
      · rfl

/-- A group that has been spilled: it is free, its context has spilled one more, and the registers are as they were. -/
structure Bench.Spilled (x y : Bench) (c : Fin 4) : Prop where
  count : (y.ctx c).spilled = (x.ctx c).spilled + 1
  free : y.c.groups[(x.ctx c).group (firstSpillable c + (x.ctx c).spilled)] = .free
  file : y.c.file = x.c.file
  globals : y.c.globals = x.c.globals

theorem Bench.freeGroup_spilled {x y : Bench} (h : y.regs = x.regs) (c : Fin 4) :
    x.Spilled ((y.freeGroup ((x.ctx c).group (firstSpillable c + (x.ctx c).spilled))).modCtx c
      fun k => { k with spilled := k.spilled + 1 }) c := by
  obtain ⟨hfile, hglobals, hcount⟩ : y.c.file = x.c.file ∧ y.c.globals = x.c.globals ∧
      (fun c => (y.ctx c).spilled) = fun c => (x.ctx c).spilled := by simpa [Bench.regs] using h
  refine ⟨?_, ?_, hfile, hglobals⟩
  · rw [Bench.ctx_modCtx, if_pos rfl]
    exact congrArg (· + 1) (congrFun hcount c)
  · simp [Bench.modCtx, Bench.freeGroup, Bench.setGroup]

/-- The oldest group of a context that is saved is free. -/
theorem State.spillOldest_spilled {s t : State} {b : BenchId} {c : Fin 4} (h : s.spillOldest b c = .ok t) :
    (s.bench b).Spilled (t.bench b) c := by
  unfold State.spillOldest at h
  extract_lets x k g va at h
  have hcheck := s.check_standing b va.toNat 64 .write false false
  split at h
  · cases h
  · split at h
    · cases h
    · split at h
      · cases h
      · split at h
        · cases h
        · cases h
        · next u p hu =>
          rw [hu] at hcheck
          split at h
          · cases h
          · next v hv =>
            cases h
            have hregs : v.regs = s.regs := (State.spillStore_regs hv).trans (State.regs_of_standing hcheck)
            rw [State.bench_modBench, if_pos rfl]
            exact Bench.freeGroup_spilled (congrFun hregs b) c

theorem exec_backgroundSpill {s t : State} {d : Fin 4} (hteam : (s.bench s.cur.bring.bench).team ≠ none)
    (hd : (s.bench s.cur.bring.bench).fullest = some d) (hfree : (s.bench s.cur.bring.bench).freeGroups < 4)
    (h : s.spillOldest s.cur.bring.bench d = .ok t) : exec .backgroundSpill s = .next t := by
  obtain ⟨tm, htm⟩ := Option.ne_none_iff_exists'.1 hteam
  change execBackgroundSpill s = _
  simp only [execBackgroundSpill, htm, hd, if_neg (Nat.not_le.2 hfree), h]

/-- A group that has been filled: its context holds it, has spilled one fewer, and the global registers are as they were. -/
structure Bench.Filled (x y : Bench) (c : Fin 4) : Prop where
  count : (y.ctx c).spilled = (x.ctx c).spilled - 1
  held : y.c.groups[(x.ctx c).group (firstSpillable c + (x.ctx c).spilled - 1)] = .held c
  globals : y.c.globals = x.c.globals

theorem Bench.refill_filled {x y : Bench} (h : y.c = x.c) {c : Fin 4} {g : Fin 16}
    (hg : (x.ctx c).group (firstSpillable c + (x.ctx c).spilled - 1) = g) (bs : List Byte) :
    x.Filled (y.refill c g ((x.ctx c).spilled - 1) bs) c := by
  have hglobals : (y.refill c g ((x.ctx c).spilled - 1) bs).c.globals = y.c.globals := rfl
  subst hg
  refine ⟨?_, ?_, by rw [hglobals, h]⟩
  · rw [Bench.refill, Bench.ctx_modCtx, if_pos rfl]
  · simp [Bench.modCtx, Bench.refill, Bench.setGroup]

theorem State.loadLine_standing {s : State} {b : BenchId} {p : Passed} {sc : Scope} {pri : BitVec 2} {r : State × LineData × BitVec 4}
    (h : s.loadLine b p sc pri = some r) : r.1.standing = s.standing := by
  unfold State.loadLine at h
  extract_lets ln x c at h
  split at h
  · cases h
    refine (State.modBench_standing _ b _ ?_).trans (s.oweRead_standing b sc ln)
    unfold Bench.hitL1
    split <;> rfl
  · split at h
    · cases h
    · next u d po hu =>
      cases h
      refine ((State.modBench_standing _ b _ ?_).trans (u.oweRead_standing b sc ln)).trans (State.fetchFor_standing _ _ _ _ _ _ _ hu)
      unfold Bench.fillL1
      extract_lets n rest inSet full victim rest'
      split <;> rfl

/-- A load that is not the last of its line leaves memory, the turn and every C unit as they were. -/
theorem State.load_standing {s t : State} {b : BenchId} {p : Passed} {n : Nat} {sc : Scope} {pri : BitVec 2}
    {fwd : Nat → Option Byte} {bs : List Byte} (h : s.load b p n sc pri false fwd = .ok t bs) : t.standing = s.standing := by
  unfold State.load at h
  extract_lets region sc' direct got at h
  have hgot : ∀ r, got = some r → r.1.standing = s.standing := by
    intro r hr
    unfold got at hr
    split at hr
    · exact State.fetchFor_standing _ _ _ _ _ _ _ hr
    · exact State.loadLine_standing hr
  clear_value region got
  split at h
  · cases h
    rfl
  · simp only [Bool.false_and, Bool.false_eq_true, if_false] at h
    repeat' split at h
    all_goals simp only [reduceCtorEq, LoadRes.ok.injEq] at h
    all_goals exact h.1 ▸ hgot _ rfl

/-- Nothing has changed when a load has to go to another module. -/
theorem State.load_remote {s t : State} {b : BenchId} {p : Passed} {n : Nat} {sc : Scope} {pri : BitVec 2} {last : Bool}
    {fwd : Nat → Option Byte} (h : s.load b p n sc pri last fwd = .remote t) : t = s := by
  unfold State.load at h
  extract_lets region sc' direct got at h
  clear_value region got
  repeat' split at h
  all_goals simp only [reduceCtorEq, LoadRes.remote.injEq] at h
  all_goals exact h.symm

/-- A group that is filled is read by a load, or by a request to the module that holds it; neither changes the bench's C unit. -/
theorem State.fillLatest_filled {s t : State} {b : BenchId} {c : Fin 4} (hpos : 0 < ((s.bench b).ctx c).spilled)
    (h : s.fillLatest b c = .ok t) : (s.bench b).Filled (t.bench b) c := by
  have hidx : firstSpillable c + ((s.bench b).ctx c).spilled - 1 = firstSpillable c + (((s.bench b).ctx c).spilled - 1) := by omega
  have hgroup := congrArg ((s.bench b).ctx c).group hidx
  unfold State.fillLatest at h
  extract_lets x k i g va at h
  have hcheck := s.check_standing b va.toNat 64 .read false false
  have hfill (u : State) (bs : List Byte) (hu : u.standing = s.standing) :
      (s.bench b).Filled ((u.modBench b fun x => x.refill c g i bs).bench b) c := by
    rw [State.bench_modBench, if_pos rfl]
    exact Bench.refill_filled ((State.standing_eq hu).2.2 b).1 hgroup bs
  split at h
  · cases h
  · cases h
  · next u p hu =>
    rw [hu] at hcheck
    split at h
    · cases h
    · cases h
    · next v bs hv =>
      cases h
      exact hfill v bs ((State.load_standing hv).trans hcheck)
    · next v hv =>
      obtain rfl := State.load_remote hv
      have hask := v.askRemote_standing (.of b .c c) (v.bench b).tenant p 64
      split at h
      · cases h
      · next w val code hw =>
        rw [hw] at hask
        extract_lets w' at h
        split at h
        · cases h
        · cases h
          exact hfill w' _ ((w.setAsks_standing _ _).trans (hask.trans hcheck))

theorem exec_groupFill {s t : State} (hteam : (s.bench s.cur.bring.bench).team ≠ none)
    (hlive : ((s.bench s.cur.bring.bench).ctx s.cur.bring.ctx).live = true)
    (hpos : 0 < ((s.bench s.cur.bring.bench).ctx s.cur.bring.ctx).spilled) (hfree : 5 ≤ (s.bench s.cur.bring.bench).freeGroups)
    (hgroup : (s.bench s.cur.bring.bench).c.groups[((s.bench s.cur.bring.bench).ctx s.cur.bring.ctx).group
      (firstSpillable s.cur.bring.ctx + ((s.bench s.cur.bring.bench).ctx s.cur.bring.ctx).spilled - 1)] = .free)
    (h : s.fillLatest s.cur.bring.bench s.cur.bring.ctx = .ok t) : exec .groupFill s = .next t := by
  have hdue : (s.bench s.cur.bring.bench).fillDue s.cur.bring.ctx = true := by
    simp [Bench.fillDue, Option.isSome_iff_ne_none.2 hteam, hlive, hpos, hfree, hgroup]
  change execGroupFill s = _
  simp only [execGroupFill, hdue, if_true, h]

theorem spillEngine_claim : Sys2Proof.Claims.SpillEngine := by
  intro s t b c x
  refine ⟨fun d hteam hd hfree h => ?_, fun hteam hlive hpos hfree hgroup h => ?_⟩
  · obtain ⟨hcount, hgone, hfile, hglobals⟩ := State.spillOldest_spilled h
    exact ⟨exec_backgroundSpill hteam hd hfree h, hcount, hgone, hfile, hglobals⟩
  · obtain ⟨hcount, hheld, hglobals⟩ := State.fillLatest_filled hpos h
    exact ⟨exec_groupFill hteam hlive hpos hfree hgroup h, hcount, hheld, hglobals⟩

/-- Settles O52: what is in flight by the function of its event, gives by what settling the stream pushes, waits by the clock, and the
spill engine by what its store and its load leave of the bench. -/
theorem completionEvents : Obligations.CompletionEvents :=
  ⟨completionEvents_claim, arrivalEvents_claim, watchdogEvents_claim, spillEngine_claim⟩

end Sys2Proof.Machine
end

section
/-! O17: RELS (R127): the tail takes the frame on, and the main context returns. -/

namespace Sys2Proof.Machine

/-! ### The registers of a group (R87) -/

/-- The register at a place of a group. -/
def CUnit.reg (u : CUnit) (g : Fin 16) (j : Nat) : W64 := vget u.file (4 * g.val + j) 0

theorem CUnit.reg_congr {u v : CUnit} (h : v.file = u.file) (g : Fin 16) (j : Nat) : v.reg g j = u.reg g j := by
  rw [CUnit.reg, h, CUnit.reg]

/-- k8 to k11 of a window are the registers of its group. -/
theorem CUnit.at_regDst_low (u : CUnit) (w : BitVec 4) {k : BitVec 4} (h8 : 8 ≤ k.toNat) (h12 : k.toNat < 12) :
    u.at_ (regDst w k) = u.reg (groupAt w.toNat) (k.toNat - 8) := by
  have hk : k ≠ 0 := by rintro rfl; simp at h8
  have hw : w.toNat % 16 = w.toNat := Nat.mod_eq_of_lt w.isLt
  have hlt : 4 * w.toNat + (k.toNat - 8) < 64 := by omega
  rw [regDst, if_neg hk, if_neg (by omega), if_pos h12]
  simp [CUnit.at_, CUnit.reg, groupAt, vget, hw, hlt, Nat.mod_eq_of_lt hlt]

/-- k12 to k15 of a window are the registers of the group after its own. -/
theorem CUnit.at_regDst_high (u : CUnit) (w : BitVec 4) {k : BitVec 4} (h12 : 12 ≤ k.toNat) :
    u.at_ (regDst w k) = u.reg (groupAt (w.toNat + 1)) (k.toNat - 12) := by
  have hk : k ≠ 0 := by rintro rfl; simp at h12
  have hlt : 4 * ((w.toNat + 1) % 16) + (k.toNat - 12) < 64 := by omega
  rw [regDst, if_neg hk, if_neg (by omega), if_neg (by omega)]
  simp [CUnit.at_, CUnit.reg, groupAt, vget, hlt, Nat.mod_eq_of_lt hlt]

theorem vget_vset {α : Type} {n : Nat} (v : Vector α n) (i k : Nat) (x d : α) (hk : k < n) :
    vget (vset v i x) k d = if k = i then x else vget v k d := by
  simpa [vset, vmod] using vget_vmod v i k (fun _ => x) d hk

theorem CUnit.copyGroup_reg (u : CUnit) (src dst g : Fin 16) {j : Nat} (hj : j < 4) :
    (u.copyGroup src dst).reg g j = if g = dst then u.reg src j else u.reg g j := by
  have hlt : 4 * g.val + j < 64 := by omega
  have hupTo : upTo 4 = [0, 1, 2, 3] := rfl
  simp only [CUnit.reg, CUnit.copyGroup, hupTo, List.foldl_cons, List.foldl_nil, vget_vset _ _ _ _ _ hlt]
  by_cases hg : g = dst
  · subst hg
    interval_cases j <;> simp
  · have hval : g.val ≠ dst.val := Fin.val_ne_of_ne hg
    rw [if_neg (by omega), if_neg (by omega), if_neg (by omega), if_neg (by omega), if_neg hg]

/-! ### The split of a frame -/

theorem groupAt_add_ne {n i j : Nat} (hij : i < j) (hj : j < i + 16) : groupAt (n + i) ≠ groupAt (n + j) := by
  simp only [groupAt, ne_eq, Fin.mk.injEq]
  omega

/-- The window `i` groups on begins at the group `i` places on. -/
theorem groupAt_toNat_add (w i : BitVec 4) (n : Nat) : groupAt ((w + i).toNat + n) = groupAt (w.toNat + i.toNat + n) := by
  simp [groupAt, BitVec.toNat_add]

theorem State.onlyHere_modHere (s : State) (f : Bench → Bench) : s.onlyHere (s.modHere f) :=
  ⟨rfl, fun b hb => by rw [State.bench_modHere, if_neg hb]⟩

theorem State.onlyHere.trans {s t u : State} (hst : s.onlyHere t) (htu : t.onlyHere u) : s.onlyHere u := by
  obtain ⟨hs, hsb⟩ := hst
  obtain ⟨ht, htb⟩ := htu
  have hcur : t.cur = s.cur := by rw [hs]
  refine ⟨by rw [ht, hs], fun b hb => (htb b ?_).trans (hsb b hb)⟩
  rwa [hcur]

/-- The state in which a tail has both groups of the frame that it takes on. -/
def State.pinBoth (s : State) (c : Fin 4) : State :=
  (s.modHere fun x => x.setGroup (groupAt (s.myCtx.w.toNat + 2)) (.pinned c)).modHere fun x =>
    x.setGroup (groupAt (s.myCtx.w.toNat + 3)) (.pinned c)

theorem exec_rels_splits {s : State} {c : Fin 4} (hmain : s.cur.ctx = 0) (hdepth : s.myCtx.depth ≠ 0) (htail : s.relsTail = some c)
    (hspilled : s.myCtx.spilled = 0) (hloads : ∀ l ∈ s.here.c.loads, l.ctx ≠ s.cur.ctx)
    (h2 : s.here.c.groups[groupAt (s.myCtx.w.toNat + 2)] = .free) (h3 : s.here.c.groups[groupAt (s.myCtx.w.toNat + 3)] = .free) :
    exec .rels s = .next ((s.pinBoth c).splitTail c) := by
  have hbound : (s.here.c.loads.any fun l => l.ctx == s.cur.ctx) = false := by simpa using hloads
  have hbelow : s.needBelow s.cur.bench 0 = .ok s := State.needBelow_zero (by rw [← hmain]; exact hspilled)
  let s1 := s.modBench s.cur.bench fun x => x.setGroup (groupAt (s.myCtx.w.toNat + 2)) (.pinned c)
  have h3' : (s1.bench s.cur.bench).c.groups[groupAt (s.myCtx.w.toNat + 3)] = .free := by
    have hne : groupAt (s.myCtx.w.toNat + 2) ≠ groupAt (s.myCtx.w.toNat + 3) := groupAt_add_ne (by decide) (by decide)
    rw [← h3, State.bench_modBench, if_pos rfl]
    exact Vector.getElem_set_ne (groupAt _).isLt (groupAt _).isLt (Fin.val_ne_of_ne hne)
  have hguard : (s.cur.ctx != 0 || decide (s.myCtx.depth = 0)) = false := by simp [hmain, hdepth]
  change execRels s = _
  simp only [execRels, hguard, htail, hbound, hbelow, Bool.false_eq_true, if_false, State.claim_free h2]
  rw [State.claim_free h3']
  rfl

theorem State.splitTail_onlyHere (s : State) (c : Fin 4) : s.onlyHere (s.splitTail c) := by
  unfold State.splitTail State.goC State.modMy
  exact ((((s.onlyHere_modHere _).trans (State.onlyHere_modHere _ _)).trans (State.onlyHere_modHere _ _)).trans
    (State.onlyHere_modHere _ _)).trans (State.onlyHere_modHere _ _)

theorem State.pinBoth_onlyHere (s : State) (c : Fin 4) : s.onlyHere (s.pinBoth c) :=
  (s.onlyHere_modHere _).trans (State.onlyHere_modHere _ _)

theorem Bench.modCtx_modCtx (x : Bench) (i : Fin 4) (f g : Ctx → Ctx) : (x.modCtx i f).modCtx i g = x.modCtx i (g ∘ f) := by
  simp [Bench.modCtx, Bench.modC]

/-- The bench once the tail has taken on the frame of the window `w`: its registers are copied, and the group that the main context
leaves is free. -/
def Bench.handOn (x : Bench) (c : Fin 4) (tail : Ctx) (w : Nat) : Bench :=
  (((x.clearShadows 0).modC fun u =>
    (u.copyGroup (groupAt w) (groupAt (w + 2))).copyGroup (groupAt (w + 1)) (groupAt (w + 3))).modCtx c fun _ => tail).freeGroup
      (groupAt (w + 1))

/-- The tail as it starts. -/
def State.tailOf (s : State) : Ctx := { Ctx.start with live := true, pc := s.nextPc, w := s.myCtx.w + 2, rq := s.myCtx.rq }

/-- Where the frame of the context of the turn returns to. -/
def State.caller (s : State) : W64 := s.here.c.link[groupAt s.myCtx.w.toNat]

/-- A context returns to its caller. -/
def Ctx.back (k : Ctx) (pc : W64) : Ctx := { k with w := k.w - 1, depth := k.depth - 1, pc := pc, wait := none, phase := .idle }

theorem State.splitTail_here (s : State) (c : Fin 4) :
    (s.splitTail c).here = ((s.here.handOn c s.tailOf s.myCtx.w.toNat).joinDuty 0 c.val).modCtx s.cur.ctx
      (Ctx.back · s.caller) := by
  simp only [State.splitTail, State.goC, State.here_modMy, State.here_modHere, State.modMy_cur, State.modHere_cur, Bench.modCtx_modCtx]
  rfl

/-- A bench apart from its C unit. -/
def Bench.apartC (x : Bench) : Bench := x.modC fun _ => .start

theorem Bench.modC_apartC (x : Bench) (f : CUnit → CUnit) : (x.modC f).apartC = x.apartC := rfl

theorem Bench.joinDuty_apartC {x y : Bench} (h : y.apartC = x.apartC) (i j : Nat) :
    (y.joinDuty i j).apartC = (x.joinDuty i j).apartC := by
  have hjoin (z : Bench) : (z.joinDuty i j).apartC = (z.apartC.joinDuty i j).apartC := rfl
  rw [hjoin x, hjoin y, h]

theorem Bench.eq_of_apartC {x y : Bench} (h : y.apartC = x.apartC) : y = { x with c := y.c } := by
  have hback (z : Bench) (u : CUnit) : { z with c := u } = z.apartC.modC fun _ => u := rfl
  rw [hback x, ← h, ← hback y]

theorem Bench.handOn_apartC (x : Bench) (c : Fin 4) (tail : Ctx) (w : Nat) : (x.handOn c tail w).apartC = x.apartC := by
  unfold Bench.handOn Bench.freeGroup Bench.setGroup Bench.dropGroupLoads Bench.modCtx Bench.clearShadows Bench.modCtx
  simp only [Bench.modC_apartC]

theorem Bench.handOn_main {c : Fin 4} (h : c ≠ 0) (x : Bench) (tail : Ctx) (w : Nat) :
    (x.handOn c tail w).ctx 0 = { x.ctx 0 with sh1 := .empty, sh2 := .empty } := by
  have h1 : (x.handOn c tail w).ctx 0 = ((x.clearShadows 0).modCtx c fun _ => tail).ctx 0 := rfl
  rw [h1, Bench.ctx_modCtx, if_neg h.symm, Bench.clearShadows, Bench.ctx_modCtx, if_pos rfl]
  rfl

theorem Bench.handOn_tail (x : Bench) (c : Fin 4) (tail : Ctx) (w : Nat) : (x.handOn c tail w).ctx c = tail := by
  have h1 : (x.handOn c tail w).ctx c = ((x.clearShadows 0).modCtx c fun _ => tail).ctx c := rfl
  rw [h1, Bench.ctx_modCtx, if_pos rfl]

theorem Bench.handOn_reg (x : Bench) (c : Fin 4) (tail : Ctx) (w : Nat) (g : Fin 16) {j : Nat} (hj : j < 4) :
    (x.handOn c tail w).c.reg g j = if g = groupAt (w + 3) then x.c.reg (groupAt (w + 1)) j
      else if g = groupAt (w + 2) then x.c.reg (groupAt w) j else x.c.reg g j := by
  have h1 : (x.handOn c tail w).c.reg g j =
      ((x.c.copyGroup (groupAt w) (groupAt (w + 2))).copyGroup (groupAt (w + 1)) (groupAt (w + 3))).reg g j := rfl
  rw [h1, CUnit.copyGroup_reg _ _ _ _ hj, CUnit.copyGroup_reg _ _ _ _ hj, CUnit.copyGroup_reg _ _ _ _ hj,
    if_neg (groupAt_add_ne (by decide) (by decide))]

theorem Bench.joinDuty_ctx (x : Bench) (i j : Nat) (c : Fin 4) : (x.joinDuty i j).ctx c = x.ctx c := rfl

theorem Bench.joinDuty_reg (x : Bench) (i j : Nat) (g : Fin 16) (n : Nat) : (x.joinDuty i j).c.reg g n = x.c.reg g n := rfl

theorem Bench.modCtx_reg (x : Bench) (c : Fin 4) (f : Ctx → Ctx) (g : Fin 16) (n : Nat) : (x.modCtx c f).c.reg g n = x.c.reg g n := rfl

section
variable (s : State) (c : Fin 4)

/-- The bench keeps all but its C unit, and the releases of the tail cover what those of the main context must cover. -/
theorem State.splitTail_apartC : (s.splitTail c).here.apartC = (s.here.joinDuty 0 c.val).apartC := by
  rw [State.splitTail_here, Bench.modCtx, Bench.modC_apartC]
  exact Bench.joinDuty_apartC (Bench.handOn_apartC _ _ _ _) _ _

theorem State.splitTail_tail (h : c ≠ s.cur.ctx) : (s.splitTail c).here.ctx c = s.tailOf := by
  rw [State.splitTail_here, Bench.ctx_modCtx, if_neg h, Bench.joinDuty_ctx, Bench.handOn_tail]

theorem State.splitTail_main (hc : c ≠ 0) (hmain : s.cur.ctx = 0) :
    (s.splitTail c).myCtx = { s.myCtx.back s.caller with sh1 := .empty, sh2 := .empty } := by
  have hcur : (s.splitTail c).cur.ctx = 0 := hmain
  have hmy : s.myCtx = s.here.ctx 0 := by rw [State.myCtx, hmain]
  rw [State.myCtx, hcur, State.splitTail_here, hmain, Bench.ctx_modCtx, if_pos rfl, Bench.joinDuty_ctx, Bench.handOn_main hc, hmy]
  rfl

theorem State.splitTail_reg (g : Fin 16) {j : Nat} (hj : j < 4) : (s.splitTail c).here.c.reg g j =
    if g = groupAt (s.myCtx.w.toNat + 3) then s.here.c.reg (groupAt (s.myCtx.w.toNat + 1)) j
    else if g = groupAt (s.myCtx.w.toNat + 2) then s.here.c.reg (groupAt s.myCtx.w.toNat) j else s.here.c.reg g j := by
  rw [State.splitTail_here, Bench.modCtx_reg, Bench.joinDuty_reg, Bench.handOn_reg _ _ _ _ _ hj]

/-- R127: k8 to k15 of the tail are the frame's. -/
theorem State.splitTail_at_tail {k : BitVec 4} (h8 : 8 ≤ k.toNat) :
    (s.splitTail c).here.c.at_ (regDst (s.myCtx.w + 2) k) = s.here.c.at_ (regDst s.myCtx.w k) := by
  have hw2 : groupAt (s.myCtx.w + 2).toNat = groupAt (s.myCtx.w.toNat + 2) := by simpa using groupAt_toNat_add s.myCtx.w 2 0
  have hw3 : groupAt ((s.myCtx.w + 2).toNat + 1) = groupAt (s.myCtx.w.toNat + 3) := groupAt_toNat_add s.myCtx.w 2 1
  by_cases h12 : k.toNat < 12
  · rw [CUnit.at_regDst_low _ _ h8 h12, CUnit.at_regDst_low _ _ h8 h12, hw2, State.splitTail_reg _ _ _ (by omega),
      if_neg (groupAt_add_ne (by decide) (by decide)), if_pos rfl]
  · rw [CUnit.at_regDst_high _ _ (by omega), CUnit.at_regDst_high _ _ (by omega), hw3, State.splitTail_reg _ _ _ (by omega), if_pos rfl]

/-- R127: k12 to k15 of the caller are the frame's k8 to k11. -/
theorem State.splitTail_at_caller {k : BitVec 4} (h12 : 12 ≤ k.toNat) :
    (s.splitTail c).here.c.at_ (regDst (s.myCtx.w - 1) k) = s.here.c.at_ (regDst s.myCtx.w (k - 4)) := by
  have hk : (k - 4).toNat = k.toNat - 4 := by bv_omega
  have hw : groupAt ((s.myCtx.w - 1).toNat + 1) = groupAt (s.myCtx.w.toNat + 0) := by
    simp only [groupAt, Fin.mk.injEq]
    bv_omega
  rw [CUnit.at_regDst_high _ _ h12, CUnit.at_regDst_low _ _ (by omega) (by omega), hw, hk, State.splitTail_reg _ _ _ (by omega),
    if_neg (groupAt_add_ne (by decide) (by decide)), if_neg (groupAt_add_ne (by decide) (by decide)), Nat.sub_sub, Nat.add_zero]

theorem State.pinBoth_here : (s.pinBoth c).here =
    (s.here.setGroup (groupAt (s.myCtx.w.toNat + 2)) (.pinned c)).setGroup (groupAt (s.myCtx.w.toNat + 3)) (.pinned c) := by
  simp [State.pinBoth]

theorem State.pinBoth_myCtx : (s.pinBoth c).myCtx = s.myCtx := by
  rw [State.myCtx, State.pinBoth_here]
  rfl

theorem State.pinBoth_at (d : Option Dst) : (s.pinBoth c).here.c.at_ d = s.here.c.at_ d := by
  rw [State.pinBoth_here]
  rfl

theorem State.pinBoth_caller : (s.pinBoth c).caller = s.caller := by
  have hlink : (s.pinBoth c).here.c.link = s.here.c.link := by
    rw [State.pinBoth_here]
    rfl
  simp only [State.caller, State.pinBoth_myCtx, hlink]

theorem State.pinBoth_apartC : (s.pinBoth c).here.apartC = s.here.apartC := by
  rw [State.pinBoth_here, Bench.setGroup, Bench.setGroup, Bench.modC_apartC, Bench.modC_apartC]

theorem State.pinBoth_tailOf : (s.pinBoth c).tailOf = s.tailOf := by
  rw [State.tailOf, State.pinBoth_myCtx]
  rfl

end

/-! ### RELS (R127) -/

theorem State.relsTail_of_chosen {s : State} {c : Fin 4} (h : s.myCtx.phase = .rels c) : s.relsTail = some c := by
  rw [State.relsTail, h]

theorem State.relsTail_of_not_chosen {s : State} (h : ∀ t, s.myCtx.phase ≠ .rels t) : s.relsTail = s.here.freeTail := by
  unfold State.relsTail
  split
  · next t ht => exact absurd ht (h t)
  · rfl

theorem exec_rels_ill {s : State} (h : s.cur.ctx ≠ 0 ∨ s.myCtx.depth = 0) : exec .rels s = .next (s.raiseC cILL 0) := by
  have hguard : (s.cur.ctx != 0 || decide (s.myCtx.depth = 0)) = true := by simpa using h
  change execRels s = _
  simp only [execRels, hguard, if_true]

theorem exec_rels_tailfull {s : State} (hmain : s.cur.ctx = 0) (hdepth : s.myCtx.depth ≠ 0) (h : s.relsTail = none) :
    exec .rels s = .next (s.raiseC cTAILFULL 0) := by
  have hguard : (s.cur.ctx != 0 || decide (s.myCtx.depth = 0)) = false := by simp [hmain, hdepth]
  change execRels s = _
  simp only [execRels, hguard, h, Bool.false_eq_true, if_false]

/-- Settles O17: both claims find their groups free, and the frame is copied into them before the main context returns. -/
theorem relsResults : Obligations.RelsResults := by
  refine ⟨fun s c hc hmain hdepth hphase hspilled hloads h2 h3 => ?_, fun s h => exec_rels_ill h, fun s hmain hdepth hphase hfree =>
    exec_rels_tailfull hmain hdepth ((State.relsTail_of_not_chosen hphase).trans hfree)⟩
  have htail : s.relsTail = some c := by
    obtain hchosen | ⟨hnone, hfree⟩ := hphase
    · exact State.relsTail_of_chosen hchosen
    · exact (State.relsTail_of_not_chosen hnone).trans hfree
  let u := s.pinBoth c
  have hmy : u.myCtx = s.myCtx := s.pinBoth_myCtx c
  have hctx : (u.splitTail c).here.ctx c = s.tailOf := by
    rw [u.splitTail_tail c (hmain ▸ hc), s.pinBoth_tailOf]
  refine ⟨u.splitTail c, exec_rels_splits hmain hdepth htail hspilled hloads h2 h3,
    (s.pinBoth_onlyHere c).trans (u.splitTail_onlyHere c),
    Bench.eq_of_apartC ((u.splitTail_apartC c).trans (Bench.joinDuty_apartC (s.pinBoth_apartC c) _ _)), ?_,
    congrArg Ctx.live hctx, congrArg Ctx.pc hctx, congrArg Ctx.w hctx, congrArg Ctx.depth hctx, (congrArg Ctx.rq hctx : _ = s.tailOf.rq),
    fun k hk => ?_, fun k hk => ?_⟩
  · rw [u.splitTail_main c hc hmain, hmy, s.pinBoth_caller c]
    rfl
  · rw [← hmy, u.splitTail_at_tail c hk, s.pinBoth_at c]
  · rw [← hmy, u.splitTail_at_caller c hk, s.pinBoth_at c]

end Sys2Proof.Machine
end

section
/-! O23: what an atomic writes at home, and what it answers (R138 to R141). -/

namespace Sys2Proof.Machine

/-! ### What home leaves of a bench

An access at an L2 slice changes no bench, and a write at home changes of a bench the contexts that it wakes. -/

/-- The lines that each bench's L1 holds, and the values that its contexts await, by the field that they depend on. -/
def copiesOf (bs : Vector Bench 768) : BenchId → List L1Line × List PendLoad := fun b => (bs[b].l1, bs[b].c.loads)

/-- The lines that each bench's L1 holds, and the values that its contexts await. -/
def State.copies (s : State) : BenchId → List L1Line × List PendLoad := copiesOf s.benches

theorem State.copies_def (s : State) : s.copies = copiesOf s.benches := rfl

theorem State.copies_eq {s t : State} (h : t.copies = s.copies) (b : BenchId) :
    (t.bench b).l1 = (s.bench b).l1 ∧ (t.bench b).c.loads = (s.bench b).c.loads :=
  Prod.ext_iff.1 (congrFun h b)

theorem State.portRun_copies (s : State) (d : Fin 8) (slice n : Nat) : (s.portRun d slice n).copies = s.copies := by
  induction n generalizing s with
  | zero => rfl
  | succ n ih =>
    rw [State.portRun]
    split
    · rfl
    · rw [ih]
      rfl

theorem State.takeToken_copies (s : State) (d : Fin 8) (slice : Nat) (ten : BitVec 6) :
    (s.takeToken d slice ten).copies = s.copies := by
  grind -lia [State.takeToken, State.portTo, State.portRun_copies, State.copies_def]

theorem State.evictL2_copies (s : State) (v : L2Line) (ten : BitVec 6) : (s.evictL2 v ten).copies = s.copies := by
  grind -lia [State.evictL2, State.dropSharers, State.touchChan, State.writeBack, State.copies_def]

theorem State.touchL2_copies (s : State) (pa : Nat) (leaf : Leaf) (pri : BitVec 2) (lru : Bool) (ten : BitVec 6) :
    (s.touchL2 pa leaf pri lru ten).copies = s.copies := by
  grind -lia [State.touchL2, State.takeToken_copies, State.evictL2_copies, State.touchChan, State.copies_def]

theorem State.modBench_copies (s : State) (b : BenchId) (f : Bench → Bench)
    (hf : ∀ x, (f x).l1 = x.l1 ∧ (f x).c.loads = x.c.loads) : (s.modBench b f).copies = s.copies := by
  funext c
  have hbench (t : State) : t.copies c = ((t.bench c).l1, (t.bench c).c.loads) := rfl
  rw [hbench, hbench, State.bench_modBench]
  split
  · next h => rw [(hf _).1, (hf _).2, h]
  · rfl

theorem State.sendWake_copies (s : State) (m : BitVec 14) (tag : Nat) : (s.sendWake m tag).copies = s.copies := by
  rw [State.sendWake]
  split <;> rfl

theorem State.wakeWatch_copies (s : State) (w : Watch) : (s.wakeWatch w).copies = s.copies := by
  rw [State.wakeWatch]
  split
  · exact s.modBench_copies _ _ fun _ => ⟨rfl, rfl⟩
  · exact s.sendWake_copies _ _

theorem State.wakeLine_copies (s : State) (ln : Nat) : (s.wakeLine ln).copies = s.copies :=
  foldl_keeps State.copies State.wakeWatch State.wakeWatch_copies _ { s with watches := s.watches.filter fun w => w.line != ln }

theorem State.makeDirty_copies (s : State) (ln : Nat) : (s.makeDirty ln).copies = s.copies := by
  rw [State.makeDirty]
  split <;> rfl

theorem State.writeHomeAs_copies (s : State) (die : Option (Fin 8)) (pa : Nat) (bs : List (Option Byte)) (clears : Nat → Bool)
    (direct : Bool) : (s.writeHomeAs die pa bs clears direct).copies = s.copies := by
  unfold State.writeHomeAs
  extract_lets ln s1 s2 s3 patch s4
  have h1 : s1.copies = s.copies := by
    unfold s1
    split
    · rfl
    · split
      · exact s.makeDirty_copies ln
      · rfl
  have h2 : s2.copies = s1.copies := rfl
  have h3 : s3.copies = s2.copies :=
    foldl_keeps State.copies (fun s sec => if clears sec then s.setPoison sec false else s) (fun s sec => by split <;> rfl) _ s2
  have h4 : s4.copies = s3.copies := by
    unfold s4
    split <;> rfl
  rw [State.wakeLine_copies, ← h1, ← h2, ← h3, ← h4]
  rfl

theorem State.owe_copies (s : State) (b : BenchId) (e : StEntry) : (s.owe b e).copies = s.copies := by
  rw [State.owe]
  split
  · refine s.modBench_copies _ _ fun x => ⟨?_, ?_⟩
    · exact foldl_keeps Bench.l1 (fun x i => x.addDuty i [e.pa / 128]) (fun _ _ => rfl) _ x
    · exact foldl_keeps (fun x : Bench => x.c.loads) (fun x i => x.addDuty i [e.pa / 128]) (fun _ _ => rfl) _ x
  · rfl

/-! ### An atomic in conventional memory (R138 to R140) -/

theorem leNat_leBytes (n x : Nat) : leNat (leBytes n x) = x % 256 ^ n := by
  induction n generalizing x with
  | zero => rw [leBytes, leNat, Nat.pow_zero, Nat.mod_one]
  | succ n ih =>
    have hbyte : (BitVec.ofNat 8 x).toNat = x % 256 := BitVec.toNat_ofNat x 8
    rw [leBytes, leNat, ih, hbyte, Nat.pow_succ', Nat.mod_mul]

/-- A number that has been written is there, as far as its bytes hold it. -/
theorem Mem.nat_write_leBytes {m : Mem} (h : Mem.wf m = true) (a n x : Nat) :
    Mem.nat (Mem.write m a ((leBytes n x).map some)) a n = x % 2 ^ (8 * n) := by
  have hread := Mem.read_writeAll m a (leBytes n x) h
  rw [leBytes_length] at hread
  rw [Mem.nat, ← Mem.writeAll, hread, leNat_leBytes, Nat.pow_mul]

/-- The L1 of a bench loses a line. -/
def State.dropL1 (s : State) (b : BenchId) (ln : Nat) : State :=
  s.modBench b fun x => { x with l1 := x.l1.filter fun l => l.line != ln }

/-- The line of an atomic is brought in at its home. -/
def State.atomicFill (s : State) (b : BenchId) (e : StEntry) : State := s.touchL2 e.pa e.leaf 1 false (s.bench b).tenant

/-- What an atomic writes at home, where no copy of its line is. -/
def State.atomicWrite (s : State) (b : BenchId) (e : StEntry) (new : Nat) : State :=
  (((s.setDir (e.pa / 128) none).atomicFill b e).writeHome (some (dieOf b)) e.pa ((leBytes e.size new).map some)).owe b e

theorem State.poisoned_of_no_poison {s : State} (h : s.poison = []) (pa n : Nat) : s.poisoned pa n = false := by
  simp [State.poisoned, h]

theorem State.holdHost_of_mem {s : State} {pa : Nat} {d : Fin 8} (h : s.region pa = .mem d) : s.holdHost pa = s := by
  have hhost : (Region.mem d == Region.host) = false := rfl
  simp only [State.holdHost, h, hhost, Bool.false_and, Bool.false_eq_true, if_false]

/-- Conventional memory lies at the same addresses in every state (R294). -/
theorem State.region_mem {s : State} {pa : Nat} {d : Fin 8} (h : s.region pa = .mem d) (t : State) : t.region pa = .mem d := by
  by_cases hpa : pa < 0xC000000000
  · rw [← h, State.region, State.region, if_pos hpa, if_pos hpa]
  · rw [State.region, if_neg hpa] at h
    repeat' split at h
    all_goals cases h

section
variable {s : State} {b : BenchId} {e : StEntry} {op : AtomOp} {v ex : W128} {d : Fin 8}

/-- An atomic in conventional memory, free of poison, of a line without copies: a comparison that fails counts as a load, and any other
atomic writes. -/
theorem State.performAtomic_of_mem (hreg : s.region e.pa = .mem d) (hun : s.unshared e.pa) (hpoison : s.poison = []) :
    s.performAtomic b .c e op v ex =
      if op = .cas && Mem.nat s.mem e.pa e.size != ex.toNat then
        if s.loadWaits (scopeWiden e.scope e.leaf.scope) (e.pa / 128) then none
        else some (((s.dropL1 b (e.pa / 128)).atomicFill b e).answer b .c e (Mem.nat s.mem e.pa e.size) 0)
      else some (((s.dropL1 b (e.pa / 128)).atomicWrite b e (atomF op (8 * e.size) (Mem.nat s.mem e.pa e.size) v.toNat ex.toNat)).answer
        b .c e (Mem.nat s.mem e.pa e.size) 0) := by
  obtain ⟨hsharers, hclosing⟩ := hun
  unfold State.performAtomic
  extract_lets old u filled
  have hregion : u.region e.pa = .mem d := hreg
  have hreleased : u.releasedRange e.pa = false := by rw [State.releasedRange, hregion]
  have hclosing' : u.closingRange e.pa = false := hclosing
  have hpoisoned : u.poisoned e.pa e.size = false := State.poisoned_of_no_poison hpoison _ _
  have hstore : u.dirStore (e.pa / 128) (u.homeOf e.leaf (e.pa / 128)) = some (u.setDir (e.pa / 128) none) :=
    State.dirStore_unshared (s := u) hsharers _
  have hfilled : filled.holdHost e.pa = filled := State.holdHost_of_mem (State.region_mem hreg _)
  have hfilled' : ((u.setDir (e.pa / 128) none).atomicFill b e).holdHost e.pa = (u.setDir (e.pa / 128) none).atomicFill b e :=
    State.holdHost_of_mem (State.region_mem hreg _)
  rw [hreleased, hclosing', hpoisoned, hstore, hfilled]
  simp only [Bool.false_eq_true, if_false]
  rw [← State.atomicFill, hfilled']
  rfl

/-- An atomic of C whose context awaits its old value is answered by a response. -/
theorem State.answer_response (h : (s.bench b).halves e.tag = []) (val : Nat) (code : Byte) :
    s.answer b .c e val code = { s with responses := ⟨e.tag, BitVec.ofNat 1024 val, code, 0⟩ :: s.responses } := by
  simp only [State.answer, h]

theorem State.dropL1_l1 (ln : Nat) : ∀ l ∈ ((s.dropL1 b ln).bench b).l1, l.line ≠ ln := by
  intro l hl
  rw [State.dropL1, State.bench_modBench, if_pos rfl] at hl
  simpa using (List.mem_filter.1 hl).2

theorem State.dropL1_mem (ln : Nat) : (s.dropL1 b ln).mem = s.mem := rfl

theorem State.dropL1_loads (ln : Nat) : ((s.dropL1 b ln).bench b).c.loads = (s.bench b).c.loads := by
  rw [State.dropL1, State.bench_modBench, if_pos rfl]

theorem State.atomicWrite_copies (new : Nat) : (s.atomicWrite b e new).copies = s.copies := by
  rw [State.atomicWrite, State.owe_copies, State.writeHome, State.writeHomeAs_copies, State.atomicFill, State.touchL2_copies]
  rfl

theorem State.atomicFill_mem (u : State) : (u.atomicFill b e).mem = u.mem :=
  State.standing_mem (u.touchL2_standing _ _ _ _ _)

theorem State.atomicWrite_mem (new : Nat) :
    (s.atomicWrite b e new).mem = Mem.write s.mem e.pa ((leBytes e.size new).map some) := by
  rw [State.atomicWrite, State.owe_mem, State.writeHome, State.writeHomeAs_mem, State.atomicFill_mem]
  rfl

/-- What an atomic answers, when what it has changed at home has left the L1 without its line and the context awaiting its value. -/
theorem State.answer_of_copies {u : State} (hcopies : u.copies = (s.dropL1 b (e.pa / 128)).copies) (h : (s.bench b).halves e.tag = [])
    (val : Nat) : ∃ r, r ∈ (u.answer b .c e val 0).responses ∧ r.tag = e.tag ∧ r.code = 0 ∧ r.val = BitVec.ofNat 1024 val ∧
      (∀ l ∈ ((u.answer b .c e val 0).bench b).l1, l.line ≠ e.pa / 128) ∧ (u.answer b .c e val 0).mem = u.mem := by
  obtain ⟨hl1, hloads⟩ := State.copies_eq hcopies b
  have hhalves : (u.bench b).halves e.tag = [] := by rw [← h, Bench.halves, hloads, State.dropL1_loads, Bench.halves]
  rw [State.answer_response hhalves]
  refine ⟨⟨e.tag, BitVec.ofNat 1024 val, 0, 0⟩, List.mem_cons_self, rfl, rfl, rfl, ?_, rfl⟩
  change ∀ l ∈ (u.bench b).l1, _
  rw [hl1]
  exact State.dropL1_l1 _

end

theorem State.loadWaits_iff (s : State) (sc : Scope) (ln : Nat) : s.loadWaits sc ln = true ↔
    sc = .mo ∧ s.pendingMo ln = true ∨ 5 ≤ scopeRank sc ∧ s.pending ln = true := by
  simp [State.loadWaits]

theorem atomicPerforms_claim : Sys2Proof.Claims.AtomicPerforms := by
  intro s b e op v ex d hwf hreg hun hpoison old fails sc waits
  have hperform := State.performAtomic_of_mem (b := b) (op := op) (v := v) (ex := ex) hreg hun hpoison
  have hguard : (op = .cas && old != ex.toNat) = true ↔ fails := by simp [fails]
  have hwaits : s.loadWaits sc (e.pa / 128) = true ↔ _ := s.loadWaits_iff sc (e.pa / 128)
  by_cases hfails : fails
  · rw [if_pos (hguard.2 hfails)] at hperform
    refine ⟨fun ⟨_, hwait⟩ => by rw [hperform, if_pos (hwaits.2 hwait)], fun hhalves hgo => ?_⟩
    rw [if_neg fun hwait => hgo ⟨hfails, hwaits.1 hwait⟩] at hperform
    obtain ⟨r, hr, htag, hcode, hval, hl1, hmem⟩ := State.answer_of_copies (u := (s.dropL1 b (e.pa / 128)).atomicFill b e)
      (State.touchL2_copies _ _ _ _ _ _) hhalves old
    rw [State.atomicFill_mem, State.dropL1_mem] at hmem
    exact ⟨_, r, hperform, hr, htag, hcode, hval, hl1, fun a _ => by rw [hmem], fun _ => hmem,
      fun hno => absurd hfails hno⟩
  · rw [if_neg (hguard.not.2 hfails)] at hperform
    refine ⟨fun ⟨hno, _⟩ => absurd hno hfails, fun hhalves _ => ?_⟩
    let new := atomF op (8 * e.size) old v.toNat ex.toNat
    obtain ⟨r, hr, htag, hcode, hval, hl1, hmem⟩ := State.answer_of_copies
      (u := (s.dropL1 b (e.pa / 128)).atomicWrite b e new) (State.atomicWrite_copies _) hhalves old
    rw [State.atomicWrite_mem, State.dropL1_mem] at hmem
    refine ⟨_, r, hperform, hr, htag, hcode, hval, hl1, fun a ha => ?_, fun hno => absurd hno hfails,
      fun _ => ?_⟩
    · rw [hmem, Mem.get_write_outside _ _ _ _ hwf (by rwa [List.length_map, leBytes_length])]
    · rw [hmem, Mem.nat_write_leBytes hwf]

/-! ### An atomic that is answered (R138, R140, R141) -/

theorem exec_atomic {i : Instr} {d : BitVec 4} {n : Nat} {sc : Scope} {acq : Bool} (h : atomForm i = some (d, n, sc, acq)) (s : State) :
    ∃ issue, exec i s = s.atomicTurn d n sc acq issue := by
  unfold atomForm at h
  split at h
  all_goals cases h
  all_goals exact ⟨_, rfl⟩

theorem State.atomicTurn_awaits {s : State} {tag pa : Nat} {leaf : Leaf} {va : W64} (hlate : s.cur.late = true)
    (hphase : s.myCtx.phase = .atomic tag pa leaf va) (d : BitVec 4) (n : Nat) (sc : Scope) (acq : Bool) (issue : Out) :
    s.atomicTurn d n sc acq issue = s.atomicDone tag ⟨leaf, pa⟩ d n sc acq va := by
  simp only [State.atomicTurn, hphase, hlate, if_true]

theorem State.atomicDone_ok {s : State} {tag : Nat} {r : Response} (h : s.response tag = some r) (hcode : r.code = 0) (p : Passed)
    (d : BitVec 4) (n : Nat) (sc : Scope) (acq : Bool) (va : W64) :
    s.atomicDone tag p d n sc acq va = .next ((fun u : State => if acq then u.acquireC sc else u)
      (((s.takeResponse tag).modMy fun x => { x with phase := .idle }).putOld d n r.val.toNat)).doneC := by
  simp [State.atomicDone, h, hcode]

theorem atomicResults_claim : Sys2Proof.Claims.AtomicResults := by
  intro i s d n sc acq va tag pa leaf r hform hlate hphase hresponse hcode
  obtain ⟨issue, hexec⟩ := exec_atomic hform s
  rw [hexec, State.atomicTurn_awaits hlate hphase, State.atomicDone_ok hresponse hcode]

/-- Settles O23: home writes the atomic over the line that it has brought in and answers the old value, and the context that awaits it
puts it. -/
theorem atomicPerforms : Obligations.AtomicPerforms := ⟨atomicPerforms_claim, atomicResults_claim⟩

end Sys2Proof.Machine
end

section
/-! O18: what a load of C puts (R131 to R133, R135). -/

namespace Sys2Proof.Machine

/-! ### A load that binds in its turn (R85, R131) -/

theorem overlay_length (d : LineData) (pa n : Nat) (fwd : Nat → Option Byte) : (overlay d pa n fwd).length = n := by
  rw [overlay, List.length_map, span_length]

/-- LDC reads no more than eight bytes. -/
theorem State.loadConst_length_le {s t : State} {b : BenchId} {p : Passed} {bs : List Byte} (h : s.loadConst b p = .ok t bs) :
    bs.length ≤ 8 := by
  unfold State.loadConst at h
  extract_lets ln at h
  repeat' split at h
  all_goals simp only [reduceCtorEq, LoadRes.ok.injEq] at h
  all_goals rw [← h.2]
  all_goals simp [leBytes_length, overlay_length]

/-- The bytes of a load are at most those of its size; those of LDC are eight. -/
theorem State.loads_length_le {s s1 t : State} {k : LoadKind} {va : W64} {q : Passed} {bs : List Byte} (h : s.loads k va s1 q t bs)
    (hconst : k.const = true → k.size = 8) : bs.length ≤ k.size := by
  obtain ⟨-, -, -, -, -, hload⟩ := h
  cases hk : k.const with
  | true =>
    rw [hk] at hload
    rw [hconst hk]
    exact State.loadConst_length_le hload
  | false =>
    rw [hk] at hload
    exact State.load_length_le hload

/-- A load whose checks pass and that waits for nothing binds in its turn, unless the turn may leave it in flight (log entry 9). -/
theorem State.loadAt_ok {s s1 t : State} {k : LoadKind} {va : W64} {q : Passed} {bs : List Byte} (h : s.loads k va s1 q t bs)
    (hlate : (s1.cur.late && !k.acq && !k.const) = false) : s1.loadAt k va q = t.loadDone k bs := by
  obtain ⟨-, hboost, hload, hdevice, hbehind, hok⟩ := h
  have hprot : (k.boost != 0 && s1.goesDirect q k.scope) = false := by
    obtain h0 | hdirect := hboost
    · simp [h0]
    · simp [hdirect]
  have hdev : (s1.goesDirect q k.scope && s1.here.deviceInFlight s1.cur.ctx) = false := by
    obtain hdirect | hnone := hdevice
    · simp [hdirect]
    · simp [hnone]
  have hquiet : (s1.cur.late && !k.acq && !k.const && !s1.goesDirect q k.scope) = false := by rw [hlate, Bool.false_and]
  have hgot : (if k.const then s1.loadConst s1.cur.bench q
      else s1.load s1.cur.bench q k.size k.scope k.pri k.last (if k.const then fun _ => none
        else forwardByte s1.here.c.sb s1.cur.ctx s1.here.seq)) = .ok t bs := by
    cases hk : k.const <;> simpa [hk] using hok
  simp only [State.loadAt, hprot, hload, hdev, hbehind, hgot, hquiet, Bool.false_eq_true, if_false]

/-- R85, R132: a load that is not asked of another module already puts its bytes, extended, once its address has been checked. -/
theorem State.loadC_ok {s s1 t : State} {k : LoadKind} {a : BitVec 5} {off : BitVec 7} {base : W64} {q : Passed} {bs : List Byte}
    (hremote : s.notRemote) (hbase : s.gives k.boost a base) (hlate : (s1.cur.late && !k.acq && !k.const) = false)
    (hconst : k.const = true → k.size = 8) (h : s.loads k (addrOf base off k.size) s1 q t bs) :
    s.loadC k a off = .next (((if k.acq then t.acquireC k.scope else t).put k.d k.boost (extended k.size k.sext bs)).doneC) := by
  have hbind : s1.loadAt k (addrOf base off k.size) q = t.loadDone k bs := State.loadAt_ok h hlate
  have hlength : bs.length ≤ k.size := State.loads_length_le h hconst
  obtain ⟨hcheck, -⟩ := h
  unfold State.loadC
  split
  · next hphase => exact absurd hphase (hremote _ _ _ _ _)
  · rw [State.withSrc_val hbase]
    simp only [hcheck, hbind, State.loadDone, extend_eq_extended hlength]

theorem exec_load {p : (CLd → Instr) × Nat × Bool} (hp : p ∈ ldTable) (o : CLd) (s : State) :
    exec (p.1 o) s = s.loadC (ldKind p.2.1 p.2.2 o) o.a o.off := by
  simp only [ldTable, List.mem_cons, List.not_mem_nil, or_false] at hp
  obtain rfl | rfl | rfl | rfl | rfl | rfl | rfl := hp <;> rfl

/-- Settles O18: each load of the table, and LDC, is one load of C, which binds in its turn. -/
theorem loadResults : Obligations.LoadResults := by
  constructor
  · intro p hp o s base s1 q t bs hremote hbase hlate hloads
    rw [exec_load hp]
    refine State.loadC_ok (k := ldKind p.2.1 p.2.2 o) hremote hbase ?_ (fun h => by cases h) hloads
    obtain hlate | hacq := hlate
    · simp [hlate]
    · simp [ldKind, hacq]
  · intro o s base s1 q t bs hremote hbase hloads
    exact State.loadC_ok (k := ⟨8, false, true, o.d, o.boost, .sp, false, 1, false⟩) hremote hbase (by simp) (fun _ => rfl) hloads

end Sys2Proof.Machine
end

section
/-! O1, O2: what each encoding form gives back of its fields, and the words of the five streams read back (R96 to R101, R239, R241,
R304, R305, R326, R330, R366). -/

namespace Sys2Proof

/-! ### Codes, bits and bank operands -/

@[simp] theorem Scope.ofCode_code (e : Scope) : Scope.ofCode e.code = some e := by cases e <;> rfl

@[simp] theorem AtomOp.ofCode_code (f : AtomOp) : AtomOp.ofCode f.code = some f := by cases f <;> rfl

section
variable {m n : Nat} (x : BitVec m) (y : BitVec n) {i lo : Nat}

theorem flag_append_low (h : i < n) : flag (x ++ y) i = flag y i := by simp [flag, BitVec.getLsbD_append, h]

theorem flag_append_high (h : n ≤ i) : flag (x ++ y) i = flag x (i - n) := by
  simp [flag, BitVec.getLsbD_append, Nat.not_lt.2 h]

theorem flag_bit (b : Bool) : flag (bit b) 0 = b := by simp [flag]

theorem bopOf_append_high (h : n ≤ lo) : bopOf (x ++ y) lo = bopOf x (lo - n) := by
  have hslot : lo + 21 - n = lo - n + 21 := by omega
  have hbank : lo + 17 - n = lo - n + 17 := by omega
  simp (disch := omega) only [bopOf, BitVec.extractLsb'_append_eq_of_le, hslot, hbank]

theorem bopOf_append_low (h : lo + 24 ≤ n) : bopOf (x ++ y) lo = bopOf y lo := by
  simp (disch := omega) only [bopOf, BitVec.extractLsb'_append_eq_of_add_le]

theorem bopOf_enc (b : Bop) : bopOf b.enc 0 = b := by
  simp (disch := omega) only [bopOf, Bop.enc, BitVec.extractLsb'_append_eq_of_le, BitVec.extractLsb'_append_eq_of_add_le,
    Nat.reduceSub, Nat.zero_add, BitVec.extractLsb'_eq_self]

end

theorem hdrOf_append {m : Nat} (x : BitVec m) (h : Hdr) : hdrOf (x ++ h.enc) = h := by
  simp (disch := omega) only [hdrOf, Hdr.enc, BitVec.extractLsb'_append_eq_of_le, BitVec.extractLsb'_append_eq_of_add_le,
    Nat.reduceSub, BitVec.extractLsb'_eq_self, flag_append_low, flag_append_high, flag_bit]

/-! ### Words of L, P, V and S: header, opcode, operand bits (R28, R239) -/

section
variable (x : BitVec 40) (op : Byte) (h : Hdr) {lo len : Nat}

@[simp] theorem hdrOf_enc64 : hdrOf (enc64 x op h) = h := hdrOf_append _ h

@[simp] theorem opcode_enc64 : (enc64 x op h).extractLsb' 16 8 = op := by
  simp (disch := omega) only [enc64, BitVec.extractLsb'_append_eq_of_le, BitVec.extractLsb'_append_eq_of_add_le, Nat.reduceSub,
    BitVec.extractLsb'_eq_self]

theorem extract_enc64 (hlo : 24 ≤ lo) : (enc64 x op h).extractLsb' lo len = x.extractLsb' (lo - 24) len := by
  simp (disch := omega) only [enc64, BitVec.extractLsb'_append_eq_of_le, Nat.sub_sub]

theorem flag_enc64 (hlo : 24 ≤ lo) : flag (enc64 x op h) lo = flag x (lo - 24) := by
  simp (disch := omega) only [enc64, flag_append_high, Nat.sub_sub]

theorem bopOf_enc64 (hlo : 24 ≤ lo) : bopOf (enc64 x op h) lo = bopOf x (lo - 24) := by
  simp (disch := omega) only [enc64, bopOf_append_high, Nat.sub_sub]

end

section
variable (x : BitVec 104) (op : Byte) (h : Hdr) {lo len : Nat}

@[simp] theorem hdrOf_enc128 : hdrOf (enc128 x op h) = h := hdrOf_append _ h

@[simp] theorem opcode_enc128 : (enc128 x op h).extractLsb' 16 8 = op := by
  simp (disch := omega) only [enc128, BitVec.extractLsb'_append_eq_of_le, BitVec.extractLsb'_append_eq_of_add_le, Nat.reduceSub,
    BitVec.extractLsb'_eq_self]

theorem extract_enc128 (hlo : 24 ≤ lo) : (enc128 x op h).extractLsb' lo len = x.extractLsb' (lo - 24) len := by
  simp (disch := omega) only [enc128, BitVec.extractLsb'_append_eq_of_le, Nat.sub_sub]

theorem flag_enc128 (hlo : 24 ≤ lo) : flag (enc128 x op h) lo = flag x (lo - 24) := by
  simp (disch := omega) only [enc128, flag_append_high, Nat.sub_sub]

theorem bopOf_enc128 (hlo : 24 ≤ lo) : bopOf (enc128 x op h) lo = bopOf x (lo - 24) := by
  simp (disch := omega) only [enc128, bopOf_append_high, Nat.sub_sub]

end

/-! ### Operand forms that several instructions share -/

section
variable (op : Byte) (h : Hdr)

@[simp] theorem loopOf_enc (o : LoopOp) : loopOf (enc64 o.enc op h) = o := by
  simp (disch := omega) only [loopOf, LoopOp.enc, extract_enc64, flag_enc64, BitVec.extractLsb'_append_eq_of_le,
    BitVec.extractLsb'_append_eq_of_add_le, flag_append_low, flag_append_high, flag_bit, Nat.reduceSub,
    BitVec.extractLsb'_eq_self]

@[simp] theorem strideOf_enc (o : StrideSet) : strideOf (enc64 o.enc op h) = o := by
  simp (disch := omega) only [strideOf, StrideSet.enc, extract_enc64, BitVec.extractLsb'_append_eq_of_le,
    BitVec.extractLsb'_append_eq_of_add_le, Nat.reduceSub, BitVec.extractLsb'_eq_self]

@[simp] theorem StrideSet.flag_enc (o : StrideSet) : flag o.enc 5 = false := by
  simp (disch := omega) only [StrideSet.enc, flag_append_low, flag_append_high, Nat.reduceSub]
  rfl

@[simp] theorem cvcOf_enc (o : Cvc) : cvcOf (enc64 o.enc op h) = o := by
  simp (disch := omega) only [cvcOf, Cvc.enc, extract_enc64, flag_enc64, BitVec.extractLsb'_append_eq_of_le,
    BitVec.extractLsb'_append_eq_of_add_le, flag_append_low, flag_append_high, flag_bit, Nat.reduceSub,
    BitVec.extractLsb'_eq_self]

@[simp] theorem Cvc.flag_enc (o : Cvc) : flag o.enc 5 = true := by
  simp (disch := omega) only [Cvc.enc, flag_append_low, flag_append_high, Nat.reduceSub]
  rfl

@[simp] theorem idxMoveOf_enc (o : IdxMove) : idxMoveOf (enc64 o.enc op h) = o := by
  simp (disch := omega) only [idxMoveOf, IdxMove.enc, extract_enc64, bopOf_enc64, BitVec.extractLsb'_append_eq_of_le,
    BitVec.extractLsb'_append_eq_of_add_le, bopOf_append_low, bopOf_enc, Nat.reduceSub, BitVec.extractLsb'_eq_self]

@[simp] theorem fwdOf_enc (rx : Bool) (o : PFwdOp) : fwdOf (enc128 (o.enc rx) op h) = o := by
  simp (disch := omega) only [fwdOf, PFwdOp.enc, extract_enc128, bopOf_enc128, BitVec.extractLsb'_append_eq_of_le,
    BitVec.extractLsb'_append_eq_of_add_le, bopOf_append_low, bopOf_enc, Nat.reduceSub, BitVec.extractLsb'_eq_self]

@[simp] theorem PFwdOp.flag_enc (rx : Bool) (o : PFwdOp) : flag (o.enc rx) 44 = rx := by
  simp (disch := omega) only [PFwdOp.enc, flag_append_low, flag_append_high, flag_bit, Nat.reduceSub]

@[simp] theorem vopOf_enc (fn : BitVec 6) (o : VOp) : vopOf (enc64 (o.enc fn) op h) = o := by
  simp (disch := omega) only [vopOf, VOp.enc, extract_enc64, flag_enc64, BitVec.extractLsb'_append_eq_of_le,
    BitVec.extractLsb'_append_eq_of_add_le, flag_append_low, flag_append_high, flag_bit, Nat.reduceSub,
    BitVec.extractLsb'_eq_self]

theorem VOp.extract_enc {lo len : Nat} (hlen : lo + len ≤ 6) (fn : BitVec 6) (o : VOp) :
    (o.enc fn).extractLsb' lo len = fn.extractLsb' lo len := by
  simp (disch := omega) only [VOp.enc, BitVec.extractLsb'_append_eq_of_add_le]

theorem VOp.flag_enc {i : Nat} (hi : i < 6) (fn : BitVec 6) (o : VOp) : flag (o.enc fn) i = flag fn i := by
  simp (disch := omega) only [VOp.enc, flag_append_low]

@[simp] theorem mopOf_enc (fn : BitVec 6) (o : MOp) : mopOf (enc64 (o.enc fn) op h) = o := by
  simp (disch := omega) only [mopOf, MOp.enc, extract_enc64, flag_enc64, BitVec.extractLsb'_append_eq_of_le,
    BitVec.extractLsb'_append_eq_of_add_le, flag_append_low, flag_append_high, flag_bit, Nat.reduceSub,
    BitVec.extractLsb'_eq_self]

theorem MOp.extract_enc (fn : BitVec 6) (o : MOp) : (o.enc fn).extractLsb' 0 6 = fn := by
  simp (disch := omega) only [MOp.enc, BitVec.extractLsb'_append_eq_of_add_le, BitVec.extractLsb'_eq_self]

@[simp] theorem vmemOf_enc (o : VMem) : vmemOf (enc64 o.enc op h) = o := by
  simp (disch := omega) only [vmemOf, VMem.enc, extract_enc64, flag_enc64, bopOf_enc64, BitVec.extractLsb'_append_eq_of_le,
    BitVec.extractLsb'_append_eq_of_add_le, flag_append_low, flag_append_high, flag_bit, bopOf_append_low, bopOf_enc,
    Nat.reduceSub, BitVec.extractLsb'_eq_self]

@[simp] theorem vidxOf_enc (o : VIdx) : vidxOf (enc64 o.enc op h) = o := by
  simp (disch := omega) only [vidxOf, VIdx.enc, extract_enc64, flag_enc64, bopOf_enc64, BitVec.extractLsb'_append_eq_of_le,
    BitVec.extractLsb'_append_eq_of_add_le, flag_append_low, flag_append_high, flag_bit, bopOf_append_low, bopOf_enc,
    Nat.reduceSub, BitVec.extractLsb'_eq_self]

end

/-! ### The words of L, P, V and S -/

theorem rawL_encode {i : Instr} {w : W64} (h : encode i = some (.l w)) : rawL w = some i := by
  cases i <;> simp only [encode, Option.some.injEq, MWord.l.injEq, reduceCtorEq] at h <;> subst h <;>
    simp (disch := omega) only [rawL, hdrOf_enc64, opcode_enc64, loopOf_enc, strideOf_enc, StrideSet.flag_enc, cvcOf_enc,
      Cvc.flag_enc, idxMoveOf_enc, extract_enc64, flag_enc64, bopOf_enc64, BitVec.extractLsb'_append_eq_of_le,
      BitVec.extractLsb'_append_eq_of_add_le, BitVec.extractLsb'_eq_self, flag_append_low, flag_append_high, flag_bit,
      bopOf_append_low, bopOf_enc, Nat.reduceSub, BitVec.reduceToNat, if_true, Bool.false_eq_true, if_false]

theorem rawP_encode {i : Instr} {w : W128} (h : encode i = some (.p w)) : rawP w = some i := by
  cases i <;> simp only [encode, Option.some.injEq, MWord.p.injEq, reduceCtorEq] at h <;> subst h <;>
    simp (disch := omega) only [rawP, hdrOf_enc128, opcode_enc128, fwdOf_enc, PFwdOp.flag_enc, encShift, extract_enc128,
      flag_enc128, bopOf_enc128, BitVec.extractLsb'_append_eq_of_le, BitVec.extractLsb'_append_eq_of_add_le,
      BitVec.extractLsb'_eq_self, flag_append_low, flag_append_high, flag_bit, bopOf_append_low, bopOf_append_high, bopOf_enc,
      Nat.reduceSub, BitVec.reduceToNat, if_true, Bool.false_eq_true, if_false]

theorem rawV_encode {i : Instr} {w : W64} (h : encode i = some (.v w)) : rawV w = some i := by
  cases i <;> simp only [encode, Option.some.injEq, MWord.v.injEq, reduceCtorEq] at h <;> subst h <;>
    simp (disch := omega) only [rawV, rawV1, rawV2, rawV3, rawV4, rawV5, rawV7, rawV8, rawV9, rawV10, rawV11, rawVAtm, rawRedm,
      rawRedt, hdrOf_enc64, opcode_enc64, loopOf_enc, strideOf_enc, vopOf_enc, VOp.extract_enc, VOp.flag_enc, mopOf_enc,
      MOp.extract_enc, vmemOf_enc, vidxOf_enc, VCmp.enc, VCvt.enc, extract_enc64, flag_enc64, bopOf_enc64,
      BitVec.extractLsb'_append_eq_of_le, BitVec.extractLsb'_append_eq_of_add_le, BitVec.extractLsb'_eq_self, flag_append_low,
      flag_append_high, flag_bit, bopOf_append_low, bopOf_enc, Nat.reduceSub, BitVec.reduceToNat, if_true, Bool.false_eq_true,
      if_false, Scope.ofCode_code, AtomOp.ofCode_code, Option.map_some]

theorem rawS_encode {i : Instr} {w : W64} (h : encode i = some (.s w)) : rawS w = some i := by
  cases i <;> simp only [encode, Option.some.injEq, MWord.s.injEq, reduceCtorEq] at h <;> subst h <;>
    simp (disch := omega) only [rawS, hdrOf_enc64, opcode_enc64, loopOf_enc, strideOf_enc, StrideSet.flag_enc, cvcOf_enc,
      Cvc.flag_enc, idxMoveOf_enc, extract_enc64, flag_enc64, bopOf_enc64, BitVec.extractLsb'_append_eq_of_le,
      BitVec.extractLsb'_append_eq_of_add_le, BitVec.extractLsb'_eq_self, flag_append_low, flag_append_high, flag_bit,
      bopOf_append_low, bopOf_enc, Nat.reduceSub, BitVec.reduceToNat, if_true, Bool.false_eq_true, if_false, Scope.ofCode_code,
      Option.map_some]

/-! ### The forms of C (R96) -/

section
variable (op : BitVec 6)

@[simp] theorem COp.opcode_enc (fn : BitVec 10) (o : COp) : (o.enc op fn).extractLsb' 26 6 = op := by
  simp (disch := omega) only [COp.enc, BitVec.extractLsb'_append_eq_of_le, Nat.reduceSub, BitVec.extractLsb'_eq_self]

@[simp] theorem COp.fn_enc (fn : BitVec 10) (o : COp) : (o.enc op fn).extractLsb' 0 10 = fn := by
  simp (disch := omega) only [COp.enc, BitVec.extractLsb'_append_eq_of_add_le, BitVec.extractLsb'_eq_self]

@[simp] theorem COp.read_enc (fn : BitVec 10) (o : COp) : (⟨(o.enc op fn).extractLsb' 22 4, (o.enc op fn).extractLsb' 17 5,
    (o.enc op fn).extractLsb' 12 5, (o.enc op fn).extractLsb' 10 2⟩ : COp) = o := by
  simp (disch := omega) only [COp.enc, BitVec.extractLsb'_append_eq_of_le, BitVec.extractLsb'_append_eq_of_add_le, Nat.reduceSub,
    BitVec.extractLsb'_eq_self]

@[simp] theorem CFlt.opcode_enc (fn : BitVec 7) (o : CFlt) : (o.enc fn).extractLsb' 26 6 = 0x02#6 := by
  simp (disch := omega) only [CFlt.enc, BitVec.extractLsb'_append_eq_of_le, Nat.reduceSub, BitVec.extractLsb'_eq_self]

@[simp] theorem CFlt.fn_enc (fn : BitVec 7) (o : CFlt) : (o.enc fn).extractLsb' 0 7 = fn := by
  simp (disch := omega) only [CFlt.enc, BitVec.extractLsb'_append_eq_of_add_le, BitVec.extractLsb'_eq_self]

@[simp] theorem CFlt.read_enc (fn : BitVec 7) (o : CFlt) : (⟨(o.enc fn).extractLsb' 22 4, (o.enc fn).extractLsb' 17 5,
    (o.enc fn).extractLsb' 12 5, (o.enc fn).extractLsb' 10 2, (o.enc fn).extractLsb' 7 3⟩ : CFlt) = o := by
  simp (disch := omega) only [CFlt.enc, BitVec.extractLsb'_append_eq_of_le, BitVec.extractLsb'_append_eq_of_add_le,
    Nat.reduceSub, BitVec.extractLsb'_eq_self]

@[simp] theorem CTri.opcode_enc (fn : BitVec 5) (o : CTri) : (o.enc fn).extractLsb' 26 6 = 0x03#6 := by
  simp (disch := omega) only [CTri.enc, BitVec.extractLsb'_append_eq_of_le, Nat.reduceSub, BitVec.extractLsb'_eq_self]

@[simp] theorem CTri.fn_enc (fn : BitVec 5) (o : CTri) : (o.enc fn).extractLsb' 0 5 = fn := by
  simp (disch := omega) only [CTri.enc, BitVec.extractLsb'_append_eq_of_add_le, BitVec.extractLsb'_eq_self]

@[simp] theorem CTri.read_enc (fn : BitVec 5) (o : CTri) : (⟨(o.enc fn).extractLsb' 22 4, (o.enc fn).extractLsb' 17 5,
    (o.enc fn).extractLsb' 12 5, (o.enc fn).extractLsb' 7 5, (o.enc fn).extractLsb' 5 2⟩ : CTri) = o := by
  simp (disch := omega) only [CTri.enc, BitVec.extractLsb'_append_eq_of_le, BitVec.extractLsb'_append_eq_of_add_le,
    Nat.reduceSub, BitVec.extractLsb'_eq_self]

@[simp] theorem CImm.opcode_enc (o : CImm) : (o.enc op).extractLsb' 26 6 = op := by
  simp (disch := omega) only [CImm.enc, BitVec.extractLsb'_append_eq_of_le, Nat.reduceSub, BitVec.extractLsb'_eq_self]

@[simp] theorem immOf_enc (o : CImm) : immOf (o.enc op) = o := by
  simp (disch := omega) only [immOf, CImm.enc, BitVec.extractLsb'_append_eq_of_le, BitVec.extractLsb'_append_eq_of_add_le,
    Nat.reduceSub, BitVec.extractLsb'_eq_self]

@[simp] theorem CBr.opcode_enc (o : CBr) : (o.enc op).extractLsb' 26 6 = op := by
  simp (disch := omega) only [CBr.enc, BitVec.extractLsb'_append_eq_of_le, Nat.reduceSub, BitVec.extractLsb'_eq_self]

@[simp] theorem brOf_enc (o : CBr) : brOf (o.enc op) = o := by
  simp (disch := omega) only [brOf, CBr.enc, BitVec.extractLsb'_append_eq_of_le, BitVec.extractLsb'_append_eq_of_add_le,
    flag_append_low, flag_append_high, flag_bit, Nat.reduceSub, BitVec.extractLsb'_eq_self]

@[simp] theorem CLd.opcode_enc (o : CLd) : (o.enc op).extractLsb' 26 6 = op := by
  simp (disch := omega) only [CLd.enc, BitVec.extractLsb'_append_eq_of_le, Nat.reduceSub, BitVec.extractLsb'_eq_self]

@[simp] theorem rawLd_enc (o : CLd) (k : CLd → Instr) : rawLd (o.enc op) k = some (k o) := by
  simp (disch := omega) only [rawLd, CLd.enc, BitVec.extractLsb'_append_eq_of_le, BitVec.extractLsb'_append_eq_of_add_le,
    flag_append_low, flag_append_high, flag_bit, Nat.reduceSub, BitVec.extractLsb'_eq_self, Scope.ofCode_code, Option.map_some]

@[simp] theorem CSt.opcode_enc (o : CSt) : (o.enc op).extractLsb' 26 6 = op := by
  simp (disch := omega) only [CSt.enc, BitVec.extractLsb'_append_eq_of_le, Nat.reduceSub, BitVec.extractLsb'_eq_self]

@[simp] theorem rawSt_enc (o : CSt) (k : CSt → Instr) : rawSt (o.enc op) k = some (k o) := by
  simp (disch := omega) only [rawSt, CSt.enc, BitVec.extractLsb'_append_eq_of_le, BitVec.extractLsb'_append_eq_of_add_le,
    flag_append_low, flag_append_high, flag_bit, Nat.reduceSub, BitVec.extractLsb'_eq_self, Scope.ofCode_code, Option.map_some]

@[simp] theorem CCas.opcode_enc (o : CCas) : (o.enc op).extractLsb' 26 6 = op := by
  simp (disch := omega) only [CCas.enc, BitVec.extractLsb'_append_eq_of_le, Nat.reduceSub, BitVec.extractLsb'_eq_self]

@[simp] theorem rawCas_enc (o : CCas) (k : CCas → Instr) : rawCas (o.enc op) k = some (k o) := by
  simp (disch := omega) only [rawCas, CCas.enc, BitVec.extractLsb'_append_eq_of_le, BitVec.extractLsb'_append_eq_of_add_le,
    flag_append_low, flag_append_high, flag_bit, Nat.reduceSub, BitVec.extractLsb'_eq_self, Scope.ofCode_code, Option.map_some]

end

section
variable (d : BitVec 4) (a : BitVec 5) (fn e : BitVec 4) (n : Byte)

@[simp] theorem encSync_opcode : (encSync d a fn e n).extractLsb' 26 6 = 0x30#6 := by
  simp (disch := omega) only [encSync, BitVec.extractLsb'_append_eq_of_le, Nat.reduceSub, BitVec.extractLsb'_eq_self]

@[simp] theorem encSync_fn : (encSync d a fn e n).extractLsb' 13 4 = fn := by
  simp (disch := omega) only [encSync, BitVec.extractLsb'_append_eq_of_le, BitVec.extractLsb'_append_eq_of_add_le, Nat.reduceSub,
    BitVec.extractLsb'_eq_self]

@[simp] theorem encSync_d : (encSync d a fn e n).extractLsb' 22 4 = d := by
  simp (disch := omega) only [encSync, BitVec.extractLsb'_append_eq_of_le, BitVec.extractLsb'_append_eq_of_add_le, Nat.reduceSub,
    BitVec.extractLsb'_eq_self]

@[simp] theorem encSync_a : (encSync d a fn e n).extractLsb' 17 5 = a := by
  simp (disch := omega) only [encSync, BitVec.extractLsb'_append_eq_of_le, BitVec.extractLsb'_append_eq_of_add_le, Nat.reduceSub,
    BitVec.extractLsb'_eq_self]

@[simp] theorem encSync_scope : (encSync d a fn e n).extractLsb' 9 4 = e := by
  simp (disch := omega) only [encSync, BitVec.extractLsb'_append_eq_of_le, BitVec.extractLsb'_append_eq_of_add_le, Nat.reduceSub,
    BitVec.extractLsb'_eq_self]

theorem encSync_low {lo len : Nat} (h : lo + len ≤ 8) : (encSync d a fn e n).extractLsb' lo len = n.extractLsb' lo len := by
  simp (disch := omega) only [encSync, BitVec.extractLsb'_append_eq_of_add_le]

variable (op : BitVec 6)

@[simp] theorem encGrp_opcode : (encGrp op d a fn n).extractLsb' 26 6 = op := by
  simp (disch := omega) only [encGrp, BitVec.extractLsb'_append_eq_of_le, Nat.reduceSub, BitVec.extractLsb'_eq_self]

@[simp] theorem encGrp_d : (encGrp op d a fn n).extractLsb' 22 4 = d := by
  simp (disch := omega) only [encGrp, BitVec.extractLsb'_append_eq_of_le, BitVec.extractLsb'_append_eq_of_add_le, Nat.reduceSub,
    BitVec.extractLsb'_eq_self]

@[simp] theorem encGrp_a : (encGrp op d a fn n).extractLsb' 17 5 = a := by
  simp (disch := omega) only [encGrp, BitVec.extractLsb'_append_eq_of_le, BitVec.extractLsb'_append_eq_of_add_le, Nat.reduceSub,
    BitVec.extractLsb'_eq_self]

@[simp] theorem encGrp_fn : (encGrp op d a fn n).extractLsb' 8 4 = fn := by
  simp (disch := omega) only [encGrp, BitVec.extractLsb'_append_eq_of_le, BitVec.extractLsb'_append_eq_of_add_le, Nat.reduceSub,
    BitVec.extractLsb'_eq_self]

@[simp] theorem encGrp_n : (encGrp op d a fn n).extractLsb' 0 8 = n := by
  simp (disch := omega) only [encGrp, BitVec.extractLsb'_append_eq_of_add_le, BitVec.extractLsb'_eq_self]

end

/-! ### The words of C -/

theorem rawC_encode {i : Instr} {w : W32} (h : encode i = some (.c w)) : rawC w = some i := by
  cases i <;> simp only [encode, Option.some.injEq, MWord.c.injEq, reduceCtorEq] at h <;> subst h <;>
    simp (disch := omega) only [rawC, rawInt, rawFlt, rawTri, rawCtl, rawSync, rawSys, rawAtm, COp.opcode_enc, COp.fn_enc,
      COp.read_enc, CFlt.opcode_enc, CFlt.fn_enc, CFlt.read_enc, CTri.opcode_enc, CTri.fn_enc, CTri.read_enc, CImm.opcode_enc,
      immOf_enc, CBr.opcode_enc, brOf_enc, CLd.opcode_enc, rawLd_enc, CSt.opcode_enc, rawSt_enc, CCas.opcode_enc, rawCas_enc,
      encSync_opcode, encSync_fn, encSync_d, encSync_a, encSync_scope, encSync_low, encGrp_opcode, encGrp_d, encGrp_a, encGrp_fn,
      encGrp_n, BitVec.extractLsb'_append_eq_of_le, BitVec.extractLsb'_append_eq_of_add_le, BitVec.extractLsb'_eq_self,
      flag_append_low, flag_append_high, flag_bit, Nat.reduceSub, BitVec.reduceToNat, Scope.ofCode_code, AtomOp.ofCode_code,
      Option.map_some]

/-! ### Decoding the encoding -/

theorem decodeWord_of_raw {w : MWord} {i : Instr} (hraw : w.raw = some i) (henc : encode i = some w)
    (hok : i.wellFormed = true) : decodeWord w = .ok i := by
  simp only [decodeWord, hraw, henc, hok, if_true]

/-- The raw reading of an instruction's word is the instruction, whatever its operands. -/
theorem raw_encode {i : Instr} {w : MWord} (h : encode i = some w) : w.raw = some i := by
  cases w with
  | c w => exact rawC_encode h
  | l w => exact rawL_encode h
  | p w => exact rawP_encode h
  | v w => exact rawV_encode h
  | s w => exact rawS_encode h

end Sys2Proof

namespace Sys2Proof.Machine

/-- Settles O2: the raw reading of an instruction's word is that instruction, form by form, and decoding then checks the limits alone. -/
theorem decodeEncode : Obligations.DecodeEncode := fun _ _ hok henc => decodeWord_of_raw (raw_encode henc) henc hok

/-- The words that the spec writes out are the encodings of the instructions that it gives them, and these keep its limits. -/
theorem sampleWords_encode : ∀ p ∈ sampleWords, encode p.2.2 = some (p.1.word p.2.1) ∧ p.2.2.wellFormed = true := by decide

/-- Settles O1: each word is the encoding of its instruction, which decoding gives back. -/
theorem decodeSamples : Obligations.DecodeSamples := by
  intro p hp
  obtain ⟨henc, hok⟩ := sampleWords_encode p hp
  exact decodeEncode p.2.2 _ hok henc

end Sys2Proof.Machine
end

section
/-! O11, O13: what a result does to the registers of C (R84, R85, R87, R89, R103, R120). -/

namespace Sys2Proof.Machine

/-! ### Writing a place (R84, R87) -/

/-- No register lies in a shadow. -/
theorem regDst_ne_shadow {w k : BitVec 4} {c : Fin 4} {lvl : BitVec 2} {i : Fin 16} : regDst w k ≠ some (.shadow c lvl i) := by
  unfold regDst
  split
  · exact Option.some_ne_none _ |>.symm
  · split
    · simp
    · split <;> simp

/-- A register's place holds what was written, and no load in flight writes it any more. -/
theorem CUnit.write_regDst_ready {w k : BitVec 4} {d : Dst} (h : regDst w k = some d) (u : CUnit) (v : W64) :
    (u.write (some d) v).ready d v := by
  have hload (d : Dst) : (u.loads.map fun l => if l.dst == some d then { l with dst := none } else l).any (fun l => l.dst == some d) =
      false := by
    simp only [List.any_map, List.any_eq_false, Function.comp]
    intro l _
    split <;> simp_all
  cases d with
  | phys i => exact CUnit.write_phys_ready u i v
  | glob i => exact ⟨hload _, by simp [CUnit.write, CUnit.at_]⟩
  | shadow c lvl i => exact absurd h regDst_ne_shadow

/-- What a write leaves: another place holds what it held, and the same loads in flight write it. -/
theorem CUnit.write_ne {d : Option Dst} {e : Dst} (h : d ≠ some e) (u : CUnit) (v : W64) :
    (u.write d v).at_ (some e) = u.at_ (some e) ∧ (u.write d v).pendingAt e = u.pendingAt e := by
  have hload : (u.loads.map fun l => if l.dst == d then { l with dst := none } else l).any (fun l => l.dst == some e) =
      u.loads.any fun l => l.dst == some e := by
    simp only [List.any_map, Function.comp_def]
    congr 1
    funext l
    split
    · next hl => simp_all
    · rfl
  cases d with
  | none => exact ⟨rfl, rfl⟩
  | some d =>
    cases d with
    | shadow c lvl i => exact ⟨rfl, rfl⟩
    | glob i =>
      refine ⟨?_, hload⟩
      cases e with
      | glob j => simp only [CUnit.write, CUnit.at_]; exact Vector.getElem_set_ne _ _ (fun hij => h (by rw [Fin.ext hij]))
      | phys j => rfl
      | shadow c lvl j => rfl
    | phys i =>
      refine ⟨?_, hload⟩
      cases e with
      | phys j => simp only [CUnit.write, CUnit.at_]; exact Vector.getElem_set_ne _ _ (fun hij => h (by rw [Fin.ext hij]))
      | glob j => rfl
      | shadow c lvl j => rfl

theorem CUnit.write_ctxs (u : CUnit) (d : Option Dst) (v : W64) : (u.write d v).ctxs = u.ctxs := by
  unfold CUnit.write
  split <;> rfl

theorem CUnit.write_fflags (u : CUnit) (d : Option Dst) (v : W64) : (u.write d v).fflags = u.fflags := by
  unfold CUnit.write
  split <;> rfl

/-- A register reads the same where its window, its place and the loads that write it are the same. -/
theorem Bench.readReg_congr {x y : Bench} {c : Fin 4} {k : BitVec 4} (hw : (y.ctx c).w = (x.ctx c).w)
    (h : ∀ d, regDst (x.ctx c).w k = some d → y.c.at_ (some d) = x.c.at_ (some d) ∧ y.c.pendingAt d = x.c.pendingAt d) :
    y.readReg c 0 k = x.readReg c 0 k := by
  unfold Bench.readReg
  rw [hw]
  cases hd : regDst (x.ctx c).w k with
  | none => rfl
  | some d =>
    obtain ⟨hat, hpend⟩ := h d hd
    simp only [hat, hpend]
    rfl

theorem Bench.readReg_zero (x : Bench) (c : Fin 4) (lvl : BitVec 2) : x.readReg c lvl 0 = .val 0 := by
  unfold Bench.readReg
  rw [if_pos rfl]

/-! ### put at level 0 (R85, R103) -/

theorem State.put_here (s : State) (d : BitVec 4) (v : W64) :
    (s.put d 0 v).here = (s.here.modC fun u => u.write (regDst s.myCtx.w d) v).modCtx s.cur.ctx (Ctx.push · ⟨v, none⟩) := by
  rw [State.put, if_pos rfl, State.here_modMy, State.here_modMyC]
  rfl

theorem State.put_myCtx (s : State) (d : BitVec 4) (v : W64) : (s.put d 0 v).myCtx = s.myCtx.push ⟨v, none⟩ := by
  have hcur : (s.put d 0 v).cur = s.cur := rfl
  rw [State.myCtx, hcur, State.put_here, Bench.ctx_modCtx, if_pos rfl, Bench.ctx, Bench.modC_c, CUnit.write_ctxs]
  rfl

theorem State.put_c (s : State) (d : BitVec 4) (v : W64) (e : Dst) :
    (s.put d 0 v).here.c.at_ (some e) = (s.here.c.write (regDst s.myCtx.w d) v).at_ (some e) ∧
    (s.put d 0 v).here.c.pendingAt e = (s.here.c.write (regDst s.myCtx.w d) v).pendingAt e := by
  rw [State.put_here]
  cases e <;> exact ⟨rfl, rfl⟩

/-- Settles O11: the value is the newest entry of the queue and stands in its register's place; any other register has another place. -/
theorem putResult : Obligations.PutResult := by
  intro s d v t
  have hmy : t.myCtx = s.myCtx.push ⟨v, none⟩ := State.put_myCtx s d v
  have hctx : t.here.ctx s.cur.ctx = s.myCtx.push ⟨v, none⟩ := hmy
  have hw : (t.here.ctx s.cur.ctx).w = (s.here.ctx s.cur.ctx).w := by rw [hctx]; rfl
  refine ⟨by rw [hmy]; rfl, ?_, ?_, fun hd => ?_, fun k hk => ?_⟩
  · change t.here.readSrc s.cur.ctx 0 16 = .val v
    rw [Bench.readSrc, if_neg (by decide), hctx]
    rfl
  · change t.here.readSrc s.cur.ctx 0 0 = .val 0
    rw [Bench.readSrc, if_pos (by decide)]
    exact Bench.readReg_zero _ _ _
  · change t.here.readSrc s.cur.ctx 0 (d.setWidth 5) = .val v
    have hlow : (d.setWidth 5).toNat < 16 := by rw [BitVec.toNat_setWidth]; omega
    have hback : (d.setWidth 5).setWidth 4 = d := by simp
    rw [Bench.readSrc, if_pos hlow, hback]
    obtain ⟨e, he⟩ := Option.ne_none_iff_exists'.1 (mt regDst_none.1 hd : regDst s.myCtx.w d ≠ none)
    obtain ⟨hpend, hat⟩ := CUnit.write_regDst_ready he s.here.c v
    obtain ⟨hat', hpend'⟩ := State.put_c s d v e
    rw [he] at hat' hpend'
    exact Bench.readReg_ready (d := e) (by rw [hw]; exact he) ⟨hpend'.trans hpend, hat'.trans hat⟩
  · refine Bench.readReg_congr hw fun e he => ?_
    have hne : regDst s.myCtx.w d ≠ some e := fun hde => hk (regDst_inj (he.trans hde.symm))
    obtain ⟨hat, hpend⟩ := CUnit.write_ne hne s.here.c v
    obtain ⟨hat', hpend'⟩ := State.put_c s d v e
    exact ⟨hat'.trans hat, hpend'.trans hpend⟩

/-! ### Committing the shadows (R120) -/

/-- A valid register of a shadow level is written into the window `w`. -/
def CUnit.commitReg (w : BitVec 4) (h : Shadow) (u : CUnit) (i : Fin 16) : CUnit :=
  if h.regs[i].valid then u.write (regDst w (BitVec.ofNat 4 i.val)) h.regs[i].val else u

/-- The valid registers of a shadow level are written into the window `w`, one after another. -/
def CUnit.commitRegs (w : BitVec 4) (h : Shadow) (u : CUnit) (l : List (Fin 16)) : CUnit := l.foldl (CUnit.commitReg w h) u

section
variable (w : BitVec 4) (h : Shadow)

theorem CUnit.commitRegs_kept (u : CUnit) (l : List (Fin 16)) :
    (u.commitRegs w h l).ctxs = u.ctxs ∧ (u.commitRegs w h l).fflags = u.fflags :=
  List.foldlRecOn (motive := fun v => v.ctxs = u.ctxs ∧ v.fflags = u.fflags) l (CUnit.commitReg w h) ⟨rfl, rfl⟩
    fun v ⟨hctxs, hflags⟩ i _ => by
      unfold CUnit.commitReg
      split
      · exact ⟨(CUnit.write_ctxs _ _ _).trans hctxs, (CUnit.write_fflags _ _ _).trans hflags⟩
      · exact ⟨hctxs, hflags⟩

/-- A place that no valid register of the list has stays as it was. -/
theorem CUnit.commitRegs_ne {e : Dst} (u : CUnit) (l : List (Fin 16))
    (hl : ∀ i ∈ l, h.regs[i].valid = true → regDst w (BitVec.ofNat 4 i.val) ≠ some e) :
    (u.commitRegs w h l).at_ (some e) = u.at_ (some e) ∧ (u.commitRegs w h l).pendingAt e = u.pendingAt e :=
  List.foldlRecOn (motive := fun v => v.at_ (some e) = u.at_ (some e) ∧ v.pendingAt e = u.pendingAt e) l (CUnit.commitReg w h)
    ⟨rfl, rfl⟩ fun v ⟨hat, hpend⟩ i hi => by
      unfold CUnit.commitReg
      split
      · next hv =>
        obtain ⟨hat', hpend'⟩ := CUnit.write_ne (hl i hi hv) v h.regs[i].val
        exact ⟨hat'.trans hat, hpend'.trans hpend⟩
      · exact ⟨hat, hpend⟩

/-- The place of a valid register of the list holds the shadow's value. -/
theorem CUnit.commitRegs_ready {i : Fin 16} (hi : h.regs[i].valid = true) {e : Dst} (he : regDst w (BitVec.ofNat 4 i.val) = some e) :
    ∀ (l : List (Fin 16)) (u : CUnit), i ∈ l → (u.commitRegs w h l).ready e h.regs[i].val
  | j :: l, u, hmem => by
    by_cases hl : i ∈ l
    · exact commitRegs_ready hi he l _ hl
    · obtain rfl : i = j := (List.mem_cons.1 hmem).resolve_right hl
      have hrest : ∀ m ∈ l, h.regs[m].valid = true → regDst w (BitVec.ofNat 4 m.val) ≠ some e := by
        intro m hm _ hme
        have him : m = i := by
          have := congrArg BitVec.toNat (regDst_inj (hme.trans he.symm))
          simpa [Fin.ext_iff, Nat.mod_eq_of_lt m.isLt, Nat.mod_eq_of_lt i.isLt] using this
        exact hl (him ▸ hm)
      have hfirst : u.commitReg w h i = u.write (some e) h.regs[i].val := by rw [CUnit.commitReg, if_pos hi, he]
      obtain ⟨hat, hpend⟩ := CUnit.commitRegs_ne w h (u.commitReg w h i) l hrest
      obtain ⟨hpend', hat'⟩ := CUnit.write_regDst_ready he u h.regs[i].val
      rw [hfirst] at hat hpend
      refine ⟨?_, ?_⟩
      · exact (by rw [CUnit.commitRegs, List.foldl_cons, hfirst]; exact hpend.trans hpend')
      · exact (by rw [CUnit.commitRegs, List.foldl_cons, hfirst]; exact hat.trans hat')

end

/-- No load in flight writes level 1 of a context's shadows. -/
def CUnit.settled (u : CUnit) (c : Fin 4) : Prop := ∀ l ∈ u.loads, ∀ lvl i, l.dst = some (.shadow c lvl i) → lvl = 2

theorem Bench.settled_of_shadowPending {x : Bench} {c : Fin 4} (h : x.shadowPending c = false) : x.c.settled c := by
  intro l hl lvl i hdst
  have hl' := List.any_eq_false.1 h l hl
  simpa [hdst] using hl'

theorem CUnit.write_settled {u : CUnit} {c : Fin 4} (h : u.settled c) (d : Option Dst) (v : W64) : (u.write d v).settled c := by
  have hdrop : ∀ l ∈ u.loads.map (fun l => if l.dst == d then { l with dst := none } else l), ∀ lvl i,
      l.dst = some (.shadow c lvl i) → lvl = 2 := by
    intro l hl lvl i hdst
    obtain ⟨m, hm, rfl⟩ := List.mem_map.1 hl
    split at hdst
    · cases hdst
    · exact h m hm lvl i hdst
  unfold CUnit.write
  split
  · exact hdrop
  · exact hdrop
  · exact h

theorem CUnit.commitRegs_settled {u : CUnit} {c : Fin 4} (hu : u.settled c) (w : BitVec 4) (h : Shadow) (l : List (Fin 16)) :
    (u.commitRegs w h l).settled c :=
  List.foldlRecOn (motive := fun v => CUnit.settled v c) l (CUnit.commitReg w h) hu fun v hv i _ => by
    unfold CUnit.commitReg
    split
    · exact CUnit.write_settled hv _ _
    · exact hv

/-- Where no load of level 1 is in flight, a load that moves with the shadows writes no register. -/
theorem CUnit.commitLoad_pendingAt {u : CUnit} {c : Fin 4} (hu : u.settled c) (w : BitVec 4) {e : Dst}
    (he : ∀ d lvl i, e ≠ .shadow d lvl i) :
    (u.loads.map (commitLoad c w)).any (fun l => l.dst == some e) = u.loads.any fun l => l.dst == some e := by
  have hne (d : Fin 4) (lvl : BitVec 2) (i : Fin 16) : (some (Dst.shadow d lvl i) == some e) = false := by
    simpa using fun h => he d lvl i h.symm
  have hload : ∀ l ∈ u.loads, ((commitLoad c w l).dst == some e) = (l.dst == some e) := by
    intro l hl
    rw [commitLoad]
    split
    · next d lvl i hdst =>
      split
      · next hd =>
        have hlvl : lvl = 2 := hu l hl lvl i (by rw [hdst, hd])
        simp only [if_pos hlvl, hdst, hne]
      · rfl
    · rfl
  have hall := congrArg (List.any · id) (List.map_congr_left hload)
  simpa only [List.any_map, Function.comp_def, id_eq] using hall

/-- A C unit in which a shadow level of a context is committed into the window `w`. -/
def CUnit.committed (u : CUnit) (c : Fin 4) (w : BitVec 4) (h : Shadow) : CUnit :=
  let v := u.commitRegs w h (List.finRange 16)
  { v with fflags := v.fflags ||| h.flags, loads := v.loads.map (commitLoad c w) }

theorem Bench.commitShadows_eq (x : Bench) (c : Fin 4) : x.commitShadows c =
    (x.modC fun u => u.committed c (x.ctx c).w (x.ctx c).sh1).modCtx c fun k => { k with sh1 := k.sh2, sh2 := .empty } := rfl

/-- Settles O13: each valid register of level 1 is written into its own place, and no load that moves with the shadows writes there. -/
theorem shadowsCommit : Obligations.ShadowsCommit := by
  intro x c hpending y
  let u := x.c.commitRegs (x.ctx c).w (x.ctx c).sh1 (List.finRange 16)
  have hy : y = (x.modC fun u => u.committed c (x.ctx c).w (x.ctx c).sh1).modCtx c _ := x.commitShadows_eq c
  obtain ⟨hctxs, hflags⟩ : u.ctxs = x.c.ctxs ∧ u.fflags = x.c.fflags := CUnit.commitRegs_kept _ _ _ _
  have hset : u.settled c := CUnit.commitRegs_settled (Bench.settled_of_shadowPending hpending) _ _ _
  have hctx : y.ctx c = { x.ctx c with sh1 := (x.ctx c).sh2, sh2 := .empty } := by
    have hmod : (x.modC fun u => u.committed c (x.ctx c).w (x.ctx c).sh1).ctx c = x.ctx c := congrArg (·[c]) hctxs
    rw [hy, Bench.ctx_modCtx, if_pos rfl, hmod]
  have hw : (y.ctx c).w = (x.ctx c).w := by rw [hctx]
  have hplace {k : BitVec 4} {e : Dst} (he : regDst (x.ctx c).w k = some e) :
      y.c.at_ (some e) = u.at_ (some e) ∧ y.c.pendingAt e = u.pendingAt e := by
    rw [hy]
    refine ⟨by cases e <;> rfl, CUnit.commitLoad_pendingAt hset _ ?_⟩
    rintro d lvl i rfl
    exact regDst_ne_shadow he
  have hback (k : BitVec 4) : BitVec.ofNat 4 k.toFin.val = k := by simp
  refine ⟨fun k hk hv => ?_, fun k hv => ?_, Bench.readReg_zero _ _ _, by rw [hctx], by rw [hctx], ?_⟩
  · obtain ⟨e, he⟩ := Option.ne_none_iff_exists'.1 (mt regDst_none.1 hk : regDst (x.ctx c).w k ≠ none)
    obtain ⟨hpend, hat⟩ := CUnit.commitRegs_ready (x.ctx c).w (x.ctx c).sh1 hv (by rw [hback]; exact he) (List.finRange 16) x.c
      (List.mem_finRange _)
    obtain ⟨hat', hpend'⟩ := hplace he
    exact Bench.readReg_ready (by rw [hw]; exact he) ⟨hpend'.trans hpend, hat'.trans hat⟩
  · refine Bench.readReg_congr hw fun e he => ?_
    have hother : ∀ i ∈ List.finRange 16, (x.ctx c).sh1.regs[i].valid = true →
        regDst (x.ctx c).w (BitVec.ofNat 4 i.val) ≠ some e := by
      intro i _ hi hie
      have hik : i = k.toFin := by
        rw [← regDst_inj (hie.trans he.symm)]
        simp
      rw [hik, hv] at hi
      cases hi
    obtain ⟨hat, hpend⟩ := CUnit.commitRegs_ne (x.ctx c).w (x.ctx c).sh1 x.c (List.finRange 16) hother
    obtain ⟨hat', hpend'⟩ := hplace he
    exact ⟨hat'.trans hat, hpend'.trans hpend⟩
  · rw [hy, ← hflags]
    rfl

end Sys2Proof.Machine
end

section
/-! O6: the frame of C's register instructions (R83 to R91, R103). -/

namespace Sys2Proof.Machine

/-! ### A step of the C unit that changes registers, queues and shadows alone -/

/-- From `u` to `v` the context `c` may write the place `dst`, its queue and its shadows; the loads in flight and C's choice of contexts
may change, and the flags only where `fl` says so. -/
structure CUnit.RegFrame (c : Fin 4) (dst : Option Dst) (fl : Bool) (u v : CUnit) : Prop where
  only : u.onlyRegs v
  regs : u.sameRegs v dst
  mine : Ctx.sameFrame u.ctxs[c] v.ctxs[c]
  others : ∀ i : Fin 4, i ≠ c → v.ctxs[i] = u.ctxs[i]
  flags : fl = false → v.fflags = u.fflags

/-- The step from `s` to `t` is one of the C unit of the turn, and keeps the frame of its context. -/
def State.regStep (s t : State) (dst : Option Dst) (fl : Bool) : Prop :=
  ∃ f : CUnit → CUnit, t = s.modMyC f ∧ CUnit.RegFrame s.cur.ctx dst fl s.here.c (f s.here.c)

theorem Ctx.sameFrame.trans {k m n : Ctx} (h : k.sameFrame m) (h' : m.sameFrame n) : k.sameFrame n := by
  obtain ⟨hlive, hw, hdepth, hspilled, hwatch, hwake⟩ := h
  obtain ⟨hlive', hw', hdepth', hspilled', hwatch', hwake'⟩ := h'
  exact ⟨hlive'.trans hlive, hw'.trans hw, hdepth'.trans hdepth, hspilled'.trans hspilled, hwatch'.trans hwatch, hwake'.trans hwake⟩

theorem CUnit.RegFrame.trans {c : Fin 4} {dst : Option Dst} {fl : Bool} {u v w : CUnit} (h : CUnit.RegFrame c dst fl u v)
    (h' : CUnit.RegFrame c dst fl v w) : CUnit.RegFrame c dst fl u w := by
  obtain ⟨honly, ⟨hglob, hphys⟩, hmine, hothers, hflags⟩ := h
  obtain ⟨honly', ⟨hglob', hphys'⟩, hmine', hothers', hflags'⟩ := h'
  refine ⟨?_, ⟨fun i hi => (hglob' i hi).trans (hglob i hi), fun i hi => (hphys' i hi).trans (hphys i hi)⟩, hmine.trans hmine',
    fun i hi => (hothers' i hi).trans (hothers i hi), fun hfl => (hflags' hfl).trans (hflags hfl)⟩
  unfold CUnit.onlyRegs at honly honly' ⊢
  rw [honly', honly]

theorem State.modMyC_modMyC (s : State) (f g : CUnit → CUnit) : (s.modMyC f).modMyC g = s.modMyC (g ∘ f) := by
  simp only [State.modMyC, State.modHere, State.modBench, State.setBench_cur, State.bench_setBench, if_pos]
  simp [State.setBench, Bench.modC]

section
variable {s t u : State} {dst : Option Dst} {fl : Bool}

theorem State.regStep.trans (h : s.regStep t dst fl) (h' : t.regStep u dst fl) : s.regStep u dst fl := by
  obtain ⟨f, rfl, hf⟩ := h
  obtain ⟨g, rfl, hg⟩ := h'
  rw [State.here_modMyC] at hg
  exact ⟨g ∘ f, s.modMyC_modMyC f g, hf.trans hg⟩

/-- A change of the context of the turn that keeps its frame. -/
theorem State.regStep_modMy (f : Ctx → Ctx) (hf : s.myCtx.sameFrame (f s.myCtx)) : s.regStep (s.modMy f) dst fl := by
  refine ⟨fun u => { u with ctxs := u.ctxs.set s.cur.ctx (f u.ctxs[s.cur.ctx]) }, rfl, rfl, ⟨fun _ _ => rfl, fun _ _ => rfl⟩, ?_,
    fun i hi => ?_, fun _ => rfl⟩
  · simpa [State.myCtx, Bench.ctx] using hf
  · exact Vector.getElem_set_ne s.cur.ctx.isLt i.isLt (fun h => hi (Fin.ext h.symm))

theorem State.regStep_doneC : s.regStep s.doneC dst fl := State.regStep_modMy _ ⟨rfl, rfl, rfl, rfl, rfl, rfl⟩

/-- A load in flight of the C unit that is changed, and C's choice of contexts, belong to no context's frame. -/
theorem State.regStep_loads (f : List PendLoad → List PendLoad) (g : Robin → Robin) :
    s.regStep (s.modMyC fun u => { u with loads := f u.loads, rr := g u.rr }) dst fl :=
  ⟨_, rfl, rfl, ⟨fun _ _ => rfl, fun _ _ => rfl⟩, ⟨rfl, rfl, rfl, rfl, rfl, rfl⟩, fun _ _ => rfl, fun _ => rfl⟩

theorem State.regStep_waitC (kind : WaitKind) (what : Nat) : s.regStep (s.waitC kind what) dst fl :=
  (State.regStep_modMy _ ⟨rfl, rfl, rfl, rfl, rfl, rfl⟩).trans (State.regStep_loads id (Robin.stall · s.cur.ctx s.clk))

theorem Ctx.modShadow_sameFrame (k : Ctx) (lvl : BitVec 2) (f : Shadow → Shadow) : k.sameFrame (k.modShadow lvl f) := by
  unfold Ctx.modShadow
  split <;> exact ⟨rfl, rfl, rfl, rfl, rfl, rfl⟩

theorem State.regStep_setShadow (lvl : BitVec 2) (d : BitVec 4) (r : ShadowReg) : s.regStep (s.setShadow lvl d r) dst fl :=
  (State.regStep_loads _ id).trans (State.regStep_modMy _ (Ctx.modShadow_sameFrame _ _ _))

end

/-! ### Results, flags and sources (R89, R90, R103, R111) -/

/-- The place that a result goes to: none when it is boosted. -/
def State.dstOf (s : State) (lvl : BitVec 2) (d : BitVec 4) : Option Dst := if lvl = 0 then regDst s.myCtx.w d else none

theorem CUnit.write_regFrame (c : Fin 4) (fl : Bool) (u : CUnit) (dst : Option Dst) (v : W64) :
    CUnit.RegFrame c dst fl u (u.write dst v) := by
  have hsame (k : Ctx) : k.sameFrame k := ⟨rfl, rfl, rfl, rfl, rfl, rfl⟩
  unfold CUnit.write
  split
  · next i =>
    exact ⟨rfl, ⟨fun j hj => Vector.getElem_set_ne i.isLt j.isLt (fun h => hj (by rw [Fin.ext h])), fun _ _ => rfl⟩, hsame _,
      fun _ _ => rfl, fun _ => rfl⟩
  · next i =>
    exact ⟨rfl, ⟨fun _ _ => rfl, fun j hj => Vector.getElem_set_ne i.isLt j.isLt (fun h => hj (by rw [Fin.ext h]))⟩, hsame _,
      fun _ _ => rfl, fun _ => rfl⟩
  · exact ⟨rfl, ⟨fun _ _ => rfl, fun _ _ => rfl⟩, hsame _, fun _ _ => rfl, fun _ => rfl⟩

section
variable {s t : State} {fl : Bool}

theorem State.regStep_put (d : BitVec 4) (lvl : BitVec 2) (v : W64) : s.regStep (s.put d lvl v) (s.dstOf lvl d) fl := by
  unfold State.put State.dstOf
  split
  · have hwrite : s.regStep (s.modMyC fun u => u.write (regDst s.myCtx.w d) v) (regDst s.myCtx.w d) fl :=
      ⟨_, rfl, CUnit.write_regFrame _ _ _ _ _⟩
    exact hwrite.trans (State.regStep_modMy _ ⟨rfl, rfl, rfl, rfl, rfl, rfl⟩)
  · exact State.regStep_setShadow _ _ _

theorem State.regStep_orFlags (lvl : BitVec 2) (f : FFlags) (dst : Option Dst) : s.regStep (s.orFlags lvl f) dst true := by
  unfold State.orFlags
  split
  · exact ⟨_, rfl, rfl, ⟨fun _ _ => rfl, fun _ _ => rfl⟩, ⟨rfl, rfl, rfl, rfl, rfl, rfl⟩, fun _ _ => rfl, fun h => by cases h⟩
  · exact State.regStep_modMy _ (Ctx.modShadow_sameFrame _ _ _)

theorem State.orFlags_dstOf (lvl : BitVec 2) (f : FFlags) (lvl' : BitVec 2) (d : BitVec 4) :
    (s.orFlags lvl f).dstOf lvl' d = s.dstOf lvl' d := by
  obtain ⟨g, hg, hframe⟩ := State.regStep_orFlags (s := s) lvl f none
  have hw : (s.orFlags lvl f).myCtx.w = s.myCtx.w := by
    rw [hg, State.myCtx, State.here_modMyC]
    exact hframe.mine.2.1
  rw [State.dstOf, hw, State.dstOf]

/-- An instruction's result is put and the context goes on. -/
theorem State.put_done_regStep {d : BitVec 4} {lvl : BitVec 2} {v : W64} (h : Host.Outcome.next (s.put d lvl v).doneC = (.next t : Out)) :
    s.regStep t (s.dstOf lvl d) fl := by
  cases h
  exact (State.regStep_put d lvl v).trans State.regStep_doneC

/-- Flags are set, a result is put and the context goes on. -/
theorem State.flags_put_done_regStep {d : BitVec 4} {lvl : BitVec 2} {f : FFlags} {v : W64}
    (h : Host.Outcome.next ((s.orFlags lvl f).put d lvl v).doneC = (.next t : Out)) : s.regStep t (s.dstOf lvl d) true := by
  have hput := State.put_done_regStep (fl := true) h
  rw [State.orFlags_dstOf] at hput
  exact (State.regStep_orFlags lvl f _).trans hput

/-- A source that waits, or holds a deferred fault, keeps the frame too. -/
theorem State.withSrc_regStep {dst : Option Dst} {lvl : BitVec 2} {d : BitVec 4} {a : BitVec 5} {f : W64 → Out}
    (h : s.withSrc lvl d a f = .next t) (hf : ∀ v, f v = .next t → s.regStep t dst fl) : s.regStep t dst fl := by
  unfold State.withSrc at h
  split at h
  · exact hf _ h
  · cases h
    exact State.regStep_waitC _ _
  · cases h
    exact (State.regStep_setShadow _ _ _).trans State.regStep_doneC

theorem State.op1_regStep {d : BitVec 4} {lvl : BitVec 2} {a : BitVec 5} {f : W64 → W64} (h : s.op1 d lvl a f = .next t) :
    s.regStep t (s.dstOf lvl d) fl :=
  State.withSrc_regStep h fun _ h => State.put_done_regStep h

theorem State.op2_regStep {d : BitVec 4} {lvl : BitVec 2} {a b : BitVec 5} {f : W64 → W64 → W64} (h : s.op2 d lvl a b f = .next t) :
    s.regStep t (s.dstOf lvl d) fl :=
  State.withSrc_regStep h fun _ h => State.withSrc_regStep h fun _ h => State.put_done_regStep h

theorem State.op3_regStep {d : BitVec 4} {lvl : BitVec 2} {a b c : BitVec 5} {f : W64 → W64 → W64 → W64}
    (h : s.op3 d lvl a b c f = .next t) : s.regStep t (s.dstOf lvl d) fl :=
  State.withSrc_regStep h fun _ h => State.withSrc_regStep h fun _ h => State.withSrc_regStep h fun _ h => State.put_done_regStep h

theorem State.fop1_regStep {o : CFlt} {f : RMode → W32 → W64 × FFlags} (h : s.fop1 o f = .next t) :
    s.regStep t (s.dstOf o.boost o.d) true :=
  State.withSrc_regStep h fun _ h => State.flags_put_done_regStep h

theorem State.fop2_regStep {o : CFlt} {f : RMode → W32 → W32 → W64 × FFlags} (h : s.fop2 o f = .next t) :
    s.regStep t (s.dstOf o.boost o.d) true :=
  State.withSrc_regStep h fun _ h => State.withSrc_regStep h fun _ h => State.flags_put_done_regStep h

theorem State.fop3_regStep {o : CTri} {f : RMode → W32 → W32 → W32 → W32 × FFlags} (h : s.fop3 o f = .next t) :
    s.regStep t (s.dstOf o.boost o.d) true :=
  State.withSrc_regStep h fun _ h => State.withSrc_regStep h fun _ h => State.withSrc_regStep h fun _ h =>
    State.flags_put_done_regStep h

end

/-! ### The register instructions -/

/-- An integer, three-source or immediate instruction, LI or CLOCK reads its sources, puts its result and goes on. -/
theorem exec_regStep_noFlags {i : Instr} {d : BitVec 4} {lvl : BitVec 2} {s t : State} (hform : regForm i = some (d, lvl))
    (hfl : setsFlags i = false) (h : exec i s = .next t) : s.regStep t (s.dstOf lvl d) false := by
  cases i
  case add | sub | mul | mulh | mulhu | div | divu | rem | remu | and | or | xor | andn | shl | shr | sar | ror | cmpeq | cmpne | cmplt
      | cmpltu | cmple | cmpleu | min | max | minu | maxu | adds | subs =>
    cases hform
    exact State.op2_regStep h
  case clz | ctz | popc | sext32 | zext32 | addi | andi | ori | xori | cmpeqi | cmplti | cmpltui | shfi =>
    cases hform
    exact State.op1_regStep h
  case sel | rndc | imad =>
    cases hform
    exact State.op3_regStep h
  case li | clock =>
    cases hform
    exact State.put_done_regStep h
  case fadd | fsub | fmul | fdiv | fmin | fmax | fcmpeq | fcmplt | fcmple | fcmpun | fsqrt | fabs | fneg | fcvtI32 | fcvtN32 | fcvtI64
      | fcvtN64 | fclass | icvtF32 | ncvtF32 | fma | fms | fnma => cases hfl
  all_goals cases hform

/-- An instruction of the F32 group or a fused product reads its sources, sets flags, puts its result and goes on. -/
theorem exec_regStep_flags {i : Instr} {d : BitVec 4} {lvl : BitVec 2} {s t : State} (hform : regForm i = some (d, lvl))
    (hfl : setsFlags i = true) (h : exec i s = .next t) : s.regStep t (s.dstOf lvl d) true := by
  cases i
  case fadd | fsub | fmul | fdiv | fmin | fmax | fcmpeq | fcmplt | fcmple | fcmpun =>
    cases hform
    simp only [exec] at h
    exact State.fop2_regStep h
  case fsqrt | fabs | fneg | fcvtI32 | fcvtN32 | fcvtI64 | fcvtN64 | fclass =>
    cases hform
    simp only [exec] at h
    exact State.fop1_regStep h
  case icvtF32 | ncvtF32 =>
    cases hform
    simp only [exec] at h
    exact State.withSrc_regStep h fun _ h => State.flags_put_done_regStep h
  case fma | fms | fnma =>
    cases hform
    simp only [exec] at h
    exact State.fop3_regStep h
  all_goals cases hfl

theorem exec_regStep {i : Instr} {d : BitVec 4} {lvl : BitVec 2} {s t : State} (hform : regForm i = some (d, lvl))
    (h : exec i s = .next t) : s.regStep t (s.dstOf lvl d) (setsFlags i) := by
  cases hfl : setsFlags i
  · exact exec_regStep_noFlags hform hfl h
  · exact exec_regStep_flags hform hfl h

/-- Settles O6: such a step is one of the C unit that keeps the frame of its context. -/
theorem registerFrame : Obligations.RegisterFrame := by
  intro i d lvl s t hform h
  obtain ⟨f, rfl, honly, hregs, hmine, hothers, hflags⟩ := exec_regStep hform h
  have hhere : (s.modMyC f).here = s.here.modC f := State.here_modMyC s f
  refine ⟨⟨⟨rfl, fun b hb => ?_⟩, by rw [hhere]; rfl⟩, by rw [hhere]; rfl, by rw [hhere]; exact honly, by rw [hhere]; exact hregs, ?_,
    fun c hc => ?_, fun hfl => ?_, rfl⟩
  · rw [State.bench_modMyC, if_neg hb]
  · change s.myCtx.sameFrame ((s.modMyC f).here.ctx s.cur.ctx)
    rw [hhere]
    exact hmine
  · rw [hhere]
    exact hothers c hc
  · rw [hhere]
    exact hflags hfl

end Sys2Proof.Machine
end

section
/-! O15, O16: calls and returns (R91, R124 to R126, R167, R168). -/

namespace Sys2Proof.Machine

/-! ### A step that changes the C unit of its bench alone -/

/-- A change of the C unit of the turn's bench alone. -/
theorem State.onlyMyC_modHere (s : State) {f : Bench → Bench} (hf : ∀ x : Bench, (f x).apartC = x.apartC) :
    s.onlyMyC (s.modHere f) := by
  have hc := Bench.eq_of_apartC (hf s.here)
  refine ⟨s.onlyHere_modHere f, ?_⟩
  rw [State.here_modHere]
  exact hc.trans (by rw [hc])

theorem State.onlyMyC.trans {s t u : State} (hst : s.onlyMyC t) (htu : t.onlyMyC u) : s.onlyMyC u := by
  obtain ⟨hst, ht⟩ := hst
  obtain ⟨htu, hu⟩ := htu
  exact ⟨hst.trans htu, hu.trans (by rw [ht])⟩

theorem State.onlyMyC.modHere {s t : State} (h : s.onlyMyC t) {f : Bench → Bench} (hf : ∀ x : Bench, (f x).apartC = x.apartC) :
    s.onlyMyC (t.modHere f) := h.trans (t.onlyMyC_modHere hf)

theorem State.onlyMyC.modMy {s t : State} (h : s.onlyMyC t) (f : Ctx → Ctx) : s.onlyMyC (t.modMy f) := h.modHere fun _ => rfl

theorem State.onlyMyC.goC {s t : State} (h : s.onlyMyC t) (pc : W64) : s.onlyMyC (t.goC pc) := h.modMy _

/-! ### Clearing the shadows (R120) -/

theorem Bench.ctx_modC {x : Bench} {f : CUnit → CUnit} (hf : (f x.c).ctxs = x.c.ctxs) (c : Fin 4) : (x.modC f).ctx c = x.ctx c :=
  congrArg (·[c]) hf

theorem Bench.ctx_clearShadows (x : Bench) (c d : Fin 4) :
    (x.clearShadows c).ctx d = if d = c then { x.ctx d with sh1 := .empty, sh2 := .empty } else x.ctx d := by
  rw [Bench.clearShadows, Bench.ctx_modCtx]
  split
  · next h => rw [h]; rfl
  · rfl

theorem Bench.clearShadows_apartC (x : Bench) (c : Fin 4) : (x.clearShadows c).apartC = x.apartC := by
  rw [Bench.clearShadows, Bench.modCtx, Bench.modC_apartC, Bench.modC_apartC]

theorem Bench.freeGroup_apartC (x : Bench) (g : Fin 16) : (x.freeGroup g).apartC = x.apartC := by
  rw [Bench.freeGroup, Bench.setGroup, Bench.dropGroupLoads, Bench.modC_apartC, Bench.modC_apartC]

/-! ### Calls (R124, R125) -/

/-- The turn's context in the window of its callee, with the return address in the link word of the callee's group. -/
def State.called (s : State) (target : W64) : State :=
  (((s.modHere fun x => x.setGroup (groupAt (s.myCtx.w.toNat + 2)) (.held s.cur.ctx)).modHere fun x =>
    (x.clearShadows s.cur.ctx).modC fun u => { u with link := u.link.set (groupAt (s.myCtx.w.toNat + 1)) s.nextPc }).modMy fun k =>
      { k with w := k.w + 1, depth := k.depth + 1 }).goC target

theorem State.call_free {s : State} (h : s.here.c.groups[groupAt (s.myCtx.w.toNat + 2)] = .free) (target : W64) :
    s.call target = .next (s.called target) := by
  rw [State.call, State.claim_free h]
  rfl

theorem targetFault_none {a : W64} (h : goodTarget a) : targetFault a = none := by
  obtain ⟨halign, hlt⟩ := h
  have hlow : a.extractLsb' 0 2 = 0 := BitVec.eq_of_toNat_eq (by simpa using halign)
  rw [targetFault, hlow, if_neg (by decide), if_neg (by omega)]

section
variable (s : State) (target : W64)

/-- The groups of the bench, its links and its contexts after a call. -/
theorem State.called_here : (s.called target).here = (((s.here.setGroup (groupAt (s.myCtx.w.toNat + 2)) (.held s.cur.ctx)).clearShadows
    s.cur.ctx).modC fun u => { u with link := u.link.set (groupAt (s.myCtx.w.toNat + 1)) s.nextPc }).modCtx s.cur.ctx fun k =>
      { k with w := k.w + 1, depth := k.depth + 1, pc := target, wait := none, phase := .idle } := by
  simp only [State.called, State.goC, State.here_modMy, State.here_modHere, State.modMy_cur, State.modHere_cur, Bench.modCtx_modCtx]
  rfl

theorem State.called_onlyMyC : s.onlyMyC (s.called target) := by
  unfold State.called
  refine .goC (.modMy (.modHere (s.onlyMyC_modHere ?_) ?_) _) _
  · exact fun _ => rfl
  · exact fun x => (Bench.modC_apartC _ _).trans (x.clearShadows_apartC _)

theorem State.called_myCtx : (s.called target).myCtx = { s.myCtx with
    w := s.myCtx.w + 1, depth := s.myCtx.depth + 1, pc := target, wait := none, phase := .idle, sh1 := .empty, sh2 := .empty } := by
  have hcur : (s.called target).cur = s.cur := rfl
  rw [State.myCtx, hcur, State.called_here, Bench.ctx_modCtx, if_pos rfl, Bench.ctx_modC rfl, Bench.ctx_clearShadows, if_pos rfl,
    Bench.setGroup, Bench.ctx_modC rfl]
  rfl

theorem State.called_ctx {c : Fin 4} (hc : c ≠ s.cur.ctx) : (s.called target).here.ctx c = s.here.ctx c := by
  rw [State.called_here, Bench.ctx_modCtx, if_neg hc]
  exact (Bench.ctx_clearShadows _ _ _).trans (if_neg hc)

theorem State.called_link : (s.called target).here.c.link = s.here.c.link.set (groupAt (s.myCtx.w.toNat + 1)) s.nextPc := by
  rw [State.called_here]
  rfl

theorem State.called_registers : (s.called target).here.c.file = s.here.c.file ∧
    (s.called target).here.c.globals = s.here.c.globals ∧
    (s.called target).here.c.groups = s.here.c.groups.set (groupAt (s.myCtx.w.toNat + 2)) (.held s.cur.ctx) := by
  rw [State.called_here]
  exact ⟨rfl, rfl, rfl⟩

end

/-- Settles O15: either call takes the free group and goes to its target. -/
theorem callResults : Obligations.CallResults := by
  intro s i target hi hfree
  have hexec : exec i s = .next (s.called target) := by
    rw [← State.call_free hfree target]
    obtain ⟨off, rfl, rfl⟩ | ⟨a, rfl, hgives, hgood⟩ := hi
    · rfl
    · change s.withSrc 0 0 a _ = _
      rw [State.withSrc_val hgives, targetFault_none hgood]
  obtain ⟨hfile, hglobals, hgroups⟩ := s.called_registers target
  exact ⟨s.called target, hexec, s.called_onlyMyC target, s.called_myCtx target, fun c hc => s.called_ctx target hc, hfile, hglobals,
    hgroups, s.called_link target⟩

/-! ### Returns (R125, R126) -/

/-- The turn's context back in the window of its caller, with the callee's group free. -/
def State.returned (s : State) : State :=
  ((s.modHere fun x => (x.clearShadows s.cur.ctx).freeGroup (groupAt (s.myCtx.w.toNat + 1))).modMy fun k =>
    { k with w := k.w - 1, depth := k.depth - 1 }).goC s.caller

theorem exec_ret_returned {s : State} (hdepth : s.myCtx.depth ≠ 0) (hspilled : s.myCtx.spilled = 0) :
    exec .ret s = .next s.returned := by
  have hbelow : s.needBelow s.cur.bench s.cur.ctx = .ok s := State.needBelow_zero hspilled
  change execRet s = _
  rw [execRet, if_neg hdepth, hbelow]
  rfl

section
variable (s : State)

theorem State.returned_here : s.returned.here =
    ((s.here.clearShadows s.cur.ctx).freeGroup (groupAt (s.myCtx.w.toNat + 1))).modCtx s.cur.ctx (Ctx.back · s.caller) := by
  simp only [State.returned, State.goC, State.here_modMy, State.here_modHere, State.modMy_cur, State.modHere_cur, Bench.modCtx_modCtx]
  rfl

theorem State.returned_onlyMyC : s.onlyMyC s.returned := by
  unfold State.returned
  refine .goC (.modMy (s.onlyMyC_modHere fun x => ?_) _) _
  rw [Bench.freeGroup_apartC, Bench.clearShadows_apartC]

theorem State.returned_myCtx : s.returned.myCtx = { s.myCtx.back s.caller with sh1 := .empty, sh2 := .empty } := by
  have hcur : s.returned.cur = s.cur := rfl
  have hfreed (x : Bench) (g : Fin 16) (c : Fin 4) : (x.freeGroup g).ctx c = x.ctx c := rfl
  rw [State.myCtx, hcur, State.returned_here, Bench.ctx_modCtx, if_pos rfl, hfreed, Bench.ctx_clearShadows, if_pos rfl]
  rfl

theorem State.returned_registers : s.returned.here.c.file = s.here.c.file ∧ s.returned.here.c.globals = s.here.c.globals ∧
    s.returned.here.c.groups = s.here.c.groups.set (groupAt (s.myCtx.w.toNat + 1)) .free := by
  rw [State.returned_here]
  exact ⟨rfl, rfl, rfl⟩

end

theorem State.dropWatch_cur (s : State) (b : BenchId) (c : Fin 4) : (s.dropWatch b c).cur = s.cur := by
  unfold State.dropWatch
  split <;> rfl

theorem returnResults_claim : Claims.ReturnResults := by
  refine ⟨fun s hdepth hspilled => ?_, fun s hdepth hmain => ?_, fun s hdepth htail hloads => ?_⟩
  · obtain ⟨hfile, hglobals, hgroups⟩ := s.returned_registers
    exact ⟨s.returned, exec_ret_returned hdepth hspilled, s.returned_onlyMyC, s.returned_myCtx, hfile, hglobals, hgroups⟩
  · change execRet s = _
    rw [execRet, if_pos hdepth, if_pos hmain]
    rfl
  · change execRet s = _
    rw [execRet, if_pos hdepth, if_neg htail, State.endTail, if_neg (by simp only [hloads]; decide)]
    simp only [State.modMy_cur, State.dropWatch_cur, State.modHere_cur]

/-- After a call the frame returns to the word after it. -/
theorem State.called_caller (s : State) (target : W64) : (s.called target).caller = s.nextPc := by
  have hg : groupAt (s.myCtx.w + 1).toNat = groupAt (s.myCtx.w.toNat + 1) := groupAt_toNat_add s.myCtx.w 1 0
  have hw : (s.called target).myCtx.w = s.myCtx.w + 1 := by rw [State.called_myCtx]
  simp only [State.caller, hw, State.called_link, hg]
  exact Vector.getElem_set_self (groupAt _).isLt

theorem callThenReturn_claim : Claims.CallThenReturn := by
  intro s off hfree hspilled
  let t := s.called (s.relative off)
  have hmy : t.myCtx = _ := s.called_myCtx (s.relative off)
  have hdepth : t.myCtx.depth ≠ 0 := by rw [hmy]; exact Nat.succ_ne_zero _
  have hspilled' : t.myCtx.spilled = 0 := by rw [hmy]; exact hspilled
  have hgroup : groupAt (t.myCtx.w.toNat + 1) = groupAt (s.myCtx.w.toNat + 2) := by
    rw [hmy]
    exact groupAt_toNat_add s.myCtx.w 1 1
  obtain ⟨hfile, hglobals, _⟩ := s.called_registers (s.relative off)
  obtain ⟨hfile', hglobals', hgroups'⟩ := t.returned_registers
  have hback : t.returned.myCtx = _ := t.returned_myCtx
  rw [s.called_caller] at hback
  refine ⟨t, t.returned, State.call_free hfree _, exec_ret_returned hdepth hspilled', by rw [hback]; rfl, ?_, ?_,
    hglobals'.trans hglobals, hfile'.trans hfile, ?_⟩
  · rw [hback]
    change t.myCtx.w - 1 = _
    rw [hmy]
    exact BitVec.add_sub_cancel _ _
  · rw [hback]
    change t.myCtx.depth - 1 = _
    rw [hmy]
    exact Nat.add_sub_cancel s.myCtx.depth 1
  · simp only [hgroups', hgroup]
    exact Vector.getElem_set_self (groupAt _).isLt

/-- Settles O16: RET goes back by the link word, and the call has set it and the window so that the caller finds its own. -/
theorem returnResults : Obligations.ReturnResults := ⟨returnResults_claim, callThenReturn_claim⟩

end Sys2Proof.Machine
end

section
/-! O22: the functions of the atomics (R138). -/

namespace Sys2Proof.Machine

theorem signedNat_toNat {n : Nat} (a : BitVec n) : signedNat n a.toNat = a.toInt := by
  rw [signedNat_eq_toInt, BitVec.ofNat_toNat, BitVec.setWidth_eq]

/-- Each row of the table is the model's function, on any number of bytes. -/
theorem atomF_atomTable {n : Nat} {p : AtomOp × (BitVec (8 * n) → BitVec (8 * n) → BitVec (8 * n))} (hp : p ∈ atomTable n)
    (a b : BitVec (8 * n)) : atomF p.1 (8 * n) a.toNat b.toNat 0 = (p.2 a b).toNat := by
  simp only [atomTable, List.mem_cons, List.not_mem_nil, or_false] at hp
  obtain rfl | rfl | rfl | rfl | rfl | rfl | rfl | rfl | rfl := hp
  case inl => exact (BitVec.toNat_add a b).symm
  all_goals simp only [atomF, signedNat_toNat, apply_ite BitVec.toNat, BitVec.toNat_and, BitVec.toNat_or, BitVec.toNat_xor]

/-- Settles O22: both widths are rows of one table. -/
theorem atomicFunctions : Obligations.AtomicFunctions :=
  ⟨fun _ hp a b => atomF_atomTable (n := 4) hp a b, fun _ hp a b => atomF_atomTable (n := 8) hp a b⟩

end Sys2Proof.Machine
end

section
/-! O31: TRAP and precise faults enter the handler, or kill the hitch (R161, R177 to R180). -/

namespace Sys2Proof.Machine

/-! ### The bench of a context that enters the handler (R178) -/

/-- What a trap of context `c` leaves as it was. -/
structure Bench.TrapFrame (c : Fin 4) (x y : Bench) : Prop where
  rq : (y.ctx c).rq = (x.ctx c).rq
  w : (y.ctx c).w = (x.ctx c).w
  file : y.c.file = x.c.file
  globals : y.c.globals = x.c.globals
  fflags : y.c.fflags = x.c.fflags
  mode : y.c.mode = x.c.mode
  link : y.c.link = x.c.link
  flagq : y.flagq = x.flagq
  trap : y.c.trap = x.c.trap

theorem Bench.TrapFrame.trans {c : Fin 4} {x y z : Bench} (h : Bench.TrapFrame c x y) (h' : Bench.TrapFrame c y z) :
    Bench.TrapFrame c x z where
  rq := h'.rq.trans h.rq
  w := h'.w.trans h.w
  file := h'.file.trans h.file
  globals := h'.globals.trans h.globals
  fflags := h'.fflags.trans h.fflags
  mode := h'.mode.trans h.mode
  link := h'.link.trans h.link
  flagq := h'.flagq.trans h.flagq
  trap := h'.trap.trans h.trap

theorem Bench.trapFrame_modCtx {c : Fin 4} (x : Bench) {f : Ctx → Ctx} (hrq : (f (x.ctx c)).rq = (x.ctx c).rq)
    (hw : (f (x.ctx c)).w = (x.ctx c).w) : Bench.TrapFrame c x (x.modCtx c f) := by
  have hctx : (x.modCtx c f).ctx c = f (x.ctx c) := by rw [Bench.ctx_modCtx, if_pos rfl]
  exact ⟨by rw [hctx, hrq], by rw [hctx, hw], rfl, rfl, rfl, rfl, rfl, rfl, rfl⟩

/-- The bench in which context `c` runs the handler, its watch already dropped. -/
def Bench.trapIn (x : Bench) (c : Fin 4) (cause epc tval : W64) : Bench :=
  let y := x.clearShadows c
  let z : Bench := { y with asks := y.asks.filter fun a => a.st != .c || (y.ctx a.ctx).phase == .launch }
  z.modC fun u =>
    { u with
      cause := cause
      epc := epc
      tval := tval
      handler := some c
      owed := false
      ctxs := Vector.ofFn fun i : Fin 4 =>
        if i = c then { u.ctxs[i] with pc := u.trap, wait := none, phase := .idle } else u.ctxs[i].unissue }

section
variable (x : Bench) (c : Fin 4) (cause epc tval : W64)

theorem Bench.trapIn_ctx : (x.trapIn c cause epc tval).ctx c =
    { x.ctx c with sh1 := .empty, sh2 := .empty, pc := x.c.trap, wait := none, phase := .idle } := by
  have hclear : (x.clearShadows c).ctx c = { x.ctx c with sh1 := .empty, sh2 := .empty } := by rw [Bench.ctx_clearShadows, if_pos rfl]
  have hin : (x.trapIn c cause epc tval).ctx c = { (x.clearShadows c).ctx c with pc := x.c.trap, wait := none, phase := .idle } := by
    simp only [Bench.ctx, Bench.trapIn, Bench.modC_c, Fin.getElem_fin, Vector.getElem_ofFn, if_pos]
    rfl
  rw [hin, hclear]

theorem Bench.trapIn_frame : Bench.TrapFrame c x (x.trapIn c cause epc tval) := by
  have hctx := x.trapIn_ctx c cause epc tval
  exact ⟨by rw [hctx], by rw [hctx], rfl, rfl, rfl, rfl, rfl, rfl, rfl⟩

end

/-! ### Entering the handler in the context of the turn -/

theorem State.dropWatch_frame (s : State) (b : BenchId) (c : Fin 4) :
    Bench.TrapFrame c (s.bench b) ((s.dropWatch b c).bench b) := by
  unfold State.dropWatch
  split
  · change Bench.TrapFrame c (s.bench b) ((s.wakeCtx b c).bench b)
    rw [State.wakeCtx, State.bench_modBench, if_pos rfl]
    exact (s.bench b).trapFrame_modCtx rfl rfl
  · exact ⟨rfl, rfl, rfl, rfl, rfl, rfl, rfl, rfl, rfl⟩

theorem State.dropWatch_mem (s : State) (b : BenchId) (c : Fin 4) : (s.dropWatch b c).mem = s.mem := by
  unfold State.dropWatch
  split <;> rfl

section
variable {s : State} {b : BenchId} (h : (s.bench b).c.trap ≠ 0) (c : Fin 4) (code : Byte) (src : BitVec 3) (deferred : Bool) (w : W32)
  (epc tval : W64)
include h

theorem State.enterTrap_bench : (s.enterTrap b c code src deferred w epc tval).bench b =
    ((s.dropWatch b c).bench b).trapIn c (causeWord code src deferred w) epc tval := by
  rw [State.enterTrap, if_neg h]
  simp only [State.bench_modBench, if_pos]
  rfl

theorem State.enterTrap_mem : (s.enterTrap b c code src deferred w epc tval).mem = s.mem := by
  rw [State.enterTrap, if_neg h]
  exact s.dropWatch_mem b c

theorem State.enterTrap_cur : (s.enterTrap b c code src deferred w epc tval).cur = s.cur := by
  rw [State.enterTrap, if_neg h]
  exact s.dropWatch_cur b c

end

/-- The context of the turn takes a trap: it runs the handler of a bench that has one, with both levels clear. -/
theorem State.enterTrap_trapped {s : State} (h : s.here.c.trap ≠ 0) (code : Byte) (src : BitVec 3) (deferred : Bool) (w : W32)
    (epc tval : W64) :
    let t := s.enterTrap s.cur.bench s.cur.ctx code src deferred w epc tval
    s.trapped t code src deferred w epc tval ∧ t.myCtx.sh1 = .empty ∧ t.myCtx.sh2 = .empty ∧ t.myCtx.rq = s.myCtx.rq ∧
      t.myCtx.w = s.myCtx.w ∧ t.mem = s.mem ∧ Bench.TrapFrame s.cur.ctx s.here t.here := by
  intro t
  let x := (s.dropWatch s.cur.bench s.cur.ctx).bench s.cur.bench
  have hdrop : Bench.TrapFrame s.cur.ctx s.here x := s.dropWatch_frame s.cur.bench s.cur.ctx
  have hcur : t.cur = s.cur := State.enterTrap_cur h _ _ _ _ _ _ _
  have hhere : t.here = x.trapIn s.cur.ctx (causeWord code src deferred w) epc tval := by
    rw [State.here, hcur]
    exact State.enterTrap_bench h _ _ _ _ _ _ _
  have hmy : t.myCtx = { x.ctx s.cur.ctx with sh1 := .empty, sh2 := .empty, pc := x.c.trap, wait := none, phase := .idle } := by
    rw [State.myCtx, hcur, hhere]
    exact x.trapIn_ctx _ _ _ _
  refine ⟨⟨by rw [hhere]; rfl, by rw [hhere]; rfl, by rw [hhere]; rfl, by rw [hhere]; rfl, ?_⟩, by rw [hmy], by rw [hmy],
    by rw [hmy]; exact hdrop.rq, by rw [hmy]; exact hdrop.w, State.enterTrap_mem h _ _ _ _ _ _ _, ?_⟩
  · rw [hmy]
    exact hdrop.trap
  · rw [hhere]
    exact hdrop.trans (x.trapIn_frame _ _ _ _)

/-! ### TRAP and precise faults (R161, R177, R180) -/

theorem exec_trap_none {s : State} (h : s.here.c.handler = none) (n : Byte) : exec (.trap n) s =
    .next (s.enterTrap s.cur.bench s.cur.ctx 0x20 (BitVec.ofNat 3 s.cur.ctx.val) false s.cword s.nextPc (n.setWidth 64)) := by
  change execTrap n s = _
  rw [execTrap, h, if_neg (by decide)]
  rfl

theorem exec_trap_handler {s : State} (h : s.here.c.handler ≠ none) (n : Byte) :
    exec (.trap n) s = .next (s.kill s.here.seqNo (s.killCause 0x20 s.here.c.cause)) := by
  change execTrap n s = _
  rw [execTrap, if_pos (Option.isSome_iff_ne_none.2 h)]
  rfl

section
variable {s : State} (hsure : s.here.unsure s.cur.ctx = false) (code : Byte) (va : W64)
include hsure

theorem State.raiseC_none (h : s.here.c.handler = none) : s.raiseC code va =
    s.enterTrap s.cur.bench s.cur.ctx code (BitVec.ofNat 3 s.cur.ctx.val) false s.cword s.cur.pc va := by
  simp only [State.raiseC, hsure, h, Bool.false_eq_true, if_false]

theorem State.raiseC_handler {c : Fin 4} (h : s.here.c.handler = some c) : s.raiseC code va =
    if c = s.cur.ctx then s.doubleFault s.cur.bench s.cur.ctx code s.cword
    else s.modMy fun k => { k with wait := none, phase := .idle } := by
  simp only [State.raiseC, hsure, h, Bool.false_eq_true, if_false]

end

theorem trapEntry_claim : Claims.TrapEntry := by
  rintro n s ⟨hnone, htrap⟩
  obtain ⟨htrapped, hsh1, hsh2, hrq, hw, hmem, hframe⟩ := State.enterTrap_trapped htrap 0x20 (BitVec.ofNat 3 s.cur.ctx.val) false
    s.cword s.nextPc (n.setWidth 64)
  exact ⟨_, exec_trap_none hnone n, htrapped, hsh1, hsh2, hrq, hw, hframe.file, hframe.globals, hframe.fflags, hframe.mode, hmem⟩

theorem preciseFaults_claim : Claims.PreciseFaults := by
  intro s code va
  refine ⟨fun hunsure => ?_, fun hsure ⟨hnone, htrap⟩ => ?_, fun hsure hmine => ?_, fun c hsure hother hne => ?_,
    fun hsure hnone htrap => ?_, fun n hh => exec_trap_handler hh n⟩
  · rw [State.raiseC, if_pos hunsure]
  · rw [State.raiseC_none hsure code va hnone]
    obtain ⟨htrapped, hsh1, hsh2, hrq, hw, hmem, hframe⟩ := State.enterTrap_trapped htrap code (BitVec.ofNat 3 s.cur.ctx.val) false
      s.cword s.cur.pc va
    exact ⟨htrapped, hsh1, hsh2, hrq, hw, hframe.file, hframe.globals, hframe.fflags, hframe.mode, hframe.link, hframe.flagq, hmem⟩
  · rw [State.raiseC_handler hsure code va hmine, if_pos rfl]
    rfl
  · rw [State.raiseC_handler hsure code va hother, if_neg hne]
  · rw [State.raiseC_none hsure code va hnone, State.enterTrap]
    exact if_pos htrap

/-- Settles O31: a trap of the turn's context leaves its frame, and a fault waits, traps, kills or issues again by what C serves. -/
theorem trapEntry : Obligations.TrapEntry := ⟨trapEntry_claim, preciseFaults_claim⟩

end Sys2Proof.Machine
end

section
/-! O20: the checks of an access, and the faults of a load and a store (R131, R134, R187, R188). -/

namespace Sys2Proof.Machine

/-! ### The checks of a page (R188) -/

theorem State.localPa_mem {s : State} {pa : Nat} {d : Fin 8} (h : s.region pa = .mem d) : s.localPa pa = pa := by
  rw [State.localPa, h]

/-- On a page of conventional memory an access fails its permission or the rule of atomics, or passes. -/
theorem State.checkPage_mem {s : State} {va : Nat} {l : Leaf} {d : Fin 8} (h : s.region (l.phys va) = .mem d) (ten : BitVec 6)
    (need : Need) (atomic io : Bool) : s.checkPage ten va need atomic io l =
      if !l.allows need || l.tenant != ten then (s, .fault cPROT)
      else if atomic && (io || l.cache != 0) then (s, .fault cPROT) else (s, .ok ⟨l, l.phys va⟩) := by
  have hmem : (Region.mem d == .absent) = false ∧ (Region.mem d == .device) = false := ⟨rfl, rfl⟩
  simp [State.checkPage, State.localPa_mem h, h, hmem]

/-! ### The checks in their order (R187) -/

section
variable {s s1 : State} {b : BenchId} {va n : Nat} (need : Need) (atomic io : Bool)

theorem State.check_beyond (h : 2 ^ 57 ≤ va) : s.check b va n need atomic io = (s, .fault cXLAT) := by
  rw [State.check, if_pos h]

theorem State.check_misaligned (h : va < 2 ^ 57) (ha : va % n ≠ 0) : s.check b va n need atomic io = (s, .fault cALIGN) := by
  rw [State.check, if_neg (by omega), if_pos (by simpa using ha)]

variable (h : va < 2 ^ 57) (ha : va % n = 0)
include h ha

theorem State.check_untranslated (ht : s.translate b (s.bench b).tenant va = (s1, .none_)) :
    s.check b va n need atomic io = (s1, .fault cXLAT) := by
  rw [State.check, if_neg (by omega), if_neg (by simp [ha]), ht]

theorem State.check_leaf {l : Leaf} (ht : s.translate b (s.bench b).tenant va = (s1, .leaf l)) :
    s.check b va n need atomic io = s1.checkPage (s1.bench b).tenant va need atomic io l := by
  rw [State.check, if_neg (by omega), if_neg (by simp [ha]), ht]

end

theorem accessChecks_claim : Claims.AccessChecks := by
  intro s b va n need atomic io
  refine ⟨fun h => State.check_beyond need atomic io h, fun h ha => State.check_misaligned need atomic io h ha,
    fun h ha s1 ht => State.check_untranslated need atomic io h ha ht, fun h ha s1 l d ht hmem => ?_⟩
  rw [State.check_leaf need atomic io h ha ht, State.checkPage_mem hmem]
  refine ⟨fun hprot => if_pos ?_, fun hallows htenant => ?_⟩
  · obtain hallows | htenant := hprot
    · simp [hallows]
    · simp [htenant]
  · rw [if_neg (by simp [hallows, htenant])]
    refine ⟨fun hatomic hforbidden => if_pos ?_, fun hplain => if_neg ?_⟩
    · simpa [hatomic] using hforbidden
    · obtain hplain | ⟨hio, hcache⟩ := hplain
      · simp [hplain]
      · simp [hio, hcache]

/-! ### The faults of a load and of a store (R89, R131, R134) -/

theorem State.loadC_fault {s s1 : State} {k : LoadKind} {a : BitVec 5} {off : BitVec 7} {base : W64} {code : Byte}
    (hremote : s.notRemote) (hbase : s.gives k.boost a base)
    (hcheck : s.check s.cur.bench (addrOf base off k.size).toNat k.size .read false (k.scope == .io) = (s1, .fault code)) :
    s.loadC k a off = s1.loadFault k code (addrOf base off k.size) := by
  unfold State.loadC
  split
  · next hphase => exact absurd hphase (hremote _ _ _ _ _)
  · rw [State.withSrc_val hbase]
    simp only [hcheck]

theorem State.storeC_fault {s s1 : State} {o : CSt} {base v : W64} {n : Nat} {code : Byte} (ha : s.gives 0 o.a base)
    (hb : s.gives 0 o.b v)
    (hcheck : s.check s.cur.bench (addrOf base o.off n).toNat n .write false (o.scope == .io) = (s1, .fault code)) :
    s.storeC n o = .next (s1.raiseC code (addrOf base o.off n)) := by
  simp only [State.storeC, State.withSrc_val ha, State.withSrc_val hb, hcheck]

theorem accessFaults_claim : Claims.AccessFaults := by
  constructor
  · intro p hp o s base s1 code hremote hbase va hcheck
    have hload : exec (p.1 o) s = s1.loadFault (ldKind p.2.1 p.2.2 o) code va :=
      (exec_load hp o s).trans (State.loadC_fault hremote hbase hcheck)
    exact ⟨fun hboost => hload.trans (if_pos hboost), fun hboost => hload.trans (if_neg hboost)⟩
  · intro p hp o s base v s1 code ha hb va hcheck
    exact (exec_store hp o s).trans (State.storeC_fault ha hb hcheck)

/-- Settles O20: the checks stand in the order of the model, and a failed one is the fault that a load or store raises or records. -/
theorem accessChecks : Obligations.AccessChecks := ⟨accessChecks_claim, accessFaults_claim⟩

end Sys2Proof.Machine
end

section
/-! O29: MFS and MTS on every special register (R92, R93, R160, R173). -/

namespace Sys2Proof.Machine

/-! ### The numbers of the special registers (R92) -/

/-- A number that no special register has. -/
theorem sregOf_unlisted : ∀ n : Byte,
    n ∉ [(0x00 : Byte), 0x01, 0x02, 0x03, 0x04, 0x05, 0x06, 0x07, 0x08, 0x09, 0x11, 0x13] → n ∉ [(0x10 : Byte), 0x12, 0x14] →
    sregOf n = none := by decide

/-- A number that MTS may not write is that of no register, or of one that is read alone. -/
theorem sregOf_unwritable : ∀ n : Byte, n ∉ [(0x05 : Byte), 0x08, 0x09, 0x10, 0x12, 0x14] →
    (sregOf n).all (fun r => !r.writable) = true := by decide

/-! ### MFS (R92, R160) -/

section
variable {n : Byte} {r : SReg} (d : BitVec 4) (s : State)

theorem exec_mfs_reads (hr : sregOf n = some r) (h : r.handler = false ∨ s.here.c.handler ≠ none) :
    exec (.mfs d n) s = .next (s.put d 0 (s.sregRead r)).doneC := by
  change execMfs d n s = _
  have hopen : (r.handler && s.here.c.handler.isNone) = false := by
    rw [Bool.and_eq_false_iff, Option.isNone_eq_false_iff, Option.isSome_iff_ne_none]
    exact h
  simp only [execMfs, hr, hopen, Bool.false_eq_true, if_false]

theorem exec_mfs_prot (hr : sregOf n = some r) (h : r.handler = true) (hnone : s.here.c.handler = none) :
    exec (.mfs d n) s = .next (s.raiseC cPROT 0) := by
  change execMfs d n s = _
  simp only [execMfs, hr, h, hnone, Option.isNone_none, Bool.and_self, if_true]

theorem exec_mfs_unlisted (hr : sregOf n = none) : exec (.mfs d n) s = .next (s.raiseC cILL 0) := by
  change execMfs d n s = _
  simp only [execMfs, hr]

end

/-- Each row of the table is what a register reads, in any state. -/
theorem State.sregTable_reads {s : State} {p : Byte × W64} (hp : p ∈ s.sregTable) :
    ∃ r, sregOf p.1 = some r ∧ r.handler = false ∧ s.sregRead r = p.2 := by
  simp only [State.sregTable, List.mem_cons, List.not_mem_nil, or_false] at hp
  obtain rfl | rfl | rfl | rfl | rfl | rfl | rfl | rfl | rfl | rfl | rfl | rfl := hp
  case inr.inr.inr.inr.inr.inr.inr.inl =>
    refine ⟨.tails, rfl, rfl, ?_⟩
    simp [State.sregRead, sumNat, Nat.add_assoc]
  all_goals exact ⟨_, rfl, rfl, rfl⟩

/-- Each row of the handler's table is what a register reads in handler state. -/
theorem State.hregTable_reads {s : State} {p : Byte × W64} (hp : p ∈ s.hregTable) :
    ∃ r, sregOf p.1 = some r ∧ r.handler = true ∧ s.sregRead r = p.2 := by
  simp only [State.hregTable, List.mem_cons, List.not_mem_nil, or_false] at hp
  obtain rfl | rfl | rfl := hp
  all_goals exact ⟨_, rfl, rfl, rfl⟩

theorem specialReads_claim : Claims.SpecialReads := by
  refine fun d s => ⟨fun p hp => ?_, fun p hp => ?_, fun n hs hh => exec_mfs_unlisted d s ?_⟩
  · obtain ⟨r, hr, hopen, hread⟩ := State.sregTable_reads hp
    rw [exec_mfs_reads d s hr (.inl hopen), hread]
  · obtain ⟨r, hr, hhandler, hread⟩ := State.hregTable_reads hp
    refine ⟨fun hin => ?_, fun hout => exec_mfs_prot d s hr hhandler hout⟩
    rw [exec_mfs_reads d s hr (.inr hin), hread]
  · refine sregOf_unlisted n (fun hn => ?_) fun hn => ?_
    · obtain ⟨p, hp, rfl⟩ := List.mem_map.1 (show n ∈ s.sregTable.map Prod.fst from hn)
      exact hs p hp rfl
    · obtain ⟨p, hp, rfl⟩ := List.mem_map.1 (show n ∈ s.hregTable.map Prod.fst from hn)
      exact hh p hp rfl

/-! ### Fields of a written value -/

/-- A field of a value, in its place between zeros, is the value under its mask. -/
theorem field_eq_and {h m l : Nat} (v : BitVec (h + m + l)) :
    0#h ++ v.extractLsb' l m ++ 0#l = v &&& (0#h ++ BitVec.allOnes m ++ 0#l) := by
  ext i hi
  by_cases hlow : i < l
  · simp [BitVec.getElem_append, hlow]
  · by_cases hmid : i - l < m
    · simp [BitVec.getElem_append, hlow, hmid, Nat.add_sub_cancel' (Nat.le_of_not_lt hlow), BitVec.getLsbD_eq_getElem hi]
    · simp [BitVec.getElem_append, hlow, hmid]

theorem spillBase_eq_and (v : W64) : spillBase v = v &&& 0x01FFFFFFFFFFFF80#64 := field_eq_and (h := 7) (m := 50) (l := 7) v

theorem trapBase_eq_and (v : W64) : trapBase v = v &&& 0x01FFFFFFFFFFFFFC#64 := field_eq_and (h := 7) (m := 55) (l := 2) v

/-! ### MTS (R93, R160, R173) -/

section
variable {n : Byte} {r : SReg} {a : BitVec 5} {s : State} {v : W64}

theorem exec_mts_unlisted (hr : sregOf n = none) : exec (.mts a n) s = .next (s.raiseC cILL 0) := by
  change execMts a n s = _
  simp only [execMts, hr]

theorem exec_mts_readOnly (hr : sregOf n = some r) (hw : r.writable = false) : exec (.mts a n) s = .next (s.raiseC cILL 0) := by
  change execMts a n s = _
  simp only [execMts, hr, hw, Bool.not_false, if_true]

theorem exec_mts_prot (hr : sregOf n = some r) (hw : r.writable = true) (h : r.handler = true) (hnone : s.here.c.handler = none) :
    exec (.mts a n) s = .next (s.raiseC cPROT 0) := by
  change execMts a n s = _
  simp only [execMts, hr, hw, h, hnone, Option.isNone_none, Bool.and_self, Bool.not_true, Bool.false_eq_true, if_false, if_true]

variable (hr : sregOf n = some r) (hw : r.writable = true) (h : r.handler = false ∨ s.here.c.handler ≠ none) (hv : s.gives 0 a v)
include hr hw h hv

/-- A register that may be written takes the value, unless it waits for the spill engine. -/
theorem exec_mts_open : exec (.mts a n) s =
    if r = .spill && s.engineBusy s.cur.bench then .next (s.waitC .other 0)
    else ((s.sregWrite r v).map fun t => .next t.doneC).getD (.next (s.raiseC cILL 0)) := by
  change execMts a n s = _
  have hopen : (r.handler && s.here.c.handler.isNone) = false := by
    rw [Bool.and_eq_false_iff, Option.isNone_eq_false_iff, Option.isSome_iff_ne_none]
    exact h
  simp only [execMts, hr, hw, hopen, Bool.not_true, Bool.false_eq_true, if_false, State.withSrc_val hv]
  cases s.sregWrite r v <;> rfl

theorem exec_mts_writes (hfree : (r = .spill && s.engineBusy s.cur.bench) = false) {t : State} (ht : s.sregWrite r v = some t) :
    exec (.mts a n) s = .next t.doneC := by
  rw [exec_mts_open hr hw h hv, hfree, ht]
  rfl

theorem exec_mts_ill (hfree : (r = .spill && s.engineBusy s.cur.bench) = false) (ht : s.sregWrite r v = none) :
    exec (.mts a n) s = .next (s.raiseC cILL 0) := by
  rw [exec_mts_open hr hw h hv, hfree, ht]
  rfl

end

theorem specialWrites_claim : Claims.SpecialWrites := by
  intro a s v hv h
  have hmode : (v.extractLsb' 0 3).toNat = v.toNat % 8 := by simp
  refine ⟨fun hbusy => ?_, fun hidle => ⟨fun hspilled => ?_, fun hnone => ?_⟩, fun hlt => ?_, fun hge => ?_, ?_,
    fun hin => ⟨?_, ?_, ?_⟩, fun hout n hn => ?_, fun n hn => ?_⟩
  · rw [exec_mts_open (r := .spill) rfl rfl (.inl rfl) hv, hbusy]
    rfl
  · exact exec_mts_ill (r := .spill) rfl rfl (.inl rfl) hv hidle (if_pos hspilled)
  · rw [← spillBase_eq_and]
    exact exec_mts_writes (r := .spill) rfl rfl (.inl rfl) hv hidle (if_neg (by simp [hnone]))
  · rw [BitVec.setWidth_eq_extractLsb' (by decide)]
    exact exec_mts_writes (r := .mode) rfl rfl (.inl rfl) hv rfl (if_neg (by omega))
  · exact exec_mts_ill (r := .mode) rfl rfl (.inl rfl) hv rfl (if_pos (by omega))
  · rw [BitVec.setWidth_eq_extractLsb' (by decide)]
    exact exec_mts_writes (r := .fflags) rfl rfl (.inl rfl) hv rfl rfl
  · rw [← trapBase_eq_and]
    exact exec_mts_writes (r := .trap) rfl rfl (.inr hin) hv rfl rfl
  · exact exec_mts_writes (r := .epc) rfl rfl (.inr hin) hv rfl rfl
  · exact exec_mts_writes (r := .hscr) rfl rfl (.inr hin) hv rfl rfl
  · have hnone : s.here.c.handler = none := not_not.1 hout
    simp only [List.mem_cons, List.not_mem_nil, or_false] at hn
    obtain rfl | rfl | rfl := hn
    · exact exec_mts_prot (r := .trap) rfl rfl rfl hnone
    · exact exec_mts_prot (r := .epc) rfl rfl rfl hnone
    · exact exec_mts_prot (r := .hscr) rfl rfl rfl hnone
  · have hall := sregOf_unwritable n hn
    cases hr : sregOf n with
    | none => exact exec_mts_unlisted hr
    | some r =>
      rw [hr] at hall
      exact exec_mts_readOnly hr (by simpa using hall)

/-- Settles O29: each number has one register, which MFS reads and MTS writes by that register's rules. -/
theorem specialRegisters : Obligations.SpecialRegisters := ⟨specialReads_claim, specialWrites_claim⟩

end Sys2Proof.Machine
end

section
/-! O30: a TLBI settles C's buffer, and with it the stores of retired teams that the buffer has left (R27, R164). -/

namespace Sys2Proof.Machine

/-- A translation of tenant 1: the first 2^48 bytes, mapped one to one. -/
def strayLeaf : Leaf := ⟨1, 0, 48, 0, 1, 0, 0, false, .sp, 0, true, true, true⟩

/-- A store of one byte that a retired team of tenant 1 has left in C's buffer. -/
def strayStore : StEntry := ⟨0, 0, .store, 1, 0, 0, [some 7], .sp, false, false, 1, false, false, strayLeaf, 0, 0, none, []⟩

/-- The main context of a team of tenant 0 runs the handler; in C's buffer nothing waits but the store of a retired team. -/
def strayBench : Bench :=
  { Bench.idle with
    team := some ⟨1, 0, 0, 0, 10, false, false⟩
    c := { CUnit.start with ctxs := CUnit.start.ctxs.set 0 { Ctx.start with live := true }, handler := some 0 }
    orphans := [(.c, strayStore)] }

/-- A turn of C in that bench after reset, in which what may perform does. -/
def strayTurn : State := { State.reset with benches := State.reset.benches.set 0 strayBench }

theorem strayTurn_bench {b : BenchId} (h : b ≠ 0) : strayTurn.bench b = .idle := by
  have hne : (0 : Nat) ≠ b.val := fun e => h (Fin.ext e.symm)
  simp [State.bench, strayTurn, State.reset, hne]

/-- No access of any bench uses a translation of tenant 0. -/
theorem strayTurn_usesLeaf (b : BenchId) : (strayTurn.bench b).usesLeaf (tlbiHits 0 strayTurn.here.tenant 0) = false := by
  by_cases h : b = 0
  · subst h
    decide +kernel
  · rw [strayTurn_bench h]
    decide +kernel

/-- The memory of an outcome that is a state. -/
def Out.mem? : Out → Option Mem
  | .next t => some t.mem
  | _ => none

/-- The store performs while the TLBI settles the buffer. -/
theorem exec_tlbi_strayTurn : Out.mem? (exec (.tlbi 0 0) strayTurn) = some [(0, 7)] := by decide +kernel

/-- Refutes O30: C's store buffer is empty, but a retired team's store that it has left performs when a TLBI settles it, and memory
changes. -/
theorem not_specialComplete : ¬ Obligations.SpecialComplete := by
  rintro ⟨-, -, htlbi⟩
  have hgives : strayTurn.gives 0 0 0 := Bench.readReg_zero strayTurn.here 0 0
  obtain ⟨t, ht, -, hmem, -⟩ := htlbi 0 0 strayTurn 0 hgives (by decide +kernel) (by decide) (by decide +kernel) strayTurn_usesLeaf
  have hsame : Out.mem? (exec (.tlbi 0 0) strayTurn) = some [] := by
    rw [ht, Out.mem?, hmem]
    rfl
  rw [exec_tlbi_strayTurn] at hsame
  cases hsame

end Sys2Proof.Machine
end

section
/-! O8, O9: the integer, immediate and three-source functions of C put the values of their tables (R104 to R109, R116, R117). -/

namespace Sys2Proof.Machine

/-! ### Truth values, products and quotients (R105, R106) -/

/-- Two cases that meet where their bounds are equal may be told apart by either order. -/
theorem ite_le_eq_ite_lt {α β : Type} [LinearOrder α] {m n : α} {x y : β} (h : m = n → x = y) :
    (if m ≤ n then x else y) = if m < n then x else y := by
  obtain hlt | rfl | hgt := lt_trichotomy m n
  · rw [if_pos hlt.le, if_pos hlt]
  · rw [h rfl, ite_self, ite_self]
  · rw [if_neg hgt.not_ge, if_neg hgt.le.not_gt]

theorem truth_decide (p : Prop) [Decidable p] : truth (decide p) = if p then 1 else 0 := by
  by_cases h : p <;> simp [truth, h]

section
variable (a b : W64)

theorem truth_beq : truth (a == b) = if a = b then 1 else 0 := truth_decide (a = b)

theorem truth_bne : truth (a != b) = if a = b then 0 else 1 := by
  by_cases h : a = b <;> simp [truth, h]

theorem truth_slt : truth (a.slt b) = if a.toInt < b.toInt then 1 else 0 := truth_decide _
theorem truth_ult : truth (a.ult b) = if a.toNat < b.toNat then 1 else 0 := truth_decide _
theorem truth_sle : truth (a.sle b) = if a.toInt ≤ b.toInt then 1 else 0 := truth_decide _
theorem truth_ule : truth (a.ule b) = if a.toNat ≤ b.toNat then 1 else 0 := truth_decide _

theorem ite_sle {β : Type} (x y : β) : (if a.sle b then x else y) = if a.toInt ≤ b.toInt then x else y := by
  simp only [BitVec.sle, decide_eq_true_eq]

theorem ite_ule {β : Type} (x y : β) : (if a.ule b then x else y) = if a.toNat ≤ b.toNat then x else y := by
  simp only [BitVec.ule, decide_eq_true_eq]

theorem min_signed : (if a.sle b then a else b) = if a.toInt < b.toInt then a else b :=
  (ite_sle a b a b).trans (ite_le_eq_ite_lt BitVec.eq_of_toInt_eq)

theorem max_signed : (if a.sle b then b else a) = if a.toInt < b.toInt then b else a :=
  (ite_sle a b b a).trans (ite_le_eq_ite_lt fun h => (BitVec.eq_of_toInt_eq h).symm)

theorem min_unsigned : (if a.ule b then a else b) = if a.toNat < b.toNat then a else b :=
  (ite_ule a b a b).trans (ite_le_eq_ite_lt BitVec.eq_of_toNat_eq)

theorem max_unsigned : (if a.ule b then b else a) = if a.toNat < b.toNat then b else a :=
  (ite_ule a b b a).trans (ite_le_eq_ite_lt fun h => (BitVec.eq_of_toNat_eq h).symm)

theorem mulHigh_eq : mulHigh a b = BitVec.ofInt 64 (a.toInt * b.toInt / 2 ^ 64) := by
  rw [mulHigh, Int.natCast_pow]
  rfl

theorem remS_eq : remS a b = if b = 0 then a else BitVec.ofInt 64 (a.toInt - b.toInt * a.toInt.tdiv b.toInt) := by
  rw [remS, Int.tmod_def]

theorem remU_eq : remU a b = if b = 0 then a else BitVec.ofNat 64 (a.toNat - b.toNat * (a.toNat / b.toNat)) := by
  rw [remU, Nat.mod_def]

theorem shiftCount_eq : shiftCount b = b.toNat % 64 := by simp [shiftCount]

end

theorem clampInt_eq_max_min {lo hi : Int} (h : lo ≤ hi) (x : Int) : clampInt lo hi x = max lo (min hi x) := by
  unfold clampInt
  omega

theorem satS_eq (x : Int) : satS x = BitVec.ofInt 64 (max (-2 ^ 63) (min (2 ^ 63 - 1) x)) := by
  rw [satS, clampInt_eq_max_min (by decide)]
  rfl

theorem shiftBy_eq (kind : BitVec 2) (x : W64) (n : Nat) : shiftBy kind x n =
    if kind = 0 then x <<< n else if kind = 1 then x >>> n else if kind = 2 then x.sshiftRight n else x.rotateRight n := by
  have hkind : ∀ k : BitVec 2, k = 0 ∨ k = 1 ∨ k = 2 ∨ k = 3 := by decide
  obtain rfl | rfl | rfl | rfl := hkind kind <;> rfl

/-! ### Counts of bits (R105) -/

theorem clzNat_eq (a : W64) : clzNat 64 a.toNat = if a = 0 then 64 else 63 - Nat.log2 a.toNat := by
  have hzero : a.toNat = 0 ↔ a = 0 := BitVec.toNat_inj (y := 0)
  simp only [clzNat, hzero]

/-- The trailing zeros end at the lowest bit that is set. -/
theorem ctzNat_eq_find (n x : Nat) : ctzNat n x = ((List.range n).find? fun i => x.testBit i).getD n := by
  induction n generalizing x with
  | zero => rfl
  | succ n ih =>
    rw [ctzNat, List.range_succ_eq_map, List.find?_cons, Nat.testBit_zero]
    by_cases h : x % 2 = 1
    · simp [h]
    · have hnext : (fun i => x.testBit i) ∘ Nat.succ = fun i => (x / 2).testBit i := funext fun i => Nat.testBit_succ x i
      rw [if_neg h, ih, List.find?_map, hnext]
      cases (List.range n).find? fun i => (x / 2).testBit i <;> simp [h, Nat.add_comm]

/-- The set bits are counted from the lowest up. -/
theorem popNat_eq_countP (n x : Nat) : popNat n x = (List.range n).countP fun i => x.testBit i := by
  induction n generalizing x with
  | zero => rfl
  | succ n ih =>
    have hnext : (fun i => x.testBit i) ∘ Nat.succ = fun i => (x / 2).testBit i := funext fun i => Nat.testBit_succ x i
    have hlow : x % 2 = 0 ∨ x % 2 = 1 := Nat.mod_two_eq_zero_or_one x
    rw [popNat, ih, List.range_succ_eq_map, List.countP_cons, List.countP_map, hnext, Nat.testBit_zero]
    obtain h | h := hlow <;> simp [h, Nat.add_comm]

/-! ### The integer group (R105) -/

/-- An instruction that is a two-source operation puts any function that agrees with its own. -/
theorem op2_row {i : COp → Instr} {f g : W64 → W64 → W64}
    (hi : ∀ o s, exec (i o) s = State.op2 s o.d o.boost o.a o.b f) (hfg : ∀ a b, f a b = g a b) (o : COp) (s : State) :
    exec (i o) s = s.op2 o.d o.boost o.a o.b g := by
  rw [hi, funext fun a => funext (hfg a)]

/-- An instruction that is a one-source operation puts any function that agrees with its own. -/
theorem op1_row {i : COp → Instr} {f g : W64 → W64} (hi : ∀ o s, exec (i o) s = State.op1 s o.d o.boost o.a f)
    (hfg : ∀ a, f a = g a) (o : COp) (s : State) : exec (i o) s = s.op1 o.d o.boost o.a g := by
  rw [hi, funext hfg]

theorem exec_intTable : ∀ p ∈ intTable, ∀ (o : COp) (s : State), exec (p.1 o) s = s.op2 o.d o.boost o.a o.b p.2 := by
  simp only [intTable, List.forall_mem_cons]
  exact ⟨fun _ _ => rfl, fun _ _ => rfl, fun _ _ => rfl, op2_row (fun _ _ => rfl) mulHigh_eq, fun _ _ => rfl, fun _ _ => rfl,
    fun _ _ => rfl, op2_row (fun _ _ => rfl) remS_eq, op2_row (fun _ _ => rfl) remU_eq, fun _ _ => rfl, fun _ _ => rfl,
    fun _ _ => rfl, fun _ _ => rfl,
    op2_row (fun _ _ => rfl) fun a b => congrArg (a <<< ·) (shiftCount_eq b),
    op2_row (fun _ _ => rfl) fun a b => congrArg (a >>> ·) (shiftCount_eq b),
    op2_row (fun _ _ => rfl) fun a b => congrArg a.sshiftRight (shiftCount_eq b),
    op2_row (fun _ _ => rfl) fun a b => congrArg a.rotateRight (shiftCount_eq b),
    op2_row (fun _ _ => rfl) truth_beq, op2_row (fun _ _ => rfl) truth_bne, op2_row (fun _ _ => rfl) truth_slt,
    op2_row (fun _ _ => rfl) truth_ult, op2_row (fun _ _ => rfl) truth_sle, op2_row (fun _ _ => rfl) truth_ule,
    op2_row (fun _ _ => rfl) min_signed, op2_row (fun _ _ => rfl) max_signed, op2_row (fun _ _ => rfl) min_unsigned,
    op2_row (fun _ _ => rfl) max_unsigned, op2_row (fun _ _ => rfl) fun _ _ => satS_eq _,
    op2_row (fun _ _ => rfl) fun _ _ => satS_eq _, List.forall_mem_nil _⟩

theorem exec_intTable1 : ∀ p ∈ intTable1, ∀ (o : COp) (s : State), exec (p.1 o) s = s.op1 o.d o.boost o.a p.2 := by
  simp only [intTable1, List.forall_mem_cons]
  refine ⟨op1_row (fun _ _ => rfl) fun a => congrArg _ (clzNat_eq a), op1_row (fun _ _ => rfl) fun a => congrArg _ (ctzNat_eq_find 64 _),
    op1_row (fun _ _ => rfl) fun a => congrArg _ (popNat_eq_countP 64 _), op1_row (fun _ _ => rfl) fun a => ?_,
    op1_row (fun _ _ => rfl) fun a => ?_, List.forall_mem_nil _⟩
  · rw [sext32, BitVec.setWidth_eq_extractLsb' (by decide)]
  · rw [zext32, BitVec.setWidth_eq_extractLsb' (w := 32) (by decide)]

/-- The word of each function of the group is its number under the group's opcode. -/
theorem intNumbers_encode : ∀ p ∈ intNumbers.zipIdx, encode (p.1 ⟨0, 0, 0, 0⟩) = some (Stream.word .c (0x04000000 + p.2)) ∧
    (p.1 ⟨0, 0, 0, 0⟩).wellFormed = true := by decide

/-- Settles O8: each instruction is the operation of its row of the table, and its word the one that its number encodes. -/
theorem integerResults : Obligations.IntegerResults := by
  refine ⟨fun p hp o s x y hx hy => ?_, fun p hp o s x hx => ?_, fun p hp => ?_⟩
  · rw [exec_intTable p hp, State.op2_val hx hy]
  · rw [exec_intTable1 p hp, State.op1_val hx]
  · obtain ⟨henc, hok⟩ := intNumbers_encode p hp
    exact decodeEncode _ _ hok henc

/-! ### Immediates (R107 to R109) and three sources (R116, R117) -/

theorem exec_immTable : ∀ p ∈ immTable, ∀ (o : CImm) (s : State),
    exec (p.1 o) s = s.op1 o.d o.boost o.a (p.2 · (o.imm.signExtend 64)) := by
  simp only [immTable, List.forall_mem_cons]
  exact ⟨fun _ _ => rfl, fun _ _ => rfl, fun _ _ => rfl, fun _ _ => rfl,
    fun o s => congrArg (s.op1 o.d o.boost o.a) (funext (truth_beq · _)),
    fun o s => congrArg (s.op1 o.d o.boost o.a) (funext (truth_slt · _)),
    fun o s => congrArg (s.op1 o.d o.boost o.a) (funext (truth_ult · _)), List.forall_mem_nil _⟩

theorem immediateResults_claim : Claims.ImmediateResults := by
  refine ⟨fun p hp o s x hx => ?_, fun o s x hx => ?_, fun _ _ => rfl⟩
  · rw [exec_immTable p hp, State.op1_val hx]
  · change s.op1 o.d o.boost o.a (shiftBy o.kind · o.n.toNat) = _
    rw [State.op1_val hx, shiftBy_eq]

theorem threeSourceResults_claim : Claims.ThreeSourceResults := by
  refine fun o s a b c ha hb hc => ⟨?_, State.op3_val ha hb hc o.d fun a b c => a * b + c, ?_⟩
  · rw [ite_not]
    exact State.op3_val ha hb hc o.d fun a b c => if a = 0 then c else b
  · rw [← BitVec.setWidth_eq_extractLsb' (by decide), ← BitVec.setWidth_eq_extractLsb' (by decide),
      ← BitVec.setWidth_eq_extractLsb' (by decide)]
    exact State.op3_val ha hb hc o.d rndcOf

/-- Settles O9: each immediate instruction is the operation of its row on its immediate, and the three-source ones are their own
functions. -/
theorem immediateResults : Obligations.ImmediateResults := ⟨immediateResults_claim, threeSourceResults_claim⟩

end Sys2Proof.Machine
end

section
/-! O10: the F32 group and the fused products, their flags and their NaNs (R110 to R116). -/

namespace Sys2Proof.Machine

/-! ### F32 words in 64 bits (R110) -/

section
variable (x : W64)

theorem low32_eq_setWidth : x.extractLsb' 0 32 = x.setWidth 32 := (BitVec.setWidth_eq_extractLsb' (by decide)).symm

theorem setWidth_low32 : (x.setWidth 32).setWidth 64 = x &&& 0xFFFFFFFF#64 :=
  BitVec.eq_of_toNat_eq (by simpa [Nat.mod_mod_of_dvd'] using (Nat.and_two_pow_sub_one_eq_mod x.toNat 32).symm)

theorem fabs32_wide : (fabs32 (x.setWidth 32)).setWidth 64 =
    if (valF32 (x.setWidth 32)).isNan then x &&& 0xFFFFFFFF#64 else x &&& 0x7FFFFFFF#64 := by
  rw [fabs32, apply_ite (BitVec.setWidth 64), BitVec.setWidth_and, setWidth_low32, BitVec.and_assoc]
  rfl

theorem fneg32_wide : (fneg32 (x.setWidth 32)).setWidth 64 =
    if (valF32 (x.setWidth 32)).isNan then x &&& 0xFFFFFFFF#64 else (x &&& 0xFFFFFFFF#64) ^^^ 0x80000000#64 := by
  rw [fneg32, apply_ite (BitVec.setWidth 64), BitVec.setWidth_xor, setWidth_low32]
  rfl

end

/-! ### NaNs (R112) -/

/-- A signalling NaN is a NaN: its exponent is the last, and its fraction is not zero. -/
theorem isNan_of_isSnan32 {a : W32} (h : isSnan32 a = true) : (valF32 a).isNan = true := by
  simp only [isSnan32, FF.isSnan, Bool.and_eq_true, beq_iff_eq, bne_iff_ne] at h
  obtain ⟨⟨hexp, hfrac⟩, -⟩ := h
  rw [valF32, FF.decode, if_pos hexp, if_neg hfrac]
  rfl

theorem Val.isNan_iff {v : Val} : v.isNan = true ↔ v = .nan := by cases v <;> simp [Val.isNan]

theorem Val.isNan_neg (v : Val) : v.neg.isNan = v.isNan := by cases v <;> rfl

/-- A NaN rounds to the quiet NaN. -/
theorem arith32_nan (md : RMode) (ins : List W32) (bad : Bool) : (arith32 md ins bad .nan).1 = 0x7FC00000 := rfl

section
variable {v w : Val} (h : v.isNan = true ∨ w.isNan = true)
include h

theorem sumVals_nan (md : RMode) : sumVals md [v, w] = .nan := by
  rw [sumVals, if_pos (by simpa using h)]

theorem Val.mul_nan : v.mul w = .nan := by
  obtain h | h := h <;> rw [Val.isNan_iff.1 h]
  · rfl
  · cases v <;> rfl

theorem Val.div_nan : v.div w = .nan := by
  obtain h | h := h <;> rw [Val.isNan_iff.1 h]
  · rfl
  · cases v <;> rfl

end

theorem fclass32_oneBit (a : W32) : ∃ k : Nat, k < 10 ∧ fclass32 a = BitVec.ofNat 64 (2 ^ k) := by
  refine ⟨_, ?_, rfl⟩
  repeat' split
  all_goals decide

theorem nanResults_claim : Claims.NanResults := by
  refine ⟨fun md a b h => ⟨?_, ?_, ?_, ?_⟩, fun big a b ha hb => ?_, fun big a b ha hb => ⟨?_, ?_⟩, fclass32_oneBit⟩
  · rw [fadd32, sumVals_nan h, arith32_nan]
  · rw [fsub32, sumVals_nan (by rwa [Val.isNan_neg]), arith32_nan]
  · rw [fmul32, Val.mul_nan h, arith32_nan]
  · rw [fdiv32, Val.div_nan h]
    rfl
  · simp [fminmax32, ha, hb, qnan]
  · simp [fminmax32, ha, hb]
  · simp [fminmax32, ha, hb]

/-! ### The instructions (R113 to R116) -/

theorem exec_fltTable2 : ∀ p ∈ fltTable2, ∀ (o : CFlt) (s : State),
    exec (p.1 o) s = s.fop2 o fun md a b => wide32 (p.2 md a b) := by
  simp only [fltTable2, List.forall_mem_cons]
  exact ⟨fun _ _ => rfl, fun _ _ => rfl, fun _ _ => rfl, fun _ _ => rfl, fun _ _ => rfl, fun _ _ => rfl, List.forall_mem_nil _⟩

/-- A compare raises invalid for a signalling NaN, and where it signals, for any NaN (R113). -/
def cmpInvalid (signals : Bool) (a b : W32) : Bool :=
  isSnan32 a || isSnan32 b || (signals && ((valF32 a).isNan || (valF32 b).isNan))

theorem cmpInvalid_quiet (a b : W32) : cmpInvalid false a b = (isSnan32 a || isSnan32 b) := by simp [cmpInvalid]

theorem cmpInvalid_signals (a b : W32) : cmpInvalid true a b = ((valF32 a).isNan || (valF32 b).isNan) := by
  have ha := @isNan_of_isSnan32 a
  have hb := @isNan_of_isSnan32 b
  rw [cmpInvalid, Bool.true_and, Bool.eq_iff_iff]
  simp only [Bool.or_eq_true]
  tauto

/-- What a compare of the table comes to: its truth value, and whether it is invalid. -/
def cmpResult (holds : Val → Val → Bool) (signals : Bool) (a b : W32) : W64 × FFlags :=
  (if holds (valF32 a) (valF32 b) then 1 else 0, if cmpInvalid signals a b then fInvalid else 0)

theorem cmpResult_quiet (holds : Val → Val → Bool) : cmpResult holds false = fun a b =>
    (if holds (valF32 a) (valF32 b) then 1 else 0, if isSnan32 a || isSnan32 b then fInvalid else 0) := by
  funext a b
  rw [cmpResult, cmpInvalid_quiet]

theorem cmpResult_signals (holds : Val → Val → Bool) : cmpResult holds true = fun a b =>
    (if holds (valF32 a) (valF32 b) then 1 else 0, if (valF32 a).isNan || (valF32 b).isNan then fInvalid else 0) := by
  funext a b
  rw [cmpResult, cmpInvalid_signals]

theorem exec_fltCmpTable : ∀ p ∈ fltCmpTable, ∀ (o : CFlt) (s : State),
    exec (p.1 o) s = s.fop2 o fun _ => cmpResult p.2.1 p.2.2 := by
  simp only [fltCmpTable, List.forall_mem_cons, cmpResult_quiet, cmpResult_signals]
  exact ⟨fun _ _ => rfl, fun _ _ => rfl, fun _ _ => rfl, fun _ _ => rfl, List.forall_mem_nil _⟩

theorem exec_fltCvtTable : ∀ p ∈ fltCvtTable, ∀ (o : CFlt) (s : State), exec (p.1 o) s =
    s.fop1 o fun md a => (BitVec.ofInt 64 (fcvtInt md p.2.1 p.2.2 a).1, (fcvtInt md p.2.1 p.2.2 a).2) := by
  simp only [fltCvtTable, List.forall_mem_cons]
  exact ⟨fun _ _ => rfl, fun _ _ => rfl, fun _ _ => rfl, fun _ _ => rfl, List.forall_mem_nil _⟩

theorem exec_fmaTable : ∀ p ∈ fmaTable, ∀ (o : CTri) (s : State),
    exec (p.1 o) s = s.fop3 o fun md a b c => ffma32 md p.2.1 p.2.2 a b c := by
  simp only [fmaTable, List.forall_mem_cons]
  exact ⟨fun _ _ => rfl, fun _ _ => rfl, fun _ _ => rfl, List.forall_mem_nil _⟩

theorem floatResults_claim : Claims.FloatResults := by
  refine ⟨fun p hp o s x y hx hy => ?_, fun p hp o s x y hx hy => ?_, fun p hp o s x hx => ?_, fun o s x hx => ?_,
    fun p hp o s x y z hx hy hz => ?_⟩
  · rw [exec_fltTable2 p hp, State.fop2_val hx hy, low32_eq_setWidth, low32_eq_setWidth]
    rfl
  · rw [exec_fltCmpTable p hp, State.fop2_val hx hy, low32_eq_setWidth, low32_eq_setWidth]
    rfl
  · rw [exec_fltCvtTable p hp, State.fop1_val hx, low32_eq_setWidth]
  · simp only [low32_eq_setWidth, ← fabs32_wide, ← fneg32_wide]
    exact ⟨State.fop1_val hx fun md a => wide32 (fsqrt32 md a), State.withSrc_val hx _ _, State.withSrc_val hx _ _,
      State.fop1_val hx fun _ a => wide32 (fabs32 a, 0), State.fop1_val hx fun _ a => wide32 (fneg32 a, 0),
      State.fop1_val hx fun _ a => (fclass32 a, 0)⟩
  · rw [exec_fmaTable p hp, State.fop3_val hx hy hz, low32_eq_setWidth, low32_eq_setWidth, low32_eq_setWidth]

/-- Settles O10: each row of a table is an operation on the low words of its sources, and a NaN among them comes out quiet. -/
theorem floatResults : Obligations.FloatResults := ⟨floatResults_claim, nanResults_claim⟩

end Sys2Proof.Machine
end

section
/-! O12, O14: conditional branches, jumps, and the trap of a deferred fault (R118 to R124, R178, R180). -/

namespace Sys2Proof.Machine

/-! ### Conditions (R118, R122) -/

theorem exec_brTable : ∀ p ∈ brTable, ∀ (o : CBr) (s : State), exec (p.1 o) s = s.branch o p.2 := by
  simp only [brTable, List.forall_mem_cons]
  exact ⟨fun _ _ => rfl, fun _ _ => rfl, fun _ _ => rfl, fun _ _ => rfl, fun _ _ => rfl, fun _ _ => rfl, List.forall_mem_nil _⟩

theorem brfTaken_eq (cond : BitVec 3) (e : W64) : brfTaken cond e = brfTable cond e := by
  have hcond : ∀ k : BitVec 3, k = 0 ∨ k = 1 ∨ k = 2 ∨ k = 3 ∨ k = 4 ∨ k = 5 ∨ k = 6 ∨ k = 7 := by decide
  obtain rfl | rfl | rfl | rfl | rfl | rfl | rfl | rfl := hcond cond <;> rfl

/-- BRF of the main context pops its entry and settles the shadows, unless it waits for a boosted load. -/
theorem exec_brf_settle {o : CBrf} {s : State} {e : W64} {rest : List W64} (hmain : s.cur.ctx = 0) (hq : s.here.flagq = e :: rest)
    (hissues : brfTable o.cond e = o.h → s.here.shadowPending s.cur.ctx = false) :
    exec (.brf o) s = (s.modHere fun x => { x with flagq := rest }).settle (brfTable o.cond e == o.h)
      (if brfTable o.cond e then s.cur.pc + 4 * o.off.signExtend 64 else s.nextPc) := by
  have hkeeps : (brfTable o.cond e == o.h && s.here.shadowPending s.cur.ctx) = false := by
    by_cases h : brfTable o.cond e = o.h
    · rw [hissues h, Bool.and_false]
    · rw [beq_false_of_ne h, Bool.false_and]
  change execBrf o s = _
  simp only [execBrf, State.mainOnly_main hmain, hq, brfTaken_eq, hkeeps, Bool.false_eq_true, if_false]
  rfl

/-! ### Branches that go on (R120) -/

/-- A branch whose shadows hold no fault and no load in flight goes on. -/
theorem State.settle_branchTo {s : State} {assumed : Bool}
    (h : assumed = true → s.here.shadowPending s.cur.ctx = false ∧ s.myCtx.sh1.faults = []) (pc : W64) :
    s.settle assumed pc = .next (s.branchTo assumed pc) := by
  cases assumed with
  | false => exact s.settle_other pc
  | true =>
    obtain ⟨hpending, hfaults⟩ := h rfl
    exact State.settle_commit hpending hfaults pc

theorem branchResults_claim : Claims.BranchResults := by
  refine ⟨fun p hp o s x y hx hy h => ?_, fun o s e rest hmain hq h => ?_⟩
  · rw [exec_brTable p hp, State.branch_val hx hy]
    exact State.settle_branchTo (fun heq => h (eq_of_beq heq)) _
  · rw [exec_brf_settle hmain hq fun heq => (h heq).1]
    refine State.settle_branchTo (fun heq => ?_) _
    rw [State.myCtx, State.here_modHere]
    exact h (eq_of_beq heq)

/-! ### Jumps (R123, R124) -/

theorem targetFault_align {a : W64} (h : a.toNat % 4 ≠ 0) : targetFault a = some cALIGN := by
  have hlow : a.extractLsb' 0 2 ≠ 0 := fun h0 => h (by simpa using congrArg BitVec.toNat h0)
  rw [targetFault, if_pos (bne_iff_ne.2 hlow)]

theorem targetFault_xlat {a : W64} (halign : a.toNat % 4 = 0) (hge : 2 ^ 57 ≤ a.toNat) : targetFault a = some cXLAT := by
  have hlow : a.extractLsb' 0 2 = 0 := BitVec.eq_of_toNat_eq (by simpa using halign)
  rw [targetFault, hlow, if_neg (by decide), if_pos hge]

section
variable {a : BitVec 5} {s : State} {x : W64} (hx : s.gives 0 a x)
include hx

theorem exec_jmpi_good (hgood : goodTarget x) : exec (.jmpi a) s = .next (s.goC x) := by
  change s.withSrc 0 0 a _ = _
  rw [State.withSrc_val hx, targetFault_none hgood]

theorem exec_indirect_fault {code : Byte} (hfault : targetFault x = some code) :
    exec (.jmpi a) s = .next (s.raiseC code x) ∧ exec (.calli a) s = .next (s.raiseC code x) := by
  constructor
  all_goals
    change s.withSrc 0 0 a _ = _
    rw [State.withSrc_val hx, hfault]

end

theorem jumpResults_claim : Claims.JumpResults :=
  ⟨fun _ _ => rfl, fun _ _ _ hx => ⟨exec_jmpi_good hx, fun hmis => exec_indirect_fault hx (targetFault_align hmis),
    fun halign hge => exec_indirect_fault hx (targetFault_xlat halign hge)⟩⟩

/-- Settles O12: a branch settles the shadows and goes on, and a jump goes to its target or raises the fault of that target. -/
theorem branchResults : Obligations.BranchResults := ⟨branchResults_claim, jumpResults_claim⟩

/-! ### The trap of a deferred fault (R121, R178, R180) -/

/-- A bench without a handler kills its hitch (R403). -/
theorem State.enterTrap_kill {s : State} {b : BenchId} (h : (s.bench b).c.trap = 0) (c : Fin 4) (code : Byte) (src : BitVec 3)
    (deferred : Bool) (w : W32) (epc tval : W64) : s.enterTrap b c code src deferred w epc tval =
      s.kill (s.bench b).seqNo ⟨code, src, BitVec.ofNat 10 (identOf b), w, 0⟩ := by
  rw [State.enterTrap, if_pos h]

/-- A branch that has read what it branches on, and settles with a deferred fault in level 1, traps or kills by what C serves. -/
theorem State.deferredTrap_of_settle {s u : State} {i : Instr} {d : Deferred} {pc : W64} (hexec : exec i s = u.settle true pc)
    (hcur : u.cur = s.cur) (hhere : u.here = { s.here with flagq := u.here.flagq }) (hmem : u.mem = s.mem)
    (hpending : s.here.shadowPending s.cur.ctx = false) (hd : s.oldestFault d) : s.deferredTrap u i d := by
  have hc : u.here.c = s.here.c := by rw [hhere]
  have hmy : u.myCtx = s.myCtx := by rw [State.myCtx, Bench.ctx, hc, hcur]; rfl
  have hseq : u.here.seqNo = s.here.seqNo := by rw [hhere]; rfl
  have hpending' : u.here.shadowPending u.cur.ctx = false := by rwa [Bench.shadowPending, hc, hcur]
  have hd' : oldest u.myCtx.sh1.faults = some d := by rwa [hmy]
  refine ⟨fun ⟨hnone, htrap⟩ => ?_, fun hserves => ?_, fun hnone htrap => ?_⟩
  · rw [← hc] at hnone htrap
    obtain ⟨⟨hcause, hepc, htval, hhandler, hgo⟩, hsh1, hsh2, hrq, -, hmem', hframe⟩ := State.enterTrap_trapped htrap d.code
      (BitVec.ofNat 3 u.cur.ctx.val) true d.word d.pc d.va
    refine ⟨_, hexec.trans (State.settle_trap hpending' hd' hnone pc), ⟨?_, hepc, htval, ?_, ?_⟩, hsh1, hsh2, ?_,
      hframe.flagq, ?_, ?_, ?_, hmem'.trans hmem⟩
    · rw [hcause, hcur]
    · rw [hhandler, hcur]
    · rw [hgo, hc]
    · rw [hrq, hmy]
    · rw [hframe.file, hc]
    · rw [hframe.globals, hc]
    · rw [hframe.fflags, hc]
  · rw [← hc] at hserves
    rw [hexec, State.settle_kill hpending' hd' hserves, State.deferredCause, ← hseq, ← hcur, ← hc]
    rfl
  · rw [← hc] at hnone htrap
    rw [hexec, State.settle_trap hpending' hd' hnone, State.enterTrap_kill htrap, State.deferredCause, ← hseq, ← hcur]
    rfl

/-- Settles O14: each branch reads what it branches on and settles the shadows in a state whose context is as it was; BRF has popped its
entry there. -/
theorem deferredTrapEntry : Obligations.DeferredTrapEntry := by
  refine ⟨fun o s e rest d hmain hq htaken hpending hd => ?_,
    fun p hp o s x y d hx hy htaken hpending hd => ⟨oldest_spec _ _ hd, ?_⟩⟩
  · have hexec := exec_brf_settle (o := o) hmain hq fun _ => hpending
    rw [htaken, beq_self_eq_true] at hexec
    have hhere := s.here_modHere fun x => { x with flagq := rest }
    exact State.deferredTrap_of_settle hexec rfl (by rw [hhere]) rfl hpending hd
  · have hexec := (exec_brTable p hp o s).trans (State.branch_val hx hy p.2)
    rw [htaken, beq_self_eq_true] at hexec
    exact State.deferredTrap_of_settle hexec rfl rfl rfl hpending hd

end Sys2Proof.Machine
end

section
/-! O33: SYSC, CLOCK, ESTAT, ABANDON and RDV (R129, R154, R156, R162, R165). -/

namespace Sys2Proof.Machine

/-! ### SYSC (R162) -/

section
variable {n : Byte} {s t : State} (hrel : s.releasesTo .mo t)
include hrel

/-- SYSC of a context that has not asked is a fence and a request. -/
theorem exec_sysc_asks (h : s.myCtx.phase = .idle) :
    exec (.sysc n) s = .next ((t.acquireC .mo).modMy fun k => { k with phase := .sysc n false, wait := none }) := by
  change execSysc n s = _
  rw [execSysc, h]
  exact State.released_yes hrel _

/-- SYSC that firmware has answered fences again and goes on. -/
theorem exec_sysc_answered (h : s.myCtx.phase = .sysc n true) : exec (.sysc n) s = .next (t.acquireC .mo).doneC := by
  change execSysc n s = _
  rw [execSysc, h]
  exact State.released_yes hrel _

end

theorem systemCalls_claim : Claims.SystemCalls := fun _ _ _ hrel => ⟨exec_sysc_asks hrel, exec_sysc_answered hrel⟩

/-! ### CLOCK, ESTAT, ABANDON and RDV (R129, R154, R156, R165) -/

theorem exec_clock (d : BitVec 4) (s : State) :
    exec (.clock d) s = .next (s.put d 0 (BitVec.ofNat 64 (s.clk - s.clk % 2 ^ s.team.period.toNat))).doneC := by
  have hround : s.clk / 2 ^ s.team.period.toNat * 2 ^ s.team.period.toNat = s.clk - s.clk % 2 ^ s.team.period.toNat :=
    Nat.div_mul_self_eq_mod_sub_self
  rw [← hround]
  rfl

/-- A selector that R156 reserves has no word. -/
theorem Bench.estat_reserved (x : Bench) {n : Nat} (h : n = 7 ∨ 16 ≤ n) : x.estat n = none := by
  unfold Bench.estat
  split
  case h_16 => rfl
  all_goals omega

section
variable (d : BitVec 4) (n : Byte) (mask : BitVec 4) {s : State}

theorem exec_estat_word (h : s.cur.ctx = 0) {v : Nat} (hv : s.before[s.cur.bench].estat n.toNat = some v) :
    exec (.estat d n) s = .next (s.put d 0 (BitVec.ofNat 64 v)).doneC := by
  change execEstat d n s = _
  simp only [execEstat, State.mainOnly_main h, hv]

theorem exec_estat_ill (h : s.cur.ctx = 0) (hn : s.before[s.cur.bench].estat n.toNat = none) :
    exec (.estat d n) s = .next (s.raiseC cILL 0) := by
  change execEstat d n s = _
  simp only [execEstat, State.mainOnly_main h, hn]

theorem exec_abandon_main (h : s.cur.ctx = 0) :
    exec (.abandon mask) s = .next ((maskStreams .c mask).foldl (fun t st => t.abandon t.cur.bench st) s).doneC :=
  State.mainOnly_main h _

theorem exec_rdv_main (h : s.cur.ctx = 0) (hnone : s.here.c.handler = none) :
    exec .rdv s = .next ((s.settleBuffer.waitC .rdv 0).tryRetire s.cur.bench) := by
  change execRdv s = _
  rw [execRdv, State.mainOnly_main h, hnone, if_neg (by decide)]

/-- ESTAT, ABANDON and RDV are of the main context alone. -/
theorem exec_mainOnly_tail (h : s.cur.ctx ≠ 0) : exec (.estat d n) s = .next (s.raiseC cILL 0) ∧
    exec (.abandon mask) s = .next (s.raiseC cILL 0) ∧ exec .rdv s = .next (s.raiseC cILL 0) :=
  ⟨State.mainOnly_tail h _, State.mainOnly_tail h _, State.mainOnly_tail h _⟩

end

theorem readingAndEnding_claim : Claims.ReadingAndEnding :=
  ⟨exec_clock, fun d n _ hmain => ⟨fun _ => exec_estat_word d n hmain,
      fun hres => exec_estat_ill d n hmain (Bench.estat_reserved _ hres)⟩,
    fun mask _ => exec_abandon_main mask, fun _ => exec_rdv_main, fun d n mask _ => exec_mainOnly_tail d n mask⟩

/-- Settles O33: SYSC by whether firmware has answered, and the others by the equation of each in the main context and in a tail. -/
theorem systemCalls : Obligations.SystemCalls := ⟨systemCalls_claim, readingAndEnding_claim⟩

end Sys2Proof.Machine
end

section
/-! O24, O25: fences, barrier membership, arrivals and generations (R142, R146 to R149). -/

namespace Sys2Proof.Machine

/-! ### Generations (R146, R148) -/

theorem firstWhere_map {α : Type} {p : α → Bool} {f : α → α} (hp : ∀ x, p (f x) = p x) (l : List α) :
    firstWhere p (l.map f) = (firstWhere p l).map f := by
  induction l with
  | nil => rfl
  | cons x l ih =>
    simp only [List.map_cons, firstWhere, hp, ih]
    split <;> rfl

/-- A member as an arrival of the team in a generation leaves it. -/
def BarMember.mark (t : Team) (g : Nat) (m : BarMember) : BarMember :=
  if m.seq == t.seq && m.idx == t.idx then { m with gen := some g } else m

/-- The member of a barrier that stands for a team. -/
def Barrier.memberOf (x : Barrier) (t : Team) : Option BarMember :=
  firstWhere (fun m => m.seq == t.seq && m.idx == t.idx) x.members

theorem Barrier.lastGen_eq (x : Barrier) (t : Team) : x.lastGen t = (x.memberOf t).bind BarMember.gen := by
  rw [Barrier.lastGen, Barrier.memberOf]
  cases firstWhere (fun m => m.seq == t.seq && m.idx == t.idx) x.members <;> rfl

theorem Barrier.memberOf_ne_none {x : Barrier} {t : Team} (h : x.hasMember t = true) : x.memberOf t ≠ none := by
  obtain ⟨m, hm, hmt⟩ := List.any_eq_true.1 h
  intro hnone
  exact Bool.false_ne_true ((firstWhere_eq_none.1 hnone m hm).symm.trans hmt)

section
variable (x : Barrier) (t : Team)

theorem Barrier.arrive_eq : x.arrive t =
    if x.arrivals + 1 = x.count then { x with members := x.members.map (BarMember.mark t x.gen), gen := x.gen + 1, arrivals := 0 }
    else { x with members := x.members.map (BarMember.mark t x.gen), arrivals := x.arrivals + 1 } := rfl

theorem Barrier.arrive_members : (x.arrive t).members = x.members.map (BarMember.mark t x.gen) := by
  rw [Barrier.arrive_eq]
  split <;> rfl

theorem Barrier.arrive_count : (x.arrive t).count = x.count := by
  rw [Barrier.arrive_eq]
  split <;> rfl

/-- An arrival that does not fill the generation is counted. -/
theorem Barrier.arrive_open (h : x.arrivals + 1 < x.count) :
    (x.arrive t).gen = x.gen ∧ (x.arrive t).arrivals = x.arrivals + 1 := by
  rw [Barrier.arrive_eq, if_neg (Nat.ne_of_lt h)]
  exact ⟨rfl, rfl⟩

/-- The arrival that fills the generation begins the next, without arrivals. -/
theorem Barrier.arrive_full (h : x.arrivals + 1 = x.count) :
    (x.arrive t).gen = x.gen + 1 ∧ (x.arrive t).arrivals = 0 := by
  rw [Barrier.arrive_eq, if_pos h]
  exact ⟨rfl, rfl⟩

theorem Barrier.arrive_memberOf (u : Team) : (x.arrive t).memberOf u = (x.memberOf u).map (BarMember.mark t x.gen) := by
  rw [Barrier.memberOf, Barrier.arrive_members]
  refine firstWhere_map (fun m => ?_) _
  unfold BarMember.mark
  split <;> rfl

theorem Barrier.arrive_hasMember (u : Team) : (x.arrive t).hasMember u = x.hasMember u := by
  rw [Barrier.hasMember, Barrier.arrive_members, List.any_map]
  congr 1
  funext m
  simp only [Function.comp, BarMember.mark]
  split <;> rfl

end

theorem Barrier.arrive_lastGen_same {x : Barrier} {t : Team} (h : x.hasMember t = true) : (x.arrive t).lastGen t = some x.gen := by
  obtain ⟨m, hm⟩ := Option.ne_none_iff_exists'.1 (Barrier.memberOf_ne_none h)
  rw [Barrier.lastGen_eq, Barrier.arrive_memberOf, hm]
  exact congrArg BarMember.gen (if_pos (firstWhere_spec hm))

theorem Barrier.arrive_lastGen_other {x : Barrier} {t u : Team} (h : ¬(t.seq = u.seq ∧ t.idx = u.idx)) :
    (x.arrive t).lastGen u = x.lastGen u := by
  rw [Barrier.lastGen_eq, Barrier.lastGen_eq, Barrier.arrive_memberOf]
  cases hm : x.memberOf u with
  | none => rfl
  | some m =>
    have hu := firstWhere_spec hm
    simp only [Bool.and_eq_true, beq_iff_eq] at hu
    refine congrArg BarMember.gen (if_neg ?_)
    simp only [Bool.and_eq_true, beq_iff_eq, hu]
    exact fun ht => h ⟨ht.1.symm, ht.2.symm⟩

/-- The arrivals of other teams leave a team's own. -/
theorem Barrier.foldl_arrive_lastGen {t : Team} {us : List Team} (h : ∀ u ∈ us, ¬(t.seq = u.seq ∧ t.idx = u.idx)) (x : Barrier) :
    (us.foldl Barrier.arrive x).lastGen t = x.lastGen t := by
  induction us generalizing x with
  | nil => rfl
  | cons u us ih =>
    obtain ⟨hu, hus⟩ := List.forall_mem_cons.1 h
    rw [List.foldl_cons, ih hus, Barrier.arrive_lastGen_other fun hut => hu ⟨hut.1.symm, hut.2.symm⟩]

/-- Arrivals that do not yet fill the generation are counted. -/
theorem Barrier.foldl_arrive_open {ts : List Team} {x : Barrier} (h : x.arrivals + ts.length < x.count) :
    (ts.foldl Barrier.arrive x).gen = x.gen ∧ (ts.foldl Barrier.arrive x).arrivals = x.arrivals + ts.length := by
  induction ts generalizing x with
  | nil => exact ⟨rfl, rfl⟩
  | cons t ts ih =>
    rw [List.length_cons] at h ⊢
    obtain ⟨hgen, harr⟩ := x.arrive_open t (by omega)
    obtain ⟨hgen', harr'⟩ := ih (x := x.arrive t) (by rw [harr, Barrier.arrive_count]; omega)
    exact ⟨hgen'.trans hgen, harr'.trans (by omega)⟩

theorem Barrier.foldl_arrive_count (ts : List Team) (x : Barrier) : (ts.foldl Barrier.arrive x).count = x.count :=
  foldl_keeps Barrier.count Barrier.arrive Barrier.arrive_count ts x

/-- The last of the arrivals is the one that fills the generation. -/
theorem Barrier.foldl_arrive_full {ts : List Team} {x : Barrier} (hts : ts ≠ []) (h : x.arrivals + ts.length = x.count) :
    (ts.foldl Barrier.arrive x).gen = x.gen + 1 ∧ (ts.foldl Barrier.arrive x).arrivals = 0 := by
  obtain ⟨us, t, rfl⟩ := (List.eq_nil_or_concat' ts).resolve_left hts
  rw [List.length_append, List.length_singleton] at h
  obtain ⟨hgen, harr⟩ := Barrier.foldl_arrive_open (ts := us) (x := x) (by omega)
  obtain ⟨hgen', harr'⟩ := (us.foldl Barrier.arrive x).arrive_full t (by rw [harr, Barrier.foldl_arrive_count]; omega)
  rw [List.foldl_append, List.foldl_cons, List.foldl_nil]
  exact ⟨hgen'.trans (congrArg (· + 1) hgen), harr'⟩

/-- A team that arrives before the generation is full has arrived in that generation. -/
theorem Barrier.foldl_arrive_lastGen_mem {ts : List Team} {x : Barrier} {t : Team} (ht : t ∈ ts) (hmem : x.hasMember t = true)
    (hle : x.arrivals + ts.length ≤ x.count) (hapart : ts.Pairwise fun t u => ¬(t.seq = u.seq ∧ t.idx = u.idx)) :
    (ts.foldl Barrier.arrive x).lastGen t = some x.gen := by
  obtain ⟨us, vs, rfl⟩ := List.append_of_mem ht
  have hvs : ∀ v ∈ vs, ¬(t.seq = v.seq ∧ t.idx = v.idx) := (List.pairwise_cons.1 (List.pairwise_append.1 hapart).2.1).1
  rw [List.length_append, List.length_cons] at hle
  obtain ⟨hgen, -⟩ := Barrier.foldl_arrive_open (ts := us) (x := x) (by omega)
  have hmem' : (us.foldl Barrier.arrive x).hasMember t = true :=
    (foldl_keeps (·.hasMember t) Barrier.arrive (fun y u => y.arrive_hasMember u t) us x).trans hmem
  rw [List.foldl_append, List.foldl_cons, Barrier.foldl_arrive_lastGen hvs, Barrier.arrive_lastGen_same hmem', hgen]

/-- Settles O25: the arrivals before the last leave the generation open, the one that makes their number COUNT fills it, and each marks its
own member alone. -/
theorem barrierGenerations : Obligations.BarrierGenerations := by
  intro x ts hzero hmem hpos hle hapart
  refine ⟨fun hlt => ?_, fun heq => Barrier.foldl_arrive_full (List.ne_nil_of_length_pos hpos) (by omega),
    fun t ht => Barrier.foldl_arrive_lastGen_mem ht (hmem t ht) (by omega) hapart⟩
  obtain ⟨hgen, harr⟩ := Barrier.foldl_arrive_open (ts := ts) (x := x) (by omega)
  exact ⟨hgen, by omega⟩

/-! ### FENCE (R142) -/

theorem fenceResults_claim : Claims.FenceResults :=
  fun sc _ _ hrel => State.released_yes hrel fun u => .next (u.acquireC sc).doneC

/-! ### BSET (R147) -/

/-- A membership word names a scope exactly when its SCOPE is one of the three of R147. -/
theorem barrierScope_eq_some {w : W64} {sc : Scope} {limit : Nat} : barrierScope w = some (sc, limit) ↔
    (w.extractLsb' 12 4, sc, limit) ∈ [(2#4, Scope.sp, 8), (3#4, Scope.di, 96), (4#4, Scope.mo, 768)] := by
  unfold barrierScope
  generalize w.extractLsb' 12 4 = x
  constructor
  · intro h
    split at h
    case h_4 => cases h
    all_goals
      next hx =>
      obtain ⟨rfl, rfl⟩ := Prod.mk.inj (Option.some.inj h)
      simp [← BitVec.toNat_inj, hx]
  · simp only [List.mem_cons, Prod.mk.injEq, List.not_mem_nil, or_false]
    rintro (⟨rfl, rfl, rfl⟩ | ⟨rfl, rfl, rfl⟩ | ⟨rfl, rfl, rfl⟩) <;> rfl

/-- The state in which the team has left a membership, if it has one. -/
def State.without (s : State) (mine : Option Barrier) : State := mine.elim s s.leaveBarrier

@[simp] theorem State.without_none (s : State) : s.without none = s := rfl
@[simp] theorem State.without_some (s : State) (x : Barrier) : s.without (some x) = s.leaveBarrier x := rfl

/-- The join that a word with a COUNT asks for. -/
def State.joinWord (s : State) (sc : Scope) (n : Byte) (count : Nat) : Option State :=
  match s.instanceAt sc n with
  | some y =>
    if y.count ≠ count then none
    else if s.membership n = some y then some s
    else if y.count ≤ y.members.length then none
    else some ((s.without (s.membership n)).joinBarrier sc n count)
  | none => some ((s.without (s.membership n)).joinBarrier sc n count)

section
variable {s : State} {n : Byte} {w : W64} {sc : Scope} {limit : Nat} (hscope : barrierScope w = some (sc, limit))
include hscope

/-- A reserved bit, a COUNT beyond the scope's limit or a generation with arrivals stops BSET. -/
theorem State.setMembership_barred (h : w.extractLsb' 16 48 ≠ 0 ∨ w.extractLsb' 10 2 ≠ 0 ∨ limit < (w.extractLsb' 0 10).toNat ∨
    ∃ x, s.membership n = some x ∧ x.arrivals ≠ 0) : s.setMembership n w = none := by
  unfold State.setMembership
  simp only [hscope]
  rw [if_pos]
  obtain h | h | h | ⟨x, hx, h⟩ := h
  · rw [bne_iff_ne.2 h]
    rfl
  · rw [bne_iff_ne.2 h]
    simp only [Bool.or_true, Bool.true_or]
  · rw [decide_eq_true h]
    simp only [Bool.or_true, Bool.true_or]
  · rw [hx]
    simp only [decide_eq_true (Nat.pos_of_ne_zero h), Bool.or_true]

variable (h16 : w.extractLsb' 16 48 = 0) (h10 : w.extractLsb' 10 2 = 0) (hle : (w.extractLsb' 0 10).toNat ≤ limit)
  (hidle : ∀ x, s.membership n = some x → x.arrivals = 0)
include h16 h10 hle hidle

/-- A word that nothing bars asks for a leave, or for a join. -/
theorem State.setMembership_open : s.setMembership n w =
    if (w.extractLsb' 0 10).toNat = 0 then (s.membership n).map s.leaveBarrier
    else if s.scopeClash sc n then none
    else s.joinWord sc n (w.extractLsb' 0 10).toNat := by
  have hle' : ¬limit < (w.extractLsb' 0 10).toNat := Nat.not_lt.2 hle
  unfold State.setMembership State.joinWord
  cases hm : s.membership n with
  | none =>
    simp only [hscope, h16, h10, hle']
    cases s.instanceAt sc n <;> simp
  | some x =>
    have hnone : decide (0 < x.arrivals) = false := by rw [hidle x hm]; rfl
    simp only [hscope, h16, h10, hle', hnone]
    cases s.instanceAt sc n <;> simp

end

section
variable {s : State} {sc : Scope} {n : Byte} {count : Nat}

theorem State.joinBarrier_some {y : Barrier} (hy : s.instanceAt sc n = some y) : s.joinBarrier sc n count =
    s.putBarrier y { y with members := y.members ++ [⟨s.team.seq, s.team.idx, none⟩] } := by
  simp only [State.joinBarrier, hy]

theorem State.joinBarrier_none (hy : s.instanceAt sc n = none) : s.joinBarrier sc n count =
    { s with barriers := ⟨if sc = .mo then 0 else s.team.seq, s.team.tenant, n, sc, instOf sc s.cur.bench, count,
        [⟨s.team.seq, s.team.idx, none⟩], 0, 0, false⟩ :: s.barriers } := by
  simp only [State.joinBarrier, hy]

/-- A barrier with another COUNT, or a full one that the team is not in, admits no join. -/
theorem State.joinWord_none {y : Barrier} (hy : s.instanceAt sc n = some y)
    (h : y.count ≠ count ∨ y.count ≤ y.members.length ∧ s.membership n ≠ some y) : s.joinWord sc n count = none := by
  simp only [State.joinWord, hy]
  split
  · rfl
  · next hcount =>
    obtain ⟨hfull, hother⟩ := h.resolve_left hcount
    rw [if_neg hother, if_pos hfull]

/-- A member of the barrier that its word names stays. -/
theorem State.joinWord_same {y : Barrier} (hy : s.instanceAt sc n = some y) (hcount : y.count = count) (hmine : s.membership n = some y) :
    s.joinWord sc n count = some s := by
  simp only [State.joinWord, hy]
  rw [if_neg (not_not.2 hcount), if_pos hmine]

/-- Another team leaves what it is in and joins the barrier, which has its COUNT and room, or begins one. -/
theorem State.joinWord_joins (h : ∀ y, s.instanceAt sc n = some y → y.count = count ∧ y.members.length < y.count ∧ s.membership n ≠ some y) :
    s.joinWord sc n count = some ((s.without (s.membership n)).joinBarrier sc n count) := by
  cases hy : s.instanceAt sc n with
  | none => simp only [State.joinWord, hy]
  | some y =>
    obtain ⟨hcount, hroom, hother⟩ := h y hy
    simp only [State.joinWord, hy]
    rw [if_neg (not_not.2 hcount), if_neg hother, if_neg (Nat.not_le.2 hroom)]

end

section
variable {s : State} {n : Byte} {w : W64}

/-- What R147 refuses asks for no membership. -/
theorem State.setMembership_refused (h : s.bsetRefused n w) : s.setMembership n w = none := by
  cases hscope : barrierScope w with
  | none => simp only [State.setMembership, hscope]
  | some p =>
    obtain ⟨sc, limit⟩ := p
    by_cases hbar : w.extractLsb' 16 48 ≠ 0 ∨ w.extractLsb' 10 2 ≠ 0 ∨ limit < (w.extractLsb' 0 10).toNat ∨
        ∃ x, s.membership n = some x ∧ x.arrivals ≠ 0
    · exact State.setMembership_barred hscope hbar
    · simp only [not_or, not_not, not_exists, not_and, Nat.not_lt] at hbar
      obtain ⟨h16, h10, hle, hidle⟩ := hbar
      rw [State.setMembership_open hscope h16 h10 hle hidle]
      obtain h | h | ⟨x, hx, h⟩ | ⟨hzero, hnone⟩ | h := h
      · exact absurd h16 h
      · exact absurd h10 h
      · exact absurd (hidle x hx) h
      · rw [if_pos hzero, hnone]
        rfl
      · obtain h | ⟨hne, hclash⟩ := h sc limit (barrierScope_eq_some.1 hscope)
        · omega
        rw [if_neg hne]
        split
        · rfl
        · next hfree =>
          obtain ⟨y, hy, h⟩ := hclash.resolve_left hfree
          exact State.joinWord_none hy h

/-- What R147 allows: a word of a scope without reserved bits, a COUNT within its limit, no arrival that waits; COUNT 0 of a member, or a
COUNT that the barrier of the scope, if there is one, has, with room for a team that is not in it. -/
theorem State.admitted_of_not_refused (h : ¬s.bsetRefused n w) : ∃ sc limit, barrierScope w = some (sc, limit) ∧
    w.extractLsb' 16 48 = 0 ∧ w.extractLsb' 10 2 = 0 ∧ (w.extractLsb' 0 10).toNat ≤ limit ∧
    (∀ x, s.membership n = some x → x.arrivals = 0) ∧ ((w.extractLsb' 0 10).toNat = 0 → s.membership n ≠ none) ∧
    ((w.extractLsb' 0 10).toNat ≠ 0 → s.scopeClash sc n = false ∧ ∀ y, s.instanceAt sc n = some y →
      y.count = (w.extractLsb' 0 10).toNat ∧ (s.membership n = some y ∨ y.members.length < y.count)) := by
  simp only [State.bsetRefused] at h
  push Not at h
  obtain ⟨h16, h10, hidle, hzero, sc, limit, hscope, hle, hjoin⟩ := h
  refine ⟨sc, limit, barrierScope_eq_some.2 hscope, h16, h10, hle, hidle, hzero, fun hne => ?_⟩
  obtain ⟨hclash, hinst⟩ := hjoin hne
  refine ⟨by simpa using hclash, fun y hy => ?_⟩
  obtain ⟨hcount, hfull⟩ := hinst y hy
  exact ⟨hcount, (Nat.lt_or_ge _ _).symm.imp_left hfull⟩

theorem exec_bset {a : BitVec 5} {bar : Byte} (hw : s.gives 0 a w) : exec (.bset a bar) s =
    .next ((s.setMembership bar w).elim (s.raiseC cBARGEN 0) State.doneC) := by
  change execBset a bar s = _
  rw [execBset, State.withSrc_val hw]
  cases s.setMembership bar w <;> rfl

end

/-- What BSET makes of a word that R147 allows. -/
theorem State.setMembership_admitted {s : State} {n : Byte} {w : W64} (h : ¬s.bsetRefused n w) :
    let me : BarMember := ⟨s.team.seq, s.team.idx, none⟩
    ∃ t, s.setMembership n w = some t ∧
      (∀ x, (w.extractLsb' 0 10).toNat = 0 → s.membership n = some x → t = s.leaveBarrier x) ∧
      ∀ (sc : Scope) (limit : Nat), barrierScope w = some (sc, limit) → (w.extractLsb' 0 10).toNat ≠ 0 →
        (∀ x, s.instanceAt sc n = some x → s.membership n = some x → t = s) ∧
        (s.membership n = none →
          (∀ y, s.instanceAt sc n = some y → t = s.putBarrier y { y with members := y.members ++ [me] }) ∧
          (s.instanceAt sc n = none → t = { s with barriers :=
            ⟨if sc = .mo then 0 else s.team.seq, s.team.tenant, n, sc, instOf sc s.cur.bench, (w.extractLsb' 0 10).toNat, [me], 0, 0,
              false⟩ :: s.barriers })) := by
  obtain ⟨sc, limit, hscope, h16, h10, hle, hidle, hzero, hjoin⟩ := State.admitted_of_not_refused h
  have hopen := State.setMembership_open hscope h16 h10 hle hidle
  by_cases hcount : (w.extractLsb' 0 10).toNat = 0
  · obtain ⟨x, hx⟩ := Option.ne_none_iff_exists'.1 (hzero hcount)
    rw [if_pos hcount, hx] at hopen
    refine ⟨_, hopen, fun y _ hy => ?_, fun _ _ _ hne => absurd hcount hne⟩
    obtain rfl := Option.some.inj (hx.symm.trans hy)
    rfl
  · obtain ⟨hclash, hinst⟩ := hjoin hcount
    rw [if_neg hcount, hclash, if_neg (by decide)] at hopen
    by_cases hmine : ∃ y, s.instanceAt sc n = some y ∧ s.membership n = some y
    · obtain ⟨y, hy, hmy⟩ := hmine
      rw [State.joinWord_same hy (hinst y hy).1 hmy] at hopen
      exact ⟨s, hopen, fun _ h0 => absurd h0 hcount, fun _ _ _ _ => ⟨fun _ _ _ => rfl, fun hnone => by simp [hnone] at hmy⟩⟩
    · have hother : ∀ y, s.instanceAt sc n = some y → s.membership n ≠ some y := fun y hy hmy => hmine ⟨y, hy, hmy⟩
      rw [State.joinWord_joins fun y hy => ⟨(hinst y hy).1, (hinst y hy).2.resolve_left (hother y hy), hother y hy⟩] at hopen
      refine ⟨_, hopen, fun _ h0 => absurd h0 hcount, fun sc' limit' hscope' _ => ?_⟩
      obtain ⟨rfl, -⟩ := Prod.mk.inj (Option.some.inj (hscope'.symm.trans hscope))
      refine ⟨fun y hy hmy => absurd hmy (hother y hy), fun hnone => ⟨fun y hy => ?_, fun hy => ?_⟩⟩
      · rw [hnone]
        exact State.joinBarrier_some hy
      · rw [hnone]
        exact State.joinBarrier_none hy

/-! ### ARRV (R148) -/

section
variable {sc : Scope} {bar : Byte} {s : State}

theorem exec_arrv_member {t : State} {x y : Barrier} (hx : s.membership bar = some x) (hsc : x.scope = sc) (hbroken : x.broken = false)
    (hlast : x.lastGen s.team ≠ some x.gen) (hrel : s.releasesTo sc t) (hy : t.membership bar = some y) :
    exec (.arrv sc bar) s = .next (t.putBarrier y (y.arrive t.team)).doneC := by
  have hgoes : (x.scope != sc || x.broken || x.lastGen s.team == some x.gen) = false := by simp [hsc, hbroken, hlast]
  change execArrv sc bar s = _
  simp only [execArrv, hx, hgoes, Bool.false_eq_true, if_false]
  rw [State.released_yes hrel]
  simp only [hy]

theorem exec_arrv_none (h : s.membership bar = none) : exec (.arrv sc bar) s = .next (s.raiseC cBARGEN 0) := by
  change execArrv sc bar s = _
  simp only [execArrv, h]

/-! ### BWAIT (R149, R150) -/

/-- A BWAIT that has waited for a generation goes on, waits on, or finds its barrier broken. -/
theorem exec_bwait_waited {x : Barrier} {g k : Nat} (hx : s.membership bar = some x) (hlast : x.lastGen s.team = some g)
    (hphase : s.myCtx.phase = .bwait k) : exec (.bwait sc bar) s =
      if k < x.gen then .next (s.acquireC sc).doneC
      else if x.broken then .next (s.raiseC cBARGEN 0)
      else .next ((s.modMy fun c => { c with phase := .bwait k }).waitC .other 0) := by
  change execBwait sc bar s = _
  simp only [execBwait, hphase, hx, State.waitedFor, hlast, Option.isNone_some, Bool.false_or, decide_eq_true_eq]

/-- A BWAIT of a member that begins waits for the generation of its team's last arrival. -/
theorem exec_bwait_begins {x : Barrier} {g : Nat} (hphase : ∀ k, s.myCtx.phase ≠ .bwait k) (hx : s.membership bar = some x)
    (hsc : x.scope = sc) (hbroken : x.broken = false) (hlast : x.lastGen s.team = some g) : exec (.bwait sc bar) s =
      if g < x.gen then .next (s.acquireC sc).doneC
      else .next ((s.modMy fun c => { c with phase := .bwait g }).waitC .other 0) := by
  have hgoes : (x.scope != sc || x.broken) = false := by simp [hsc, hbroken]
  change execBwait sc bar s = _
  simp only [execBwait, hx, hgoes, hlast, Bool.false_eq_true, if_false]

theorem exec_bwait_none (hphase : ∀ k, s.myCtx.phase ≠ .bwait k) (h : s.membership bar = none) :
    exec (.bwait sc bar) s = .next (s.raiseC cBARGEN 0) := by
  change execBwait sc bar s = _
  simp only [execBwait, h]

end

theorem barrierResults_claim : Claims.BarrierResults := by
  refine ⟨fun a bar s w hw => ⟨fun h => ?_, fun h => ?_⟩, fun sc bar s t x y => exec_arrv_member,
    fun sc bar s x g hx hsc hlast => ⟨fun hphase hbroken => ?_, fun hphase => ?_⟩,
    fun sc bar s h => ⟨exec_arrv_none h, fun hphase => exec_bwait_none hphase h⟩⟩
  · rw [exec_bset hw, State.setMembership_refused h]
    rfl
  · obtain ⟨t, ht, hleave, hjoin⟩ := State.setMembership_admitted h
    exact ⟨t, ht, by rw [exec_bset hw, ht]; rfl, hleave, hjoin⟩
  · rw [exec_bwait_begins hphase hx hsc hbroken hlast]
    exact ⟨fun hlt => if_pos hlt, fun hle => if_neg (Nat.not_lt.2 hle)⟩
  · rw [exec_bwait_waited hx hlast hphase]
    refine ⟨fun hlt => if_pos hlt, fun hle hbroken => ?_, fun hle hbroken => ?_⟩ <;>
      rw [if_neg (Nat.not_lt.2 hle), hbroken] <;> rfl

/-- Settles O24: a fence is a release and what follows it, BSET is refused or admitted by R147 and then leaves, stays, joins or begins, and ARRV
and BWAIT go by the membership, its generation and the phase of the context. -/
theorem barrierResults : Obligations.BarrierResults := ⟨fenceResults_claim, barrierResults_claim⟩

end Sys2Proof.Machine
end

section
/-! O32: ERET, and a trap whose handler returns at once (R91, R161, R163). -/

namespace Sys2Proof.Machine

/-! ### Leaving handler state (R163) -/

theorem Bench.clearShadows_frame (x : Bench) (c : Fin 4) : Bench.TrapFrame c x (x.clearShadows c) := by
  have hctx : (x.clearShadows c).ctx c = { x.ctx c with sh1 := .empty, sh2 := .empty } := by rw [Bench.ctx_clearShadows, if_pos rfl]
  exact ⟨by rw [hctx], by rw [hctx], rfl, rfl, rfl, rfl, rfl, rfl, rfl⟩

/-- The bench of the turn leaves handler state: its context goes on at s.epc, with both levels clear. -/
theorem State.exitTrap_here (s : State) : ∃ y : Bench, y.c = { (s.here.clearShadows s.cur.ctx).c with handler := none } ∧
    y.flagq = s.here.flagq ∧
    s.exitTrap.here = y.modCtx s.cur.ctx fun k => { k with pc := s.here.c.epc, wait := none, phase := .idle } := by
  simp only [State.exitTrap, State.here_modHere, State.modHere_cur]
  refine ⟨_, ?_, ?_, rfl⟩ <;> rfl

/-- The context of the turn leaves handler state: both levels of it are clear, it goes on at s.epc, and the rest of its frame stays. -/
theorem State.exitTrap_spec (s : State) :
    let t := s.exitTrap
    t.here.c.handler = none ∧
      t.myCtx = { s.myCtx with sh1 := .empty, sh2 := .empty, pc := s.here.c.epc, wait := none, phase := .idle } ∧
      Bench.TrapFrame s.cur.ctx s.here t.here := by
  have hcur : s.exitTrap.cur = s.cur := rfl
  obtain ⟨y, hc, hflagq, hhere⟩ := s.exitTrap_here
  have hframe : Bench.TrapFrame s.cur.ctx (s.here.clearShadows s.cur.ctx) y := by
    refine ⟨?_, ?_, ?_, ?_, ?_, ?_, ?_, hflagq, ?_⟩ <;> simp only [Bench.ctx, hc]
  have hctx : y.ctx s.cur.ctx = { s.myCtx with sh1 := .empty, sh2 := .empty } := by
    rw [Bench.ctx, hc]
    exact (Bench.ctx_clearShadows _ _ _).trans (if_pos rfl)
  refine ⟨?_, ?_, ?_⟩
  · rw [hhere, Bench.modCtx, Bench.modC_c, hc]
  · rw [State.myCtx, hcur, hhere, Bench.ctx_modCtx, if_pos rfl, hctx]
  · rw [hhere]
    exact (Bench.clearShadows_frame _ _).trans (hframe.trans (y.trapFrame_modCtx rfl rfl))

/-! ### ERET (R163) -/

/-- The bench as ERET leaves it: an event that waited for the handler to end has still to be taken (R179). -/
def Bench.owing (x : Bench) : Bench := x.modC fun u => { u with owed := x.pending.isSome }

theorem exec_eret_ill {s : State} (h : s.here.c.handler ≠ some s.cur.ctx) : exec .eret s = .next (s.raiseC cILL 0) := if_neg h

/-- ERET of the context that runs the handler leaves handler state with its frame as it was. -/
theorem exec_eret_returns {s : State} (h : s.here.c.handler = some s.cur.ctx) : ∃ t, exec .eret s = .next t ∧
    t.here.c.handler = none ∧ t.myCtx.pc = s.here.c.epc ∧ t.myCtx.sh1 = .empty ∧ t.myCtx.sh2 = .empty ∧ t.mem = s.mem ∧
    t.cur = s.cur ∧ Bench.TrapFrame s.cur.ctx s.here t.here := by
  obtain ⟨hhandler, hmy, hframe⟩ := s.exitTrap_spec
  have hhere : (s.exitTrap.modHere Bench.owing).here = s.exitTrap.here.owing := State.here_modHere _ _
  have hctx : (s.exitTrap.modHere Bench.owing).myCtx = s.exitTrap.myCtx := by
    rw [State.myCtx, hhere]
    rfl
  refine ⟨s.exitTrap.modHere Bench.owing, if_pos h, ?_, ?_, ?_, ?_, rfl, rfl, ?_⟩
  · rw [hhere]
    exact hhandler
  · rw [hctx, hmy]
  · rw [hctx, hmy]
  · rw [hctx, hmy]
  · rw [hhere]
    exact hframe.trans ⟨rfl, rfl, rfl, rfl, rfl, rfl, rfl, rfl, rfl⟩

theorem trapReturn_claim : Claims.TrapReturn := by
  refine fun s => ⟨fun h => ?_, exec_eret_ill, by decide +kernel⟩
  obtain ⟨t, ht, hhandler, hpc, hsh1, hsh2, hmem, hcur, hframe⟩ := exec_eret_returns h
  have hrq : t.myCtx.rq = s.myCtx.rq := by
    rw [State.myCtx, hcur]
    exact hframe.rq
  exact ⟨t, ht, hhandler, hpc, hsh1, hsh2, hrq, hframe.file, hframe.globals, hmem⟩

theorem trapThenReturn_claim : Claims.TrapThenReturn := by
  rintro n s ⟨hnone, htrap⟩
  let t := s.enterTrap s.cur.bench s.cur.ctx 0x20 (BitVec.ofNat 3 s.cur.ctx.val) false s.cword s.nextPc (n.setWidth 64)
  obtain ⟨⟨-, hepc, -, hhandler, -⟩, -, -, -, -, -, hframe⟩ := State.enterTrap_trapped htrap 0x20 (BitVec.ofNat 3 s.cur.ctx.val) false
    s.cword s.nextPc (n.setWidth 64)
  have hcur : t.cur = s.cur := State.enterTrap_cur htrap _ _ _ _ _ _ _
  have hmine : t.here.c.handler = some t.cur.ctx := hhandler.trans (congrArg (some ·.ctx) hcur.symm)
  obtain ⟨u, hu, hnone', hpc, -, -, -, hcur', hframe'⟩ := exec_eret_returns hmine
  rw [hcur] at hframe' hcur'
  have hboth := hframe.trans hframe'
  have hctx : u.myCtx = u.here.ctx s.cur.ctx := by rw [State.myCtx, hcur']
  refine ⟨t, u, exec_trap_none hnone n, hu, hpc.trans hepc, hnone', ?_, ?_, hboth.file, hboth.globals, hboth.fflags⟩
  · rw [hctx]
    exact hboth.rq
  · rw [hctx]
    exact hboth.w

/-- Settles O32: ERET keeps the frame of its context, TRAP before it does, and s.epc is the word after TRAP. -/
theorem trapReturn : Obligations.TrapReturn := ⟨trapReturn_claim, trapThenReturn_claim⟩

end Sys2Proof.Machine
end

section
/-! O26, O27: watches (R143 to R145), and the value and flag queues of C (R151, R152). -/

namespace Sys2Proof.Machine

/-! ### The home of a watched line (R294, R295) -/

/-- Conventional memory lies below the device space, die after die. -/
theorem State.region_mem_iff {s : State} {pa : Nat} {d : Fin 8} :
    s.region pa = .mem d ↔ pa < 0xC000000000 ∧ dieAt (pa / 0x1800000000) = d := by
  unfold State.region
  split
  · next h => simp [h]
  · next h =>
    simp only [h, false_and, iff_false]
    repeat' split
    all_goals exact fun e => by cases e

/-- A line of conventional memory lies in one die. -/
theorem State.region_line {s : State} {pa : Nat} {d : Fin 8} (h : s.region pa = .mem d) : s.region (128 * (pa / 128)) = .mem d := by
  obtain ⟨hlt, hd⟩ := State.region_mem_iff.1 h
  have hdie : 128 * (pa / 128) / 0x1800000000 = pa / 0x1800000000 := by omega
  exact State.region_mem_iff.2 ⟨by omega, hdie ▸ hd⟩

theorem State.homeDie_of_mem {s : State} {pa : Nat} {d : Fin 8} (h : s.region pa = .mem d) : s.homeDie pa = some d := by
  rw [State.homeDie, h]

theorem State.homeOf_of_mem {s : State} {pa : Nat} {d : Fin 8} (h : s.region pa = .mem d) (leaf : Leaf) :
    s.homeOf leaf (pa / 128) = (d.val, (sliceOf leaf (pa / 128)).1) := by
  rw [State.homeOf, State.homeDie_of_mem (State.region_line h)]

/-! ### WATCH and WAIT (R143, R145) -/

theorem exec_watch_mem {a : BitVec 5} {s s1 : State} {va : W64} {q : Passed} {d : Fin 8} (hva : s.gives 0 a va)
    (hcheck : s.check s.cur.bench va.toNat 1 .read true false = (s1, .ok q)) (hremote : s.notRemote) (hreg : s1.region q.pa = .mem d) :
    exec (.watch a) s = .next ((s1.addWatch
      ⟨q.pa / 128, d.val, (sliceOf q.leaf (q.pa / 128)).1, s1.cur.bench, s1.cur.ctx, none⟩).armWatch (q.pa / 128) none).doneC := by
  change execWatch a s = _
  unfold execWatch
  split
  · next hphase => exact absurd hphase (hremote _ _ _ _ _)
  · rw [State.withSrc_val hva]
    simp only [hcheck, hreg, State.homeOf_of_mem hreg, State.homeDie_of_mem hreg, Option.isSome_some, if_true]

theorem exec_wait_goes {s : State} (h : s.myCtx.wake = true ∨ s.myCtx.watch = none) :
    exec .wait s = .next (s.modMy fun k => { k with wake := false }).doneC :=
  if_pos (by simpa using h)

theorem exec_wait_waits {s : State} (hwake : s.myCtx.wake = false) (hwatch : s.myCtx.watch ≠ none) :
    exec .wait s = .next (s.waitC .other 0) :=
  if_neg (by simpa [hwake] using hwatch)

theorem watchResults_claim : Claims.WatchResults :=
  ⟨fun _ _ _ _ _ _ hva hcheck hremote hreg => exec_watch_mem hva hcheck hremote hreg,
    fun _ => ⟨exec_wait_goes, exec_wait_waits⟩⟩

/-! ### The store that wakes (R144) -/

/-- A context has been woken: its watch is disarmed and its wake-pending flag is set. -/
def State.awake (s : State) (b : BenchId) (c : Fin 4) : Prop :=
  ((s.bench b).ctx c).watch = none ∧ ((s.bench b).ctx c).wake = true

theorem State.wakeCtx_ctx (s : State) (b i : BenchId) (c j : Fin 4) : ((s.wakeCtx b c).bench i).ctx j =
    if i = b ∧ j = c then { (s.bench b).ctx c with watch := none, wtag := none, wake := true } else (s.bench i).ctx j := by
  rw [State.wakeCtx, State.bench_modBench]
  by_cases hi : i = b
  · subst hi
    rw [if_pos rfl, Bench.ctx_modCtx]
    by_cases hj : j = c
    · subst hj
      rw [if_pos rfl, if_pos ⟨rfl, rfl⟩]
    · rw [if_neg hj, if_neg fun h => hj h.2]
  · rw [if_neg hi, if_neg fun h => hi h.1]

theorem State.wakeCtx_awake (s : State) (b : BenchId) (c : Fin 4) : (s.wakeCtx b c).awake b c := by
  rw [State.awake, State.wakeCtx_ctx, if_pos ⟨rfl, rfl⟩]
  exact ⟨rfl, rfl⟩

theorem State.sendWake_benches (s : State) (m : BitVec 14) (tag : Nat) : (s.sendWake m tag).benches = s.benches := by
  unfold State.sendWake
  split <;> rfl

theorem State.sendWake_watches (s : State) (m : BitVec 14) (tag : Nat) : (s.sendWake m tag).watches = s.watches := by
  unfold State.sendWake
  split <;> rfl

theorem State.wakeWatch_watches (s : State) (w : Watch) : (s.wakeWatch w).watches = s.watches := by
  unfold State.wakeWatch
  split
  · rfl
  · exact s.sendWake_watches _ _

theorem State.awake.wakeWatch {s : State} {b : BenchId} {c : Fin 4} (h : s.awake b c) (w : Watch) : (s.wakeWatch w).awake b c := by
  unfold State.wakeWatch
  split
  · rw [State.awake, State.wakeCtx_ctx]
    split
    · exact ⟨rfl, rfl⟩
    · exact h
  · rw [State.awake, State.bench, State.sendWake_benches]
    exact h

theorem State.awake.wakeAll {s : State} {b : BenchId} {c : Fin 4} (h : s.awake b c) (ws : List Watch) :
    (ws.foldl State.wakeWatch s).awake b c :=
  List.foldlRecOn (motive := (·.awake b c)) ws State.wakeWatch h fun _ ht w _ => ht.wakeWatch w

/-- Of the contexts of this module, each that is to wake is awake afterwards. -/
theorem State.wakeAll_awake {w : Watch} {ws : List Watch} (hw : w ∈ ws) (hhere : w.remote = none) (s : State) :
    (ws.foldl State.wakeWatch s).awake w.bench w.ctx := by
  obtain ⟨us, vs, rfl⟩ := List.append_of_mem hw
  rw [List.foldl_append, List.foldl_cons]
  refine State.awake.wakeAll ?_ vs
  rw [State.wakeWatch, hhere]
  exact State.wakeCtx_awake _ _ _

theorem State.wakeLine_watches (s : State) (ln : Nat) : (s.wakeLine ln).watches = s.watches.filter fun w => w.line != ln :=
  foldl_keeps State.watches State.wakeWatch State.wakeWatch_watches _ _

theorem State.wakeLine_awake {s : State} {w : Watch} (hw : w ∈ s.watches) (hhere : w.remote = none) :
    (s.wakeLine w.line).awake w.bench w.ctx :=
  State.wakeAll_awake (List.mem_filter.2 ⟨hw, beq_self_eq_true w.line⟩) hhere _

theorem State.makeDirty_watches (s : State) (ln : Nat) : (s.makeDirty ln).watches = s.watches := by
  unfold State.makeDirty
  split <;> rfl

/-- A store at home wakes its line in a state with the same watches. -/
theorem State.writeHomeAs_wakes (s : State) (die : Option (Fin 8)) (pa : Nat) (bs : List (Option Byte)) (clears : Nat → Bool)
    (direct : Bool) : ∃ u : State, s.writeHomeAs die pa bs clears direct = u.wakeLine (pa / 128) ∧ u.watches = s.watches := by
  refine ⟨_, rfl, ?_⟩
  have hpoison := foldl_keeps State.watches (fun (t : State) sec => if clears sec then t.setPoison sec false else t)
    (fun t sec => by split <;> rfl)
  have hfirst : (if direct then s.through pa bs clears else if s.cached (pa / 128) then s.makeDirty (pa / 128) else s).watches =
      s.watches := by
    split
    · rfl
    split
    · exact s.makeDirty_watches _
    · rfl
  cases die <;> exact (hpoison _ _).trans hfirst

theorem storeWakes_claim : Claims.StoreWakes := by
  intro s die pa bs w hw hhere hline
  obtain ⟨u, hu, hwatches⟩ := s.writeHomeAs_wakes die pa bs (coversSector pa bs) false
  have hawake : (u.wakeLine w.line).awake w.bench w.ctx := State.wakeLine_awake (hwatches ▸ hw) hhere
  rw [hline] at hawake
  rw [State.writeHome, hu]
  refine ⟨hawake.1, hawake.2, fun v hv => ?_⟩
  rw [State.wakeLine_watches] at hv
  simpa using (List.mem_filter.1 hv).2

/-- Settles O26: WATCH finds the home of its line, WAIT tests the wake-pending flag and the watch, and a store at home wakes every watcher of its
line, each of whom stays awake while the others are woken. -/
theorem watchResults : Obligations.WatchResults := ⟨watchResults_claim, storeWakes_claim⟩

/-! ### SEND and RECV (R37, R151, R152) -/

theorem exec_send_room {a : BitVec 5} {q : BitVec 2} {s : State} {v : W64} (hmain : s.cur.ctx = 0) (hv : s.gives 0 a v)
    (hroom : (s.here.queued q.toNat).length < 16) : exec (.send a q) s =
      .next (s.modHere fun x => { x with queues := vmod x.queues q.toNat fun l => l ++ [v] }).doneC := by
  change execSend a q s = _
  rw [execSend, State.mainOnly_main hmain, State.withSrc_val hv, if_pos hroom]

theorem exec_recv_pops {d : BitVec 4} {s : State} {e : W64} {rest : List W64} (hmain : s.cur.ctx = 0) (hq : s.here.flagq = e :: rest) :
    exec (.recv d) s = .next ((s.modHere fun x => { x with flagq := rest }).put d 0 e).doneC := by
  change execRecv d s = _
  rw [execRecv, State.mainOnly_main hmain, hq]

theorem exec_recv_waits {d : BitVec 4} {s : State} (hmain : s.cur.ctx = 0) (hq : s.here.flagq = []) :
    exec (.recv d) s = .next (s.waitC .queue 4) := by
  change execRecv d s = _
  rw [execRecv, State.mainOnly_main hmain, hq]

/-- Settles O27: SEND appends to the one queue that it names, RECV takes the head of the flag queue, and a tail may do neither. -/
theorem queueResults : Obligations.QueueResults := by
  refine ⟨fun a q s v hmain hv hroom => ⟨_, exec_send_room hmain hv hroom, s.onlyHere_modHere _, ?_, fun k => ?_⟩,
    fun d s e rest => exec_recv_pops, fun a q d s htail => ⟨State.mainOnly_tail htail _, State.mainOnly_tail htail _⟩,
    fun d s => exec_recv_waits, by decide +kernel⟩
  · rw [State.here_modHere]
  · rw [State.here_modHere]
    have heq : k.toNat = q.toNat ↔ k = q := ⟨BitVec.eq_of_toNat_eq, congrArg _⟩
    simp only [Bench.queued, vget_vmod _ _ _ _ _ k.isLt, heq]

end Sys2Proof.Machine
end

section
/-! Draining a store buffer leaves the turn as it was, by one lemma for each function on its way. -/

namespace Sys2Proof.Machine

theorem foldl_cur {α : Type} (s : State) (f : State → α → State) (l : List α) (hf : ∀ t a, (f t a).cur = t.cur) :
    (l.foldl f s).cur = s.cur := foldl_keeps State.cur f hf l s
local grind_pattern foldl_cur => l.foldl f s

local grind_pattern State.modDie_cur => s.modDie d f
local grind_pattern State.modBench_cur => s.modBench b f

theorem State.logErr_cur (s : State) (d : Fin 8) (sect kind ten : Nat) : (s.logErr d sect kind ten).cur = s.cur := rfl
local grind_pattern State.logErr_cur => s.logErr d sect kind ten

theorem State.touchL2_cur (s : State) (pa : Nat) (leaf : Leaf) (pri : BitVec 2) (lru : Bool) (ten : BitVec 6) :
    (s.touchL2 pa leaf pri lru ten).cur = s.cur := State.standing_cur (s.touchL2_standing pa leaf pri lru ten)
local grind_pattern State.touchL2_cur => s.touchL2 pa leaf pri lru ten

theorem State.passL2_cur (s : State) (pa : Nat) (leaf : Leaf) (ten : BitVec 6) : (s.passL2 pa leaf ten).cur = s.cur :=
  State.standing_cur (s.passL2_standing pa leaf ten)
local grind_pattern State.passL2_cur => s.passL2 pa leaf ten

theorem State.walkTenant_cur (s : State) (d : Fin 8) (ten : BitVec 6) (ent : Option TenEntry) (va : Nat) :
    (s.walkTenant d ten ent va).1.cur = s.cur := State.standing_cur (s.walkTenant_standing d ten ent va)
local grind_pattern State.walkTenant_cur => s.walkTenant d ten ent va

theorem State.send_cur {s : State} {dmod : BitVec 14} {ten : BitVec 6} {kind : Byte} {body : Body} {r}
    (h : s.send dmod ten kind body = some r) : r.1.cur = s.cur := State.standing_cur (s.send_standing dmod ten kind body h)
local grind_pattern State.send_cur => s.send dmod ten kind body, some r

/-! ### Writing at home -/

theorem State.wakeWatch_cur (s : State) (w : Watch) : (s.wakeWatch w).cur = s.cur := by
  grind -lia [State.wakeWatch, State.wakeCtx, State.sendWake, State.sendFlow]
local grind_pattern State.wakeWatch_cur => s.wakeWatch w

theorem State.wakeLine_cur (s : State) (ln : Nat) : (s.wakeLine ln).cur = s.cur := foldl_cur _ _ _ State.wakeWatch_cur
local grind_pattern State.wakeLine_cur => s.wakeLine ln

theorem State.makeDirty_cur (s : State) (ln : Nat) : (s.makeDirty ln).cur = s.cur := by grind -lia [State.makeDirty]
local grind_pattern State.makeDirty_cur => s.makeDirty ln

theorem State.writeHomeAs_cur (s : State) (die : Option (Fin 8)) (pa : Nat) (bs : List (Option Byte)) (clears : Nat → Bool)
    (direct : Bool) : (s.writeHomeAs die pa bs clears direct).cur = s.cur := by
  cases die <;> grind -lia [State.writeHomeAs, State.through, State.setPoison, State.resetSlot]
local grind_pattern State.writeHomeAs_cur => s.writeHomeAs die pa bs clears direct

theorem State.writeHome_cur (s : State) (die : Option (Fin 8)) (pa : Nat) (bs : List (Option Byte)) :
    (s.writeHome die pa bs).cur = s.cur := s.writeHomeAs_cur _ _ _ _ _
local grind_pattern State.writeHome_cur => s.writeHome die pa bs

theorem State.dirStore_cur {s t : State} {ln : Nat} {home : Nat × Nat} (h : s.dirStore ln home = some t) : t.cur = s.cur := by
  grind -lia [State.dirStore, State.setDir]
local grind_pattern State.dirStore_cur => s.dirStore ln home, some t

theorem State.writeSlot_cur (s : State) (slot o v : Nat) : (s.writeSlot slot o v).cur = s.cur := by
  grind -lia [State.writeSlot, State.writeWord]
local grind_pattern State.writeSlot_cur => s.writeSlot slot o v

theorem State.combine_cur {s t : State} {p : Node} (h : s.combine p = some t) : t.cur = s.cur := by
  grind -lia [State.combine]
local grind_pattern State.combine_cur => s.combine p, some t

/-! ### Writing to devices -/

theorem State.retnCheck_cur (s : State) (d : Fin 8) (n : Nat) (ctl : W64) (ten : BitVec 6) :
    (s.retnCheck d n ctl ten).1.cur = s.cur := by
  grind -lia [State.retnCheck]
local grind_pattern State.retnCheck_cur => s.retnCheck d n ctl ten

theorem State.retnSet_cur (s : State) (d : Fin 8) (n : Nat) (ctl : W64) (ten : BitVec 6) : (s.retnSet d n ctl ten).cur = s.cur := by
  have hcheck := s.retnCheck_cur d n ctl ten
  unfold State.retnSet
  split <;> next heq =>
    rw [heq] at hcheck
    exact hcheck
local grind_pattern State.retnSet_cur => s.retnSet d n ctl ten

theorem State.pageWrite_cur (s : State) (d : Fin 8) (o : Nat) (val : W64) (ten : BitVec 6) :
    (s.pageWrite d o val ten).cur = s.cur := by
  grind -lia [State.pageWrite, State.retnCtl, State.retnClear, State.fwinSet, State.plainWrite]
local grind_pattern State.pageWrite_cur => s.pageWrite d o val ten

theorem State.devWrite_cur (s : State) (pa n : Nat) (val : W64) (ten : BitVec 6) : (s.devWrite pa n val ten).cur = s.cur := by
  grind -lia [State.devWrite, State.mailWrite]
local grind_pattern State.devWrite_cur => s.devWrite pa n val ten

theorem State.devStore_cur (s : State) (pa : Nat) (bs : List (Option Byte)) (ten : BitVec 6) : (s.devStore pa bs ten).cur = s.cur :=
  foldl_cur _ _ _ fun _ _ => State.devWrite_cur _ _ _ _ _
local grind_pattern State.devStore_cur => s.devStore pa bs ten

theorem State.devWalks_cur (s : State) (pa : Nat) (bs : List (Option Byte)) (ten : BitVec 6) : (s.devWalks pa bs ten).cur = s.cur := by
  grind -lia [State.devWalks]
local grind_pattern State.devWalks_cur => s.devWalks pa bs ten

/-! ### Entries of a buffer -/

theorem State.answer_cur (s : State) (b : BenchId) (q : Buf) (e : StEntry) (val : Nat) (code : Byte) :
    (s.answer b q e val code).cur = s.cur := by
  cases q <;> grind -lia [State.answer, State.squash]
local grind_pattern State.answer_cur => s.answer b q e val code

theorem State.logPrep_cur (s : State) (p : Passed) (b : BenchId) : (s.logPrep p b).cur = s.cur := by
  grind -lia [State.logPrep, State.logPrepOf]
local grind_pattern State.logPrep_cur => s.logPrep p b

theorem State.owe_cur (s : State) (b : BenchId) (e : StEntry) : (s.owe b e).cur = s.cur := by grind -lia [State.owe]
local grind_pattern State.owe_cur => s.owe b e

theorem State.performAtomic_cur {s t : State} {b : BenchId} {q : Buf} {e : StEntry} {op : AtomOp} {v ex : W128}
    (h : s.performAtomic b q e op v ex = some t) : t.cur = s.cur := by
  grind -lia [State.performAtomic, State.poisonAtomic, State.holdHost]
local grind_pattern State.performAtomic_cur => s.performAtomic b q e op v ex, some t

theorem State.performStore_cur {s t : State} {b : BenchId} {e : StEntry} {clears : Nat → Bool}
    (h : s.performStore b e clears = some t) : t.cur = s.cur := by
  grind -lia [State.performStore]
local grind_pattern State.performStore_cur => s.performStore b e clears, some t

theorem State.performRedt_cur {s t : State} {b : BenchId} {q : Buf} {e : StEntry} {p : Node}
    (h : s.performRedt b q e p = some t) : t.cur = s.cur := by
  grind -lia [State.performRedt, Option.map_eq_some_iff]
local grind_pattern State.performRedt_cur => s.performRedt b q e p, some t

theorem State.performRemote_cur {s t : State} {b : BenchId} {q : Buf} {e : StEntry} {old : Bool}
    (h : s.performRemote b q e old = some t) : t.cur = s.cur := by
  grind -lia [State.performRemote, State.setLost]
local grind_pattern State.performRemote_cur => s.performRemote b q e old, some t

theorem State.performEntry_cur {s t : State} {b : BenchId} {q : Buf} {e : StEntry} {ys : List StEntry}
    (h : s.performEntry b q e ys = some t) : t.cur = s.cur := by
  grind -lia [State.performEntry]
local grind_pattern State.performEntry_cur => s.performEntry b q e ys, some t

theorem State.dropRelease_cur (s : State) (b : BenchId) (q : Buf) (e : StEntry) : (s.dropRelease b q e).cur = s.cur := by
  cases q <;> grind -lia [State.dropRelease]
local grind_pattern State.dropRelease_cur => s.dropRelease b q e

theorem State.publish_cur (s : State) (b : BenchId) (i : Nat) (sc : Scope) : (s.publish b i sc).cur = s.cur := by
  grind -lia [State.publish]
local grind_pattern State.publish_cur => s.publish b i sc

theorem State.performRun_cur {s t : State} {b : BenchId} {q : Buf} {force : Bool} (h : s.performRun b q force = some t) :
    t.cur = s.cur := by
  grind -lia [State.performRun]
local grind_pattern State.performRun_cur => s.performRun b q force, some t

theorem State.performDown_cur {s t : State} {b : BenchId} {q : Buf} {len k : Nat} (h : s.performDown b q len k = some t) :
    t.cur = s.cur := by
  induction k generalizing s with
  | zero => grind -lia [State.performDown]
  | succ k ih => grind -lia [State.performDown]
local grind_pattern State.performDown_cur => s.performDown b q len k, some t

theorem State.performGroup_cur {s t : State} {b : BenchId} {q : Buf} (h : s.performGroup b q = some t) : t.cur = s.cur := by
  grind -lia [State.performGroup]
local grind_pattern State.performGroup_cur => s.performGroup b q, some t

theorem State.performOrphan_cur {s t : State} {b : BenchId} {q : Buf} (h : s.performOrphan b q = some t) : t.cur = s.cur := by
  grind -lia [State.performOrphan]
local grind_pattern State.performOrphan_cur => s.performOrphan b q, some t

theorem State.performHead_cur {s t : State} {b : BenchId} {q : Buf} {force : Bool} (h : s.performHead b q force = some t) :
    t.cur = s.cur := by
  grind -lia [State.performHead]
local grind_pattern State.performHead_cur => s.performHead b q force, some t

theorem State.stuck_cur (s : State) (b : BenchId) (q : Buf) : (s.stuck b q).cur = s.cur := by grind -lia [State.stuck]
local grind_pattern State.stuck_cur => s.stuck b q

theorem State.drain_cur (s : State) (b : BenchId) (q : Buf) (force : Bool) (k : Nat) : (s.drain b q force k).cur = s.cur := by
  induction k generalizing s with
  | zero => rfl
  | succ k ih => grind -lia [State.drain]

theorem State.settleBuffer_cur (s : State) : s.settleBuffer.cur = s.cur := by
  rw [State.settleBuffer]
  split
  · rfl
  · rw [State.drainAll, State.stuck_cur, State.drain_cur]

end Sys2Proof.Machine
end

section
/-! O34: TLBI (R164, R189, R289). -/

namespace Sys2Proof.Machine

/-! ### What a TLBI drops (R164, R289) -/

theorem reach_iff {b i : BenchId} {kind : Nat} :
    reach b kind i = true ↔ (kind % 3 = 0 ∧ i = b) ∨ (kind % 3 = 1 ∧ dieOf i = dieOf b) ∨ kind % 3 = 2 := by
  have hlt : kind % 3 < 3 := Nat.mod_lt _ (by decide)
  unfold reach
  generalize kind % 3 = n at hlt ⊢
  interval_cases n <;> simp

section
variable (x : Bench) (hit : Leaf → Bool)

theorem Bench.dropLeaves_tlb : ∀ l ∈ (x.dropLeaves hit).tlb, hit l = false := by
  intro l hl
  simpa using (List.mem_filter.1 hl).2

theorem Bench.dropLeaves_feeds : ∀ f ∈ (x.dropLeaves hit).feeds.toList, ∀ l, f.trans = some l → hit l = false := by
  intro f hf l hl
  simp only [Bench.dropLeaves, Vector.mem_toList_iff, Vector.mem_ofFn] at hf
  obtain ⟨i, rfl⟩ := hf
  split at hl
  · split at hl
    · cases hl
    · next l' hl' hhit =>
      obtain rfl : l' = l := Option.some.inj (hl'.symm.trans hl)
      exact Bool.not_eq_true _ ▸ hhit
  · next hnone => cases hnone.symm.trans hl

end

section
variable (s : State) (b : BenchId) {kind : Nat} (hit : Leaf → Bool)

theorem State.tlbi_bench {i : BenchId} (h : reach b kind i = true) : (s.tlbi b kind hit).bench i = (s.bench i).dropLeaves hit := by
  unfold State.tlbi
  split
  · next h0 =>
    obtain ⟨-, rfl⟩ | ⟨h1, -⟩ | h2 := reach_iff.1 h
    · rw [State.bench_modBench, if_pos rfl]
    · omega
    · omega
  · simp only [State.bench, Fin.getElem_fin, Vector.getElem_ofFn, h, if_true]

theorem State.tlbi_die {d : Fin 8} (h : kind % 3 = 2 ∨ kind % 3 = 1 ∧ d = dieOf b) :
    ∀ l ∈ ((s.tlbi b kind hit).die d).tlb, hit l = false := by
  have hne : kind % 3 ≠ 0 := by omega
  have hshared : (kind % 3 == 2 || (kind % 3 == 1 && d == dieOf b)) = true := by simpa using h
  intro l hl
  simp only [State.tlbi, if_neg hne, State.die, Fin.getElem_fin, Vector.getElem_ofFn] at hl
  rw [if_pos hshared] at hl
  simpa using (List.mem_filter.1 hl).2

end

/-! ### The instruction -/

section
variable {a : BitVec 5} {kind : Byte} {s : State}

theorem exec_tlbi_prot (h : s.here.c.handler = none) : exec (.tlbi a kind) s = .next (s.raiseC cPROT 0) :=
  if_pos (Option.isNone_iff_eq_none.2 h)

theorem exec_tlbi_ill (h : s.here.c.handler ≠ none) (hkind : 6 ≤ kind.toNat) :
    exec (.tlbi a kind) s = .next (s.raiseC cILL 0) := by
  change execTlbi a kind s = _
  rw [execTlbi, if_neg (by simpa using h), if_pos hkind]

/-- TLBI goes on when no access of a bench uses what it drops. -/
theorem exec_tlbi_idle (h : s.here.c.handler ≠ none) (hkind : kind.toNat < 6) {va : W64} (hva : s.gives 0 a va)
    (hidle : ∀ b, (s.settleBuffer.bench b).usesLeaf (tlbiHits kind.toNat s.here.tenant va.toNat) = false) :
    exec (.tlbi a kind) s = .next
      (s.settleBuffer.tlbi s.cur.bench kind.toNat (tlbiHits kind.toNat s.here.tenant va.toNat)).doneC := by
  change execTlbi a kind s = _
  rw [execTlbi, if_neg (by simpa using h), if_neg (Nat.not_le.2 hkind), State.withSrc_val hva]
  have hhere : s.settleBuffer.here.usesLeaf (tlbiHits kind.toNat s.here.tenant va.toNat) = false := hidle _
  have hbusy : ((List.finRange 768).any fun i => reach s.cur.bench kind.toNat i &&
      (s.settleBuffer.bench i).usesLeaf (tlbiHits kind.toNat s.here.tenant va.toNat)) = false :=
    List.any_eq_false.2 fun i _ => by simp [hidle i]
  simp only [hhere, hbusy, ite_self, Bool.false_eq_true, if_false, State.settleBuffer_cur]

end

/-- Settles O34: outside handler state and beyond kind 5 TLBI raises its fault; in handler state it drops what it names wherever its kind
reaches, in the turn's bench and die, since draining the buffer leaves the turn as it was. -/
theorem tlbInvalidate : Obligations.TlbInvalidate := by
  intro a kind s va hva
  refine ⟨exec_tlbi_prot, exec_tlbi_ill, fun hhandler hkind hidle => ⟨_, exec_tlbi_idle hhandler hkind hva hidle, fun b hnamed => ?_,
    fun h1 => State.tlbi_die _ _ _ (.inr ⟨h1, rfl⟩), fun h2 _ => State.tlbi_die _ _ _ (.inl h2)⟩⟩
  have hreach : reach s.cur.bench kind.toNat b = true := by
    rw [reach_iff]
    have hlt : kind.toNat % 3 < 3 := Nat.mod_lt _ (by decide)
    obtain rfl | h1 | h2 := hnamed
    · have hcases : kind.toNat % 3 = 0 ∨ kind.toNat % 3 = 1 ∨ kind.toNat % 3 = 2 := by omega
      exact hcases.imp (⟨·, rfl⟩) (.imp_left (⟨·, rfl⟩))
    · exact .inr (.inl h1)
    · exact .inr (.inr h2)
  rw [State.tlbi_bench _ _ _ hreach]
  exact ⟨Bench.dropLeaves_tlb _ _, Bench.dropLeaves_feeds _ _⟩

end Sys2Proof.Machine
end

section
/-! O35: LAUNCH and LWAIT (R157 to R159, R187, R386, R391). -/

namespace Sys2Proof.Machine

/-! ### Acceptance (R158, R386, R391) -/

/-- A request at an L2 port changes neither a die nor a launch. -/
theorem State.portRun_keeps (s : State) (d : Fin 8) (slice n : Nat) :
    (s.portRun d slice n).dies = s.dies ∧ (s.portRun d slice n).hitches = s.hitches := by
  induction n generalizing s with
  | zero => exact ⟨rfl, rfl⟩
  | succ n ih =>
    rw [State.portRun]
    split
    · exact ⟨rfl, rfl⟩
    · exact ih _

theorem State.portTo_keeps (s : State) (d : Fin 8) (slice : Nat) :
    (s.portTo d slice).dies = s.dies ∧ (s.portTo d slice).hitches = s.hitches := by
  simp only [State.portTo]
  split
  · exact ⟨rfl, rfl⟩
  · exact s.portRun_keeps d slice _

theorem State.takeToken_keeps (s : State) (d : Fin 8) (slice : Nat) (ten : BitVec 6) :
    (s.takeToken d slice ten).dies = s.dies ∧ (s.takeToken d slice ten).hitches = s.hitches := by
  have hport : (s.portTo d slice).dies = s.dies ∧ (s.portTo d slice).hitches = s.hitches := s.portTo_keeps d slice
  rw [State.takeToken]
  split
  · exact hport
  split <;> exact hport

theorem State.passL2_keeps (s : State) (pa : Nat) (leaf : Leaf) (ten : BitVec 6) :
    (s.passL2 pa leaf ten).dies = s.dies ∧ (s.passL2 pa leaf ten).hitches = s.hitches := by
  unfold State.passL2
  split
  · exact ⟨rfl, rfl⟩
  extract_lets ln u
  have hu : u.dies = s.dies ∧ u.hitches = s.hitches := s.takeToken_keeps _ _ _
  split <;> exact hu

/-- A changed launch is in the list, or the launch itself. -/
theorem mem_replaceFirst_of_mem {α : Type} {p : α → Bool} {f : α → α} {l : List α} {x : α} (hx : x ∈ l) :
    x ∈ replaceFirst p f l ∨ f x ∈ replaceFirst p f l := by
  induction l with
  | nil => cases hx
  | cons y l ih =>
    unfold replaceFirst
    split
    · obtain rfl | hx := List.mem_cons.1 hx
      · exact .inr List.mem_cons_self
      · exact .inl (List.mem_cons_of_mem _ hx)
    · obtain rfl | hx := List.mem_cons.1 hx
      · exact .inl List.mem_cons_self
      · exact (ih hx).imp (List.mem_cons_of_mem _) (List.mem_cons_of_mem _)

/-- A queued launch of a tenant, with a sequence number, is known. -/
def State.holdsQueued (s : State) (n : W64) (ten : BitVec 6) : Prop := ∃ h ∈ s.hitches, h.seq = n ∧ h.state = .queued ∧ h.tenant = ten

theorem State.holdsQueued_of_append (s : State) {h : Hitch} (hq : h.state = .queued) :
    { s with hitches := s.hitches ++ [h] }.holdsQueued h.seq h.tenant :=
  ⟨h, List.mem_append_right _ List.mem_cons_self, rfl, hq, rfl⟩

theorem State.holdsQueued.readEntry {s : State} {n : W64} {ten : BitVec 6} (h : s.holdsQueued n ten) (d : Fin 8) (t : BitVec 6) :
    (s.readEntry d t).holdsQueued n ten := by
  obtain ⟨x, hx, hseq, hstate, hten⟩ := h
  refine ⟨if x.tenant = t ∧ x.die = d then { x with ent := s.tenEntry d t } else x, ?_, ?_⟩
  · have hsame : (s.readTable d t).hitches = s.hitches := (s.passL2_keeps _ _ _).2
    exact List.mem_map.2 ⟨x, hsame ▸ hx, rfl⟩
  · split <;> exact ⟨hseq, hstate, hten⟩

theorem State.holdsQueued.enqueue {s : State} {n : W64} {ten : BitVec 6} (h : s.holdsQueued n ten) (d : Fin 8) (k : Hitch) (head : Bool) :
    (s.enqueue d k head).holdsQueued n ten := by
  obtain ⟨x, hx, hseq, hstate, hten⟩ := h
  obtain hin | hin := mem_replaceFirst_of_mem (p := fun y => y.seq == k.seq) (f := fun y => { y with since := s.clk }) hx
  · exact ⟨x, hin, hseq, hstate, hten⟩
  · exact ⟨_, hin, hseq, hstate, hten⟩

theorem State.readEntry_die (s : State) (d e : Fin 8) (ten : BitVec 6) : (s.readEntry d ten).die e = s.die e :=
  congrArg (·[e]) (s.passL2_keeps _ _ _).1

theorem State.die_withHitches (s : State) (hs : List Hitch) (d : Fin 8) : { s with hitches := hs }.die d = s.die d := rfl

theorem State.enqueue_launches (s : State) (d : Fin 8) (h : Hitch) (head : Bool) :
    ((s.enqueue d h head).die d).launches = (s.die d).launches := by
  rw [State.enqueue, State.modHitch, State.die_withHitches, State.die_modDie, if_pos rfl]

/-- A record without a page table that is accepted gets the die's next sequence number, and its launch is queued. -/
theorem State.accept_ungrouped {s t : State} {w : Asker} {d : Fin 8} {ten : BitVec 6} {r : List W64} {n : W64}
    (h : s.accept w d ten r = (t, some n)) (htable : recWord r 7 = 0) (hn : n ≠ 0) :
    n = 0#13 ++ BitVec.ofNat 3 d.val ++ ((s.die d).launches + 1) ∧ (t.die d).launches = (s.die d).launches + 1 ∧
      t.holdsQueued n ten := by
  have hview : s.writeView w d ten (s.tenEntry d ten) (recWord r 7).toNat (recWord r 12).toNat = (s, .ok) := by
    rw [htable]
    rfl
  unfold State.accept at h
  simp only [hview] at h
  split at h
  · cases h
    exact absurd rfl hn
  split at h
  · cases h
  split at h
  · cases h
    exact absurd rfl hn
  cases h
  refine ⟨rfl, ?_, ?_⟩
  · rw [State.enqueue_launches, State.readEntry_die, State.die_withHitches, State.die_modDie, if_pos rfl]
  · exact ((State.holdsQueued_of_append _ rfl).readEntry _ _).enqueue _ _ _

/-! ### LAUNCH (R157, R182) -/

/-- A record that has room and is of the bench's tenant gets the dispatcher's answer. -/
theorem State.submit_answered {s z : State} {w : Asker} {r : List W64} {n : W64}
    (hroom : s.queueRoom (dieOf s.cur.bench) (runQueue (ctlPrio (recWord r 6)) (ctlTenant (recWord r 6))) = true)
    (hten : ctlTenant (recWord r 6) = s.here.tenant)
    (hacc : s.accept w (dieOf s.cur.bench) (ctlTenant (recWord r 6)) r = (z, some n)) (d : BitVec 4) (va : W64) :
    s.submit w d va r = .next ((z.dropAsks w).put d 0 n).doneC := by
  unfold State.submit
  rw [if_neg (by simpa using hroom), if_neg (by simpa using hten)]
  simp only [hacc]

section
variable {a : BitVec 5} {s : State} {va : W64} (hva : s.gives 0 a va) (d : BitVec 4)
include hva

/-- A LAUNCH whose record has not been read releases at .di, reads it and submits it. -/
theorem exec_launch_fresh {s1 t u : State} {q : Passed} {v : Nat} (hphase : s.myCtx.phase ≠ .launch)
    (hcheck : s.check s.cur.bench va.toNat 128 .read false false = (s1, .ok q)) (hrel : s1.releasesTo .di t)
    (hread : t.launchRecord (.of s.cur.bench .c s.cur.ctx) q = (u, .val v)) :
    exec (.launch d a) s = u.submit (.of s.cur.bench .c s.cur.ctx) d va (recordWords (leBytes 128 v)) := by
  change execLaunch d a s = _
  unfold execLaunch
  rw [State.withSrc_val hva]
  split
  · next h _ => exact absurd h hphase
  · simp only [hcheck]
    rw [State.released_yes hrel]
    simp only [hread]

/-- A LAUNCH whose acceptance had to wait submits the record that has been read. -/
theorem exec_launch_again {v : Nat} (hphase : s.myCtx.phase = .launch) (hread : s.readRecord (.of s.cur.bench .c s.cur.ctx) = some v) :
    exec (.launch d a) s = s.submit (.of s.cur.bench .c s.cur.ctx) d va (recordWords (leBytes 128 v)) := by
  change execLaunch d a s = _
  unfold execLaunch
  rw [State.withSrc_val hva]
  simp only [hphase, hread]

end

theorem launchResults_claim : Claims.LaunchResults := by
  intro d a s va s1 t u z q v n hva hhow htcur hucur w e r ten hroom hten hacc
  have hw : w = .of s.cur.bench .c s.cur.ctx := by rw [← htcur]
  have he : e = dieOf u.cur.bench := by rw [hucur]
  rw [he] at hroom hacc
  have hexec : exec (.launch d a) s = u.submit w d va r := by
    obtain ⟨hphase, hcheck, hrel, hread⟩ | ⟨hphase, hread, rfl, rfl⟩ := hhow
    · rw [hw]
      exact exec_launch_fresh hva d hphase hcheck hrel (htcur ▸ hread)
    · exact exec_launch_again hva d hphase hread
  refine ⟨hexec.trans (State.submit_answered hroom hten hacc d va), fun htable hn => ?_⟩
  rw [he]
  exact State.accept_ungrouped hacc htable hn

/-! ### The record in memory (R157, R187, R391) -/

/-- A byte of the low bytes of a line, from the place that the line is shifted by. -/
theorem leBytes_line (data : LineData) (o : Nat) {n k : Nat} (hk : k < n) :
    (leBytes n (data.toNat / 2 ^ (8 * o) % 2 ^ (8 * n)))[k]? = some (lineByte data (o + k)) := by
  rw [leBytes_getElem? _ _ _ hk, lineByte]
  refine congrArg some (BitVec.eq_of_getLsbD_eq fun i hi => ?_)
  have hpow : 256 ^ k = 2 ^ (8 * k) := by rw [Nat.pow_mul]
  rw [hpow, BitVec.getLsbD_ofNat, BitVec.getLsbD_extractLsb', Nat.testBit_div_two_pow, Nat.testBit_mod_two_pow, Nat.testBit_div_two_pow]
  have hlt : i + 8 * k < 8 * n := by omega
  have hplace : i + 8 * k + 8 * o = 8 * (o + k) + i := by omega
  simp [hi, hlt, hplace, BitVec.getLsbD]

theorem leBytes_line_eq_read {s : State} {pa n : Nat} (h : pa % 128 + n ≤ 128) :
    leBytes n ((s.line (pa / 128)).1.toNat / 2 ^ (8 * (pa % 128)) % 2 ^ (8 * n)) = Mem.read s.mem pa n := by
  refine List.ext_getElem? fun k => ?_
  by_cases hk : k < n
  · have hline : (pa + k) / 128 = pa / 128 := by omega
    have hplace : (pa + k) % 128 = pa % 128 + k := by omega
    rw [leBytes_line _ _ hk, Mem.read_getElem? _ _ _ _ hk, ← hplace, ← hline, lineByte_line]
  · rw [List.getElem?_eq_none (by rw [leBytes_length]; omega), List.getElem?_eq_none (by rw [Mem.read_length]; omega)]

theorem launchReads_claim : Claims.LaunchReads := by
  intro s w d e ten q n hreg hclose hrdc htr hpoison hline
  obtain ⟨t, ht⟩ := State.fetchFor_line hrdc htr hclose ten q.leaf (scopeWiden .mo q.leaf.scope) 1 (q.leaf.cache == 0)
  have hreleased : s.releasedRange q.pa = false := by rw [State.releasedRange, hreg]
  refine ⟨t, _, ?_, leBytes_line_eq_read hline, State.standing_mem (State.fetchFor_standing _ _ _ _ _ _ _ ht)⟩
  simp only [State.dispRead, hreg, hreleased, hclose, ht, bindsPoison_line hpoison, Bool.false_eq_true, if_false]

/-! ### LWAIT (R159) -/

theorem launchWaits_claim : Claims.LaunchWaits := by
  intro a s q hq
  have hexec : exec (.lwait a) s = if q != 0 && !s.issued q then .next (s.raiseC cPROT q)
      else if q = 0 || s.retired q then .next (s.acquireC .mo).doneC else .next (s.waitC .other 0) := State.withSrc_val hq _ _
  rw [hexec]
  refine ⟨?_, fun hne hnot => ?_, fun hne hissued hthere => ?_⟩
  · rintro (rfl | ⟨hissued, hgone⟩)
    · rfl
    · rw [hissued, if_neg (by simp), if_pos (by simp [State.retired, hgone])]
  · rw [hnot]
    exact if_pos (by simpa using hne)
  · rw [hissued, if_neg (by simp), if_neg (by simpa [State.retired, hthere] using hne)]

/-- Settles O35: LAUNCH submits the record that it reads or has read, an accepted one without a page table is numbered and queued; the record
is a part of the line that home holds; and LWAIT asks whether its number was issued and has retired. -/
theorem launchResults : Obligations.LaunchResults := ⟨launchResults_claim, launchReads_claim, launchWaits_claim⟩

end Sys2Proof.Machine
end

section
/-! SUPPORT. Teams that start, are saved and go on (R20, R183, R184, R394, R397): what of a bench each of these steps keeps. -/

namespace Sys2Proof.Machine

/-! ### What a save and a resume keep of a bench (R183, R184) -/

theorem Bench.sameTeam.rfl {x : Bench} : x.sameTeam x := by
  simp [Bench.sameTeam]

theorem Bench.sameTeam.trans {x y z : Bench} (hxy : x.sameTeam y) (hyz : y.sameTeam z) : x.sameTeam z := by
  unfold Bench.sameTeam at *
  grind

theorem Bench.sameTeam_land (x : Bench) (p : Nat → Stream → Bool) : x.sameTeam (x.land p) := by
  unfold Bench.land
  split
  · exact .rfl
  · simp [Bench.sameTeam, Bench.ctx]

theorem Bench.sameTeam_dropRanges (x : Bench) (st : Stream) : x.sameTeam (x.dropRanges st) := by
  simp [Bench.sameTeam, Bench.dropRanges, Bench.ctx]

theorem Ctx.unissue_keeps (k : Ctx) : k.unissue.pc = k.pc ∧ k.unissue.rq = k.rq ∧ k.unissue.w = k.w := by
  unfold Ctx.unissue
  split <;> exact ⟨rfl, rfl, rfl⟩

theorem Ctx.rest_keeps (k : Ctx) : k.rest.pc = k.pc ∧ k.rest.rq = k.rq ∧ k.rest.w = k.w := k.unissue_keeps

theorem Bench.sameTeam_turnOver (x : Bench) (now : Nat) : x.sameTeam (x.turnOver now) := by
  simp [Bench.sameTeam, Bench.turnOver, Bench.ctx, Bench.modC]

theorem Bench.sameTeam_toSave (x : Bench) (now : Nat) : x.sameTeam (x.toSave now) := by
  unfold Bench.toSave
  extract_lets eng keep x1 x2 x3
  have h1 : x.sameTeam x1 := ((((x.sameTeam_land _).trans (Bench.sameTeam_dropRanges _ _)).trans (Bench.sameTeam_dropRanges _ _)).trans
    (Bench.sameTeam_dropRanges _ _)).trans (Bench.sameTeam_dropRanges _ _)
  have h2 : x1.sameTeam x2 := by simp [Bench.sameTeam, Bench.ctx, x2]
  have h3 : x2.sameTeam x3 := by simp [Bench.sameTeam, Bench.ctx, x3, Bench.modC, Ctx.rest_keeps]
  exact ((h1.trans h2).trans h3).trans (x3.sameTeam_turnOver now)

theorem Bench.land_team (x : Bench) (p : Nat → Stream → Bool) : (x.land p).team = x.team := by
  unfold Bench.land
  split <;> rfl

theorem Bench.toSave_team (x : Bench) (now : Nat) : (x.toSave now).team = x.team := by
  simp [Bench.toSave, Bench.turnOver, Bench.dropRanges, Bench.land_team]

/-- A save keeps the scratchpad of a team that asked for it, with what was still to land. -/
theorem Bench.toSave_banks {x : Bench} {t : Team} (ht : x.team = some t) (hsave : t.save = true) (now : Nat) :
    (x.toSave now).banks = (x.land fun _ _ => true).banks := by
  simp [Bench.toSave, Bench.turnOver, Bench.dropRanges, Bench.land_team, ht, hsave]

theorem Bench.sameTeam_acquire (x : Bench) (sc : Scope) : x.sameTeam (x.acquire sc) := by
  have hbump (y : Bench) (k : Nat) : y.sameTeam (y.bumpClass k) := by simp [Bench.sameTeam, Bench.bumpClass, Bench.ctx]
  have hall : x.sameTeam ((scopeAcquires sc).foldl Bench.bumpClass x) :=
    List.foldlRecOn (motive := x.sameTeam) _ _ .rfl fun y hy k _ => hy.trans (hbump y k)
  unfold Bench.acquire
  split
  · exact hall
  · exact hall.trans (by simp [Bench.sameTeam, Bench.ctx])

theorem Bench.sameTeam_restore (x y : Bench) (prio : BitVec 2) (now : Nat) : y.sameTeam (x.restore y prio now) := by
  unfold Bench.restore
  extract_lets keep pl y1
  have h1 : y.sameTeam y1 := by simp [Bench.sameTeam, Bench.ctx, y1, pl]
  exact List.foldlRecOn (motive := y.sameTeam) _ _ (h1.trans (y1.sameTeam_turnOver now)) fun z hz _ _ => hz.trans (z.sameTeam_acquire .mo)

/-- An acquire touches no bank and no translation. -/
theorem Bench.acquire_keeps (x : Bench) (sc : Scope) :
    (x.acquire sc).team = x.team ∧ (x.acquire sc).banks = x.banks ∧ (x.acquire sc).tlb = x.tlb := by
  have h := foldl_keeps (fun y : Bench => (y.team, y.banks, y.tlb)) Bench.bumpClass (fun _ _ => rfl) (scopeAcquires sc) x
  simp only [Prod.mk.injEq] at h
  unfold Bench.acquire
  split <;> exact h

/-- A class counter that wraps takes lines from the L1 and never brings one in. -/
theorem Bench.acquire_empty {x : Bench} (hl1 : x.l1 = []) (hcc : x.cc = []) (sc : Scope) :
    (x.acquire sc).l1 = [] ∧ (x.acquire sc).cc = [] := by
  have hall : ((scopeAcquires sc).foldl Bench.bumpClass x).l1 = [] ∧ ((scopeAcquires sc).foldl Bench.bumpClass x).cc = [] :=
    List.foldlRecOn (motive := fun y : Bench => y.l1 = [] ∧ y.cc = []) _ _ ⟨hl1, hcc⟩ fun y hy k _ => by simp [Bench.bumpClass, hy]
  unfold Bench.acquire
  split
  · exact hall
  · exact ⟨hall.1, rfl⟩

/-- A resumed team begins with empty caches and an empty TLB (R184). -/
theorem Bench.restore_empty (x y : Bench) (prio : BitVec 2) (now : Nat) :
    (x.restore y prio now).l1 = [] ∧ (x.restore y prio now).cc = [] ∧ (x.restore y prio now).tlb = [] := by
  unfold Bench.restore
  refine List.foldlRecOn (motive := fun z : Bench => z.l1 = [] ∧ z.cc = [] ∧ z.tlb = []) _ _ ⟨rfl, rfl, rfl⟩ fun z hz _ _ => ?_
  obtain ⟨hl1, hcc, htlb⟩ := hz
  obtain ⟨hl1', hcc'⟩ := Bench.acquire_empty hl1 hcc .mo
  exact ⟨hl1', hcc', (z.acquire_keeps .mo).2.2.trans htlb⟩

/-- A resumed team has its launch's priority, and the banks it was saved with if it asked for that, or else those of its bench. -/
theorem Bench.restore_team {y : Bench} {t : Team} (ht : y.team = some t) (x : Bench) (prio : BitVec 2) (now : Nat) :
    (x.restore y prio now).team = some (t.withPrio prio) ∧
      (x.restore y prio now).banks = if t.save then y.banks else x.banks := by
  unfold Bench.restore
  refine List.foldlRecOn (motive := fun z : Bench => z.team = _ ∧ z.banks = _) _ _ ?_ fun z hz _ _ => ?_
  · simp [Bench.turnOver, ht]
  · obtain ⟨hteam, hbanks, -⟩ := z.acquire_keeps .mo
    exact ⟨hteam.trans hz.1, hbanks.trans hz.2⟩

/-! ### The stores of a bench and the duties of its releases are no part of its team -/

/-- A bench without its stores, and without what its releases must cover. -/
def Bench.bare (x : Bench) : Bench :=
  { (x.modC fun u => { u with sb := [] }) with
    sq := [], vq := [], fab := [], orphans := [], fabLost := [], duty := Vector.replicate 8 [] }

theorem Bench.sameTeam.of_bare {x y z : Bench} (hxy : x.sameTeam y) (h : z.bare = y.bare) : x.sameTeam z := by
  have hy : x.sameTeam y.bare := hxy
  exact (h ▸ hy : x.sameTeam z.bare)

theorem Bench.startsAs.of_bare {y z : Bench} {k : Hitch} {idx : Nat} {trap : W64} (hy : y.startsAs k idx trap) (h : z.bare = y.bare) :
    z.startsAs k idx trap := by
  have hy : y.bare.startsAs k idx trap := hy
  exact (h ▸ hy : z.bare.startsAs k idx trap)

theorem State.dutyAll_bare (s : State) (b c : BenchId) (i : Nat) (sc : Scope) : ((s.dutyAll b i sc).bench c).bare = (s.bench c).bare := by
  unfold State.dutyAll
  split
  · rfl
  · rw [State.bench_modBench]
    split
    · next h => rw [h]; rfl
    · rfl

theorem State.acquireTeam_bare (s : State) (b c : BenchId) : ((s.acquireTeam b).bench c).bare = (s.bench c).bare :=
  foldl_keeps (fun t : State => (t.bench c).bare) (fun t i => t.dutyAll b i .mo) (fun t i => t.dutyAll_bare b c i .mo) _ s

/-- What the dispatchers know: the launches, and the dies with their queues. -/
def State.dispatchers (s : State) : List Hitch × Vector Die 8 := (s.hitches, s.dies)

theorem State.acquireTeam_dispatchers (s : State) (b : BenchId) : (s.acquireTeam b).dispatchers = s.dispatchers :=
  foldl_keeps State.dispatchers (fun t i => t.dutyAll b i .mo) (fun t i => by unfold State.dutyAll; split <;> rfl) (upTo 8) s

/-! ### The start of a team (R20, R394) -/

theorem Bench.begin_startsAs (x : Bench) (h : Hitch) (idx : Nat) (trap : W64) (decl : List Byte) :
    (x.begin h idx trap decl).startsAs h idx trap := by
  refine ⟨rfl, rfl, rfl, rfl, rfl, rfl, rfl, rfl, rfl, rfl, rfl, rfl, ?_, ?_, ?_⟩
  · intro q hq
    simp [Bench.queued, vget, Bench.begin, Bench.freed, Bench.idle, hq]
  · intro n hn
    simp [vget, Bench.begin, Bench.freed, Bench.idle, hn]
  · intro k hk
    have hne : (0 : Nat) ≠ k := fun e => hk (Fin.ext e.symm)
    simp [Bench.ctx, Bench.begin, CUnit.start, Ctx.start, Vector.getElem_set_ne, hne]

/-! ### The teams of a placement, one after the other -/

/-- A property that one entry of a list brings about, and that no other entry undoes, holds after the whole list. -/
theorem foldl_at {α σ : Type} {f : σ → α → σ} {P : σ → Prop} {l : List α} {i : Nat} {a : α} (hi : l[i]? = some a)
    (hset : ∀ s, P (f s a)) (hkeep : ∀ s j a', j ≠ i → l[j]? = some a' → P s → P (f s a')) (s : σ) : P (l.foldl f s) := by
  obtain ⟨hlt, ha⟩ := List.getElem?_eq_some_iff.1 hi
  have hsplit : l = l.take i ++ a :: l.drop (i + 1) := by
    rw [← ha, ← List.drop_eq_getElem_cons hlt, List.take_append_drop]
  rw [hsplit, List.foldl_append, List.foldl_cons]
  refine List.foldlRecOn _ _ (hset _) fun t ht a' ha' => ?_
  obtain ⟨j, hj⟩ := List.mem_iff_getElem?.1 ha'
  rw [List.getElem?_drop] at hj
  exact hkeep t _ a' (by omega) hj ht

/-- One team of a placement starts. -/
def State.startOne (h : Hitch) (trap : W64) (decl : List Byte) (s : State) (p : Option BenchId × Nat) : State :=
  match p.1 with
  | some b => if h.record.preds.isEmpty then s.modBench b fun x => x.begin h p.2 trap decl
      else (s.modBench b fun x => x.begin h p.2 trap decl).acquireTeam b
  | none => s

/-- The trap vector that a team of a launch starts with (R178, R402). -/
def State.trapOf (s : State) (h : Hitch) : W64 := ((s.tenEntry h.die h.tenant).map TenEntry.trape).getD 0

theorem State.startTeams_eq (s : State) (h : Hitch) (place : List (Option BenchId)) :
    s.startTeams h place = place.zipIdx.foldl (State.startOne h (s.trapOf h) s.cur.bring.bytes) s := by
  unfold State.startTeams State.trapOf
  refine congrArg (fun f => place.zipIdx.foldl f s) (funext₂ fun t p => ?_)
  generalize s.tenEntry h.die h.tenant = e
  obtain ⟨_ | b, i⟩ := p <;> cases e <;> rfl

/-- One team of a placement goes on. -/
def State.restoreOne (h : Hitch) (s : State) (p : Option BenchId × Option Bench) : State :=
  match p with
  | (some b, some y) => (s.modBench b fun x => x.restore y h.prio s.clk).acquireTeam b
  | _ => s

theorem State.restoreTeams_bench (s : State) (h : Hitch) (place : List (Option BenchId)) (b : BenchId) :
    (s.restoreTeams h place).bench b = ((place.zip h.saved).foldl (State.restoreOne h) s).bench b := rfl

theorem State.startOne_dispatchers (h : Hitch) (trap : W64) (decl : List Byte) (s : State) (p : Option BenchId × Nat) :
    (State.startOne h trap decl s p).dispatchers = s.dispatchers := by
  unfold State.startOne
  split
  · split
    · rfl
    · exact State.acquireTeam_dispatchers _ _
  · rfl

theorem State.startTeams_dispatchers (s : State) (h : Hitch) (place : List (Option BenchId)) :
    (s.startTeams h place).dispatchers = s.dispatchers := by
  rw [State.startTeams_eq]
  exact foldl_keeps State.dispatchers _ (State.startOne_dispatchers h _ _) _ s

theorem State.restoreOne_dispatchers (h : Hitch) (s : State) (p : Option BenchId × Option Bench) :
    (State.restoreOne h s p).dispatchers = s.dispatchers := by
  unfold State.restoreOne
  split
  · exact State.acquireTeam_dispatchers _ _
  · rfl

theorem State.restoreTeams_dispatchers (s : State) (h : Hitch) (place : List (Option BenchId)) :
    (s.restoreTeams h place).dispatchers = s.dispatchers := by
  have hteams : (s.restoreTeams h place).dispatchers = ((place.zip h.saved).foldl (State.restoreOne h) s).dispatchers := rfl
  rw [hteams]
  exact foldl_keeps State.dispatchers _ (State.restoreOne_dispatchers h) _ s

theorem State.startOne_bench_ne {h : Hitch} {trap : W64} {decl : List Byte} {s : State} {p : Option BenchId × Nat} {b : BenchId}
    (hne : p.1 ≠ some b) : ((State.startOne h trap decl s p).bench b).bare = (s.bench b).bare := by
  unfold State.startOne
  split
  · next c hc =>
    have hbc : b ≠ c := fun e => hne (e ▸ hc)
    split
    · rw [State.bench_modBench, if_neg hbc]
    · rw [State.acquireTeam_bare, State.bench_modBench, if_neg hbc]
  · rfl

theorem State.startOne_startsAs (h : Hitch) (trap : W64) (decl : List Byte) (s : State) (b : BenchId) (i : Nat) :
    ((State.startOne h trap decl s (some b, i)).bench b).startsAs h i trap := by
  have hbegin : ((s.modBench b fun x => x.begin h i trap decl).bench b).startsAs h i trap := by
    rw [State.bench_modBench, if_pos rfl]
    exact Bench.begin_startsAs _ _ _ _ _
  show ((if h.record.preds.isEmpty then _ else State.acquireTeam _ b).bench b).startsAs h i trap
  split
  · exact hbegin
  · exact hbegin.of_bare (State.acquireTeam_bare _ b b)

theorem State.restoreOne_bench_ne {h : Hitch} {s : State} {p : Option BenchId × Option Bench} {b : BenchId}
    (hne : p.1 ≠ some b) : ((State.restoreOne h s p).bench b).bare = (s.bench b).bare := by
  unfold State.restoreOne
  split
  · next c y =>
    have hbc : b ≠ c := fun e => hne (congrArg some e.symm)
    rw [State.acquireTeam_bare, State.bench_modBench, if_neg hbc]
  · rfl

theorem State.restoreOne_sameTeam (h : Hitch) (s : State) (b : BenchId) (y : Bench) :
    y.sameTeam ((State.restoreOne h s (some b, some y)).bench b) := by
  refine Bench.sameTeam.of_bare ?_ (State.acquireTeam_bare _ b b)
  rw [State.bench_modBench, if_pos rfl]
  exact Bench.sameTeam_restore _ _ _ _

section
variable {h : Hitch} {place : List (Option BenchId)} {i : Nat} {b : BenchId} (hi : place[i]? = some (some b))
  (honly : ∀ j, j ≠ i → place[j]? ≠ some (some b)) (s : State)
include hi honly

/-- A bench that one team of a placement takes starts as that team (R394). -/
theorem State.startTeams_startsAs : ((s.startTeams h place).bench b).startsAs h i (s.trapOf h) := by
  rw [State.startTeams_eq]
  refine foldl_at (P := fun t : State => (t.bench b).startsAs h i _) (i := i) (a := (some b, i)) (by simp [hi])
    (fun t => State.startOne_startsAs _ _ _ t b i) (fun t j p hj hp ht => ?_) s
  have hplace : place[j]? = some p.1 := by
    rw [List.getElem?_zipIdx, Option.map_eq_some_iff] at hp
    obtain ⟨q, hq, rfl⟩ := hp
    exact hq
  have hne : p.1 ≠ some b := fun e => honly j hj (hplace.trans (congrArg some e))
  exact ht.of_bare (State.startOne_bench_ne hne)

/-- A bench that one saved team of a placement takes goes on as that team (R184, R397). -/
theorem State.restoreTeams_sameTeam {y : Bench} (hy : h.saved[i]? = some (some y)) :
    y.sameTeam ((s.restoreTeams h place).bench b) := by
  rw [State.restoreTeams_bench]
  refine foldl_at (P := fun t : State => y.sameTeam (t.bench b)) (i := i) (a := (some b, some y))
    (List.getElem?_zip_eq_some.2 ⟨hi, hy⟩)
    (fun t => State.restoreOne_sameTeam h t b y) (fun t j p hj hp ht => ?_) s
  have hne : p.1 ≠ some b := fun e => honly j hj ((List.getElem?_zip_eq_some.1 hp).1.trans (congrArg some e))
  exact ht.of_bare (State.restoreOne_bench_ne hne)

end

end Sys2Proof.Machine
end

section
/-! SUPPORT. The list of launches (R386, R387, R404): how a launch is found, changed and retired, and what leaves the list as it is. -/

namespace Sys2Proof.Machine

/-! ### Finding and changing a launch -/

theorem firstWhere_replaceFirst {α : Type} {p : α → Bool} {f : α → α} (hp : ∀ x, p x = true → p (f x) = true) (l : List α) :
    firstWhere p (replaceFirst p f l) = (firstWhere p l).map f := by
  induction l with
  | nil => rfl
  | cons x l ih =>
    rw [replaceFirst, firstWhere]
    split
    · next h => rw [firstWhere, if_pos (hp x h), Option.map_some]
    · next h => rw [firstWhere, if_neg h, ih]

theorem State.hitch_seq {s : State} {q : W64} {h : Hitch} (hq : s.hitch q = some h) : h.seq = q :=
  eq_of_beq (firstWhere_spec (p := fun g : Hitch => g.seq == q) hq)

/-- A launch is found again under its own number. -/
theorem State.hitch_self {s : State} {q : W64} {h : Hitch} (hq : s.hitch q = some h) : s.hitch h.seq = some h :=
  State.hitch_seq hq ▸ hq

theorem State.hitch_eq_none {s : State} {q : W64} : s.hitch q = none ↔ ∀ h ∈ s.hitches, h.seq ≠ q := by
  simp [State.hitch, firstWhere_eq_none]

theorem State.hitch_modHitch (s : State) (q : W64) {f : Hitch → Hitch} (hf : ∀ h, h.seq = q → (f h).seq = q) :
    (s.modHitch q f).hitch q = (s.hitch q).map f :=
  firstWhere_replaceFirst (p := fun h : Hitch => h.seq == q) (fun h hq => beq_iff_eq.2 (hf h (beq_iff_eq.1 hq))) _

theorem State.hitch_readEntry (s : State) (d : Fin 8) (ten : BitVec 6) (q : W64) : (s.readEntry d ten).hitch q =
    (s.hitch q).map fun h => if h.tenant = ten ∧ h.die = d then { h with ent := s.tenEntry d ten } else h := by
  have hsame : (s.readTable d ten).hitches = s.hitches := (s.passL2_keeps _ _ _).2
  rw [State.hitch, State.hitch, ← hsame]
  exact firstWhere_map (fun h => by split <;> rfl) _

theorem State.readEntry_mem (s : State) (d : Fin 8) (ten : BitVec 6) : (s.readEntry d ten).mem = s.mem :=
  State.standing_mem (s.passL2_standing _ _ _)

/-- A tenant's entry depends on memory and on where the die's table stands (R402). -/
theorem State.tenEntry_congr {s t : State} {d : Fin 8} (hmem : t.mem = s.mem) (hbase : (t.die d).ttbase = (s.die d).ttbase)
    (ten : BitVec 6) : t.tenEntry d ten = s.tenEntry d ten := by
  unfold State.tenEntry State.tenAddr
  rw [hmem, hbase]

/-! ### The launch that a die chooses (R387, R392) -/

theorem State.firstEligible_known {s : State} {l : List W64} {h : Hitch} (hl : s.firstEligible l = some h) :
    s.hitch h.seq = some h := by
  induction l with
  | nil => cases hl
  | cons q qs ih =>
    rw [State.firstEligible] at hl
    split at hl
    · next g hg =>
      split at hl
      · cases hl
        exact State.hitch_self hg
      · exact ih hl
    · exact ih hl

theorem State.pick_known {s : State} {d : Fin 8} {l : List Nat} {q : Nat} {h : Hitch}
    (hl : State.choose.pick s d l = some (q, h)) : s.hitch h.seq = some h := by
  induction l with
  | nil => cases hl
  | cons k ks ih =>
    rw [State.choose.pick] at hl
    split at hl
    · next g hg =>
      cases hl
      exact State.firstEligible_known hg
    · exact ih hl

theorem State.candidate_known {s : State} {d : Fin 8} {q : Nat} {h : Hitch} (hc : s.candidate d = some (q, h)) :
    s.hitch h.seq = some h := by
  have hchoose (k : Nat) (g : Hitch) (hg : s.choose d = some (k, g)) : s.hitch g.seq = some g := State.pick_known hg
  have hwait (g : Hitch) (hg : firstWhere s.eligible ((s.die d).waiting.filterMap fun q => s.hitch q) = some g) :
      s.hitch g.seq = some g := by
    obtain ⟨k, -, hk⟩ := List.mem_filterMap.1 (firstWhere_mem hg)
    exact State.hitch_self hk
  unfold State.candidate at hc
  extract_lets waits at hc
  split at hc
  · next g k e hg he =>
    split at hc <;> cases hc
    · exact hchoose _ _ he
    · exact hwait _ hg
  · next g hg _ =>
    cases hc
    exact hwait _ hg
  · exact hchoose _ _ hc

/-! ### What leaves the launches as they are

An access at an L2 slice and a write at home change no launch, and neither who has been killed or cancelled. -/

/-- The launches and the ends of launches, by the fields that they depend on. -/
def rollOf (hs : List Hitch) (gone : List W64) : List Hitch × List W64 := (hs, gone)

/-- The launches that have not retired, and those that were killed or cancelled. -/
def State.roll (s : State) : List Hitch × List W64 := rollOf s.hitches s.gone

theorem State.roll_def (s : State) : s.roll = rollOf s.hitches s.gone := rfl

theorem State.roll_eq {s t : State} (h : t.roll = s.roll) : t.hitches = s.hitches ∧ t.gone = s.gone := Prod.mk.inj h

theorem State.portRun_roll (s : State) (d : Fin 8) (slice n : Nat) : (s.portRun d slice n).roll = s.roll := by
  induction n generalizing s with
  | zero => rfl
  | succ n ih =>
    rw [State.portRun]
    split
    · rfl
    · exact ih _

theorem State.takeToken_roll (s : State) (d : Fin 8) (slice : Nat) (ten : BitVec 6) : (s.takeToken d slice ten).roll = s.roll := by
  have hport : (s.portTo d slice).roll = s.roll := by
    unfold State.portTo
    extract_lets mine
    split
    · rfl
    · exact s.portRun_roll d slice _
  rw [← hport]
  unfold State.takeToken
  extract_lets t mine take
  split
  · rfl
  · split <;> rfl

theorem State.passL2_roll (s : State) (pa : Nat) (leaf : Leaf) (ten : BitVec 6) : (s.passL2 pa leaf ten).roll = s.roll := by
  unfold State.passL2
  split
  · rfl
  · extract_lets ln t
    have ht : t.roll = s.roll := s.takeToken_roll _ _ _
    split <;> exact ht

theorem State.evictL2_roll (s : State) (v : L2Line) (ten : BitVec 6) : (s.evictL2 v ten).roll = s.roll := by
  grind -lia [State.evictL2, State.dropSharers, State.touchChan, State.writeBack, State.roll_def]

theorem State.touchL2_roll (s : State) (pa : Nat) (leaf : Leaf) (pri : BitVec 2) (lru : Bool) (ten : BitVec 6) :
    (s.touchL2 pa leaf pri lru ten).roll = s.roll := by
  grind -lia [State.touchL2, State.takeToken_roll, State.evictL2_roll, State.touchChan, State.roll_def]

theorem State.wakeWatch_roll (s : State) (w : Watch) : (s.wakeWatch w).roll = s.roll := by
  unfold State.wakeWatch
  split
  · rfl
  · unfold State.sendWake
    split <;> rfl

theorem State.writeHomeAs_roll (s : State) (die : Option (Fin 8)) (pa : Nat) (bs : List (Option Byte)) (clears : Nat → Bool)
    (direct : Bool) : (s.writeHomeAs die pa bs clears direct).roll = s.roll := by
  have hdirty (t : State) (ln : Nat) : (t.makeDirty ln).roll = t.roll := by
    unfold State.makeDirty
    split <;> rfl
  have hwake (t : State) (ln : Nat) : (t.wakeLine ln).roll = t.roll := foldl_keeps State.roll State.wakeWatch State.wakeWatch_roll _ _
  have hclear (t : State) (l : List Nat) :
      (l.foldl (fun (t : State) sec => if clears sec then t.setPoison sec false else t) t).roll = t.roll :=
    foldl_keeps State.roll _ (fun t sec => by split <;> rfl) l t
  unfold State.writeHomeAs
  extract_lets ln s1 s2 s3 patch s4
  have h1 : s1.roll = s.roll := by
    unfold s1
    split
    · rfl
    · split
      · exact hdirty s ln
      · rfl
  have h3 : s3.roll = s1.roll := hclear s2 _
  have h4 : s4.roll = s3.roll := by
    unfold s4
    split <;> rfl
  rw [hwake, ← h1, ← h3, ← h4]
  rfl

theorem State.dirStore_roll {s t : State} {ln : Nat} {home : Nat × Nat} (h : s.dirStore ln home = some t) : t.roll = s.roll := by
  unfold State.dirStore at h
  repeat' split at h
  all_goals cases h
  all_goals rfl

theorem State.storeHome_roll {s t : State} {die : Fin 8} {ten : BitVec 6} {leaf : Leaf} {pa : Nat} {bs : List Byte}
    (h : s.storeHome die ten leaf pa bs = some t) : t.roll = s.roll := by
  unfold State.storeHome at h
  split at h
  · cases h
    rfl
  · split at h
    · cases h
    · cases hu : s.dirStore (pa / 128) (s.homeOf leaf (pa / 128)) with
      | none => simp only [hu, reduceCtorEq] at h
      | some u =>
        simp only [hu, Option.some.injEq] at h
        rw [← h, State.writeHomeAs_roll, ← State.dirStore_roll hu]
        split
        · exact u.touchL2_roll _ _ _ _ _
        · exact u.passL2_roll _ _ _

theorem State.settleDisp_roll (s : State) (k : Nat) : (s.settleDisp k).roll = s.roll := by
  induction k generalizing s with
  | zero => rfl
  | succ k ih =>
    rw [State.settleDisp]
    split
    · next t ht =>
      unfold State.performDisp at ht
      split at ht
      · cases ht
      · split at ht
        · cases ht
        · have hstore := State.storeHome_roll ht
          exact (ih t).trans hstore
    · rfl

/-- A report writes into the tenant's ring, and changes no launch (R405). -/
theorem State.report_roll (s : State) (h : Hitch) (what : Nat) (k : KillCause) : (s.report h what k).roll = s.roll := by
  unfold State.report
  split
  · rfl
  · exact State.settleDisp_roll _ _

/-! ### A launch that has been killed (R392, R404) -/

/-- A launch has ended by a kill or a cancellation. -/
def State.over (s : State) (q : W64) : Prop := (∀ h ∈ s.hitches, h.seq ≠ q) ∧ q ∈ s.gone

theorem State.over_of_roll {s t : State} {q : W64} (h : t.roll = s.roll) (hs : s.over q) : t.over q := by
  obtain ⟨hhitches, hgone⟩ := State.roll_eq h
  rw [State.over, hhitches, hgone]
  exact hs

/-- Cancelling others brings no launch back. -/
theorem State.over.cancelDoomed {s : State} {q : W64} (hs : s.over q) (k : Nat) : (s.cancelDoomed k).over q := by
  induction k generalizing s with
  | zero => exact hs
  | succ k ih =>
    rw [State.cancelDoomed]
    split
    · exact hs
    · next h _ =>
      refine ih (State.over_of_roll (State.report_roll _ _ _ _) ⟨fun g hg => ?_, List.mem_cons_of_mem _ hs.2⟩)
      exact hs.1 g (List.mem_of_mem_filter hg)

theorem State.endHitch_over (s : State) (h : Hitch) : (s.endHitch h true).over h.seq := by
  refine State.over.cancelDoomed (State.over_of_roll (State.report_roll _ _ _ _) ⟨fun g hg => ?_, List.mem_cons_self⟩) _
  simpa using (List.mem_filter.1 hg).2

/-- A killed launch without a team is retired at once (R404). -/
theorem State.kill_over {s : State} {q : W64} {h : Hitch} (hq : s.hitch q = some h) (hstate : h.state ≠ .dying)
    (hbenches : h.benches = []) (k : KillCause) : (s.kill q k).over q := by
  have hdying : (h.state == .dying) = false := beq_false_of_ne hstate
  have hfound : (((s.unqueue q).modHitch q fun x => { x with state := .dying, why := k, saved := [] }).leaveBarriers q).hitch q =
      some { h with state := .dying, why := k, saved := [] } :=
    (State.hitch_modHitch (s.unqueue q) q (f := fun x => { x with state := .dying, why := k, saved := [] }) fun _ hx => hx).trans
      (congrArg (Option.map _) hq)
  have hnone : ({ h with state := .dying, why := k, saved := [] } : Hitch).benches = [] := hbenches
  have hseq : h.seq = q := State.hitch_seq hq
  simp only [State.kill, hq, hdying, Bool.false_eq_true, if_false, hbenches, List.foldl_nil, State.finishKill, hfound, hnone,
    List.all_nil, Bool.and_true, beq_self_eq_true, if_true]
  exact hseq ▸ State.endHitch_over _ _

end Sys2Proof.Machine
end

section
/-! O54: the dispatcher (R182 to R184, R387, R388, R392 to R397, R404, R423). -/

namespace Sys2Proof.Machine

/-! ### A launch that is placed (R392, R394, R397, R423) -/

/-- A launch leaves its queue and the waiting list of its die, and the dispatcher reads its tenant's entry. -/
def State.leaveQueue (s : State) (q : Nat) (h : Hitch) : State :=
  ((s.unqueue h.seq).modDie h.die fun d =>
    { d with rr := vset d.rr (q / 16) (BitVec.ofNat 4 (q % 16 + 1)), waiting := d.waiting.filter fun x => x != h.seq }).readEntry h.die h.tenant

/-- The teams of a launch take their benches. -/
def State.placeTeams (s : State) (h : Hitch) (place : List (Option BenchId)) : State :=
  if h.state == .saved then s.restoreTeams h place else s.startTeams h place

/-- A launch runs on the benches of a placement. -/
def Hitch.run (order : Nat) (place : List (Option BenchId)) (shape : List BenchId) (x : Hitch) : Hitch :=
  { x with state := .running, placedAt := order, place := place, shape := shape, saved := [], fwds := [], area := [] }

/-- How a launch is placed that neither waits nor binds POISON. -/
theorem State.placeHitch_placed {s : State} {h : Hitch} (hwait : s.placeWaits h = false) (hpoison : s.slotPoison h = false) (q : Nat)
    (place : List (Option BenchId)) (shape : List BenchId) : ∃ order, s.placeHitch q h place shape =
      ((s.leaveQueue q h).placeTeams h place).modHitch h.seq (Hitch.run order place shape) := by
  refine ⟨((s.leaveQueue q h).placeTeams h place).hitches.foldl (fun m x => max m (x.placedAt + 1)) 0, ?_⟩
  rw [State.placeHitch, hwait, hpoison]
  rfl

theorem State.unqueue_queues (s : State) (q : W64) (d : Fin 8) (k : Fin 64) : q ∉ ((s.unqueue q).die d).queues[k] := by
  simp [State.unqueue, State.die]

theorem State.leaveQueue_queues (s : State) (q : Nat) (h : Hitch) (d : Fin 8) (k : Fin 64) :
    h.seq ∉ ((s.leaveQueue q h).die d).queues[k] := by
  rw [State.leaveQueue, State.readEntry_die, State.die_modDie]
  split <;> exact State.unqueue_queues s _ _ _

theorem State.leaveQueue_waiting (s : State) (q : Nat) (h : Hitch) : h.seq ∉ ((s.leaveQueue q h).die h.die).waiting := by
  simp [State.leaveQueue, State.readEntry_die]

theorem State.leaveQueue_trapOf (s : State) (q : Nat) (h : Hitch) : (s.leaveQueue q h).trapOf h = s.trapOf h := by
  have hmem : (s.leaveQueue q h).mem = s.mem := State.readEntry_mem _ _ _
  have hbase : ((s.leaveQueue q h).die h.die).ttbase = (s.die h.die).ttbase := by
    rw [State.leaveQueue, State.readEntry_die, State.die_modDie, if_pos rfl]
    simp [State.unqueue, State.die]
  rw [State.trapOf, State.trapOf, State.tenEntry_congr hmem hbase]

/-- The dispatcher still knows the launch. -/
theorem State.leaveQueue_hitch {s : State} {h : Hitch} (hh : s.hitch h.seq = some h) (q : Nat) :
    ∃ g, (s.leaveQueue q h).hitch h.seq = some g :=
  ⟨_, (State.hitch_readEntry _ _ _ _).trans (congrArg (Option.map _) hh)⟩

theorem State.placeTeams_dispatchers (s : State) (h : Hitch) (place : List (Option BenchId)) :
    (s.placeTeams h place).dispatchers = s.dispatchers := by
  unfold State.placeTeams
  split
  · exact s.restoreTeams_dispatchers h place
  · exact s.startTeams_dispatchers h place

section
variable {s : State} {h : Hitch} (hwait : s.placeWaits h = false) (hpoison : s.slotPoison h = false) (q : Nat)
  (place : List (Option BenchId)) (shape : List BenchId)
include hwait hpoison

/-- A placed launch runs. -/
theorem State.placeHitch_runs (hh : s.hitch h.seq = some h) : ∃ g, (s.placeHitch q h place shape).hitch h.seq = some g ∧
    g.state = .running ∧ g.place = place ∧ g.shape = shape ∧ g.saved = [] := by
  obtain ⟨order, ht⟩ := State.placeHitch_placed hwait hpoison q place shape
  obtain ⟨g, hg⟩ := State.leaveQueue_hitch hh q
  refine ⟨g.run order place shape, ?_, rfl, rfl, rfl, rfl⟩
  have hteams : ((s.leaveQueue q h).placeTeams h place).hitches = (s.leaveQueue q h).hitches :=
    congrArg Prod.fst (State.placeTeams_dispatchers _ _ _)
  rw [ht, State.hitch_modHitch (f := Hitch.run order place shape) _ _ fun _ hx => hx, State.hitch, hteams]
  exact congrArg (Option.map _) hg

/-- A placed launch has left its queue and the waiting list of its die. -/
theorem State.placeHitch_left : (∀ (d : Fin 8) (k : Fin 64), h.seq ∉ ((s.placeHitch q h place shape).die d).queues[k]) ∧
    h.seq ∉ ((s.placeHitch q h place shape).die h.die).waiting := by
  obtain ⟨order, ht⟩ := State.placeHitch_placed hwait hpoison q place shape
  have hdie (d : Fin 8) : (s.placeHitch q h place shape).die d = (s.leaveQueue q h).die d := by
    rw [ht]
    exact congrArg (fun p => p.2[d]) (State.placeTeams_dispatchers _ _ _)
  simp only [hdie]
  exact ⟨s.leaveQueue_queues q h, s.leaveQueue_waiting q h⟩

theorem State.placeHitch_bench (b : BenchId) :
    (s.placeHitch q h place shape).bench b = ((s.leaveQueue q h).placeTeams h place).bench b := by
  obtain ⟨order, ht⟩ := State.placeHitch_placed hwait hpoison q place shape
  rw [ht]
  rfl

variable {i : Nat} {b : BenchId} (hi : place[i]? = some (some b)) (honly : ∀ j, j ≠ i → place[j]? ≠ some (some b))
include hi honly

theorem State.placeHitch_starts (hstate : h.state = .queued) :
    ((s.placeHitch q h place shape).bench b).startsAs h i (s.trapOf h) := by
  have hnew : (s.leaveQueue q h).placeTeams h place = (s.leaveQueue q h).startTeams h place := by rw [State.placeTeams, hstate]; rfl
  rw [State.placeHitch_bench hwait hpoison, hnew, ← s.leaveQueue_trapOf q h]
  exact State.startTeams_startsAs hi honly _

theorem State.placeHitch_resumes (hstate : h.state = .saved) {y : Bench} (hy : h.saved[i]? = some (some y)) :
    y.sameTeam ((s.placeHitch q h place shape).bench b) := by
  have hold : (s.leaveQueue q h).placeTeams h place = (s.leaveQueue q h).restoreTeams h place := by rw [State.placeTeams, hstate]; rfl
  rw [State.placeHitch_bench hwait hpoison, hold]
  exact State.restoreTeams_sameTeam hi honly _ hy

end

/-! ### Making room (R387) -/

theorem mem_insertVictim {h v : Hitch} {l : List Hitch} : v ∈ insertVictim h l ↔ v = h ∨ v ∈ l := by
  induction l with
  | nil => simp [insertVictim]
  | cons x xs ih =>
    rw [insertVictim]
    split
    · simp
    · simp only [List.mem_cons, ih, or_left_comm]

theorem mem_foldl_insertVictim {v : Hitch} {l : List Hitch} (hv : v ∈ l.foldl (fun l x => insertVictim x l) []) : v ∈ l := by
  refine List.foldlRecOn (motive := fun m => v ∈ m → v ∈ l) l _ (fun h => by cases h) (fun m ih x hx hm => ?_) hv
  obtain rfl | hm := mem_insertVictim.1 hm
  · exact hx
  · exact ih hm

theorem State.victims_mem {s : State} {h : Hitch} {gone : List W64} {cands taken vs : List Hitch}
    (hvs : s.victims h gone cands taken = some vs) {v : Hitch} (hv : v ∈ vs) : v ∈ cands ∨ v ∈ taken := by
  induction cands generalizing taken with
  | nil => cases hvs
  | cons x xs ih =>
    simp only [State.victims] at hvs
    split at hvs
    · exact (ih hvs).imp_left (List.mem_cons_of_mem x)
    split at hvs
    · cases hvs
      obtain hv | hv := List.mem_append.1 hv
      · exact .inr hv
      · exact .inl (List.mem_singleton.1 hv ▸ List.mem_cons_self)
    · obtain hx | hx := ih hvs
      · exact .inl (List.mem_cons_of_mem x hx)
      obtain hx | hx := List.mem_append.1 hx
      · exact .inr hx
      · exact .inl (List.mem_singleton.1 hx ▸ List.mem_cons_self)

/-- Room is made by pre-empting running launches of the die that have a lower priority. -/
theorem State.makeRoom_cases (s : State) (h : Hitch) : s.makeRoom h = s ∨ ∃ vs : List Hitch, s.makeRoom h = vs.foldl State.preempt s ∧
    ∀ v ∈ vs, v ∈ s.hitches ∧ v.die = h.die ∧ v.state = .running ∧ v.prio.toNat < h.prio.toNat := by
  unfold State.makeRoom
  extract_lets mine gone cands
  split
  · exact .inl rfl
  split
  · next vs hvs =>
    refine .inr ⟨vs, rfl, fun v hv => ?_⟩
    obtain hc | hc := State.victims_mem hvs hv
    · obtain ⟨hmem, ⟨hstate, hprio⟩, hdie⟩ :
          v ∈ s.hitches ∧ (v.state = .running ∧ v.prio.toNat < h.prio.toNat) ∧ v.die = h.die := by
        simpa [mine] using mem_foldl_insertVictim hc
      exact ⟨hmem, hdie, hstate, hprio⟩
    · cases hc
  · exact .inl rfl

/-! ### The decision, and the events of a pre-emption -/

theorem dispatchEvents_claim : Claims.DispatchEvents := by
  refine ⟨fun s => ⟨fun q h place shape hc hfit => ?_, fun q h hc hfit => ?_, fun q h place shape hc hstate hfit => ?_⟩,
    fun s d q h place shape hc => ⟨fun hwait => if_pos hwait, fun hwait hpoison => ?_, fun hwait hpoison => ?_⟩,
    fun s d h => ⟨_, rfl, ?_, rfl, rfl, State.makeRoom_cases _ _⟩, Bench.begin_startsAs⟩
  · change execDispatchDecision s = _
    simp only [execDispatchDecision, hc, hfit]
  · change execDispatchDecision s = _
    simp only [execDispatchDecision, hc, hfit]
  · change execResume s = _
    have hsaved : (h.state != .saved) = false := by rw [hstate]; rfl
    simp only [execResume, hc, hfit, hsaved, Bool.false_eq_true, if_false]
  · rw [State.placeHitch, hwait, hpoison]
    rfl
  · obtain ⟨hqueues, hwaiting⟩ := State.placeHitch_left hwait hpoison q place shape
    refine ⟨State.placeHitch_runs hwait hpoison q place shape (State.candidate_known hc), hqueues, hwaiting, fun i b hi honly =>
      ⟨fun hstate => ?_, fun y hstate hy => State.placeHitch_resumes hwait hpoison q place shape hi honly hstate hy⟩⟩
    have hstarts := State.placeHitch_starts hwait hpoison q place shape hi honly hstate
    unfold State.trapOf at hstarts
    cases he : s.tenEntry h.die h.tenant <;> rw [he] at hstarts <;> exact hstarts
  · rw [State.die_modDie, if_pos rfl]
    exact List.mem_cons_self

/-! ### Pre-emption (R182, R183, R395, R396) -/

/-- A bench is asked to stop (R182, R277). -/
def State.askStop (s : State) (b : BenchId) : State := s.modBench b fun x => { x with stopping := some s.clk }

/-- Benches are asked to stop. -/
def State.stopAll (s : State) (bs : List BenchId) : State := bs.foldl State.askStop s

theorem State.stopAll_bench (s : State) (bs : List BenchId) (c : BenchId) :
    (s.stopAll bs).bench c = if c ∈ bs then { s.bench c with stopping := some s.clk } else s.bench c := by
  unfold State.stopAll
  induction bs generalizing s with
  | nil => rfl
  | cons b bs ih =>
    rw [List.foldl_cons, ih, State.askStop, State.bench_modBench, State.modBench_clk]
    by_cases hb : c = b
    · subst hb
      simp
    · simp [hb]

theorem State.stopAll_mem (s : State) (bs : List BenchId) : (s.stopAll bs).mem = s.mem :=
  foldl_keeps State.mem State.askStop (fun _ _ => rfl) bs s

theorem State.stopAll_hitches (s : State) (bs : List BenchId) : (s.stopAll bs).hitches = s.hitches :=
  foldl_keeps State.hitches State.askStop (fun _ _ => rfl) bs s

/-- A launch is being saved, into some slots. -/
def Hitch.saveIn (area : List Nat) (x : Hitch) : Hitch := { x with state := .saving, area := area }

/-- The benches of a launch are asked to stop, it takes its slots, and it goes to the head of its queue. -/
def State.stopHitch (s : State) (h : Hitch) : State :=
  ((s.stopAll h.benches).modHitch h.seq (Hitch.saveIn ((s.slotsFree h).take h.benches.length))).enqueue h.die h true

theorem State.preempt_eq (s : State) (h : Hitch) : s.preempt h = (s.stopHitch h).trySave h.seq := rfl

theorem State.stopHitch_bench (s : State) (h : Hitch) (b : BenchId) :
    (s.stopHitch h).bench b = if b ∈ h.benches then { s.bench b with stopping := some s.clk } else s.bench b :=
  s.stopAll_bench h.benches b

theorem State.enqueue_hitch (s : State) (d : Fin 8) (h : Hitch) (head : Bool) :
    (s.enqueue d h head).hitch h.seq = (s.hitch h.seq).map fun x => { x with since := s.clk } :=
  State.hitch_modHitch (f := fun x => { x with since := s.clk }) (s.modDie d _) h.seq fun _ hx => hx

theorem State.enqueue_queue (s : State) (d : Fin 8) (h : Hitch) (head : Bool) :
    ((s.enqueue d h head).die d).queues[runQueue h.prio h.tenant] =
      if head then h.seq :: (s.die d).queues[runQueue h.prio h.tenant] else (s.die d).queues[runQueue h.prio h.tenant] ++ [h.seq] := by
  rw [State.enqueue, State.modHitch, State.die_withHitches, State.die_modDie, if_pos rfl]
  simp

theorem State.stopHitch_hitch {s : State} {h : Hitch} (hh : s.hitch h.seq = some h) : ∃ g, (s.stopHitch h).hitch h.seq = some g ∧
    g.state = .saving ∧ g.area = (s.slotsFree h).take h.benches.length := by
  have hsaving : ((s.stopAll h.benches).modHitch h.seq (Hitch.saveIn ((s.slotsFree h).take h.benches.length))).hitch h.seq =
      some (h.saveIn ((s.slotsFree h).take h.benches.length)) := by
    rw [State.hitch_modHitch (f := Hitch.saveIn _) _ _ fun _ hx => hx, State.hitch, s.stopAll_hitches]
    exact congrArg (Option.map _) hh
  exact ⟨_, (State.enqueue_hitch _ _ _ _).trans (congrArg (Option.map _) hsaving), rfl, rfl⟩

theorem preemptEvents_claim : Claims.PreemptEvents := by
  refine ⟨fun s h hh => ⟨fun hstate hslots => ⟨s.stopHitch h, ?_, s.stopAll_mem h.benches, fun b hb => ?_, fun b hb => ?_,
    State.stopHitch_hitch (State.hitch_self hh), _, State.enqueue_queue _ _ _ true⟩, fun hstate => ?_⟩, fun x y prio t0 t1 => ?_⟩
  · change execPreempt s = _
    simp only [execPreempt, hh, hstate, hslots, if_true, State.preempt_eq]
  · rw [State.stopHitch_bench, if_pos hb]
  · rw [State.stopHitch_bench, if_neg hb]
  · change execPreempt s = _
    simp only [execPreempt, hh, hstate]
  · obtain ⟨hl1, hcc, htlb⟩ := x.restore_empty (y.toSave t0) prio t1
    refine ⟨(y.sameTeam_toSave t0).trans (x.sameTeam_restore _ prio t1), hl1, hcc, htlb, fun t ht => ?_⟩
    obtain ⟨hteam, hbanks⟩ := Bench.restore_team ((y.toSave_team t0).trans ht) x prio t1
    refine ⟨hteam, fun hsave => ?_, fun hsave => ?_⟩
    · rw [hbanks, if_pos hsave, Bench.toSave_banks ht hsave]
    · rw [hbanks, hsave, if_neg Bool.false_ne_true]

/-! ### Ageing and kills (R388, R403, R404) -/

/-- A launch at the next priority. -/
def Hitch.raised (h : Hitch) : Hitch := { h with prio := h.prio + 1 }

/-- A launch rises, and moves from its queue to the tail of the next. -/
def State.rise (s : State) (h : Hitch) : State := ((s.unqueue h.seq).modHitch h.seq fun _ => h.raised).enqueue h.die h.raised false

/-- A launch that has waited its time rises into the queue of the next priority (R388). -/
theorem exec_launchAgeing_rises {s : State} {h : Hitch} (hh : s.hitch (BitVec.ofNat 64 s.cur.bring.tag) = some h)
    (hstate : h.state = .queued ∨ h.state = .saving ∨ h.state = .saved) (hprio : h.prio ≠ 3) (hsince : h.since + 2 ^ 24 ≤ s.clk) :
    exec .launchAgeing s = .next (s.rise h) := by
  change execLaunchAgeing s = _
  unfold execLaunchAgeing
  split
  next hnone => exact absurd (hnone.symm.trans hh) nofun
  next g hg =>
  cases hg.symm.trans hh
  extract_lets waits h'
  have hwaits : waits = true := by
    obtain hq | hq | hq := hstate <;> simp only [waits, hq]
  rw [hwaits, if_pos (by simpa using And.intro hprio hsince)]
  rfl

theorem State.rise_hitch {s : State} {h : Hitch} (hh : s.hitch h.seq = some h) :
    (s.rise h).hitch h.seq = some { h.raised with since := s.clk } := by
  have hraised : ((s.unqueue h.seq).modHitch h.seq fun _ => h.raised).hitch h.seq = some h.raised :=
    (State.hitch_modHitch (f := fun _ => h.raised) (s.unqueue h.seq) h.seq fun _ _ => rfl).trans (congrArg (Option.map _) hh)
  exact (State.enqueue_hitch _ h.die h.raised false).trans (congrArg (Option.map _) hraised)

theorem launchEvents_claim : Claims.LaunchEvents := by
  refine fun s h hh => ⟨fun hstate hprio hsince => ⟨_, exec_launchAgeing_rises hh hstate hprio hsince, rfl, ?_, ?_⟩,
    fun hstate => ⟨_, rfl, fun hbenches => ?_⟩⟩
  · exact ⟨_, firstWhere_mem (State.rise_hitch (State.hitch_self hh)), rfl, rfl, rfl⟩
  · exact State.enqueue_queue _ _ h.raised false ▸ List.mem_append_right _ List.mem_cons_self
  · obtain ⟨hnone, hgone⟩ := State.kill_over hh hstate hbenches ⟨0, 0, 0, 0, 0⟩
    rw [State.hitch_seq hh]
    exact ⟨State.hitch_eq_none.2 hnone, hgone⟩

/-- Settles O54: a launch that is placed leaves its queue, and each of its benches takes its team, which no other team's placement
undoes; a pre-emption stops its benches before the save goes on; what a save and a resume do to a bench leaves its team the same; and a
launch that ages is found again at its next priority, one that is killed without a team is gone. -/
theorem dispatchEvents : Obligations.DispatchEvents := ⟨dispatchEvents_claim, preemptEvents_claim, launchEvents_claim⟩

end Sys2Proof.Machine
end

section
/-! SUPPORT. Words of P that issue where they stand (R241 to R245, R264), and what an issue leaves of the banks and the engines. -/

namespace Sys2Proof.Machine

/-! ### A word of P issues where it stands (R241 to R245) -/

/-- An instruction that issues, or has issued with what it took, comes to what its body comes to. -/
theorem State.issue_goesOn {s : State} {h : Hdr} {lw : Bool} {nq : Nat}
    (hi : s.issues h lw nq ∨ s.myEng.issued = true ∧ s.myEng.taken = true) (body : State → List W64 → Eff) :
    s.issue h lw nq body =
      s.conclude h nq (!s.myEng.issued) (s.entriesAt nq) (body (s.atIssue h nq) (s.entriesAt nq)) := by
  rcases hi with hi | ⟨hissued, htaken⟩
  · rw [State.issue_body hi, hi.1, Bool.not_false]
  · rw [State.issue_issued hissued, hissued, State.entriesAt, State.atIssue, if_pos htaken, if_pos htaken, Bool.not_true]

/-- Such a word is reached, and not skipped. -/
theorem State.reachWord_goesOn {s : State} {h : Hdr} {lw : Bool} {nq : Nat}
    (hi : s.issues h lw nq ∨ s.myEng.issued = true ∧ s.myEng.taken = true) : s.reachWord h = s := by
  rcases hi with ⟨_, _, hsel, _⟩ | ⟨hissued, _⟩
  · simp [State.reachWord, hdrSkips, hsel]
  · simp [State.reachWord, hissued]

/-- Of what the body of a word of P comes to, only its end makes it join the window of the tile (R245). -/
def State.joinsTile (s1 : State) (i : Instr) : Eff → Eff
  | .done t acc pc => .done (t.pDone i s1.cap s1.plane.regs.seg.isSome acc) acc pc
  | r => r

section
variable {s : State} {h : Hdr} {i : Instr} {place : Place} {inside lw : Bool} {nq : Nat} {body : PCap → State → List W64 → Eff}

/-- A word that ends no segment, in its place, in a window that has room, and without an error in what it reads, comes to what its body
comes to. -/
theorem State.pWord_goesOn (hi : s.pIssues h i inside lw nq) (hplace : place = if inside then .inside else .outside)
    (body : PCap → State → List W64 → Eff) :
    s.pWord h i place false lw nq body = s.conclude h nq (!s.myEng.issued) (s.entriesAt nq)
      ((s.atIssue h nq).joinsTile i (body (s.atIssue h nq).cap (s.atIssue h nq) (s.entriesAt nq))) := by
  obtain ⟨htile, hroom, herror, hissue⟩ := hi
  have hstands : ((place == .inside && !inside) || (place == .outside && inside)) = false := by
    subst hplace; cases inside <;> rfl
  have hwindow : (inside && decide (64 ≤ s.plane.window.length)) = false := by
    cases inside
    · rfl
    · simpa using hroom rfl
  unfold State.pWord
  simp only [Bool.false_and, Bool.false_eq_true, if_false, State.reachWord_goesOn hissue, State.issue_goesOn hissue, htile, hstands,
    hwindow, herror, bne_self_eq_false]
  rfl

/-- A word of P whose body is done, without a conflicting access, retires. -/
theorem State.pWord_done (hi : s.pIssues h i inside lw nq) (hplace : place = if inside then .inside else .outside)
    {t : State} {acc : List Acc} {pc : Option W64}
    (hb : body (s.atIssue h nq).cap (s.atIssue h nq) (s.entriesAt nq) = .done t acc pc) (hfree : s.pFree acc) :
    s.pWord h i place false lw nq body = .next ((s.atIssue h nq).pRetire t h i acc pc) := by
  rw [State.pWord_goesOn hi hplace, hb]
  cases hissued : s.myEng.issued with
  | false => exact State.conclude_done (hfree hissued) h nq _ _ _ _
  | true => rfl

end

theorem State.pFree_nil (s : State) : s.pFree [] := fun _ => s.noOverlap_nil

theorem State.pFree_issued {s : State} (hissued : s.myEng.issued = true) (acc : List Acc) : s.pFree acc :=
  fun hno => absurd hissued (by rw [hno]; decide)

/-! ### What an issue leaves of the banks and the engines (R32, R38) -/

/-- The banks and the engines of a bench. -/
def Bench.works (x : Bench) : Vector Mem 16 × Eng × Eng × Eng × Eng := (x.banks, x.l, x.p, x.v, x.s)

theorem Bench.eng_of_works {x y : Bench} (h : x.works = y.works) (st : Stream) : x.eng st = y.eng st := by
  simp only [Bench.works, Prod.mk.injEq] at h
  obtain ⟨-, hl, hp, hv, hs⟩ := h
  cases st <;> assumption

theorem Bench.acquire_works (x : Bench) (sc : Scope) : (x.acquire sc).works = x.works := by
  have hbump := foldl_keeps Bench.works Bench.bumpClass (fun _ _ => rfl) (scopeAcquires sc) x
  unfold Bench.acquire
  split <;> exact hbump

theorem Bench.takeV_works (x : Bench) (me : Stream) : (x.takeV me).works = x.works := by
  unfold Bench.takeV
  extract_lets n y
  split
  · split
    · rfl
    · exact y.acquire_works _
  · rfl

theorem Bench.takeTokens_works (x : Bench) (me : Stream) (c : Fin 4) (from_ : List Stream) :
    (x.takeTokens me c from_).works = x.works := by
  unfold Bench.takeTokens
  extract_lets y z givers u
  have hz : z.works = x.works := by
    unfold z
    split
    · exact y.takeV_works me
    · rfl
  have hu : u.works = x.works :=
    (foldl_keeps Bench.works (fun x i => x.joinDuty i (ownerOf me c)) (fun _ _ => rfl) _ z).trans hz
  split <;> exact hu

theorem State.dutyAll_works (s : State) (b c : BenchId) (i : Nat) (sc : Scope) :
    ((s.dutyAll b i sc).bench c).works = (s.bench c).works := by
  have hbare := congrArg Bench.works (s.dutyAll_bare b c i sc)
  exact hbare

theorem State.takeFrom_works (s : State) (b : BenchId) (me : Stream) (c : Fin 4) (from_ : List Stream) :
    ((s.takeFrom b me c from_).bench b).works = (s.bench b).works := by
  have htaken : ((s.modBench b fun x => x.takeTokens me c from_).bench b).works = (s.bench b).works := by
    rw [State.bench_modBench, if_pos rfl]
    exact Bench.takeTokens_works _ _ _ _
  unfold State.takeFrom
  extract_lets sc s1
  split
  · exact htaken
  · exact (State.dutyAll_works _ _ _ _ _).trans htaken

theorem State.takeFrom_cur (s : State) (b : BenchId) (me : Stream) (c : Fin 4) (from_ : List Stream) :
    (s.takeFrom b me c from_).cur = s.cur := by
  unfold State.takeFrom
  extract_lets sc s1
  split
  · rfl
  · unfold State.dutyAll
    split <;> rfl

theorem State.atIssue_cur (s : State) (h : Hdr) (nq : Nat) : (s.atIssue h nq).cur = s.cur := by
  unfold State.atIssue
  split
  · rfl
  · exact s.takeFrom_cur _ _ _ _

theorem State.atIssue_works (s : State) (h : Hdr) (nq : Nat) : (s.atIssue h nq).here.works = s.here.works := by
  unfold State.atIssue
  split
  · rfl
  · rw [State.here_modHere, State.here, State.takeFrom_cur]
    exact s.takeFrom_works _ _ _ _

theorem State.atIssue_myEng (s : State) (h : Hdr) (nq : Nat) : (s.atIssue h nq).myEng = s.myEng := by
  rw [State.myEng, State.atIssue_cur]
  exact Bench.eng_of_works (s.atIssue_works h nq) _

theorem State.atIssue_banks (s : State) (h : Hdr) (nq : Nat) : (s.atIssue h nq).here.banks = s.here.banks :=
  congrArg Prod.fst (s.atIssue_works h nq)

/-! ### A word that has issued and waits (R60) -/

theorem State.myEng_modMyEng {s : State} (hst : s.cur.stream ≠ .c) (f : Eng → Eng) : (s.modMyEng f).myEng = f s.myEng := by
  have hcur : (s.modMyEng f).cur = s.cur := rfl
  rw [State.myEng, State.here_modMyEng, hcur, Bench.eng_modEng _ _ _ hst, State.myEng]

theorem State.record_works (s : State) (acc : List Acc) : (s.record acc).here.works = s.here.works := by
  rw [State.record, State.here_modHere]
  split
  · split <;> rfl
  · rfl

theorem State.record_myEng (s : State) (acc : List Acc) : (s.record acc).myEng = s.myEng :=
  Bench.eng_of_works (s.record_works acc) _

theorem State.record_banks (s : State) (acc : List Acc) : (s.record acc).here.banks = s.here.banks :=
  congrArg Prod.fst (s.record_works acc)

/-- A word of an engine that stays in its first turn has issued, and has taken what it takes. -/
theorem State.conclude_stays {s t : State} (hst : t.cur.stream ≠ .c) {acc : List Acc} (ho : s.noOverlap acc) (h : Hdr) (nq : Nat)
    (ents more : List W64) (on : WaitKind × Nat × Nat) :
    ∃ u, s.conclude h nq true ents (.stay t more (some on) acc) = .next u ∧ u.myEng.issued = true ∧ u.myEng.taken = true ∧
      u.here.banks = t.here.banks ∧ u.forwards = t.forwards := by
  unfold State.noOverlap at ho
  simp only [State.conclude, ho, if_true]
  refine ⟨_, rfl, ?_, ?_, ?_, rfl⟩
  · rw [State.waitEng, State.myEng_modMyEng, State.record_myEng, State.myEng_modMyEng] <;> exact hst
  · rw [State.waitEng, State.myEng_modMyEng, State.record_myEng, State.myEng_modMyEng, State.myEng_modMyEng] <;> exact hst
  · rw [State.waitEng, State.here_modMyEng, Bench.modEng_banks, State.record_banks]
    simp

theorem State.pWord_stays {s t : State} {h : Hdr} {i : Instr} {place : Place} {inside lw : Bool} {nq : Nat}
    {body : PCap → State → List W64 → Eff} (hi : s.pIssues h i inside lw nq) (hplace : place = if inside then .inside else .outside)
    (hissued : s.myEng.issued = false) (hst : t.cur.stream ≠ .c) {acc : List Acc} {more : List W64} {on : WaitKind × Nat × Nat}
    (hb : body (s.atIssue h nq).cap (s.atIssue h nq) (s.entriesAt nq) = .stay t more (some on) acc) (ho : s.noOverlap acc) :
    ∃ u, s.pWord h i place false lw nq body = .next u ∧ u.myEng.issued = true ∧ u.myEng.taken = true ∧
      u.here.banks = t.here.banks ∧ u.forwards = t.forwards := by
  rw [State.pWord_goesOn hi hplace, hb, hissued]
  exact State.conclude_stays hst ho h nq _ more on

end Sys2Proof.Machine
end

section
/-! O42: PSHEET, PWGT, PCORR and PMM (R227, R228, R248 to R252, R458). -/

namespace Sys2Proof.Machine

/-! ### Reads and steps (R243, R458) -/

/-- A read of clean parts raises nothing. -/
theorem State.reads_clean {s : State} {bank : Nat} {parts : List (Nat × Nat)} (hclean : s.clean bank parts) (acc : List Acc) (r : Eff) :
    s.reads bank parts acc r = r := by
  rw [State.reads, if_neg]
  rw [List.any_eq_true]
  rintro ⟨p, hp, hpoison⟩
  exact absurd (hclean p hp) (by rw [hpoison]; decide)

/-- The steps that the duty allows are all taken in this turn. -/
theorem State.stepping_all {s : State} {n : Nat} (hsteps : n - s.myEng.step ≤ s.stepsLeft) (acc : List Acc) (go : State → Eff) :
    s.stepping n acc go = go (s.stepped n) := by
  have hall := Nat.min_eq_left hsteps
  unfold State.stepsLeft at hall
  simp only [State.stepping, hall, if_pos]
  rfl

/-- Steps that are taken leave the banks as they were. -/
theorem State.stepped_runVals (s : State) (n : Nat) (r : Run) (k : Nat) : (s.stepped n).here.runVals r k = s.here.runVals r k := by
  rw [State.stepped, State.modPlane_here]
  rfl

/-- Offsets in range pass the check of R224. -/
theorem taps_inRange {taps : List (Int × Int)} (h : ∀ t ∈ taps, -7 ≤ t.1 ∧ t.1 ≤ 7 ∧ -7 ≤ t.2 ∧ t.2 ≤ 7) :
    ¬(!taps.all fun t => shiftOk t.1 && shiftOk t.2) = true := by
  simpa [shiftOk, and_assoc] using h

/-! ### The instructions (R248 to R252) -/

/-- Settles O42: each word's body passes its checks in their order, reads clean parts, and takes all its steps in this turn. -/
theorem planeSteps : Obligations.PlaneSteps := by
  intro h s s1 g
  refine ⟨?psheet, ?pwgt, ?pcorr, ?pmm⟩
  case psheet =>
    intro o r hi D w rp n vs fill parts ⟨hres, hfmt, hrun⟩ hclean hfree
    refine State.pWord_done hi rfl (body := fun cap s _ => bodyPsheet o cap s) (show bodyPsheet o s1.cap s1 = _ from ?_) hfree
    unfold bodyPsheet
    extract_lets
    rw [if_neg (by simp [hres, hfmt]), hrun]
    exact State.reads_clean hclean _ _
  case pwgt =>
    intro o r hi D ⟨hres, hfmt, hrun⟩ hclean hfree
    refine State.pWord_done hi rfl (body := fun cap s _ => bodyPwgt o cap s) (show bodyPwgt o s1.cap s1 = _ from ?_) hfree
    unfold bodyPwgt
    extract_lets
    rw [if_neg (by simp [hres, hfmt]), hrun]
    exact State.reads_clean hclean _ _
  case pcorr =>
    intro o r hi D float taps n vs go htaps hprof hsteps
    refine ⟨fun hkept hres => ?_, fun hread ⟨hres, hfmt, hrun⟩ hclean hfree => ?_⟩
    · refine State.pWord_done hi rfl (body := fun cap s _ => bodyPcorr o cap s) (show bodyPcorr o s1.cap s1 = _ from ?_) s.pFree_nil
      unfold bodyPcorr
      extract_lets
      rw [if_neg (by exact taps_inRange htaps), if_neg (by simp [hprof]), if_neg (by simp [hres]), if_pos hkept]
      exact State.stepping_all hsteps _ _
    · refine State.pWord_done hi rfl (body := fun cap s _ => bodyPcorr o cap s) (show bodyPcorr o s1.cap s1 = _ from ?_) hfree
      unfold bodyPcorr
      extract_lets
      rw [if_neg (by exact taps_inRange htaps), if_neg (by simp [hprof]), if_neg (by simp [hres]), if_neg (by simp [hread]),
        if_neg (by simp [hfmt]), hrun]
      refine (State.reads_clean hclean _ _).trans ((State.stepping_all hsteps _ _).trans ?_)
      extract_lets values
      have hvalues : values = vs := s1.stepped_runVals _ _ _
      rw [hvalues]
      rfl
  case pmm =>
    intro o rs rw' hi D K n cells rp ns parts acc hprof ⟨hres, hfmts, hruns⟩ ⟨_, hfmtw, hrunw⟩ hcleans hsteps hcleanw hfree
    refine State.pWord_done hi rfl (body := fun cap s _ => bodyPmm o cap s) (show bodyPmm o s1.cap s1 = _ from ?_) hfree
    unfold bodyPmm
    extract_lets
    rw [if_neg (by simp [hprof]), if_neg (by simp [hres, hfmts, hfmtw]), hruns, hrunw]
    refine (State.reads_clean hcleans _ _).trans ((State.reads_clean hcleanw _ _).trans ((State.stepping_all hsteps _ _).trans ?_))
    extract_lets sheet weights
    have hsheet : sheet = s1.here.runVals rs ns := s1.stepped_runVals _ _ _
    have hweights : weights = s1.here.runVals rw' (n * 8 * D) := s1.stepped_runVals _ _ _
    rw [hsheet, hweights]

end Sys2Proof.Machine
end

section
/-! O44: PFWD, PFWD.rx, and the events of the span link and the plane (R235, R240, R259, R267, R275, R277). -/

namespace Sys2Proof.Machine

/-! ### PFWD and PFWD.rx in a turn of an engine (R235, R240, R259, R275) -/

/-- The region that a sending PFWD reads, and its receivers (R235, R240, R259). -/
def State.sentRegion (s1 : State) (o : PFwdOp) (off : Nat) : Forward :=
  ⟨s1.cur.bench, o.bop.bank, off, o.lenm1.toNat + 1, Mem.read (s1.here.bank o.bop.bank.toNat) off (o.lenm1.toNat + 1),
    (span 1 o.n.toNat).filterMap fun k => (s1.mate s1.cur.bench (k : Nat)).map fun m => (m, if s1.cur.late then 0 else 1)⟩

section
variable {h : Hdr} {o : PFwdOp} {s : State} {off : Nat}

theorem exec_pfwd_sends (hst : s.cur.stream ≠ .c) (hregion : fwdRegion (s.atIssue h 0).cap o = .ok off)
    (hi : s.pIssues h (.pfwd h o) false false 0) (hissued : s.myEng.issued = false) :
    let s1 := s.atIssue h 0
    let b := s1.cur.bench
    let n := o.n.toNat
    let bank := o.bop.bank.toNat
    let len := o.lenm1.toNat + 1
    0 < n → posOf b + n ≤ 7 → (∀ k : Nat, 1 ≤ k → k ≤ n → (s1.mate b k).isSome = true) → s1.clean bank [(off, len)] →
    s.noOverlap [⟨bank, off, off + len, false⟩] →
    ∃ t : State, exec (.pfwd h o) s = .next t ∧ t.myEng.issued = true ∧ t.myEng.taken = true ∧ t.here.banks = s.here.banks ∧
      t.forwards = s1.forwards ++ [s1.sentRegion o off] := by
  intro s1 b n bank len hn hpos hmates hclean hover
  have hst1 : s1.cur.stream ≠ .c := by rwa [State.atIssue_cur]
  have hplaces : ¬(n = 0 ∨ 7 < posOf b + n) := by omega
  have hany : ((span 1 n).any fun k => (s1.mate b (k : Nat)).isNone) = false := by
    rw [List.any_eq_false]
    intro k hk
    obtain ⟨hk1, hk2⟩ := mem_span hk
    rw [Option.isNone_iff_eq_none, ← ne_eq, ← Option.isSome_iff_ne_none]
    exact hmates k hk1 (by omega)
  have hsends : ¬(!s1.myEng.issued && (span 1 n).any fun k => (s1.mate b (k : Nat)).isNone) = true := by simp [hany]
  have hfirst : (!s1.myEng.issued) = true := by rw [State.atIssue_myEng, hissued]; rfl
  change ∃ t : State, execPfwd h o s = .next t ∧ _
  rw [← State.atIssue_banks s h 0, execPfwd]
  refine State.pWord_stays hi rfl hissued (t := { s1 with forwards := s1.forwards ++ [s1.sentRegion o off] }) hst1
    (on := (.fwd, 0, 1)) (more := []) (acc := [⟨bank, off, off + len, false⟩]) ?_ hover
  extract_lets
  rw [if_neg (by exact hplaces), if_neg (by exact hsends), hregion]
  exact (if_pos hfirst).trans (State.reads_clean hclean _ _)

theorem exec_pfwd_acked (hregion : fwdRegion (s.atIssue h 0).cap o = .ok off) (hi : s.pIssues h (.pfwd h o) false false 0)
    (hissued : s.myEng.issued = true) :
    let s1 := s.atIssue h 0
    let b := s1.cur.bench
    0 < o.n.toNat → posOf b + o.n.toNat ≤ 7 → (∀ f ∈ s1.forwards, f.src = b → ∀ r ∈ f.rx, r.2 = 3) →
    exec (.pfwd h o) s = .next (s1.pRetire { s1 with forwards := s1.forwards.filter fun f => f.src != b } h (.pfwd h o)
      [⟨o.bop.bank.toNat, off, off + (o.lenm1.toNat + 1), false⟩] none) := by
  intro s1 b hn hpos hacked
  have hplaces : ¬(o.n.toNat = 0 ∨ 7 < posOf b + o.n.toNat) := by omega
  have hwaits : ¬(s1.forwards.any fun f => f.src == b && f.rx.any fun r => r.2 != 3) = true := by
    simp only [List.any_eq_true, Bool.and_eq_true, beq_iff_eq, bne_iff_ne, not_exists, not_and, not_not]
    exact fun f hf hsrc r hr => hacked f hf hsrc r hr
  have hfirst : (!s1.myEng.issued) = false := by rw [State.atIssue_myEng, hissued]; rfl
  change execPfwd h o s = _
  rw [execPfwd]
  refine State.pWord_done hi rfl ?_ (State.pFree_issued hissued _)
  extract_lets b' n len first
  have hgoes : first = false := hfirst
  rw [if_neg (by exact hplaces), hgoes, Bool.false_and, if_neg (by decide), hregion]
  exact if_neg hwaits

theorem exec_pfwdRx_receives {src : BenchId} {f : Forward} (hregion : fwdRegion (s.atIssue h 0).cap o = .ok off)
    (hi : s.pIssues h (.pfwdRx h o) false false 0) :
    let s1 := s.atIssue h 0
    let b := s1.cur.bench
    let n := o.n.toNat
    let acc : Acc := ⟨o.bop.bank.toNat, off, off + (o.lenm1.toNat + 1), true⟩
    0 < n → n ≤ posOf b → neighbour b (-(n : Int)) = some src →
    firstWhere (fun f => f.src == src && f.rx.any fun r => r.1 == b && decide (r.2 < 2)) s1.forwards = some f →
    (∀ r ∈ f.rx, r.1 = b → r.2 ≠ 0) → f.bank = o.bop.bank → f.off = off → f.len = o.lenm1.toNat + 1 → s.pFree [acc] →
    exec (.pfwdRx h o) s = .next (s1.pRetire ((s1.stage src b (if s1.cur.late then 2 else 3)).modHere fun x =>
      x.writeBank o.bop.bank.toNat off f.bytes) h (.pfwdRx h o) [acc] none) := by
  intro s1 b n acc hn hpos hsrc hf hcame hbank hoff hlen hfree
  have hplaces : ¬(n = 0 ∨ posOf b < n) := by omega
  have hwaits : ¬(f.rx.any fun r => r.1 == b && r.2 == 0) = true := by
    simp only [List.any_eq_true, Bool.and_eq_true, beq_iff_eq, not_exists, not_and]
    exact fun r hr hb => hcame r hr hb
  have hmatches : ¬(f.bank ≠ o.bop.bank ∨ f.off ≠ off ∨ f.len ≠ o.lenm1.toNat + 1) := by simp [hbank, hoff, hlen]
  change execPfwdRx h o s = _
  rw [execPfwdRx]
  refine State.pWord_done hi rfl ?_ hfree
  extract_lets b' len
  rw [if_neg (by exact hplaces), hregion]
  dsimp only
  rw [show neighbour b' (-(n : Int)) = some src from hsrc]
  dsimp only
  rw [show firstWhere _ _ = some f from hf]
  dsimp only
  rw [if_neg (by exact hwaits), if_neg (by exact hmatches)]

end

/-! ### The events of the span link and of the plane (R235, R259, R267, R277) -/

theorem State.resumeFwd_idle {s : State} {b : BenchId} (h : (s.bench b).noFwd) : s.resumeFwd b = .next s := by
  unfold Bench.noFwd at h
  simp [State.resumeFwd, h]

section
variable {s : State} {b : BenchId} {w : W128} {k : PCap} {h : Hdr} {o : PFwdOp}

theorem State.resumeFwd_pfwd (hissued : (s.bench b).p.issued = true) (hcap : (s.bench b).p.cap = some (w, k))
    (hword : decodeWord (.p w) = .ok (.pfwd h o)) :
    s.resumeFwd b = exec (.pfwd h o) { s with cur := { s.cur with bench := b, stream := .p, word := w, pc := (s.bench b).p.pc } } := by
  simp only [State.resumeFwd, hissued, hcap, hword]
  rfl

theorem State.resumeFwd_pfwdRx (hissued : (s.bench b).p.issued = true) (hcap : (s.bench b).p.cap = some (w, k))
    (hword : decodeWord (.p w) = .ok (.pfwdRx h o)) :
    s.resumeFwd b = exec (.pfwdRx h o) { s with cur := { s.cur with bench := b, stream := .p, word := w, pc := (s.bench b).p.pc } } := by
  simp only [State.resumeFwd, hissued, hcap, hword]
  rfl

end

theorem exec_forwardRegionComplete {s : State} {f : Forward}
    (hf : firstWhere (fun f => f.rx.any fun r => r.1 == s.cur.bring.bench && r.2 == 0) s.forwards = some f) :
    exec .forwardRegionComplete s = (s.stage f.src s.cur.bring.bench 1).resumeFwd s.cur.bring.bench := by
  change execForwardRegionComplete s = _
  simp only [execForwardRegionComplete, hf]

theorem exec_forwardAck {s : State} {f : Forward}
    (hf : firstWhere (fun f => f.rx.any fun r => r.1 == s.cur.bring.bench && r.2 == 2) s.forwards = some f) :
    exec .forwardAck s = (s.stage f.src s.cur.bring.bench 3).resumeFwd f.src := by
  change execForwardAck s = _
  simp only [execForwardAck, hf]

theorem exec_forwardReceiptError {s : State} {f : Forward} {rest : List Forward} (hf : s.forwards = f :: rest)
    (hcame : (s.cur.bring.bench, 1) ∈ f.rx) :
    exec .forwardReceiptError s = .next { s with forwards :=
      { f with rx := f.rx.map fun r => if r = (s.cur.bring.bench, 1) then (s.cur.bring.bench, 0) else r } :: rest } := by
  have hmine : (f.rx.any fun r => r.1 == s.cur.bring.bench && r.2 == 1) = true := List.any_eq_true.2 ⟨_, hcame, by simp⟩
  change execForwardReceiptError s = _
  simp only [execForwardReceiptError, hf, replaceFirst, hmine, if_true, Prod.ext_iff]

theorem exec_planeStateStorageError {s : State} (hteam : (s.bench s.cur.bring.bench).team ≠ none) :
    exec .planeStateStorageError s = .next (s.modBench s.cur.bring.bench fun x => x.modPlane fun p =>
      { p with error := p.error ||| BitVec.ofNat 6 (2 ^ (s.cur.bring.n % 6)) }) := by
  change execPlaneStateStorageError s = _
  rw [execPlaneStateStorageError]
  exact congrArg Host.Outcome.next (if_pos (Option.isSome_iff_ne_none.2 hteam))

theorem State.tileOverdue_of {s : State} {b : BenchId} {since : Nat} (htile : (s.bench b).plane.tile = true)
    (hstop : (s.bench b).stopping = some since) (hclk : since + 2048 ≤ s.clk) : s.tileOverdue b = true := by
  simp [State.tileOverdue, htile, hstop, hclk]

/-- A change of one plane that leaves its point leaves the points of all. -/
theorem State.modBench_point (s : State) (n b : BenchId) {f : Plane → Plane} (hf : ∀ p, (f p).point = p.point) :
    ((s.modBench n fun x => x.modPlane f).bench b).plane.point = (s.bench b).plane.point := by
  rw [State.bench_modBench]
  split
  · next heq => rw [Bench.modPlane_plane, hf, heq]
  · rfl

/-- The release of reservations leaves the registers to which a replay returns (R245, R277). -/
theorem State.unreserve_point (s : State) (b c : BenchId) : ((s.unreserve b).bench c).plane.point = (s.bench c).plane.point := by
  unfold State.unreserve
  extract_lets p free
  have hfree (t : State) (mine hi : Bool) : ((free t mine hi).bench c).plane.point = (t.bench c).plane.point := by
    unfold free
    split
    · split
      · exact t.modBench_point _ _ fun q => by cases hi <;> rfl
      · rfl
    · rfl
  refine (State.modBench_point _ _ _ ?_).trans ((hfree _ _ _).trans (hfree _ _ _))
  exact fun _ => rfl

theorem planeEvents_claim : Claims.PlaneEvents := by
  intro s b
  have hsaved : (s.saveTile b).bench b = _ := (State.bench_modBench (s.unreserve b) b b _).trans (if_pos rfl)
  refine ⟨fun f hf => ⟨fun hidle => ?_, fun w k h o hissued hcap hword => ?_⟩,
    fun f hf => ⟨fun hidle => ?_, fun w k h o hissued hcap hword => ?_⟩,
    fun f rest => exec_forwardReceiptError, exec_planeStateStorageError,
    fun since htile hstop hclk => ⟨?_, fun r hr => ?_, ?_, ?_⟩⟩
  · rw [exec_forwardRegionComplete hf]
    exact State.resumeFwd_idle hidle
  · rw [exec_forwardRegionComplete hf]
    exact State.resumeFwd_pfwdRx hissued hcap hword
  · rw [exec_forwardAck hf]
    exact State.resumeFwd_idle hidle
  · rw [exec_forwardAck hf]
    exact State.resumeFwd_pfwd hissued hcap hword
  · change execTilePreemptTimeout s = _
    rw [execTilePreemptTimeout]
    exact congrArg Host.Outcome.next (if_pos (State.tileOverdue_of htile hstop hclk))
  · have hpoint : ((s.unreserve b).bench b).plane.point = some r := (s.unreserve_point b b).trans hr
    rw [hsaved]
    exact congrArg (fun q => q.getD ((s.unreserve b).bench b).plane.regs) hpoint
  · rw [hsaved]; rfl
  · rw [hsaved]; rfl

/-! ### A turn of C has no engine that could note an issue (R22) -/

/-- A bench of a launch whose team has issued nothing yet. -/
def sentBench : Bench := { Bench.idle with team := some ⟨1, 0, 0, 0, 10, false, false⟩ }

/-- A turn of C on bench 0 after reset; benches 0 and 1 hold teams of one launch. -/
def sentTurn : State := { State.reset with benches := (State.reset.benches.set 0 sentBench).set 1 sentBench }

/-- A header that takes and gives nothing, at no level. -/
def plainHdr : Hdr := ⟨false, 0, false, false, 0, 0⟩

/-- The first four bytes of bank 0 go to the next position of the span. -/
def sentOp : PFwdOp := ⟨1, 3, ⟨0, 0, 0⟩⟩

/-- Whether the engine of the turn has issued, of an outcome that is a state. -/
def Out.issued? : Out → Option Bool
  | .next t => some t.myEng.issued
  | _ => none

theorem sentTurn_region : fwdRegion (sentTurn.atIssue plainHdr 0).cap sentOp = .ok 0 := by
  rw [fwdRegion, if_neg (by decide +kernel), if_neg (by decide +kernel)]
  decide +kernel

theorem sentTurn_pIssues : sentTurn.pIssues plainHdr (.pfwd plainHdr sentOp) false false 0 := by
  unfold State.pIssues State.issues
  decide +kernel

theorem sentTurn_mates (k : Nat) (h1 : 1 ≤ k) (hn : k ≤ sentOp.n.toNat) :
    ((sentTurn.atIssue plainHdr 0).mate (sentTurn.atIssue plainHdr 0).cur.bench k).isSome = true := by
  obtain rfl : k = 1 := le_antisymm hn h1
  decide +kernel

theorem exec_pfwd_sentTurn : Out.issued? (exec (.pfwd plainHdr sentOp) sentTurn) = some false := by decide +kernel

/-- Refutes O44: the statement does not ask that the turn be P's, and in a turn of C, which has no engine, a PFWD that sends its region
leaves no engine marked as having issued. In a turn of an engine its clauses hold (`exec_pfwd_sends`, `exec_pfwd_acked`,
`exec_pfwdRx_receives`, `planeEvents_claim`). -/
theorem not_planeForwards : ¬ Obligations.PlaneForwards := by
  rintro ⟨hforwards, -⟩
  obtain ⟨hpfwd, -⟩ := hforwards plainHdr sentOp sentTurn 0 sentTurn_region
  obtain ⟨hsends, -⟩ := hpfwd sentTurn_pIssues (by decide) (by decide)
  have hclean : (sentTurn.atIssue plainHdr 0).clean 0 [(0, 4)] := by unfold State.clean; decide +kernel
  have hover : sentTurn.noOverlap [⟨0, 0, 4, false⟩] := by unfold State.noOverlap; decide +kernel
  obtain ⟨t, ht, hissued, -⟩ := hsends (by decide +kernel) sentTurn_mates hclean hover
  have hnoted := exec_pfwd_sentTurn
  rw [ht, Out.issued?, hissued] at hnoted
  cases hnoted

end Sys2Proof.Machine
end

section
/-! SUPPORT. What an issue leaves of the plane (R32), and words of P that end a segment, stand anywhere, or are refused (R241, R261). -/

namespace Sys2Proof.Machine

/-! ### What an issue leaves of the plane (R32, R38) -/

theorem Bench.acquire_plane (x : Bench) (sc : Scope) : (x.acquire sc).plane = x.plane := by
  have hbump := foldl_keeps Bench.plane Bench.bumpClass (fun _ _ => rfl) (scopeAcquires sc) x
  unfold Bench.acquire
  split <;> exact hbump

theorem Bench.takeV_plane (x : Bench) (me : Stream) : (x.takeV me).plane = x.plane := by
  unfold Bench.takeV
  extract_lets n y
  split
  · split
    · rfl
    · exact y.acquire_plane _
  · rfl

theorem Bench.takeTokens_plane (x : Bench) (me : Stream) (c : Fin 4) (from_ : List Stream) :
    (x.takeTokens me c from_).plane = x.plane := by
  unfold Bench.takeTokens
  extract_lets y z givers u
  have hz : z.plane = x.plane := by
    unfold z
    split
    · exact y.takeV_plane me
    · rfl
  have hu : u.plane = x.plane := (foldl_keeps Bench.plane (fun x i => x.joinDuty i (ownerOf me c)) (fun _ _ => rfl) _ z).trans hz
  split <;> exact hu

theorem State.takeFrom_plane (s : State) (b : BenchId) (me : Stream) (c : Fin 4) (from_ : List Stream) :
    ((s.takeFrom b me c from_).bench b).plane = (s.bench b).plane := by
  have htaken : ((s.modBench b fun x => x.takeTokens me c from_).bench b).plane = (s.bench b).plane := by
    rw [State.bench_modBench, if_pos rfl, Bench.takeTokens_plane]
  unfold State.takeFrom
  extract_lets sc s1
  split
  · exact htaken
  · exact (congrArg Bench.plane (s1.dutyAll_bare b b (ownerOf me c) sc)).trans htaken

theorem State.atIssue_plane (s : State) (h : Hdr) (nq : Nat) : (s.atIssue h nq).plane = s.plane := by
  unfold State.atIssue
  split
  · rfl
  · rw [State.plane, State.here_modHere, State.here, State.takeFrom_cur]
    exact s.takeFrom_plane _ _ _ _

/-! ### Words that end a segment, stand anywhere, or are refused (R241, R242, R261) -/

theorem State.endSeg_plane (s : State) : s.endSeg.plane = { s.plane with regs := { s.plane.regs with seg := none } } := by
  rw [State.plane, State.endSeg, State.modRegs, State.modPlane_here]
  rfl

/-- A word that ends a segment whose observations agree goes as one that ends none, after the segment has ended. -/
theorem State.pWord_endSeg {s : State} (hseg : s.segOk) (h : Hdr) (i : Instr) (place : Place) (lw : Bool) (nq : Nat)
    (body : PCap → State → List W64 → Eff) : s.pWord h i place true lw nq body = s.endSeg.pWord h i place false lw nq body := by
  rw [State.segOk_iff] at hseg
  unfold State.pWord
  rw [if_neg]
  · simp only [Bool.false_and, Bool.false_eq_true, if_false, if_true, s.endSeg_plane]
    rfl
  · rw [Bool.true_and, Bool.not_eq_true', Bool.not_eq_false]
    exact hseg

/-- A word that may stand anywhere goes as one that must stand where it does. -/
theorem State.pWord_any (s : State) (h : Hdr) (i : Instr) (ends lw : Bool) (nq : Nat) (body : PCap → State → List W64 → Eff) :
    s.pWord h i .any ends lw nq body = s.pWord h i (if s.plane.tile then .inside else .outside) ends lw nq body := by
  unfold State.pWord
  cases htile : s.plane.tile <;> simp only [htile] <;> rfl

section
variable {s : State} {h : Hdr} {i : Instr} {place : Place} {inside lw : Bool} {nq : Nat} {body : PCap → State → List W64 → Eff}

/-- A word of P whose body is done without an access retires. -/
theorem State.pWord_done_nil (hi : s.pIssues h i inside lw nq) (hplace : place = if inside then .inside else .outside)
    {t : State} {pc : Option W64} (hb : body (s.atIssue h nq).cap (s.atIssue h nq) (s.entriesAt nq) = .done t [] pc) :
    s.pWord h i place false lw nq body = .next ((s.atIssue h nq).pRetire t h i [] pc) := State.pWord_done hi hplace hb s.pFree_nil

/-- A word of P whose body raises a fault before it takes effect is held. -/
theorem State.pWord_pre (hi : s.pIssues h i inside lw nq) (hplace : place = if inside then .inside else .outside)
    {code : Byte} {va : W64} (hb : body (s.atIssue h nq).cap (s.atIssue h nq) (s.entriesAt nq) = .pre code va) :
    s.pWord h i place false lw nq body = .next (s.hold code va false) := by
  rw [State.pWord_goesOn hi hplace, hb]
  rfl

end

end Sys2Proof.Machine
end

section
/-! O41: PTILE, PCOMMIT, PSHIFT, PZERO, PCHK, PMODE, PSEG, PLOOP, PENDL and RDV of P (R246, R247, R253, R254, R258, R260 to R263). -/

namespace Sys2Proof.Machine

/-! ### The base shift (R224, R253) -/

theorem State.shiftTo_ok {s : State} {sy sx : Int} (hy : -7 ≤ sy ∧ sy ≤ 7) (hx : -7 ≤ sx ∧ sx ≤ 7) :
    s.shiftTo sy sx = .done (s.modRegs fun r => { r with by_ := sy, bx := sx }) [] none :=
  if_pos (by simp [shiftOk, hy, hx])

theorem State.shiftTo_ill {s : State} {sy sx : Int} (hout : sx < -7 ∨ sy < -7) : s.shiftTo sy sx = .pre cILL 0 :=
  if_neg (by simp only [shiftOk, Bool.and_eq_true, decide_eq_true_eq]; omega)

/-- A signed field of four bits ends at 7. -/
theorem toInt_le_seven (k : BitVec 4) : k.toInt ≤ 7 := BitVec.toInt_le

/-! ### Words of a tile and between tiles (R246, R247, R253, R254, R258, R260, R261) -/

section
variable {h : Hdr} {s : State}

theorem exec_ptile {o : PTileOp} (hi : s.pIssues h (.ptile h o) false false 0) (hreplay : s.plane.replay = none)
    (hgeo : geoOk (o.geo.setWidth 32) (posOf s.cur.bench) = true) :
    exec (.ptile h o) s = .next ((s.atIssue h 0).pRetire ((s.atIssue h 0).openTile (o.geo.setWidth 32) o.chk) h (.ptile h o)
      [] none) := by
  change execPtile h o s = _
  rw [execPtile]
  refine State.pWord_done_nil hi rfl ?_
  rw [bodyPtile, State.atIssue_plane, hreplay, State.atIssue_cur, hgeo]
  rfl

theorem exec_pcommit (hi : s.endSeg.pIssues h (.pcommit h) true false 0) (hseg : s.segOk)
    (hchecks : (s.endSeg.atIssue h 0).plane.checked 0xFF = true) :
    exec (.pcommit h) s = .next ((s.endSeg.atIssue h 0).pRetire (s.endSeg.atIssue h 0).commitTile h (.pcommit h) [] none) := by
  change execPcommit h s = _
  rw [execPcommit, State.pWord_endSeg hseg]
  exact State.pWord_done_nil hi rfl (if_pos hchecks)

theorem exec_pshift {sx sy : BitVec 4} (hi : s.pIssues h (.pshift h sx sy) true false 0) (hx : -7 ≤ sx.toInt) (hy : -7 ≤ sy.toInt) :
    exec (.pshift h sx sy) s = .next ((s.atIssue h 0).pRetire
      ((s.atIssue h 0).modRegs fun r => { r with by_ := sy.toInt, bx := sx.toInt }) h (.pshift h sx sy) [] none) := by
  change execPshift h sx sy s = _
  rw [execPshift]
  exact State.pWord_done_nil hi rfl (State.shiftTo_ok ⟨hy, toInt_le_seven sy⟩ ⟨hx, toInt_le_seven sx⟩)

theorem exec_pshift_ill {sx sy : BitVec 4} (hi : s.pIssues h (.pshift h sx sy) true false 0)
    (hout : sx.toInt = -8 ∨ sy.toInt = -8) : exec (.pshift h sx sy) s = .next (s.hold cILL 0 false) := by
  change execPshift h sx sy s = _
  rw [execPshift]
  exact State.pWord_pre hi rfl (State.shiftTo_ill (by omega))

theorem exec_pshiftRel {sx sy : BitVec 4} (hi : s.pIssues h (.pshiftRel h sx sy) true false 0) :
    let by_ := (s.atIssue h 0).plane.regs.by_ + sy.toInt;
    let bx := (s.atIssue h 0).plane.regs.bx + sx.toInt;
    -7 ≤ by_ → by_ ≤ 7 → -7 ≤ bx → bx ≤ 7 →
    exec (.pshiftRel h sx sy) s = .next ((s.atIssue h 0).pRetire
      ((s.atIssue h 0).modRegs fun r => { r with by_ := by_, bx := bx }) h (.pshiftRel h sx sy) [] none) := by
  intro by_ bx hy1 hy2 hx1 hx2
  change execPshiftRel h sx sy s = _
  rw [execPshiftRel]
  exact State.pWord_done_nil hi rfl (State.shiftTo_ok ⟨hy1, hy2⟩ ⟨hx1, hx2⟩)

theorem exec_pzero {m : Byte} (hm : m ≠ 0) (hi : s.pIssues h (.pzero h m) true false 0) :
    exec (.pzero h m) s = .next ((s.atIssue h 0).pRetire ((s.atIssue h 0).zeroLayers m) h (.pzero h m) [] none) := by
  change execPzero h m s = _
  rw [execPzero]
  exact State.pWord_done_nil hi rfl (if_neg hm)

theorem exec_pchk {m : Byte} (hm : m ≠ 0) (hi : s.pIssues h (.pchk h m) true false 0)
    (hchecks : (s.atIssue h 0).plane.checked m = true) :
    exec (.pchk h m) s = .next ((s.atIssue h 0).pRetire (s.atIssue h 0) h (.pchk h m) [] none) := by
  change execPchk h m s = _
  rw [execPchk]
  exact State.pWord_done_nil hi rfl ((if_neg hm).trans (if_pos hchecks))

theorem exec_pmode {m : BitVec 3} (hi : s.pIssues h (.pmode h m) false false 0) (hm : m.toNat < 6) :
    exec (.pmode h m) s = .next ((s.atIssue h 0).pRetire ((s.atIssue h 0).modPlane fun p => { p with mode := m }) h (.pmode h m)
      [] none) := by
  change execPmode h m s = _
  rw [execPmode]
  exact State.pWord_done_nil hi rfl (if_neg (Nat.not_le.2 hm))

theorem exec_pmode_ill {m : BitVec 3} (hi : s.pIssues h (.pmode h m) false false 0) (hm : 6 ≤ m.toNat) :
    exec (.pmode h m) s = .next (s.hold cILL 0 false) := by
  change execPmode h m s = _
  rw [execPmode]
  exact State.pWord_pre hi rfl (if_pos hm)

theorem exec_pseg {steps : BitVec 24} {sig : W32} {inside : Bool}
    (hi : s.endSeg.pIssues h (.pseg h steps sig) inside false 0) (hseg : s.segOk) :
    exec (.pseg h steps sig) s = .next ((s.endSeg.atIssue h 0).pRetire ((s.endSeg.atIssue h 0).modRegs fun r =>
      { r with seg := some ⟨steps, sig, 0, 0xFFFFFFFF⟩ }) h (.pseg h steps sig) [] none) := by
  have htile : s.endSeg.plane.tile = inside := hi.1
  change execPseg h steps sig s = _
  rw [execPseg, State.pWord_endSeg hseg, State.pWord_any, htile]
  exact State.pWord_done_nil hi rfl rfl

end

theorem planeControl_claim : Claims.PlaneControl := by
  intro h s
  exact ⟨fun o => exec_ptile, exec_pcommit, fun sx sy hi => ⟨exec_pshift hi, exec_pshift_ill hi, exec_pshiftRel⟩,
    fun m hm => ⟨exec_pzero hm, exec_pchk hm⟩, fun m hi => ⟨exec_pmode hi, exec_pmode_ill hi⟩, fun steps sig inside => exec_pseg⟩

/-! ### Loops and the rendezvous (R41 to R43, R262, R263) -/

theorem Eng.loop_vmod (e : Eng) (n : Nat) (f : Loop → Loop) {k : Nat} (hk : k < 6) :
    ({ e with loops := vmod e.loops n f } : Eng).loop k = if k = n then f (e.loop k) else e.loop k := vget_vmod _ _ _ _ _ hk

/-- Whether a level may open is a matter of which levels are active. -/
theorem Eng.mayOpen_congr {e e' : Eng} (h : ∀ k, (e'.loop k).active = (e.loop k).active) (n : Nat) : e'.mayOpen n = e.mayOpen n := by
  simp only [Eng.mayOpen, Eng.loopAbove, h]

/-- A change of a level that leaves it active or not leaves every level so. -/
theorem Eng.loop_vmod_active (e : Eng) (n : Nat) {f : Loop → Loop} (hf : ∀ l, (f l).active = l.active) (k : Nat) :
    (({ e with loops := vmod e.loops n f } : Eng).loop k).active = (e.loop k).active := by
  rcases Nat.lt_or_ge k 6 with hk | hk
  · rw [Eng.loop_vmod _ _ _ hk]
    split
    · exact hf _
    · rfl
  · simp only [Eng.loop, vget, dif_neg (Nat.not_lt.2 hk)]

theorem State.modLoop_loop {s : State} (hst : s.cur.stream ≠ .c) (n : Nat) (f : Loop → Loop) {k : Nat} (hk : k < 6) :
    (s.modLoop n f).myEng.loop k = if k = n then f (s.myEng.loop k) else s.myEng.loop k := by
  rw [State.modLoop, State.myEng_modMyEng hst, Eng.loop_vmod _ _ _ hk]

theorem State.modLoop_mayOpen {s : State} (hst : s.cur.stream ≠ .c) (n : Nat) {f : Loop → Loop} (hf : ∀ l, (f l).active = l.active)
    (m : Nat) : (s.modLoop n f).myEng.mayOpen m = s.myEng.mayOpen m := by
  rw [State.modLoop, State.myEng_modMyEng hst]
  exact Eng.mayOpen_congr (Eng.loop_vmod_active _ n hf) m

/-- The four strides of a PLOOP (R41, R262). -/
def ploopStrides (o : PLoopOp) : Vector W32 4 :=
  #v[o.sa.signExtend 32, o.sb.signExtend 32, o.sc.signExtend 32, o.sd.signExtend 32]

/-- The state in which a PLOOP has written the strides of its level. -/
def State.strided (s : State) (o : PLoopOp) : State := s.modLoop o.lvl.toNat fun l => { l with s := ploopStrides o }

/-- The state in which a PLOOP has opened its level (R42, R262). -/
def State.pLooped (s : State) (o : PLoopOp) (count : W32) : State :=
  (s.strided o).modLoop o.lvl.toNat fun l => { l with active := true, n := count, i := 0, body := s.nextPc }

theorem State.pLooped_loop {s : State} (hst : s.cur.stream ≠ .c) (o : PLoopOp) (count : W32) {k : Nat} (hk : k < 6) :
    (s.pLooped o count).myEng.loop k =
      if k = o.lvl.toNat then ⟨true, count, 0, ploopStrides o, s.nextPc⟩ else s.myEng.loop k := by
  have hst' : (s.strided o).cur.stream ≠ .c := hst
  rw [State.pLooped, State.modLoop_loop hst' _ _ hk, State.strided, State.modLoop_loop hst _ _ hk]
  split <;> rfl

/-- A level that may open and has iterations opens with the strides of the word. -/
theorem State.strided_openLoop {s : State} (hst : s.cur.stream ≠ .c) {o : PLoopOp} {count : W32}
    (hopen : s.myEng.mayOpen o.lvl.toNat = true) (hcount : count ≠ 0) :
    (s.strided o).openLoop o.lvl.toNat count = .done (s.pLooped o count) [] none := by
  have hnext : (s.strided o).nextPc = s.nextPc := rfl
  have hopen' : (s.strided o).myEng.mayOpen o.lvl.toNat = true := by
    rw [State.strided, State.modLoop_mayOpen hst]
    · exact hopen
    · exact fun _ => rfl
  rw [State.openLoop_ok hopen' hcount, hnext, State.pLooped]

section
variable {h : Hdr} {s : State}

theorem exec_ploop {o : PLoopOp} {nq : Nat} (hnq : nq = if o.csrc then 1 else 0) {count : W32}
    (hcount : count = if o.csrc then entryCount ((s.endSeg.entriesAt nq).getD 0 0) else o.count.setWidth 32)
    (hi : s.endSeg.pIssues h (.ploop h o) false true nq) (hseg : s.segOk)
    (hopen : (s.endSeg.atIssue h nq).myEng.mayOpen o.lvl.toNat = true) (hne : count ≠ 0) (hst : s.cur.stream ≠ .c) :
    exec (.ploop h o) s =
      .next ((s.endSeg.atIssue h nq).pRetire ((s.endSeg.atIssue h nq).pLooped o count) h (.ploop h o) [] none) := by
  have hst1 : (s.endSeg.atIssue h nq).cur.stream ≠ .c := by rw [State.atIssue_cur]; exact hst
  subst hnq hcount
  change execPloop h o s = _
  rw [execPloop, State.pWord_endSeg hseg]
  exact State.pWord_done_nil hi rfl (State.strided_openLoop hst1 hopen hne)

theorem exec_pendl {n : BitVec 3} (hi : s.endSeg.pIssues h (.pendl h n) false true 0) (hseg : s.segOk)
    (htop : (s.endSeg.atIssue h 0).myEng.isTop n.toNat = true) :
    let s1 := s.endSeg.atIssue h 0
    let l := s1.myEng.loop n.toNat
    exec (.pendl h n) s = .next (if l.i.toNat + 1 < l.n.toNat
      then s1.pRetire (s1.modLoop n.toNat fun l => { l with i := l.i + 1 }) h (.pendl h n) [] (some l.body)
      else s1.pRetire (s1.modLoop n.toNat fun l => { l with active := false, i := l.i + 1 }) h (.pendl h n) [] none) := by
  intro s1 l
  have hclose := State.closeLoop_top htop
  change execPendl h n s = _
  rw [execPendl, State.pWord_endSeg hseg]
  split at hclose
  · next hmore => rw [if_pos hmore]; exact State.pWord_done_nil hi rfl hclose
  · next hlast => rw [if_neg hlast]; exact State.pWord_done_nil hi rfl hclose

theorem exec_pRdv (hi : s.endSeg.pIssues h (.pRdv h) false false 0) (hseg : s.segOk) :
    exec (.pRdv h) s = .next (((s.endSeg.atIssue h 0).pRetire
      ((s.endSeg.atIssue h 0).modMyEng fun e => { e with rdv := true }) h (.pRdv h) [] none).tryRetire s.cur.bench) := by
  change execPRdv h s = _
  rw [execPRdv, State.pWord_endSeg hseg, State.pWord_done_nil (place := .outside) hi rfl rfl]

end

theorem planeLoops_claim : Claims.PlaneLoops := by
  refine ⟨fun h o s => ?_, fun h n s => exec_pendl, fun h s => exec_pRdv⟩
  intro nq s1 count strides hi hseg hopen hne hst hlvl
  have hne_c : s.cur.stream ≠ .c := by rw [hst]; decide
  have hst1 : s1.cur.stream ≠ .c := by rw [State.atIssue_cur]; exact hne_c
  refine ⟨s1.pLooped o count, exec_ploop rfl rfl hi hseg hopen hne hne_c, ?_, fun k hk hother => ?_⟩
  · rw [State.pLooped_loop hst1 o count hlvl, if_pos rfl]; rfl
  · rw [State.pLooped_loop hst1 o count hk, if_neg hother]

/-- Settles O41: each word's body passes its checks in the state in which it issues, a word that ends a segment after it has ended. -/
theorem planeControl : Obligations.PlaneControl := ⟨planeControl_claim, planeLoops_claim⟩

end Sys2Proof.Machine
end

section
/-! O43: PDRAIN, PHSEND and PHRECV (R231, R233, R234, R255 to R257). -/

namespace Sys2Proof.Machine

theorem any_isNone_eq_false {α β : Type} {l : List α} {f : α → Option β} (hsome : ∀ a ∈ l, (f a).isSome = true) :
    (l.any fun a => (f a).isNone) = false := by
  rw [List.any_eq_false]
  intro a ha
  rw [Option.isNone_iff_eq_none, ← ne_eq, ← Option.isSome_iff_ne_none]
  exact hsome a ha

section
variable {h : Hdr} {s : State}

theorem exec_pdrain {o : PDrainOp} {r : Run} (hi : s.pIssues h (.pdrain h o) true false 0) :
    let s1 := s.atIssue h 0
    let vs := drainVals s1.plane.pgeo s1.plane.regs.a o
    let t := s1.modHere fun x => x.writeVals r s1.cap.mode vs
    o.zlo.toNat ≤ o.zhi.toNat → o.prof.toNat < 6 → fmtReserved (bfFmt (vget s1.cap.bfmt o.bop.bank.toNat 0)) = false →
    s1.cap.run o.bop vs.length = .ok r → s.pFree [r.acc vs.length true] →
    exec (.pdrain h o) s = .next (s1.pRetire (if o.clr then t.zeroLayers (drainMask o) else t) h (.pdrain h o)
      [r.acc vs.length true] none) := by
  intro s1 vs t hlayers hprof hfmt hrun hfree
  change execPdrain h o s = _
  rw [execPdrain]
  refine State.pWord_done hi rfl (show bodyPdrain o s1.cap s1 = _ from ?_) hfree
  unfold bodyPdrain
  extract_lets w
  rw [if_neg (Nat.not_lt.2 hlayers), if_neg (Nat.not_le.2 hprof), if_neg (by rw [show fmtReserved (bfFmt w) = false from hfmt]; decide),
    hrun]

/-- The state in which the reservations of PHSEND have been made, of those that can be (R233, R255). -/
def State.reserveSides (s1 : State) : State :=
  (geoSides s1.plane.pgeo).foldl (fun s hi =>
    match s1.mate s1.cur.bench (if hi then 1 else -1) with | some n => s.reserve n hi | none => s) s1

/-- The sides of the plane's tile are captured, to be sent when it commits (R231, R255). -/
def State.captureBands (s : State) (g : W32) : State :=
  s.modPlane fun p =>
    { p with
      sendLo := if geoHas g false then some (sentBand g p.regs.a false) else p.sendLo
      sendHi := if geoHas g true then some (sentBand g p.regs.a true) else p.sendHi
      sent := true }

theorem exec_phsend (hi : s.pIssues h (.phsend h) true false 0) :
    let s1 := s.atIssue h 0
    let g := s1.plane.pgeo
    (∀ hi ∈ geoSides g, (s1.mate s1.cur.bench (if hi then 1 else -1)).isSome = true) → (s1.plane.sent = false ∨ geoSides g = []) →
    (∀ hi ∈ geoSides g, s1.reserveSides.reserved hi = true) →
    exec (.phsend h) s = .next (s1.pRetire (s1.reserveSides.captureBands g) h (.phsend h) [] none) := by
  intro s1 g hmates hfirst hreserved
  have hnone : ((geoSides g).any fun hi => (s1.mate s1.cur.bench (if hi then 1 else -1)).isNone) = false := any_isNone_eq_false hmates
  have hagain : ¬(s1.plane.sent && !s1.plane.replay.isSome && !(geoSides g).isEmpty) = true := by
    rcases hfirst with hsent | hsides
    · simp [hsent]
    · simp [hsides]
  change execPhsend h s = _
  rw [execPhsend]
  refine State.pWord_done_nil hi rfl (show bodyPhsend s1.cap s1 = _ from ?_)
  unfold bodyPhsend
  extract_lets sides again to_ wait s2 have_
  rw [if_neg (by rw [show (sides.any fun hi => (to_ hi).isNone) = false from hnone, Bool.and_false]; decide), if_neg (by exact hagain),
    if_pos]
  · rfl
  · rw [List.all_eq_true]
    exact fun side hside => Bool.or_eq_true_iff.2 (.inl (hreserved side hside))

/-- The receive buffer of a side (R233). -/
def Plane.rxBand (p : Plane) (hi : Bool) : Option Band := if hi then p.rxHi else p.rxLo

theorem exec_phrecv (hi : s.pIssues h (.phrecv h) true false 0) :
    let s1 := s.atIssue h 0
    let g := s1.plane.pgeo
    let md := if s1.cap.prof = 4 then rmodeOf s1.cap.mode else .rne
    let add (r : PRegs) (hi : Bool) : PRegs :=
      match s1.plane.rxBand hi with | some b => r.merge g (s1.cap.prof != 3) md hi b | none => r
    s1.plane.sent = false → s1.plane.rxUsed = false → (∀ hi ∈ geoSides g, (s1.plane.rxBand hi).isSome = true) →
    exec (.phrecv h) s = .next (s1.pRetire (s1.modPlane fun p =>
      { p with regs := (geoSides g).foldl add p.regs, rxUsed := p.rxUsed || !(geoSides g).isEmpty }) h (.phrecv h) [] none) := by
  intro s1 g md add hsent hfresh hbands
  have hnone : ((geoSides g).any fun hi => (s1.plane.rxBand hi).isNone) = false := any_isNone_eq_false hbands
  change execPhrecv h s = _
  rw [execPhrecv]
  refine State.pWord_done_nil hi rfl (show bodyPhrecv s1.cap s1 = _ from ?_)
  unfold bodyPhrecv
  extract_lets p sides band
  have hgoes : ¬(p.sent && p.replay.isNone) = true := by simp [p, hsent]
  have hcame : ¬(!sides.isEmpty && ((p.rxUsed && p.replay.isNone) || sides.any fun hi => (band hi).isNone)) = true := by
    rw [show (sides.any fun hi => (band hi).isNone) = false from hnone]
    simp [p, hfresh]
  rw [if_neg hgoes, if_neg hcame]
  rfl

theorem exec_phrecv_ill (hi : s.pIssues h (.phrecv h) true false 0) (hreplay : (s.atIssue h 0).plane.replay = none)
    (hsent : (s.atIssue h 0).plane.sent = true) : exec (.phrecv h) s = .next (s.hold cILL 0 false) := by
  change execPhrecv h s = _
  rw [execPhrecv]
  exact State.pWord_pre hi rfl (if_pos (by rw [hsent, hreplay]; rfl))

end

/-- Settles O43: each word's body passes its checks in the state in which it issues; PHSEND's reservations are made before it captures. -/
theorem planeTransfers : Obligations.PlaneTransfers := by
  intro h s s1 g
  refine ⟨fun o r hi => exec_pdrain hi, ?phsend, ?phrecv, exec_phrecv_ill⟩
  case phsend =>
    intro mates s2 hi hmates hfirst hreserved
    exact exec_phsend hi (List.all_eq_true.1 hmates) hfirst hreserved
  case phrecv =>
    intro band md add hi _ hsent hfresh hbands
    exact exec_phrecv hi hsent hfresh hbands

end Sys2Proof.Machine
end

section
/-! SUPPORT. Retention registers (R187, R296, R298): what a walk leaves of them, and what a store to CTL makes of one. -/

namespace Sys2Proof.Machine

/-! ### A walk leaves the retention registers as they are (R187) -/

/-- The retention registers of the dies. -/
def retnsOf (ds : Vector Die 8) : Fin 8 → Vector Retn 4 := fun d => ds[d].retn

/-- The retention registers of the module. -/
def State.retns (s : State) : Fin 8 → Vector Retn 4 := retnsOf s.dies

theorem State.retns_def (s : State) : s.retns = retnsOf s.dies := rfl

theorem State.retnAt_of_retns {s t : State} (h : t.retns = s.retns) (d : Fin 8) (n : Nat) : t.retnAt d n = s.retnAt d n :=
  congrArg (fun v => vget v n _) (congrFun h d)

theorem State.modDie_retns (s : State) (d : Fin 8) (f : Die → Die) (hf : ∀ x, (f x).retn = x.retn) :
    (s.modDie d f).retns = s.retns := by
  funext e
  show ((s.modDie d f).die e).retn = (s.die e).retn
  rw [State.die_modDie]
  split
  · next he => rw [hf, he]
  · rfl

theorem State.dropSharers_retns (s : State) (ln : Nat) : (s.dropSharers ln).retns = s.retns := by
  funext e
  simp [State.retns, retnsOf, State.dropSharers]

theorem State.evictL2_retns (s : State) (v : L2Line) (ten : BitVec 6) : (s.evictL2 v ten).retns = s.retns := by
  grind -lia [State.evictL2, State.dropSharers_retns, State.touchChan, State.writeBack, State.retns_def]

theorem State.touchL2_retns (s : State) (pa : Nat) (leaf : Leaf) (pri : BitVec 2) (lru : Bool) (ten : BitVec 6) :
    (s.touchL2 pa leaf pri lru ten).retns = s.retns := by
  grind -lia [State.touchL2, State.takeToken_keeps, State.evictL2_retns, State.touchChan, State.retns_def]

theorem State.passL2_retns (s : State) (pa : Nat) (leaf : Leaf) (ten : BitVec 6) : (s.passL2 pa leaf ten).retns = s.retns :=
  congrArg retnsOf (s.passL2_keeps pa leaf ten).1

theorem State.noticeFrom_retns (s : State) (a : BitVec 6) (ln : Nat) : (s.noticeFrom a ln).retns = s.retns := by
  rw [State.noticeFrom]
  split <;> rfl

theorem State.fillRdc_retns (s : State) (d : Fin 8) (l : CopyLine) (pri : BitVec 2) : (s.fillRdc d l pri).retns = s.retns := by
  unfold State.fillRdc
  extract_lets held rest0 l' full victim rest t
  have ht : t.retns = s.retns := s.modDie_retns d _ fun _ => rfl
  cases victim with
  | none => exact ht
  | some v => exact (t.noticeFrom_retns _ v.line).trans ht

theorem Die.hitRdc_retn (x : Die) (l : CopyLine) (pri : BitVec 2) : (x.hitRdc l pri).retn = x.retn := by
  grind -lia [Die.hitRdc]

theorem State.fetchFor_retns {s : State} {d : Fin 8} {ten : BitVec 6} {leaf : Leaf} {pa : Nat} {sc : Scope} {pri : BitVec 2}
    {alloc : Bool} {r} (h : s.fetchFor d ten leaf pa sc pri alloc = some r) : r.1.retns = s.retns := by
  unfold State.fetchFor at h
  extract_lets ln away t narrow at h
  have ht : t.retns = s.retns := by
    unfold t
    split
    · exact s.touchL2_retns pa leaf pri false ten
    · exact s.passL2_retns pa leaf ten
  split at h
  · cases h
    exact s.modDie_retns d _ fun x => x.hitRdc_retn _ pri
  split at h
  · cases h
  cases hline : s.line ln with
  | mk data po =>
  simp only [hline] at h
  split at h
  · split at h
    · cases h
    · cases h
      have hfill : (t.fillRdc d ⟨ln, data, po, false⟩ pri).retns = s.retns := (t.fillRdc_retns d _ pri).trans ht
      dsimp only
      split <;> exact hfill
  · cases h
    exact ht

theorem State.readPhys_retns {s : State} {d : Fin 8} {ten : BitVec 6} {pa n : Nat} {r} (h : s.readPhys d ten pa n = some r) :
    r.1.retns = s.retns := by
  unfold State.readPhys at h
  split at h
  · cases h
  · next hfetch =>
    cases h
    exact State.fetchFor_retns hfetch
local grind_pattern State.readPhys_retns => s.readPhys d ten pa n, some r

theorem State.walk_retns (s : State) (d : Fin 8) (owner : BitVec 6) (va lvl tbl : Nat) :
    (s.walk d owner va lvl tbl).1.retns = s.retns := by
  induction lvl generalizing s tbl with
  | zero => grind -lia [State.walk]
  | succ n ih => grind -lia [State.walk]

theorem State.walkTenant_retns (s : State) (d : Fin 8) (ten : BitVec 6) (ent : Option TenEntry) (va : Nat) :
    (s.walkTenant d ten ent va).1.retns = s.retns := by
  cases ent with
  | none => rfl
  | some t =>
    rw [State.walkTenant]
    split
    · exact s.walk_retns d ten va 4 t.root
    · rfl

theorem State.retnCheck_retns (s : State) (d : Fin 8) (n : Nat) (ctl : W64) (ten : BitVec 6) :
    (s.retnCheck d n ctl ten).1.retns = s.retns := by
  unfold State.retnCheck
  extract_lets r va lines ways cnt others reservedSet
  split
  · rfl
  · have hwalk := s.walkTenant_retns d ten (s.entOf d ten) va
    split
    all_goals next hw => rw [hw] at hwalk; exact hwalk

/-! ### A store to CTL (R296, R298) -/

/-- A retention register of a die changes. -/
theorem State.retnAt_modDie (s : State) (d : Fin 8) {n : Nat} (hn : n < 4) (f : Retn → Retn) :
    (s.modDie d fun x => { x with retn := vmod x.retn n f }).retnAt d n = f (s.retnAt d n) := by
  rw [State.retnAt, State.die_modDie, if_pos rfl, vget_vmod _ _ _ _ _ hn, if_pos rfl, State.retnAt]

section
variable {s : State} {d : Fin 8} {n : Nat} {ctl : W64} {ten : BitVec 6}

theorem State.retnSet_mem : (s.retnSet d n ctl ten).mem = s.mem := State.standing_mem (s.retnSet_standing d n ctl ten)

/-- R296: an enabling store whose checks pass pins the range that they found. -/
theorem State.retnSet_pins (hn : n < 4) {f k : Nat} (h : (s.retnCheck d n ctl ten).2 = .at_ f k) :
    (s.retnSet d n ctl ten).retnAt d n =
      ⟨(s.retnAt d n).base, (s.retnAt d n).len, ctl.extractLsb' 16 16, true, false, ten, f, k⟩ := by
  have hret := s.retnCheck_retns d n ctl ten
  unfold State.retnSet
  generalize s.retnCheck d n ctl ten = r at h hret
  obtain ⟨t, p⟩ := r
  obtain rfl : p = .at_ f k := h
  rw [← State.retnAt_of_retns hret]
  exact t.retnAt_modDie d hn _

/-- R296: an enabling store that is refused sets ERR (log entry 49: and takes WAYS and TENANT). -/
theorem State.retnSet_refuses (hn : n < 4) (h : (s.retnCheck d n ctl ten).2 = .refused) :
    (s.retnSet d n ctl ten).retnAt d n = { s.retnAt d n with ways := ctl.extractLsb' 16 16, err := true, tenant := ten } := by
  have hret := s.retnCheck_retns d n ctl ten
  unfold State.retnSet
  generalize s.retnCheck d n ctl ten = r at h hret
  obtain ⟨t, p⟩ := r
  obtain rfl : p = .refused := h
  rw [← State.retnAt_of_retns hret]
  exact t.retnAt_modDie d hn _

end

/-- R296, R298: a store with EN clear unpins an enabled range, and keeps WAYS; it writes WAYS of a disabled register. -/
theorem State.retnClear_retnAt (s : State) (d : Fin 8) {n : Nat} (hn : n < 4) (ctl : W64) :
    (s.retnClear d n ctl).retnAt d n =
      if (s.retnAt d n).en then { s.retnAt d n with en := false } else { s.retnAt d n with ways := ctl.extractLsb' 16 16 } :=
  s.retnAt_modDie d hn _

/-- RETN_ENABLE of a disabled register, whose walk does not wait, sets it. -/
theorem exec_retnEnable {s : State} :
    let br := s.cur.bring
    let n := br.n % 4
    s.reachable = true → br.val.getLsbD 0 = true → (s.retnAt br.die n).en = false → s.retnWaits br.die n br.val br.tenant = false →
    exec .retnEnable s = .next (s.retnSet br.die n br.val br.tenant) := by
  intro br n hreach hen hoff hwaits
  change execRetnEnable s = _
  have hctl : s.retnCtl br.die n br.val br.tenant = s.retnSet br.die n br.val br.tenant := by
    rw [State.retnCtl, if_pos hen, if_neg (by rw [Bool.not_eq_true]; exact hoff)]
  rw [execRetnEnable, if_neg (by simp [hreach, hen, br]), if_neg (by rw [Bool.not_eq_true]; exact hwaits), hctl]

/-- RETN_DISABLE clears EN, or writes WAYS of a register that is disabled. -/
theorem exec_retnDisable {s : State} (hreach : s.reachable = true) (hen : s.cur.bring.val.getLsbD 0 = false) :
    exec .retnDisable s = .next (s.retnClear s.cur.bring.die (s.cur.bring.n % 4) s.cur.bring.val) := by
  change execRetnDisable s = _
  rw [execRetnDisable, if_pos (by rw [hreach, hen]; rfl), State.retnCtl, if_neg (by rw [hen]; decide)]

end Sys2Proof.Machine
end

section
/-! SUPPORT. Writes of a host to device space (R426, R427, R439, R440, R457): the owner's, and those of another host. -/

namespace Sys2Proof.Machine

/-! ### The regions of a host's write (R426, R440) -/

theorem devicePopulated_iff {pa : Nat} :
    devicePopulated pa = true ↔ (0xFF00000000 ≤ pa ∧ pa < 0xFF00110000) ∧ (pa < 0xFF00080000 ∨ 0xFF00100000 ≤ pa) := by
  simp only [devicePopulated, Bool.and_eq_true, Bool.or_eq_true, decide_eq_true_eq]

theorem State.region_device {s : State} {pa : Nat} (h : devicePopulated pa = true) : s.region pa = .device := by
  obtain ⟨⟨hlo, hhi⟩, -⟩ := devicePopulated_iff.1 h
  rw [State.region, if_neg (by omega), if_pos (by omega), if_pos h]

theorem devicePopulated_page {d : Fin 8} {o : Nat} (ho : o < 65536) : devicePopulated (0xFF00000000 + 65536 * d.val + o) = true :=
  devicePopulated_iff.2 (by omega)

theorem devicePopulated_mail {o : Nat} (ho : o < 65536) : devicePopulated (0xFF00100000 + o) = true :=
  devicePopulated_iff.2 (by omega)

/-- No host is barred from what it owns. -/
theorem State.ownerWrites.not_barred {s : State} (h : s.ownerWrites) (pa : Nat) : s.hostBarred s.cur.bring.host pa = false := by
  have howns : s.owns s.cur.bring.host = true := by rw [State.owns, h.2, beq_self_eq_true]
  rw [State.hostBarred, howns, Bool.not_true, Bool.and_false]

/-- R440: a host that is not the owner is barred from device space but for CLAIM and the attestation request. -/
theorem State.hostBarred_of_not_owner {s : State} {h : BitVec 4} {pa : Nat} (howner : s.mailbox.owner ≠ some h)
    (hpop : devicePopulated pa = true) (hclaim : ¬(0xFF00100008 ≤ pa ∧ pa < 0xFF00100010))
    (hattest : ¬(0xFF00100400 ≤ pa ∧ pa < 0xFF00100428)) : s.hostBarred h pa = true := by
  have howns : s.owns h = false := by rw [State.owns, beq_eq_false_iff_ne]; exact howner
  have honly : s.ownersOnly pa = true := by
    rw [State.ownersOnly, State.region_device hpop]
    simp only [decide_eq_false hclaim, decide_eq_false hattest, Bool.or_self, Bool.not_false]
  rw [State.hostBarred, hpop, honly, howns]
  rfl

/-! ### Writes of 64 bits (R426, R440) -/

/-- The owner writes a register of a die's control page that is no CTL of a retention register. -/
theorem State.ownerWrites.page {s : State} (h : s.ownerWrites) {d : Fin 8} {o : Nat} (ho : o < 65536) (halign : o % 8 = 0)
    (hctl : ¬(0x100 ≤ o ∧ o < 0x180 ∧ o % 0x20 = 0x10)) (val : W64) :
    s.hostWrite s.cur.bring.host (0xFF00000000 + 65536 * d.val + o) val = s.pageWrite d o val 0 := by
  have hoff : (0xFF00000000 + 65536 * d.val + o) % 65536 = o := by omega
  have hdie : dieAt ((0xFF00000000 + 65536 * d.val + o - 0xFF00000000) / 65536) = d := Fin.ext (by simp only [dieAt]; omega)
  rw [State.hostWrite, hoff, hdie, if_neg (by simp [h.1, devicePopulated_page ho]), if_neg (by simp [h.not_barred]),
    if_neg (by simp only [bne_iff_ne]; omega), if_neg (by omega), if_neg hctl]

/-- The owner writes a register of the mailbox. -/
theorem State.ownerWrites.mail {s : State} (h : s.ownerWrites) {o : Nat} (ho : o < 65536) (halign : o % 8 = 0) (val : W64) :
    s.hostWrite s.cur.bring.host (0xFF00100000 + o) val = s.hostMail s.cur.bring.host o val := by
  have hoff : (0xFF00100000 + o) % 65536 = o := by omega
  rw [State.hostWrite, hoff, if_neg (by simp [h.1, devicePopulated_mail ho]), if_neg (by simp [h.not_barred]),
    if_neg (by simp only [bne_iff_ne]; omega), if_pos (by omega)]

theorem State.hostWrite_barred {s : State} {h : BitVec 4} {pa : Nat} (hreach : s.reachable = true)
    (hbar : s.hostBarred h pa = true) (val : W64) : s.hostWrite h pa val = s.logErr 0 pa 8 h.toNat := by
  have hpop : devicePopulated pa = true := by simp only [State.hostBarred, Bool.and_eq_true] at hbar; exact hbar.1.1
  rw [State.hostWrite, if_neg (by simp [hreach, hpop]), if_pos hbar, State.discardWrite]

/-! ### The registers (R402, R427, R439, R457) -/

/-- A word by its upper, middle and lower bits. -/
theorem word_fields {a b c : Nat} (val : BitVec (a + b + c)) :
    val = val.extractLsb' (b + c) a ++ val.extractLsb' c b ++ val.extractLsb' 0 c := by
  rw [BitVec.extractLsb'_append_extractLsb'_eq_extractLsb' (Nat.add_comm b c), BitVec.extractLsb'_append_extractLsb']

/-- R427: a window keeps V and MODULE of what is written. -/
theorem fwin_word (val : W64) : bit (val.getLsbD 63) ++ 0#49 ++ val.extractLsb' 0 14 = val &&& 0x8000000000003FFF#64 := by
  have hmask : (0x8000000000003FFF#64 : W64) = BitVec.allOnes 1 ++ 0#49 ++ BitVec.allOnes 14 := rfl
  have htop : val.extractLsb' 63 1 = bit (val.getLsbD 63) := by ext i hi; simp [show i = 0 by omega]
  conv_rhs => rw [hmask, word_fields (a := 1) (b := 49) (c := 14) val]
  rw [BitVec.and_append, BitVec.and_append, BitVec.and_allOnes, BitVec.and_zero, BitVec.and_allOnes, htop]

/-- R402: TTBASE keeps bits [47:12]. -/
theorem ttbase_word (val : W64) : 0#16 ++ val.extractLsb' 12 36 ++ 0#12 = val &&& 0x0000FFFFFFFFF000#64 := by
  have hmask : (0x0000FFFFFFFFF000#64 : W64) = 0#16 ++ BitVec.allOnes 36 ++ 0#12 := rfl
  conv_rhs => rw [hmask, word_fields (a := 16) (b := 36) (c := 12) val]
  rw [BitVec.and_append, BitVec.and_append, BitVec.and_zero, BitVec.and_allOnes, BitVec.and_zero]

/-- The lower ten bits of a word, as a number. -/
theorem lowTen_toNat (val : W64) : (val.extractLsb' 0 10).toNat = val.toNat % 1024 := by
  rw [BitVec.extractLsb'_toNat, Nat.shiftRight_zero]

/-- R457: DCAP is clamped to 100 to 560 W. -/
theorem clampCap_toNat (val : W64) : (clampCap val).toNat = min 560 (max 100 (val.toNat % 1024)) := by
  unfold clampCap
  extract_lets v
  have hv : v = val.toNat % 1024 := lowTen_toNat val
  rw [BitVec.toNat_ofNat, hv]
  split
  · omega
  · split <;> omega

/-- R427: a write to a window leaves the others. -/
theorem State.fwinSet_fwin (s : State) {w : Nat} (hw : w < 128) (val : W64) (k : Nat) :
    vget (s.fwinSet w val).fwin k 0 = if k = w then val &&& 0x8000000000003FFF#64 else vget s.fwin k 0 := by
  by_cases hk : k < 128
  · rw [← fwin_word]
    exact vget_vset _ _ _ _ _ hk
  · have hne : k ≠ w := by omega
    rw [if_neg hne]
    simp only [vget, dif_neg hk]

theorem exec_fwinWrite {s : State} (h : s.ownerWrites) : exec .fwinWrite s = .next (s.fwinSet (s.cur.bring.n % 128) s.cur.bring.val) := by
  change execFwinWrite s = _
  have hw : s.cur.bring.n % 128 < 128 := Nat.mod_lt _ (by decide)
  have hpa : 0xFF00000A00 + 8 * (s.cur.bring.n % 128) = 0xFF00000000 + 65536 * (0 : Fin 8).val + (0xA00 + 8 * (s.cur.bring.n % 128)) := by
    rw [Fin.val_zero]
    omega
  have hidx : (0xA00 + 8 * (s.cur.bring.n % 128) - 0xA00) / 8 = s.cur.bring.n % 128 := by omega
  rw [execFwinWrite, hpa, h.page (by omega) (by omega) (by omega), State.pageWrite, if_neg (by omega),
    if_pos ⟨by omega, by omega, rfl⟩, hidx]

theorem exec_dcapWrite {s : State} (h : s.ownerWrites) :
    exec .dcapWrite s = .next (s.modDie s.cur.bring.die fun x => { x with dcap := clampCap s.cur.bring.val }) := by
  change execDcapWrite s = _
  have hpa : 0xFF00000E00 + 0x10000 * s.cur.bring.die.val = 0xFF00000000 + 65536 * s.cur.bring.die.val + 0xE00 := by omega
  rw [execDcapWrite, hpa, h.page (by decide) (by decide) (by decide)]
  rfl

/-- A write of the owner that is not of 64 bits changes nothing (log entry 33 of a wider one). -/
theorem exec_registerWrite_other {s : State} (h : s.ownerWrites) (hlen : s.cur.bring.len ≠ 8) : exec .registerWrite s = .next s := by
  change execRegisterWrite s = _
  rw [execRegisterWrite, if_neg hlen, if_neg (by simp [h.not_barred])]

theorem exec_registerWrite {s : State} (hlen : s.cur.bring.len = 8) :
    exec .registerWrite s = .next (s.hostWrite s.cur.bring.host s.cur.bring.pa s.cur.bring.val) := by
  change execRegisterWrite s = _
  rw [execRegisterWrite, if_pos hlen]

/-- R440: a write of another host, of any length, is discarded and logged. -/
theorem exec_registerWrite_barred {s : State} (hreach : s.reachable = true)
    (hbar : s.hostBarred s.cur.bring.host s.cur.bring.pa = true) :
    exec .registerWrite s = .next (s.logErr 0 s.cur.bring.pa 8 s.cur.bring.host.toNat) := by
  by_cases hlen : s.cur.bring.len = 8
  · rw [exec_registerWrite hlen, State.hostWrite_barred hreach hbar]
  · change execRegisterWrite s = _
    rw [execRegisterWrite, if_neg hlen, if_pos (by rw [hreach, hbar]; rfl), State.discardWrite]

/-- R402: the owner's write of a die's TTBASE. -/
theorem exec_registerWrite_ttbase {s : State} (h : s.ownerWrites) (hlen : s.cur.bring.len = 8)
    (hpa : s.cur.bring.pa = 0xFF00000040 + 65536 * s.cur.bring.die.val) :
    exec .registerWrite s =
      .next (s.modDie s.cur.bring.die fun x => { x with ttbase := 0#16 ++ s.cur.bring.val.extractLsb' 12 36 ++ 0#12 }) := by
  have hpage : s.cur.bring.pa = 0xFF00000000 + 65536 * s.cur.bring.die.val + 0x40 := by omega
  rw [exec_registerWrite hlen, hpage, h.page (by decide) (by decide) (by decide)]
  rfl

/-- R439: the owner's write of TEN and DIE, without GO. -/
theorem exec_registerWrite_mail {s : State} (h : s.ownerWrites) (hlen : s.cur.bring.len = 8) (hpa : s.cur.bring.pa = 0xFF00100180)
    (hgo : s.cur.bring.val.getLsbD 63 = false) : exec .registerWrite s = .next (s.mailWrite 0x180 s.cur.bring.val) := by
  have hmail : s.cur.bring.pa = 0xFF00100000 + 0x180 := hpa
  rw [exec_registerWrite hlen, hmail, h.mail (by decide) (by decide), State.hostMail, if_neg (by decide), if_neg (by decide),
    if_pos (by rfl)]
  simp only [hgo, Bool.false_eq_true, if_false]

/-! ### The claim (R296, R298, R402, R426, R427, R439, R440, R457) -/

theorem registerEvents_claim : Claims.RegisterEvents := by
  intro s br n r ways
  have hn : n < 4 := Nat.mod_lt _ (by decide)
  refine ⟨fun hreach hen hoff hwaits => ?enable, fun hreach hen => ?disable, fun h => ?fwin, fun h => ?dcap,
    exec_registerWrite_other, fun h hlen hpa => ?ttbase, fun h hlen hpa hgo => ?mail, fun hreach howner => ⟨fun hpa => ?other, ?window⟩⟩
  case enable =>
    exact ⟨_, exec_retnEnable hreach hen hoff hwaits, State.retnSet_mem, fun _ _ => State.retnSet_pins hn, State.retnSet_refuses hn⟩
  case disable => exact ⟨_, exec_retnDisable hreach hen, rfl, s.retnClear_retnAt br.die hn br.val⟩
  case fwin =>
    have hset := s.fwinSet_fwin (Nat.mod_lt br.n (by decide)) br.val
    exact ⟨_, exec_fwinWrite h, (hset _).trans (if_pos rfl), fun w hw => (hset w).trans (if_neg hw)⟩
  case dcap =>
    refine ⟨_, exec_dcapWrite h, ?_⟩
    rw [State.die_modDie, if_pos rfl]
    exact clampCap_toNat br.val
  case ttbase =>
    refine ⟨_, exec_registerWrite_ttbase h hlen hpa, ?_⟩
    rw [State.die_modDie, if_pos rfl]
    exact ttbase_word br.val
  case mail => exact ⟨_, exec_registerWrite_mail h hlen hpa hgo, rfl, rfl, rfl, rfl⟩
  case other =>
    have hpa' : s.cur.bring.pa = 0xFF00100180 := hpa
    exact exec_registerWrite_barred hreach
      (State.hostBarred_of_not_owner howner (devicePopulated_iff.2 (by omega)) (by omega) (by omega))
  case window =>
    have hw : br.n % 128 < 128 := Nat.mod_lt _ (by decide)
    change execFwinWrite s = _
    rw [execFwinWrite, State.hostWrite_barred hreach
      (State.hostBarred_of_not_owner howner (devicePopulated_iff.2 (by omega)) (by omega) (by omega))]

end Sys2Proof.Machine
end

section
/-! O57: writes of device registers (R296, R298, R402, R426, R427, R439, R440), the power cap and telemetry (R456 to R458). -/

namespace Sys2Proof.Machine

/-! ### The power cap (R457, R458) -/

section
variable {pwr cap : Nat} {duty : BitVec 5} (choice : Nat)

/-- R458: above the cap, the duty goes down, or is the least. -/
theorem nextDuty_down (h : cap < pwr) : (nextDuty pwr cap duty choice).toNat < duty.toNat ∨ nextDuty pwr cap duty choice = 1 := by
  have hd : duty.toNat < 32 := duty.isLt
  rw [nextDuty, if_pos h]
  split
  · left
    rw [BitVec.toNat_ofNat]
    omega
  · split
    · exact .inr rfl
    · left
      rw [BitVec.toNat_ofNat]
      omega

/-- R458: below the cap, the duty goes up, or is the greatest. -/
theorem nextDuty_up (h : pwr < cap) : duty.toNat < (nextDuty pwr cap duty choice).toNat ∨ nextDuty pwr cap duty choice = 16 := by
  rw [nextDuty, if_neg (by omega), if_pos h]
  split
  · left
    rw [BitVec.toNat_ofNat]
    omega
  · split
    · exact .inr rfl
    · left
      rw [BitVec.toNat_ofNat]
      omega

theorem nextDuty_same (h : pwr = cap) : nextDuty pwr cap duty choice = duty := by
  rw [nextDuty, if_neg (by omega), if_neg (by omega)]

end

/-- What the controller makes of a die, from LIM and its choice (R457, R458). -/
def Die.capped (x : Die) (lim : BitVec 10) (choice : Nat) : Die :=
  { x with lim := lim, duty := nextDuty x.pwr.toNat (min (min x.dcap.toNat lim.toNat) 560) x.duty choice }

theorem exec_powerCapControl {s : State} (hclk : s.clk % 16 = 0) (hfresh : s.hasStepped s.cur.bring.die = false) :
    exec .powerCapControl s =
      .next (s.modDie s.cur.bring.die fun x => x.capped (s.cur.bring.val.extractLsb' 0 10) s.cur.bring.n) := by
  change execPowerCapControl s = _
  rw [execPowerCapControl, if_neg (by simp [hclk, hfresh])]
  rfl

theorem exec_powerCapControl_idle {s : State} (h : s.clk % 16 ≠ 0 ∨ s.hasStepped s.cur.bring.die = true) :
    exec .powerCapControl s = .next s := by
  change execPowerCapControl s = _
  rw [execPowerCapControl, if_pos (by simpa using h)]

/-! ### Telemetry (R456, R457) -/

/-- The die which is refreshed first at a boundary brings the shared input. -/
theorem State.sharedInput_first {s : State} {at_ : Nat} (h : ∀ d, (s.die d).telemAt < at_) (new : Stage) :
    s.sharedInput at_ new = new := by
  have hnone : firstWhere (fun x : Die => x.telemAt == at_) s.dies.toList = none := by
    refine firstWhere_eq_none.2 fun x hx => ?_
    obtain ⟨i, hi, rfl⟩ := Vector.mem_iff_getElem.1 (Vector.mem_toList_iff.1 hx)
    exact beq_eq_false_iff_ne.2 (h ⟨i, hi⟩).ne
  rw [State.sharedInput, hnone]

/-- A die with a new shared input (R456). -/
def Die.withInput (x : Die) (input : Stage) : Die := { x with telem := vset x.telem 0 input }

/-- The shared input is read in every die (R456). -/
def State.withInput (s : State) (input : Stage) : State := { s with dies := s.dies.map fun x => x.withInput input }

/-- A die that is refreshed at a clk, with the stages and the power that are brought (R456, R457). -/
def Die.refreshed (x : Die) (br : Brought) (at_ : Nat) : Die :=
  { x.withStages (br.stages.getD 0 ⟨0, 0, 0⟩ :: br.stages.drop 1) with pwr := br.val.extractLsb' 0 10, telemAt := at_ }

/-- The state after the refresh of a die, which brings the shared input for every die. -/
def State.refreshed (s : State) : State :=
  (s.withInput (s.cur.bring.stages.getD 0 ⟨0, 0, 0⟩)).modDie s.cur.bring.die fun x => x.refreshed s.cur.bring s.clk

theorem exec_telemetryRefresh {s : State} (hclk : s.clk % 2 ^ 16 = 0) (hall : ∀ d, (s.die d).telemAt < s.clk) :
    exec .telemetryRefresh s = .next s.refreshed := by
  change execTelemetryRefresh s = _
  rw [execTelemetryRefresh, if_neg (by simp [show s.clk % 65536 = 0 from hclk, hall]), State.sharedInput_first hall]
  rfl

theorem exec_telemetryRefresh_idle {s : State} (h : s.clk % 2 ^ 16 ≠ 0 ∨ s.clk ≤ (s.die s.cur.bring.die).telemAt) :
    exec .telemetryRefresh s = .next s := by
  change execTelemetryRefresh s = _
  rw [execTelemetryRefresh, if_pos (by simpa using h)]

theorem Die.refreshed_telem (x : Die) (br : Brought) (at_ : Nat) (k : Fin 4) :
    (x.refreshed br at_).telem[k] = br.stages.getD k.val ⟨0, 0, 0⟩ := by
  have hlist : (x.refreshed br at_).telem[k] = (br.stages.getD 0 ⟨0, 0, 0⟩ :: br.stages.drop 1).getD k.val ⟨0, 0, 0⟩ :=
    Vector.getElem_ofFn k.isLt
  rw [hlist]
  cases hs : br.stages with
  | nil => match k with | 0 | 1 | 2 | 3 => rfl
  | cons a l => rfl

theorem Die.withInput_telem (x : Die) (input : Stage) : (x.withInput input).telem[(0 : Fin 4)] = input :=
  Vector.getElem_set_self _

theorem State.withInput_die (s : State) (input : Stage) (d : Fin 8) : (s.withInput input).die d = (s.die d).withInput input :=
  Vector.getElem_map _ d.isLt

/-- Every die reads the shared input that a refresh brings. -/
theorem State.refreshed_input (s : State) (d : Fin 8) :
    (s.refreshed.die d).telem[(0 : Fin 4)] = s.cur.bring.stages.getD 0 ⟨0, 0, 0⟩ := by
  by_cases hd : d = s.cur.bring.die
  · have hdie : s.refreshed.die d = Die.refreshed _ s.cur.bring s.clk := (State.die_modDie _ _ _ _).trans (if_pos hd)
    rw [hdie]
    exact Die.refreshed_telem _ _ _ 0
  · have hdie : s.refreshed.die d = (s.withInput _).die d := (State.die_modDie _ _ _ _).trans (if_neg hd)
    rw [hdie, State.withInput_die]
    exact Die.withInput_telem _ _

/-- R456: after the passing of a boundary every die has been refreshed at it. -/
theorem State.refreshAll_telemAt (s : State) (at_ : Nat) (d : Fin 8) : at_ ≤ ((s.refreshAll at_).die d).telemAt := by
  unfold State.refreshAll
  extract_lets input stage
  rw [State.die, Fin.getElem_fin, Vector.getElem_ofFn]
  split
  · exact le_rfl
  · next hseen => exact not_lt.1 hseen

/-- R456: no clk passes a boundary of 2^16 clk without a refresh. -/
theorem State.advance_telemAt {s : State} {dt k : Nat} (hdt : 0 < dt) (hfrom : s.clk ≤ 2 ^ 16 * k) (hto : 2 ^ 16 * k < s.clk + dt)
    (d : Fin 8) : 2 ^ 16 * k ≤ ((s.advance dt).die d).telemAt := by
  unfold State.advance
  extract_lets left s'
  have hle : 2 ^ 16 * k ≤ left := by unfold left; omega
  rw [if_neg hdt.ne']
  have hs' : s' = s.refreshAll left := if_pos (hfrom.trans hle)
  exact hle.trans (hs' ▸ s.refreshAll_telemAt left d)

theorem State.advance_clk (s : State) {dt : Nat} (hdt : 0 < dt) : (s.advance dt).clk = s.clk + dt := by
  rw [State.advance, if_neg hdt.ne']

/-! ### The claims -/

theorem powerEvents_claim : Claims.PowerEvents := by
  intro s br x
  refine ⟨fun hclk hfresh => ?cap, exec_powerCapControl_idle, exec_telemetryRefresh_idle, fun hclk hall => ?refresh,
    fun dt hdt => ⟨s.advance_clk hdt, fun k d hfrom hto => State.advance_telemAt hdt hfrom hto d⟩⟩
  case cap =>
    refine ⟨_, exec_powerCapControl hclk hfresh, ?_⟩
    rw [State.die_modDie, if_pos rfl, ← lowTen_toNat]
    exact ⟨rfl, rfl, rfl, nextDuty_down br.n, nextDuty_up br.n, nextDuty_same br.n⟩
  case refresh =>
    have hdie : s.refreshed.die br.die = Die.refreshed _ br s.clk := (State.die_modDie _ _ _ _).trans (if_pos rfl)
    refine ⟨_, exec_telemetryRefresh hclk hall, ?_, fun k => ?_, ?_, s.refreshed_input⟩
    · rw [hdie]
      exact (BitVec.setWidth_eq_extractLsb' (by decide)).symm
    · rw [hdie]
      exact Die.refreshed_telem _ _ _ k
    · rw [hdie]
      rfl

/-- Settles O57: each write of a register by the equation of its event, the walk that an enabling write makes leaving the retention
registers as they are; the duty by the cases of the controller's choice; and telemetry, as the last boundary that the clk leaves behind
is no earlier than any that it passes, and every die has been refreshed at it. -/
theorem registerEvents : Obligations.RegisterEvents := ⟨registerEvents_claim, powerEvents_claim⟩

end Sys2Proof.Machine
end

section
/-! O39: FBIND, FLOAD and FGATH (R284, R287, R308, R310, R312). -/

namespace Sys2Proof.Machine

/-! ### The run of a bank operand (R45, R52) -/

/-- An engine that has captured nothing captures the run that its operand names now. -/
theorem State.opRun.capRun {s : State} {o : Bop} {n : Nat} {r : Run} (h : s.opRun o n r) :
    runAt s.cap.bfmt s.cap.frames o.bank.toNat (bopOffset s.cap.loops o) n = .ok r := by
  obtain ⟨hcap, hrun⟩ := h
  rw [State.cap, hcap]
  exact hrun

/-- A run has the format of its bank. -/
theorem runAt_fmt {bfmt : Vector W32 16} {frames : Vector (BitVec 256) 8} {bank : Nat} {off : Int} {n : Nat} {r : Run}
    (h : runAt bfmt frames bank off n = .ok r) : bfFmt (vget bfmt bank 0) = r.fmt := by
  unfold runAt at h
  extract_lets w g at h
  split at h
  · cases h
  · split at h
    · cases h
    · cases h
      rfl

/-! ### FBIND (R284, R308) -/

/-- The dimensions of a descriptor, the last with the count that has been popped for it, if one has (R308). -/
def boundDims (ws : List W64) (count : Option W32) : List (W32 × W32) :=
  let dims := fdDimList ws (fdDims (ws.getD 0 0))
  let last := fdDims (ws.getD 0 0) - 1
  match count with
  | some c => dims.set last (c, (dims.getD last (0, 0)).2)
  | none => dims

/-- The state in which a feed has been bound to a descriptor and a base. -/
def State.withFeed (s : State) (n : Nat) (ws : List W64) (count : Option W32) (base : W64) : State :=
  s.modHere fun x => (x.modFeed n fun _ =>
    boundFeed (ws.getD 0 0) (boundDims ws count) base (x.frame (fdFrame (ws.getD 0 0)))).dropEngineAsks

/-- A descriptor and a base that pass R284 bind the feed. -/
theorem State.bind_ok {ws : List W64} {count : Option W32} {base : W64} (hok : bindFault ws (boundDims ws count) base = none)
    (s : State) (n : Nat) : s.bind n ws count base = .done (s.withFeed n ws count base) [feedAcc n] none := by
  unfold State.bind
  extract_lets ctl k dims dims'
  rw [show bindFault ws dims' base = none from hok]
  rfl

/-- A descriptor that asks for no count is bound as it is. -/
theorem State.bindRead_tame {ws : List W64} (hwild : fdWild (ws.getD 0 0) = false) (s : State) (n : Nat) (more : List W64) (base : W64) :
    s.bindRead n ws more base = s.bind n ws none base := by
  rw [State.bindRead, if_neg (by rw [hwild]; decide)]

/-- A descriptor that asks for a count pops it. -/
theorem State.bindRead_wild {s : State} {ws : List W64} {v : W64} {rest : List W64} (hwild : fdWild (ws.getD 0 0) = true)
    (hcount : s.here.queued 0 = v :: rest) (n : Nat) (more : List W64) (base : W64) :
    s.bindRead n ws more base = (s.modHere fun x => x.popQueue 0 1).bind n ws (some (entryCount v)) base := by
  rw [State.bindRead, if_pos hwild, hcount]

section
variable {h : Hdr} {s t : State} {tr : Option Leaf} {ls : List (Nat × Nat)}

/-- FBIND whose descriptor is read in its turn comes to what the binding does with it. -/
theorem exec_fbind {o : LBind} {bs : List Byte} {nq : Nat} (hnq : nq = if o.dsrc then 2 else 1) {u : State}
    (hi : s.issues h false nq) (hents : (s.entriesAt nq).length = nq)
    (hread : (s.atIssue h nq).fetchPieces (s.atIssue h nq).cur.bench ⟨.sp, 1, false, some .l⟩
      [(descAddr o (s.atIssue h nq).cur.pc (s.entriesAt nq), 64)] none = .ok t bs tr ls)
    (hbind : (t.bound ls).bindRead o.feed.toNat (words8 bs) (words8 bs) ((s.entriesAt nq).getD (nq - 1) 0) =
      .done u [feedAcc o.feed.toNat] none)
    (hover : s.noOverlap [feedAcc o.feed.toNat]) :
    exec (.fbind h o) s = .next (u.retire h.give [feedAcc o.feed.toNat] none) := by
  subst hnq
  change execFbind h o s = _
  rw [execFbind]
  refine State.issue_done hi ?_ hover
  dsimp only
  rw [if_neg (by rw [hents]; exact lt_irrefl _), hread]
  exact hbind

/-! ### FLOAD (R310) -/

/-- FLOAD whose block is popped in its turn, and fits its bank, puts it there. -/
theorem exec_fload {o : LLoad} {r : Run} {f : Feed} {k : FBlock} (hi : s.issues h false 0)
    (hrun : (s.atIssue h 0).opRun o.bop 1 r)
    (hpop : (s.atIssue h 0).popBlock (s.atIssue h 0).cur.bench o.feed.toNat = .ok t f k)
    (hfits : inBank r.off (r.bytes k.n) = true) (hover : s.noOverlap [r.acc k.n true, feedAcc o.feed.toNat]) :
    exec (.fload h o) s =
      .next ((t.modHere fun x => x.blockIn r o.rm f k).retire h.give [r.acc k.n true, feedAcc o.feed.toNat] none) := by
  change execFload h o s = _
  rw [execFload]
  refine State.issue_done hi ?_ hover
  dsimp only
  rw [hrun.capRun]
  dsimp only
  rw [hpop]
  exact if_neg (by rw [hfits]; decide)

/-! ### FGATH (R312) -/

theorem Bench.indexList_length (x : Bench) (bank off : Nat) : (x.indexList bank off).2.length = (x.indexList bank off).1 :=
  (List.length_map _).trans (upTo_length _)

/-- An index list without a fault has at most 128 indices. -/
theorem Bench.indexFault_none_count {x : Bench} {bank off limit : Nat} (h : x.indexFault bank off limit = none) :
    (x.indexList bank off).1 ≤ 128 := by
  have hgood : x.indexBad bank off limit = false := by
    unfold Bench.indexFault at h
    extract_lets n at h
    split at h
    · cases h
    · split at h
      · cases h
      · split at h
        · cases h
        · next hbad => exact Bool.eq_false_iff.2 hbad
  simp only [Bench.indexBad, Bool.or_eq_false_iff, decide_eq_false_iff_not, not_lt] at hgood
  exact hgood.1.1

/-- The state in which the rows of a gather stand in their bank, and its feed is one for reading (R312). -/
def State.withRows (s : State) (n : Nat) (r : Run) (f : Feed) (is : List W32) (bs : List Byte) : State :=
  s.modHere fun x => ((x.rowsIn r x.lcvc.rm f is bs).modFeed n fun f => { f with dir := .rd }).dropEngineAsks

/-- A gather whose rows are read in its turn puts them into its bank. -/
theorem State.gather_ok {n : Nat} {is : List W32} {bs : List Byte} (hdir : (s.here.feed n).dir ≠ .wr)
    (hread : s.fetchPieces s.cur.bench ((s.here.feed n).reading (some .l)) (is.flatMap (s.here.feed n).rowPieces) none = .ok t bs tr ls)
    (r : Run) (ix : Acc) :
    s.gather n r ix is = .done ((t.bound ls).withRows n r (s.here.feed n) is bs)
      [ix, r.acc ((s.here.feed n).rowLen * perIndex (fdFmt (s.here.feed n).ctl) * is.length) true] none := by
  unfold State.gather
  extract_lets f acc later
  rw [if_neg (by exact fun hwr => hdir (beq_iff_eq.1 hwr)), show s.fetchPieces _ _ _ none = _ from hread]
  rfl

/-- FGATH that passes its checks comes to what its gather comes to. -/
theorem exec_fgath {o : IdxMove} {r : Run} :
    let s1 := s.atIssue h 0
    let x := s1.here
    let f := x.feed o.feed.toNat
    let ib := o.ibank.toNat
    let io := 512 * o.ioff.toNat
    let l := x.indexList ib io
    let rl := f.rowLen * perIndex (fdFmt f.ctl)
    ∀ {acc : List Acc} {u : State}, s.issues h false 0 → bfFmt (x.bf ib) = 0 → bfDith (x.bf ib) = false → s1.opRun o.bop 0 r →
    f.gathers = true → f.dir ≠ .wr → x.indexFault ib io (f.dims.getD 1 (0, 0)).1.toNat = none →
    (fmtIsD r.fmt = false ∨ rl % 32 = 0 ∨ l.1 ≤ 1) → inBank r.off (r.bytes (rl * l.1)) = true →
    s1.gather o.feed.toNat r ⟨ib, io, io + 4 + 4 * l.1, false⟩ l.2 = .done u acc none → s.noOverlap acc →
    exec (.fgath h o) s = .next (u.retire h.give acc none) := by
  intro s1 x f ib io l rl acc u hi hraw hdith hrun hgathers hdir hindex hblocks hfits hgather hover
  have hissued : s1.myEng.issued = false := by rw [State.atIssue_myEng]; exact hi.1
  have hcount : min l.1 128 = l.1 := Nat.min_eq_left (Bench.indexFault_none_count hindex)
  have hrows : (fmtIsD (bfFmt (vget s1.cap.bfmt o.bop.bank.toNat 0)) && rl % 32 != 0 && decide (1 < l.1)) = false := by
    rw [runAt_fmt hrun.capRun]
    rcases hblocks with hfmt | hwhole | hone
    · simp [hfmt]
    · simp [hwhole]
    · simp [Nat.not_lt.2 hone]
  have hbanks : ¬(bfFmt (x.bf ib) != 0 || bfDith (x.bf ib) ||
      (fmtIsD (bfFmt (vget s1.cap.bfmt o.bop.bank.toNat 0)) && rl % 32 != 0 && decide (1 < l.1))) = true := by
    rw [hrows, hraw, hdith]
    decide
  change execFgath h o s = _
  rw [execFgath]
  refine State.issue_done hi ?_ hover
  dsimp only
  rw [show (s.atIssue h 0).myEng.issued = false from hissued, hrun.capRun]
  dsimp only
  rw [if_neg (by rw [show Feed.gathers _ = true from hgathers]; decide), if_neg (by exact hbanks),
    if_neg (by exact fun hwr => hdir (beq_iff_eq.1 hwr)), show Bench.indexFault _ _ _ _ = none from hindex]
  dsimp only
  rw [if_neg (by rw [show inBank _ _ = true from hfits]; decide), show min _ 128 = l.1 from hcount]
  exact hgather

end

/-- Settles O39: FBIND by whether its descriptor asks for a count, FLOAD by the block that it pops, and FGATH by the gather that its checks
let begin. -/
theorem feedResults : Obligations.FeedResults := by
  refine ⟨?fbind, ?fload, ?fgath⟩
  case fbind =>
    intro h o s t bs tr ls v rest nq s1 ents base ws ctl wild dims last dims' u hi hents hread hcount hok hover
    cases hwild : fdWild ctl with
    | false =>
      have hdims : dims' = boundDims ws none := if_neg (by rw [show wild = false from hwild]; decide)
      have hu : u = t.bound ls := if_neg (by rw [show wild = false from hwild]; decide)
      rw [hdims] at hok ⊢
      rw [hu]
      exact exec_fbind rfl hi hents hread ((State.bindRead_tame hwild _ _ _ _).trans (State.bind_ok hok _ _)) hover
    | true =>
      have hdims : dims' = boundDims ws (some (entryCount v)) := if_pos hwild
      have hu : u = (t.bound ls).modHere fun x => x.popQueue 0 1 := if_pos hwild
      rw [hdims] at hok ⊢
      rw [hu]
      exact exec_fbind rfl hi hents hread ((State.bindRead_wild hwild (hcount hwild) _ _ _).trans (State.bind_ok hok _ _)) hover
  case fload => exact fun h o s t r f k => exec_fload
  case fgath =>
    intro h o s t r bs tr ls s1 x f ib io l rl acc hi hraw hdith hrun hgathers hdir hindex hblocks hfits hread hover
    have hgather := State.gather_ok hdir hread r ⟨ib, io, io + 4 + 4 * l.1, false⟩
    exact exec_fgath hi hraw hdith hrun hgathers hdir hindex hblocks hfits hgather hover

end Sys2Proof.Machine
end
